-- ==== Sys2Proof/Word.lean ====
section
/-! DEFINITION. The word types of the block and the time unit that every clock of Table 0-4 divides. -/

namespace Sys2Proof

/-- One byte. -/
abbrev Byte := BitVec 8

/-- One 32-bit configuration word (R22). -/
abbrev Word := BitVec 32

/-- The 64 data bytes of a line (R7); byte `j` is bits `8j+7 .. 8j` (R239, line bit order of R240). -/
abbrev Line := BitVec 512

/-- The 80 symbols of a line codeword (R239); symbol `j` is bits `8j+7 .. 8j`. -/
abbrev Code := BitVec 640

/-- A downstream flit of 600 bits (R196); flit bit 0 is the most significant bit, as it is sent first. -/
abbrev DnBits := BitVec 600

/-- An upstream flit of 800 bits (R199); flit bit 0 is the most significant bit. -/
abbrev UpBits := BitVec 800

/-- A command slot (Table 11-1). -/
abbrev Slot := BitVec 80

/-- Instants are counted in units of 1/84 ns, the longest unit that divides the period of every clock of Table 0-4. -/
def tuPerNs : Nat := 84

/-- Units in one microsecond. -/
def tuPerUs : Nat := 84000

/-- Units in one millisecond. -/
def tuPerMs : Nat := 84000000

/-- Units in one second. -/
def tuPerS : Nat := 84000000000

/-- FCK, 2.4 GHz. -/
def tuFck : Nat := 35

/-- MCK, 1.0 GHz. -/
def tuMck : Nat := 84

/-- SCK and the Hod clock, 250 MHz. -/
def tuSck : Nat := 336

/-- TCK, 100 MHz. -/
def tuTck : Nat := 840

/-- The Security island's clock, 500 MHz. -/
def tuSec : Nat := 168

/-- The BIST island's clock, 800 MHz. -/
def tuBist : Nat := 105

/-- The debug clock at its 50 MHz limit. -/
def tuDbg : Nat := 1680

end Sys2Proof
end

