-- ==== Sys2Proof/Syntax.lean ====
section
/-! DEFINITION. The commands of the block: one constructor of `Instr` for every row of spec/opcode_table.json. The rows give no bits;
each constructor carries first the instant `t` (in units of 1/84 ns) at which the command or event takes place, then what its environment
supplies: the originator and data of a bus access, a fabric message, a sensor reading, the errors a lane adds to a flit. -/

namespace Sys2Proof

/-- Course number, C0 to C15 (Table 0-2). -/
abbrev CourseId := Fin 16
/-- Home: 0 is Home-N, 1 is Home-S. -/
abbrev HomeId := Fin 2
/-- Bay 0 to 7 (R88). -/
abbrev BayId := Fin 8
/-- Fabric port P0 to P23 (Table 5-1). -/
abbrev PortId := Fin 24
/-- Mailbox 0 (MBX_OP0) to 5 (MBX_PEER) (R68). -/
abbrev MbxId := Fin 6
/-- Subchannel: 0 is A, 1 is B. -/
abbrev SubId := Fin 2
/-- Island index (Table 1-1). -/
abbrev IslandId := Fin 25
/-- Originator class (Table 4-1). -/
abbrev Orig := Fin 8

/-- Request messages (Table 7-1). -/
inductive ReqKind where
  | rdShared | rdOwn | upgrade | rdCur | wrFull
  deriving DecidableEq, Repr

/-- Writebacks and eviction notices (Table 7-1). -/
inductive WbKind where
  | wbDirty | wbClean
  deriving DecidableEq, Repr

/-- Snoop answers (Table 7-1). -/
inductive SnpAns where
  | ackInv | ackShared | ackMiss | dataInv | dataShared
  deriving DecidableEq, Repr

/-- The width of a configuration access (R22). -/
inductive AccSize where
  | b1 | b2 | b4 | b8
  deriving DecidableEq, Repr

/-- A fabric request as it arrives at the home (R102, R103, R105, R274). -/
structure FabReq where
  port   : PortId
  kind   : ReqKind
  addr   : BitVec 64
  /-- lines of a train, 1 for a single line (R105) -/
  lines  : Nat
  cls    : Fin 4
  colour : Fin 4
  stream : Fin 8
  key    : BitVec 10
  tag    : BitVec 16
  data   : Line
  /-- the fabric's poison flag (R247) -/
  poison : Bool
  /-- the bay the fabric delivers it to, used when it decodes to no course (R407) -/
  bay    : BayId
  deriving DecidableEq, Repr

/-- What a memory's test engine observes (R324, R325, R327, R328). -/
structure BistObs where
  /-- memory id of Table 16-3 -/
  mem    : Nat
  /-- rows with a wrong read in the first pass -/
  rows1  : List Nat
  /-- rows with a wrong read in the second pass, when one runs -/
  rows2  : List Nat
  fails  : Nat
  word   : Nat
  bit    : Nat
  /-- steps executed in the last pass -/
  steps  : Nat
  sig    : Word
  deriving DecidableEq, Repr

/-- A field that training sweeps between passing and failing values (R294, Table 14-2): at the course's end or the Corbel's (`far`), or of a
subchannel `s`, rank `r`, pin `p` or DQ bit `q`. -/
inductive SweepKind where
  | phase (far : Bool) (lane : Nat)
  | vref (far : Bool) (lane : Nat) (k : Fin 3)
  | cs (s : SubId) (r : Fin 4)
  | ca (s : SubId) (p : Fin 14)
  | rd (s : SubId) (r : Fin 4) (q : Fin 40)
  | wr (s : SubId) (r : Fin 4) (q : Fin 40)
  deriving DecidableEq, Repr

/-- What the checkers showed in a sweep: the data rate, or for a lane's field whether the lanes ran at half rate, and the values that passed, at
each step of the Vref swept along with it (one step where there is none). -/
structure Sweep where
  kind : SweepKind
  rate : Nat
  slow : Bool
  grid : List (Nat × List Int)
  deriving DecidableEq, Repr

/-- What training finds on one course (R236, R294, R295): the topology, the lanes that pass in no setting at full rate and at half rate, and the
failures of each step by data rate. -/
structure TrainObs where
  /-- the link reached ACTIVE in the bootstrap mode of step 1 -/
  linkUp  : Bool
  badUp   : List (Fin 8)
  badDn   : List (Fin 6)
  slowUp  : List (Fin 8)
  slowDn  : List (Fin 6)
  ranks   : Nat
  dies    : Nat
  density : Nat
  /-- data rates at which steps 8 to 10 fail -/
  badCa   : List Nat
  /-- (rate, physical rank, subchannel, device) failing in steps 11 to 13 -/
  badDev  : List (Nat × Nat × Nat × Nat)
  sweeps  : List Sweep
  /-- oscillator counts of step 14: refresh target, device, count -/
  osc     : List (Nat × Nat × Nat)
  /-- round trip of R288 in LCK of the final mode -/
  rtt     : Nat
  deriving DecidableEq, Repr

/-- One sampled DQ bit of a probe (R298). -/
structure ProbeCount where
  q     : Fin 40
  left  : Nat
  right : Nat
  deriving DecidableEq, Repr

/-- The commands and events of the block, in the table's order. -/
inductive Instr where
  /-- R322 -/
  | powerGoodRise (t : Nat)
  /-- R382 -/
  | powerGoodFall (t : Nat)
  /-- R322, R386: the release of cold_rst_n after a pulse of `lowNs` ns -/
  | coldRstRelease (t lowNs : Nat)
  /-- R322, R386: the release of warm_rst_n after a pulse of `lowNs` ns -/
  | warmRstRelease (t lowNs : Nat)
  /-- R324: phase 1, with what each test engine observed -/
  | mgtBist (t : Nat) (obs : List BistObs)
  /-- R60: phase 2 -/
  | image (t : Nat)
  /-- R329: phase 3, with the memories' observations, the courses whose decoder test and the homes whose engine test failed -/
  | islandBist (t : Nat) (obs : List BistObs) (badDec : List CourseId) (badEng : List HomeId)
  /-- R332 -/
  | publish (t : Nat)
  /-- R294 -/
  | train (t : Nat) (c : CourseId) (obs : TrainObs)
  /-- R334 -/
  | trainTimeout (t : Nat) (c : CourseId)
  /-- R335 -/
  | fresh (t : Nat)
  /-- R336 -/
  | released (t : Nat)
  /-- R358: memory id, word and bit of Table 16-3 -/
  | memDoubleBitError (t mem word bit : Nat)
  /-- R358 -/
  | memSingleBitError (t mem word bit : Nat)
  /-- R28: one configuration write of `size` at window offset `off` -/
  | registerWrite (t : Nat) (o : Orig) (off : BitVec 24) (size : AccSize) (v : BitVec 64)
  /-- R34: one configuration read -/
  | lowWordRead (t : Nat) (o : Orig) (off : BitVec 24) (size : AccSize)
  /-- R38 -/
  | setIssue (t : Nat) (o : Orig) (v : Word)
  /-- R40 -/
  | setApply (t : Nat) (i : IslandId)
  /-- R40 -/
  | setComplete (t : Nat)
  /-- R49 -/
  | plumbLapEnd (t : Nat)
  /-- R48 -/
  | plumbStall (t : Nat)
  /-- R50: the active BUF words of the island found with wrong parity, as window offsets -/
  | parityCheck (t : Nat) (i : IslandId) (bad : List (BitVec 24))
  /-- R16, R387: the reading of every island's sensor, by island index -/
  | sensorSample (t : Nat) (temps : List Int)
  /-- R16 -/
  | gapThrottle (t : Nat)
  /-- R16 -/
  | gapUnthrottle (t : Nat)
  /-- R386: therm_alert_n low for `lowNs` ns -/
  | thermAlertAssert (t lowNs : Nat)
  /-- R386: therm_alert_n high for `highNs` ns -/
  | thermAlertRelease (t highNs : Nat)
  /-- R383: ref_lane_clk[k] stops -/
  | laneClockLoss (t : Nat) (k : HomeId)
  /-- R54 -/
  | bondRegenerate (t : Nat)
  /-- R62 -/
  | watchdogExpiry (t : Nat)
  /-- R74: a write of 1 to ring -/
  | mbxRing (t : Nat) (o : Orig) (m : MbxId)
  /-- R74: a write of 1 to cancel -/
  | mbxCancel (t : Nat) (o : Orig) (m : MbxId)
  /-- R74 -/
  | mbxTimeout (t : Nat) (m : MbxId)
  /-- R391: the oldest outstanding ACCEPTED work of the mailbox ends, well or not -/
  | acceptedComplete (t : Nat) (m : MbxId) (ok : Bool)
  /-- R79 -/
  | auditCoalesceClose (t : Nat)
  /-- R81 -/
  | activationDone (t : Nat)
  /-- R82 -/
  | activationTimeout (t : Nat)
  /-- R396: Potrie takes a request from the mailbox and it is a QUERY -/
  | query (t : Nat) (m : MbxId)
  /-- R270 -/
  | regionClear (t : Nat) (m : MbxId)
  /-- R279 -/
  | keyLoad (t : Nat) (m : MbxId)
  /-- R280 -/
  | keyErase (t : Nat) (m : MbxId)
  /-- R350 -/
  | counterGrant (t : Nat) (m : MbxId)
  /-- R307 -/
  | debugConsent (t : Nat) (m : MbxId)
  /-- R49: `lap` says that a complete Plumb lap ends within 1.5 ms -/
  | plumbRef (t : Nat) (m : MbxId) (lap : Bool)
  /-- R81 -/
  | activate (t : Nat) (m : MbxId)
  /-- R260 -/
  | repair (t : Nat) (m : MbxId)
  /-- R312 -/
  | powerDoze (t : Nat) (m : MbxId)
  /-- R313: the take of the RETAIN command, and afterwards each further step of RETAIN_ENTRY -/
  | retain (t : Nat) (m : MbxId)
  /-- R313 -/
  | retainTimeout (t : Nat)
  /-- R397 -/
  | auditHead (t : Nat) (m : MbxId)
  /-- R67 -/
  | seal (t : Nat) (m : MbxId)
  /-- R61 -/
  | imageWrite (t : Nat) (m : MbxId)
  /-- R279 -/
  | kekSet (t : Nat) (m : MbxId)
  /-- R302 -/
  | lcTransition (t : Nat) (m : MbxId)
  /-- R363 -/
  | pairSetup (t : Nat) (m : MbxId)
  /-- R366 -/
  | pairRange (t : Nat) (m : MbxId)
  /-- R406 -/
  | interleave (t : Nat) (m : MbxId)
  /-- R243 -/
  | eccMode (t : Nat) (m : MbxId)
  /-- R272 -/
  | freshMode (t : Nat) (m : MbxId)
  /-- R395 -/
  | trainPolicy (t : Nat) (m : MbxId)
  /-- R398 -/
  | thermalPolicy (t : Nat) (m : MbxId)
  /-- R398 -/
  | repairPolicy (t : Nat) (m : MbxId)
  /-- R398 -/
  | courseFence (t : Nat) (m : MbxId)
  /-- R398 -/
  | courseRestore (t : Nat) (m : MbxId)
  /-- R337 -/
  | courseRetest (t : Nat) (m : MbxId)
  /-- R326 -/
  | bistAbort (t : Nat) (m : MbxId)
  /-- R327 -/
  | hardRepair (t : Nat) (m : MbxId)
  /-- R138 -/
  | holdSet (t : Nat) (m : MbxId)
  /-- R409 -/
  | dbgTrace (t : Nat) (m : MbxId)
  /-- R99 -/
  | dbgPreempt (t : Nat) (m : MbxId)
  /-- R377 -/
  | pairHello (t : Nat) (m : MbxId)
  /-- R371 -/
  | peerClear (t : Nat) (m : MbxId)
  /-- R400 -/
  | peerNotice (t : Nat) (m : MbxId)
  /-- R85: the change has reached the home -/
  | portLiveRise (t : Nat) (p : PortId)
  /-- R86: the change has reached the home -/
  | portLiveFall (t : Nat) (p : PortId)
  /-- R106 -/
  | fabricRequest (t : Nat) (r : FabReq)
  /-- R91: one FCK cycle of the bay -/
  | bayGrant (t : Nat) (b : BayId)
  /-- R94 -/
  | patternSwap (t : Nat) (b : BayId)
  /-- R110 -/
  | shaperSweep (t : Nat) (h : HomeId)
  /-- R112 -/
  | wheelExpiry (t : Nat) (h : HomeId)
  /-- R117 -/
  | gateListStart (t : Nat) (c : CourseId)
  /-- R114 -/
  | gateEntryStart (t : Nat) (c : CourseId)
  /-- R115 -/
  | lintelStart (t : Nat) (c : CourseId) (cls : Fin 4)
  /-- R118 -/
  | gateClose (t : Nat) (c : CourseId)
  /-- R118 -/
  | overrunEnd (t : Nat) (c : CourseId)
  /-- R120: the home's local package time becomes `pkgNs` -/
  | gateResync (t : Nat) (h : HomeId) (pkgNs : BitVec 64)
  /-- R121 -/
  | latSample (t : Nat) (h : HomeId)
  /-- R122: a write of `v` to HOME_LAT_SEL -/
  | latSelCopy (t : Nat) (o : Orig) (h : HomeId) (v : Word)
  /-- R134: the oldest granted request that may proceed is looked up -/
  | requestLookup (t : Nat) (h : HomeId)
  /-- R133: footing bytes of the oldest returned footing read reach the home -/
  | footingDataReturn (t : Nat) (h : HomeId)
  /-- R142: the oldest startable drain starts, or a drain's footing line has returned and is merged and written -/
  | footingDrain (t : Nat) (h : HomeId)
  /-- R125 -/
  | writeback (t : Nat) (p : PortId) (k : WbKind) (addr : BitVec 64) (d : Line) (key : BitVec 10) (poison : Bool)
  /-- R136 -/
  | writebackMerge (t : Nat) (h : HomeId)
  /-- R134 -/
  | snoopResponse (t : Nat) (p : PortId) (a : SnpAns) (addr : BitVec 64) (d : Line)
  /-- R135 -/
  | snoopTimeout (t : Nat) (h : HomeId)
  /-- R137 -/
  | holdWindowEnd (t : Nat) (h : HomeId)
  /-- R134: the oldest line of the course's read-data joint reaches the home -/
  | readDataReturn (t : Nat) (c : CourseId)
  /-- R145 -/
  | courseCredit (t : Nat) (c : CourseId)
  /-- R145: the oldest request of the home-course joint enters its queue -/
  | courseEnqueue (t : Nat) (c : CourseId)
  /-- R157 -/
  | selectCommit (t : Nat) (c : CourseId) (sc : SubId)
  /-- R158 -/
  | downstreamFlit (t : Nat) (c : CourseId)
  /-- R145 -/
  | stampReached (t : Nat) (c : CourseId)
  /-- R163 -/
  | writeAgeDrain (t : Nat) (c : CourseId)
  /-- R161 -/
  | pageIdleTimeout (t : Nat) (c : CourseId) (bank : Fin 512)
  /-- R166 -/
  | pdIdleEntry (t : Nat) (c : CourseId) (sc : SubId) (rank : Fin 4)
  /-- R175: the tick's 16-bit sequence number -/
  | refreshTick (t : Nat) (c : CourseId) (seq : BitVec 16)
  /-- R174 -/
  | catchupTimerExpiry (t : Nat) (c : CourseId) (i : Fin 16)
  /-- R176: the oldest temperature report record accepted on the link -/
  | tempReport (t : Nat) (c : CourseId)
  /-- R177 -/
  | tempStale (t : Nat) (c : CourseId) (rank : Fin 4)
  /-- R181 -/
  | srReq (t : Nat) (o : Orig) (c : CourseId)
  /-- R181 -/
  | srExit (t : Nat) (o : Orig) (c : CourseId)
  /-- R181 -/
  | srIdleTimeout (t : Nat) (c : CourseId)
  /-- R182 -/
  | srQuiesceDone (t : Nat) (c : CourseId)
  /-- R181 -/
  | srEntered (t : Nat) (c : CourseId)
  /-- R184 -/
  | srExitDone (t : Nat) (c : CourseId)
  /-- R204: the oldest flit of the upstream lanes arrives with the lane errors `errs` -/
  | upstreamFlit (t : Nat) (c : CourseId) (errs : UpBits)
  /-- R204: the oldest flit of the downstream lanes arrives with the lane errors `errs` -/
  | corbelFlitReceive (t : Nat) (c : CourseId) (errs : DnBits)
  /-- R202 -/
  | corbelUpstreamFlit (t : Nat) (c : CourseId)
  /-- R204: at the Corbel when `far` -/
  | nakTimerExpiry (t : Nat) (c : CourseId) (far : Bool)
  /-- R205: at the Corbel when `far` -/
  | ackTimeout (t : Nat) (c : CourseId) (far : Bool)
  /-- R200: the oldest accepted RDATA payload -/
  | rdata (t : Nat) (c : CourseId)
  /-- R228 -/
  | lateAlert (t : Nat) (c : CourseId)
  /-- R232 -/
  | caParityAlert (t : Nat) (c : CourseId)
  /-- R225 -/
  | issueAcknowledgement (t : Nat) (c : CourseId)
  /-- R215 -/
  | maintenanceResponse (t : Nat) (c : CourseId)
  /-- R208 -/
  | returnOverflow (t : Nat) (c : CourseId)
  /-- R201 -/
  | linkStatus (t : Nat) (c : CourseId)
  /-- R201 -/
  | corbelLinkStatusSend (t : Nat) (c : CourseId)
  /-- R209 -/
  | linkStart (t : Nat) (o : Orig) (c : CourseId)
  /-- R211 -/
  | linkStop (t : Nat) (o : Orig) (c : CourseId)
  /-- R209: an ALIGN exchange completes; `oneWay` is the one-way latency in LCK -/
  | alignComplete (t : Nat) (c : CourseId) (oneWay : Nat)
  /-- R209 -/
  | wakeTimeout (t : Nat) (c : CourseId)
  /-- R209 -/
  | recoverTimeout (t : Nat) (c : CourseId)
  /-- R209 -/
  | rate (t : Nat) (c : CourseId)
  /-- R151 -/
  | rateComplete (t : Nat) (c : CourseId)
  /-- R209 -/
  | rateTimeout (t : Nat) (c : CourseId)
  /-- R209 -/
  | sleepStart (t : Nat) (c : CourseId)
  /-- R209 -/
  | sleepAck (t : Nat) (c : CourseId)
  /-- R210 -/
  | corbelSleepAckSend (t : Nat) (c : CourseId)
  /-- R212 -/
  | corbelSafeTimeout (t : Nat) (c : CourseId)
  /-- R213: the lanes of each direction that have failed -/
  | linkFailedResponse (t : Nat) (c : CourseId) (badUp : List (Fin 8)) (badDn : List (Fin 6))
  /-- R215: a write of `v` to CRS[n]_MNT_REQ -/
  | mntReq (t : Nat) (o : Orig) (c : CourseId) (v : Word)
  /-- R215 -/
  | mntTimeout (t : Nat) (c : CourseId)
  /-- R237: the oldest MAINT request the Corbel has accepted -/
  | corbelMaintRequest (t : Nat) (c : CourseId)
  /-- R219: a CA cycle of subchannel `sc`; `fb` are the levels the DRAM drives as feedback (R291) -/
  | corbelIssue (t : Nat) (c : CourseId) (sc : SubId) (fb : Option (BitVec 40))
  /-- R221: a burst ends; `errs` are the DRAM's symbol errors in it -/
  | readBurstCapture (t : Nat) (c : CourseId) (sc : SubId) (errs : Code)
  /-- R231: ALERT_n of the subchannel is sampled asserted -/
  | alertNSampled (t : Nat) (c : CourseId) (sc : SubId)
  /-- R224 -/
  | issueAckSend (t : Nat) (c : CourseId) (sc : SubId)
  /-- R235: the readings of every sensor of one rank, `none` when they cannot be read -/
  | corbelTempRead (t : Nat) (c : CourseId) (rank : Fin 4) (temp : Option (BitVec 8))
  /-- R290 -/
  | corbelStagedApply (t : Nat) (c : CourseId) (sc : SubId) (rank : Fin 4)
  /-- R292: a write of `v` to CRS[n]_TCMD -/
  | tcmd (t : Nat) (o : Orig) (c : CourseId) (v : Word)
  /-- R293 -/
  | dchkDone (t : Nat) (c : CourseId)
  /-- R287: at the Corbel when `far` -/
  | lchkDwellEnd (t : Nat) (c : CourseId) (far : Bool)
  /-- R297 -/
  | recentreArm (t : Nat) (c : CourseId) (i : Fin 16)
  /-- R298: the edge-sampler counts and each device's oscillator change in steps -/
  | recentreAdjust (t : Nat) (c : CourseId) (i : Fin 16) (counts : List ProbeCount)
  /-- R299: errors seen on each lane in use in the dwell -/
  | laneMonitor (t : Nat) (c : CourseId) (up : List (Fin 8 × Nat)) (dn : List (Fin 6 × Nat))
  /-- R252 -/
  | pointingRead (t : Nat) (c : CourseId)
  /-- R255 -/
  | lapOverdue (t : Nat) (c : CourseId)
  /-- R257 -/
  | rtWatchExpiry (t : Nat) (c : CourseId) (e : Fin 64)
  /-- R260 -/
  | hardLineHandling (t : Nat) (c : CourseId) (e : Fin 64)
  /-- R271: a clear reaches the course -/
  | clearRequest (t : Nat) (c : CourseId)
  /-- R271 -/
  | clearPoint (t : Nat) (c : CourseId)
  /-- R280: a write of `v` to SEC_KEY_VALIDk -/
  | keyValidErase (t : Nat) (o : Orig) (k : Fin 32) (v : Word)
  /-- R339: a write of `v` to CRS[n]_FRESH_INIT -/
  | freshInit (t : Nat) (o : Orig) (c : CourseId) (v : Word)
  /-- R306: a write of `lvl` to level_req requesting OBSERVE or INVASIVE -/
  | debugAttach (t : Nat) (o : Orig) (lvl : Fin 4)
  /-- R308 -/
  | keyZeroDone (t : Nat)
  /-- R309: a write of 0 or 1 to level_req -/
  | debugLower (t : Nat) (o : Orig) (lvl : Fin 2)
  /-- R309: the debug clock has been absent for `ns` ns -/
  | debugClockLoss (t ns : Nat)
  /-- R306 -/
  | lockoutExpiry (t : Nat)
  /-- R307 -/
  | tokenExpiry (t : Nat)
  /-- R312 -/
  | dozeReq (t : Nat) (o : Orig)
  /-- R312 -/
  | dozeEntered (t : Nat)
  /-- R316 -/
  | wake (t : Nat) (o : Orig)
  /-- R316 -/
  | retainWakeTimer (t : Nat)
  /-- R316: the exit ends; the courses whose link did not reach ACTIVE in phase 5 -/
  | retainExit (t : Nat) (dead : List CourseId)
  /-- R337 -/
  | retestDrainDone (t : Nat)
  /-- R337: what the re-test engines observed -/
  | retestTestDone (t : Nat) (obs : List BistObs) (decOk : Bool)
  /-- R337 -/
  | retestRestoreDone (t : Nat)
  /-- R338 -/
  | retestStallExpiry (t : Nat) (b : BayId) (p : PortId)
  /-- R346 -/
  | hodFreeze (t : Nat) (o : Orig)
  /-- R346 -/
  | hodUnfreeze (t : Nat) (o : Orig)
  /-- R347 -/
  | snap (t : Nat) (o : Orig)
  /-- R347 -/
  | snapDone (t : Nat)
  /-- R351 -/
  | bwWindowClose (t : Nat) (h : HomeId)
  /-- R368: a mirror write from the partner -/
  | mirrorWrite (t : Nat) (addr : BitVec 64) (d : Line) (poison : Bool) (lvl : Byte)
  /-- R367 -/
  | mirrorAck (t : Nat) (addr : BitVec 64)
  /-- R369: a mirror read from the partner -/
  | mirrorRead (t : Nat) (addr : BitVec 64) (lvl : Byte)
  /-- R369: the partner's answer; `none` when it returns poison or uncorrectable -/
  | mirrorReadData (t : Nat) (addr : BitVec 64) (d : Option Line)
  /-- R374: a fault notice from the partner -/
  | faultNotice (t : Nat) (off : BitVec 24) (lvl : Byte)
  /-- R373 -/
  | resyncLine (t : Nat) (h : HomeId)
  /-- R373 -/
  | regionFresh (t : Nat) (addr : BitVec 64) (lvl : Byte)
  /-- R206: loss of lock on lane `l`: 0 to 7 upstream, 8 to 13 downstream -/
  | laneLockLoss (t : Nat) (c : CourseId) (l : Fin 14)
  /-- R87 -/
  | masonRestartDone (t : Nat)
  /-- R313: port `p` has returned its credits -/
  | creditParkReturn (t : Nat) (p : PortId)
  /-- R398 -/
  | dramCritAction (t : Nat) (c : CourseId)
  /-- R398 -/
  | critRelease (t : Nat) (c : CourseId)
  /-- R374 -/
  | faultedWordReapply (t : Nat)
  /-- R319 -/
  | courseIdle (t : Nat) (c : CourseId)
  /-- R389 -/
  | unknownOpcode (t : Nat) (m : MbxId)
  deriving DecidableEq, Repr

end Sys2Proof
end

