-- ==== Sys2Proof/Decode.lean ====
section
/-! DEFINITION. The decoder over the rows of spec/opcode_table.json that give bits. No row of the table gives any: the commands of
this block reach it as bus accesses, fabric and link messages, pin edges and timer events, none as a word. -/

namespace Sys2Proof

/-- The command that a word spells by the table's bits: no row gives bits, so no word spells one. -/
def decodeTableWord (_nbits _w : Nat) : Option Instr := none

end Sys2Proof
end

