-- ==== Sys2Proof/Machine/Hash.lean ====
section
/-! DEFINITION. The checksums the spec names: CRC-32C (R47, R53, R401), and SHA-256 (R79). -/

namespace Sys2Proof.Machine

/-- Bytes of a 32-bit word, least significant first. -/
def wordBytes (w : Word) : List Byte := [w.extractLsb' 0 8, w.extractLsb' 8 8, w.extractLsb' 16 8, w.extractLsb' 24 8]

/-- Bytes of a 64-bit value, least significant first. -/
def wideBytes (w : BitVec 64) : List Byte := wordBytes (w.extractLsb' 0 32) ++ wordBytes (w.extractLsb' 32 32)

/-- The 32-bit word of four bytes, least significant first. -/
def bytesWord (b0 b1 b2 b3 : Byte) : Word := b3 ++ b2 ++ b1 ++ b0

/-- One bit step of CRC-32C in its reflected form (polynomial 0x82F63B78). -/
def crcBit (c : Word) : Word := if c.getLsbD 0 then (c >>> 1) ^^^ 0x82F63B78#32 else c >>> 1

/-- One byte of CRC-32C. -/
def crcByte (c : Word) (b : Byte) : Word :=
  let x := c ^^^ b.setWidth 32
  crcBit (crcBit (crcBit (crcBit (crcBit (crcBit (crcBit (crcBit x)))))))

/-- CRC-32C of a byte string: initial value and final XOR all ones (the Castagnoli CRC). -/
def crc32c (l : List Byte) : Word := (l.foldl crcByte 0xFFFFFFFF#32) ^^^ 0xFFFFFFFF#32

/-- The round constants of SHA-256 (FIPS 180-4) as one number, constant 0 in the top 32 bits and constant 63 in the lowest. -/
def shaKs : Nat :=
  0x428a2f9871374491b5c0fbcfe9b5dba53956c25b59f111f1923f82a4ab1c5ed5d807aa9812835b01243185be550c7dc372be5d7480deb1fe9bdc06a7c19bf174e49b69c1efbe47860fc19dc6240ca1cc2de92c6f4a7484aa5cb0a9dc76f988da983e5152a831c66db00327c8bf597fc7c6e00bf3d5a7914706ca63511429296727b70a852e1b21384d2c6dfc53380d13650a7354766a0abb81c2c92e92722c85a2bfe8a1a81a664bc24b8b70c76c51a3d192e819d6990624f40e3585106aa07019a4c1161e376c082748774c34b0bcb5391c0cb34ed8aa4a5b9cca4f682e6ff3748f82ee78a5636f84c878148cc7020890befffaa4506cebbef9a3f7c67178f2

/-- The working variables of SHA-256. -/
structure ShaSt where
  a : Word
  b : Word
  c : Word
  d : Word
  e : Word
  f : Word
  g : Word
  h : Word
  deriving DecidableEq, Repr

/-- The initial hash value. -/
def shaInit : ShaSt :=
  ⟨0x6a09e667, 0xbb67ae85, 0x3c6ef372, 0xa54ff53a, 0x510e527f, 0x9b05688c, 0x1f83d9ab, 0x5be0cd19⟩

/-- Σ0 of FIPS 180-4. -/
def shaS0 (x : Word) : Word := x.rotateRight 2 ^^^ x.rotateRight 13 ^^^ x.rotateRight 22
/-- Σ1. -/
def shaS1 (x : Word) : Word := x.rotateRight 6 ^^^ x.rotateRight 11 ^^^ x.rotateRight 25
/-- σ0. -/
def shaT0 (x : Word) : Word := x.rotateRight 7 ^^^ x.rotateRight 18 ^^^ (x >>> 3)
/-- σ1. -/
def shaT1 (x : Word) : Word := x.rotateRight 17 ^^^ x.rotateRight 19 ^^^ (x >>> 10)

/-- One round with constant `k` and schedule word `w`. -/
def shaRound (s : ShaSt) (k w : Word) : ShaSt :=
  let t1 := s.h + shaS1 s.e + ((s.e &&& s.f) ^^^ (~~~s.e &&& s.g)) + k + w
  let t2 := shaS0 s.a + ((s.a &&& s.b) ^^^ (s.a &&& s.c) ^^^ (s.b &&& s.c))
  ⟨t1 + t2, s.a, s.b, s.c, s.d + t1, s.e, s.f, s.g⟩

/-- The last `n` of the 64 rounds; `win` holds the next 16 schedule words. -/
def shaRounds : Nat → List Word → ShaSt → ShaSt
  | 0, _, s => s
  | n + 1, win, s =>
      let w := win.getD 0 0
      let nw := shaT1 (win.getD 14 0) + win.getD 9 0 + shaT0 (win.getD 1 0) + w
      shaRounds n (win.drop 1 ++ [nw]) (shaRound s (BitVec.ofNat 32 (shaKs >>> (32 * n))) w)

/-- One block of 16 words. -/
def shaBlock (s : ShaSt) (win : List Word) : ShaSt :=
  let r := shaRounds 64 win s
  ⟨s.a + r.a, s.b + r.b, s.c + r.c, s.d + r.d, s.e + r.e, s.f + r.f, s.g + r.g, s.h + r.h⟩

/-- The big-endian words of a byte string. -/
def beWords : List Byte → List Word
  | b0 :: b1 :: b2 :: b3 :: l => (b0 ++ b1 ++ b2 ++ b3) :: beWords l
  | _ => []

/-- Blocks of a padded message, by fuel. -/
def shaBlocks : Nat → List Word → ShaSt → ShaSt
  | 0, _, s => s
  | n + 1, ws, s => shaBlocks n (ws.drop 16) (shaBlock s (ws.take 16))

/-- The padded message: 0x80, zeros, the bit length in 8 bytes, a multiple of 64 bytes. -/
def shaPad (l : List Byte) : List Byte :=
  let n := l.length
  let z := (119 - n % 64) % 64
  let len : BitVec 64 := BitVec.ofNat 64 (8 * n)
  l ++ [0x80#8] ++ List.replicate z 0#8 ++ (wideBytes len).reverse

/-- SHA-256 of a byte string. -/
def sha256 (l : List Byte) : ShaSt :=
  let p := shaPad l
  shaBlocks (p.length / 64) (beWords p) shaInit

/-- The low 32 bits of a SHA-256 digest, bytes 28 to 31 with byte 28 most significant (R79). -/
def digest32 (l : List Byte) : Word := (sha256 l).h

end Sys2Proof.Machine
end

