-- ==== Sys2Proof/Machine/Aes.lean ====
section
/-! DEFINITION. AES-256 (FIPS 197), the XTS mode of R275 and the key unwrapping of R279 (RFC 3394). -/

namespace Sys2Proof.Machine

/-- Multiplication by x in GF(2^8) modulo x^8 + x^4 + x^3 + x + 1. -/
def aesX (b : Byte) : Byte := if b.getLsbD 7 then (b <<< 1) ^^^ 0x1B#8 else b <<< 1

/-- Product in that field, over the `n` low bits of the second factor. -/
def aesMulN : Nat → Byte → Byte → Byte
  | 0, _, _ => 0
  | n + 1, a, b => (if b.getLsbD 0 then a else 0) ^^^ aesMulN n (aesX a) (b >>> 1)

/-- Product in that field. -/
def aesMul (a b : Byte) : Byte := aesMulN 8 a b

/-- The inverse in that field, 0 for 0: the 254th power. -/
def aesInv (a : Byte) : Byte :=
  let a2 := aesMul a a
  let a4 := aesMul a2 a2
  let a8 := aesMul a4 a4
  let a16 := aesMul a8 a8
  let a32 := aesMul a16 a16
  let a64 := aesMul a32 a32
  let a128 := aesMul a64 a64
  aesMul a2 (aesMul a4 (aesMul a8 (aesMul a16 (aesMul a32 (aesMul a64 a128)))))

/-- The S-box of FIPS 197. -/
def aesSub (a : Byte) : Byte :=
  let b := aesInv a
  b ^^^ b.rotateLeft 1 ^^^ b.rotateLeft 2 ^^^ b.rotateLeft 3 ^^^ b.rotateLeft 4 ^^^ 0x63#8

/-- The inverse S-box. -/
def aesUnsub (a : Byte) : Byte :=
  aesInv (a.rotateLeft 1 ^^^ a.rotateLeft 3 ^^^ a.rotateLeft 6 ^^^ 0x05#8)

/-- Bytewise exclusive or. -/
def xorBytes (a b : List Byte) : List Byte := List.zipWith (fun x y => x ^^^ y) a b

/-- The key schedule as words of four bytes: `n` further words after the list, which holds the words in reverse order. -/
def aesExpand : Nat → Nat → Byte → List (List Byte) → List (List Byte)
  | 0, _, _, acc => acc
  | n + 1, i, rc, acc =>
      let prev := acc.getD 0 []
      let back := acc.getD 7 []
      let t :=
        if i % 8 = 0 then xorBytes ((prev.drop 1 ++ prev.take 1).map aesSub) [rc, 0, 0, 0]
        else if i % 8 = 4 then prev.map aesSub
        else prev
      aesExpand n (i + 1) (if i % 8 = 0 then aesX rc else rc) (xorBytes back t :: acc)

/-- Groups of `k` elements, by fuel. -/
def chunks {α : Type} (k : Nat) : Nat → List α → List (List α)
  | 0, _ => []
  | n + 1, l => l.take k :: chunks k n (l.drop k)

/-- The 15 round keys of a 32-byte key, as 16 bytes each. -/
def aesKeys (key : List Byte) : List (List Byte) :=
  chunks 16 15 ((aesExpand 52 8 1 (chunks 4 8 key).reverse).reverse.flatten)

/-- ShiftRows over a column-major state. -/
def aesShift (s : List Byte) : List Byte :=
  [0, 5, 10, 15, 4, 9, 14, 3, 8, 13, 2, 7, 12, 1, 6, 11].map (fun i => s.getD i 0)

/-- Inverse ShiftRows. -/
def aesUnshift (s : List Byte) : List Byte :=
  [0, 13, 10, 7, 4, 1, 14, 11, 8, 5, 2, 15, 12, 9, 6, 3].map (fun i => s.getD i 0)

/-- One column times the circulant of four coefficients. -/
def aesCol (a b c d : Byte) (col : List Byte) : List Byte :=
  let x i := col.getD i 0
  [ aesMul (x 0) a ^^^ aesMul (x 1) b ^^^ aesMul (x 2) c ^^^ aesMul (x 3) d
  , aesMul (x 0) d ^^^ aesMul (x 1) a ^^^ aesMul (x 2) b ^^^ aesMul (x 3) c
  , aesMul (x 0) c ^^^ aesMul (x 1) d ^^^ aesMul (x 2) a ^^^ aesMul (x 3) b
  , aesMul (x 0) b ^^^ aesMul (x 1) c ^^^ aesMul (x 2) d ^^^ aesMul (x 3) a ]

/-- MixColumns. -/
def aesMix (s : List Byte) : List Byte := ((chunks 4 4 s).map (aesCol 2 3 1 1)).flatten

/-- Inverse MixColumns. -/
def aesUnmix (s : List Byte) : List Byte := ((chunks 4 4 s).map (aesCol 14 11 13 9)).flatten

/-- The rounds after the first key addition. -/
def aesRounds : List (List Byte) → List Byte → List Byte
  | [], s => s
  | [k], s => xorBytes (aesShift (s.map aesSub)) k
  | k :: ks, s => aesRounds ks (xorBytes (aesMix (aesShift (s.map aesSub))) k)

/-- The inverse rounds over the reversed keys. -/
def aesUnrounds : List (List Byte) → List Byte → List Byte
  | [], s => s
  | [k], s => xorBytes ((aesUnshift s).map aesUnsub) k
  | k :: ks, s => aesUnrounds ks (aesUnmix (xorBytes ((aesUnshift s).map aesUnsub) k))

/-- AES-256 encryption of one block under expanded keys. -/
def aesEnc (ks : List (List Byte)) (b : List Byte) : List Byte :=
  aesRounds (ks.drop 1) (xorBytes b (ks.getD 0 []))

/-- AES-256 decryption of one block under expanded keys. -/
def aesDec (ks : List (List Byte)) (b : List Byte) : List Byte :=
  let r := ks.reverse
  aesUnrounds (r.drop 1) (xorBytes b (r.getD 0 []))

/-- Bytes of a bit vector value, least significant first. -/
def natBytes : Nat → Nat → List Byte
  | 0, _ => []
  | n + 1, v => BitVec.ofNat 8 v :: natBytes n (v / 256)

/-- The value of bytes, least significant first. -/
def bytesNat (l : List Byte) : Nat := l.foldr (fun b a => b.toNat + 256 * a) 0

/-- The next tweak: the 128-bit value, little-endian, times α (IEEE 1619). -/
def xtsNext (t : List Byte) : List Byte :=
  let v := bytesNat t
  natBytes 16 (if v / 2 ^ 127 % 2 = 1 then (2 * v) % 2 ^ 128 ^^^ 0x87 else 2 * v)

/-- The blocks of a data unit under running tweaks. -/
def xtsBlocks (f : List Byte → List Byte) : List (List Byte) → List Byte → List (List Byte)
  | [], _ => []
  | b :: bs, t => xorBytes (f (xorBytes b t)) t :: xtsBlocks f bs (xtsNext t)

/-- AES-256-XTS over the 64 bytes of a line: Key1 for the data, Key2 for the tweak, which is the line's system address (R275). -/
def xtsLine (dec : Bool) (k1 k2 : BitVec 256) (addr : BitVec 64) (d : Line) : Line :=
  let ks1 := aesKeys (natBytes 32 k1.toNat)
  let ks2 := aesKeys (natBytes 32 k2.toNat)
  let t0 := aesEnc ks2 (natBytes 16 addr.toNat)
  let f := if dec then aesDec ks1 else aesEnc ks1
  BitVec.ofNat 512 (bytesNat ((xtsBlocks f (chunks 16 4 (natBytes 64 d.toNat)) t0).flatten))

/-- One inverse step of RFC 3394: `a` is the integrity register, `r` the register block, `t` the step count. -/
def kwStep (ks : List (List Byte)) (a r : List Byte) (t : Nat) : List Byte × List Byte :=
  let x := aesDec ks (xorBytes a (natBytes 8 t).reverse ++ r)
  (x.take 8, x.drop 8)

/-- One pass over the blocks from the last to the first; `l` holds them in reverse order, `i` is the number of the first of them. -/
def kwPass (ks : List (List Byte)) (n j : Nat) : Nat → List (List Byte) → List Byte → List Byte × List (List Byte)
  | _, [], a => (a, [])
  | i, r :: l, a =>
      let (a', r') := kwStep ks a r (n * j + i)
      let (a'', l') := kwPass ks n j (i - 1) l a'
      (a'', r' :: l')

/-- The six passes, from j = 5 to j = 0. -/
def kwPasses (ks : List (List Byte)) (n : Nat) : Nat → List (List Byte) → List Byte → List Byte × List (List Byte)
  | 0, l, a => (a, l)
  | j + 1, l, a =>
      let (a', l') := kwPass ks n j n l a
      kwPasses ks n j l' a'

/-- RFC 3394 unwrapping of `n` blocks of 8 bytes; `none` when the integrity check fails. -/
def keyUnwrap (kek : BitVec 256) (n : Nat) (w : List Byte) : Option (List Byte) :=
  let ks := aesKeys (natBytes 32 kek.toNat)
  let c := chunks 8 (n + 1) w
  let (a, l) := kwPasses ks n 6 (c.drop 1).reverse (c.getD 0 [])
  if a = List.replicate 8 0xA6#8 then some l.reverse.flatten else none

end Sys2Proof.Machine
end

