-- ==== Sys2Proof/Machine/RegTable.lean ====
section
/-! DEFINITION. The register map: every backed word of every block with its fields, their classes and reset values (22_register_maps.md
and the register tables of the chapters it cites). Offsets are block offsets; a 64-bit value is two consecutive words (R34). -/

namespace Sys2Proof.Machine

/-- Field classes (Table 2-1). -/
inductive Cls where
  | imm | buf | sts | cnt | ro | w1 | sec | msk
  deriving DecidableEq, Repr

/-- One field of a register word. `flag` says "lockable by SEAL" (Table 22-13) of a BUF field and "saturates" of a CNT field. -/
structure Fld where
  hi   : Nat
  lo   : Nat
  cls  : Cls
  rst  : Nat
  flag : Bool
  deriving DecidableEq, Repr

/-- One backed word. `wide` marks the low word of a 64-bit value (R34, R35). -/
structure RegDef where
  off  : Nat
  flds : List Fld
  wide : Bool
  deriving DecidableEq, Repr

/-- BUF field. -/
def fBuf (hi lo rst : Nat) : Fld := ⟨hi, lo, .buf, rst, false⟩
/-- BUF field that SEAL locks. -/
def fLock (hi lo rst : Nat) : Fld := ⟨hi, lo, .buf, rst, true⟩
/-- IMM field. -/
def fImm (hi lo rst : Nat) : Fld := ⟨hi, lo, .imm, rst, false⟩
/-- SEC field. -/
def fSec (hi lo rst : Nat) : Fld := ⟨hi, lo, .sec, rst, false⟩
/-- RO field. -/
def fRo (hi lo rst : Nat) : Fld := ⟨hi, lo, .ro, rst, false⟩
/-- STS event bit. -/
def fSts (b : Nat) : Fld := ⟨b, b, .sts, 0, false⟩
/-- CNT field that wraps. -/
def fCnt (hi lo : Nat) : Fld := ⟨hi, lo, .cnt, 0, false⟩
/-- CNT field that saturates. -/
def fSat (hi lo : Nat) : Fld := ⟨hi, lo, .cnt, 0, true⟩

/-- An ordinary word. -/
def w (off : Nat) (flds : List Fld) : RegDef := ⟨off, flds, false⟩
/-- A 32-bit wrapping counter at `off`. -/
def wCnt (off : Nat) : RegDef := ⟨off, [fCnt 31 0], false⟩
/-- The word of an STS register with `n` event bits from bit 0 and seq in [31:24] (R33). -/
def wSts (off n : Nat) : RegDef := ⟨off, (List.range n).map fSts ++ [⟨31, 24, .sts, 0, false⟩], false⟩
/-- The two words of a 64-bit value. -/
def ww (off : Nat) (lo hi : List Fld) : List RegDef := [⟨off, lo, true⟩, ⟨off + 4, hi, false⟩]
/-- A 48-bit counter. -/
def wwCnt (off : Nat) : List RegDef := ww off [fCnt 31 0] [fCnt 15 0]

/-- BLK_ID and BLK_STS of a block (Tables 22-2, 2-7). -/
def blkHead (kind inst : Nat) : List RegDef :=
  [w 0x0000 [fRo 7 0 kind, fRo 15 8 inst, fRo 23 16 1], wSts 0x0008 2]

/-- A counter group of `n` counters at `base` (Table 17-7). -/
def cntGroup (base n : Nat) : List RegDef :=
  (List.range n).flatMap (fun k =>
    w (base + 16 * k) [fImm 1 0 0, fImm 16 3 0, fImm 17 17 0, fRo 18 18 0] :: wwCnt (base + 16 * k + 8))
  ++ [wSts (base + 16 * n) 24] ++ (if n = 32 then [wSts (base + 16 * n + 8) 24] else [])

/-- ZMC global block: identity, SET and access status (Table 22-3). -/
def zmcRegs1 : List RegDef :=
  blkHead 1 0 ++
  [ w 0x0010 [fImm 24 0 0]
  , wSts 0x0018 3
  , w 0x0020 [fRo 0 0 0, fRo 3 1 0, fRo 8 4 0]
  , w 0x0028 [fRo 23 0 0]
  , w 0x0040 [fRo 7 0 0, fRo 11 8 1, fRo 15 12 1] ]
  ++ ww 0x0048 [fRo 31 0 0] [fRo 31 0 0] ++
  [ w 0x0050 [⟨31, 0, .w1, 0, false⟩]
  , w 0x0058 [⟨31, 0, .msk, 0, false⟩]
  , w 0x0100 [fSat 7 0, fSat 15 8, fSat 23 16, fSat 31 24]
  , w 0x0108 [fRo 23 0 0, fRo 26 24 0, fRo 29 27 0] ]

/-- ZMC global block: Plumb, joint discards, gap, time, power and boot registers (Table 22-3). -/
def zmcRegs2 : List RegDef :=
  [ w 0x0200 [fBuf 0 0 1]
  , wSts 0x0208 3
  , w 0x0210 [fRo 31 0 0]
  , w 0x0218 [fRo 31 0 0]
  , w 0x0220 [fRo 11 0 0]
  , wCnt 0x0228
  , w 0x0230 [fRo 23 0 0] ]
  ++ (List.range 25).map (fun i => wCnt (0x0300 + 4 * i)) ++
  [ w 0x0400 [fBuf 7 0 25, fBuf 8 8 1]
  , w 0x0408 [fRo 7 0 0, fRo 12 8 0, fRo 17 13 0, fRo 18 18 0] ]
  ++ ww 0x0500 [fRo 31 0 0] [fRo 31 0 0] ++
  [ w 0x0600 [fImm 0 0 0, fImm 1 1 0, fBuf 19 4 0, fBuf 27 20 10] ]
  ++ ww 0x0608 [fRo 2 0 0, fRo 5 3 0, fRo 31 16 0] [fRo 31 0 0] ++
  [ wSts 0x0610 2
  , wCnt 0x0618
  , w 0x0800 [fRo 3 0 0, fRo 6 4 0, fRo 11 7 0, fRo 14 12 0, fRo 17 15 0, fRo 18 18 0, fRo 19 19 0] ]
  ++ ww 0x0808 [fRo 17 0 0, fRo 27 18 0, fRo 28 28 0] [] ++
  [ w 0x0810 [fRo 31 0 0]
  , wSts 0x0A00 2
  , wCnt 0x0A08 ]
  ++ ww 0x0A10 [fRo 7 0 0, fRo 25 8 0, fRo 31 26 0] [fRo 4 0 0]

/-- ZMC global block: pair and thermal registers (Tables 19-4, 20-5). -/
def zmcRegs3 : List RegDef :=
  [ w 0x0C00 [fLock 0 0 0, fLock 1 1 0, fLock 4 2 0, fLock 7 5 0, fBuf 11 8 15, fBuf 12 12 1]
  , wSts 0x0C08 6
  , w 0x0C10 [fRo 2 0 0, fRo 15 8 7, fRo 23 16 0, fRo 31 24 0] ]
  ++ (List.range 8).flatMap (fun r =>
      ww (0x0C40 + 32 * r) [fLock 31 0 0] [fLock 31 0 0]
      ++ ww (0x0C48 + 32 * r) [fLock 31 0 0] [fLock 31 0 0]
      ++ ww (0x0C50 + 32 * r) [fLock 31 0 0] [fLock 31 0 0]
      ++ [w (0x0C58 + 32 * r) [fLock 0 0 0, fBuf 1 1 0, fRo 4 2 0, fRo 20 5 0, fRo 27 21 0]]) ++
  [ wCnt 0x0D40, wCnt 0x0D48, wCnt 0x0D50, wCnt 0x0D58
  , w 0x0D60 [fSat 15 0, fSat 31 16]
  , wCnt 0x0D68
  , w 0x0E00 [fLock 7 0 105]
  , w 0x0E08 [fRo 7 0 0, fRo 12 8 0, fRo 13 13 0, fSts 14, fSts 15, ⟨31, 24, .sts, 0, false⟩] ]

/-- The ZMC global block. -/
def zmcRegs : List RegDef := zmcRegs1 ++ zmcRegs2 ++ zmcRegs3

/-- The mailbox block's own registers and MBX[m]_STS (Tables 4-3, 4-5); the mailboxes' frames and doorbells are in the State's mailboxes. -/
def mbxRegs : List RegDef :=
  blkHead 2 0 ++
  [ w 0x0010 [fLock 7 0 64]
  , w 0x0018 [fRo 31 0 1]
  , w 0x0020 [fRo 31 0 1]
  , w 0x0028 [fRo 31 0 0]
  , w 0x0030 [fRo 31 0 0] ]
  ++ (List.range 6).map (fun m => w (0x0188 + 0x100 * m) [fRo 2 0 0, fSts 3, fSts 4, fSat 23 16, ⟨31, 24, .sts, 0, false⟩])

/-- Home block: address decode and shaper registers (Tables 22-6, 6-6). -/
def homeRegs1 : List RegDef :=
  (List.range 4).flatMap (fun r =>
    w (0x0100 + 0x40 * r) [fLock 4 0 0, fLock 11 8 8]
    :: (ww (0x0108 + 0x40 * r) [fLock 31 0 0] [fLock 31 0 0]
    ++ ww (0x0110 + 0x40 * r) [fLock 31 0 0] [fLock 31 0 0]
    ++ (List.range 4).map (fun j => w (0x0118 + 0x40 * r + 4 * j)
        [fLock 7 0 0xFF, fLock 15 8 0xFF, fLock 23 16 0xFF, fLock 31 24 0xFF])))
  ++ [wCnt 0x0200]
  ++ (List.range 96).flatMap (fun i =>
      [w (0x1000 + 8 * i) [fBuf 15 0 0, fBuf 23 16 0], w (0x1004 + 8 * i) [fBuf 19 0 0]])
  ++ [wCnt 0x1300]

/-- Home block: policer, fair-queuing and sampling registers (Tables 6-7, 6-8). -/
def homeRegs2 : List RegDef :=
  (List.range 24).flatMap (fun p =>
    [ w (0x1400 + 0x20 * p) [fBuf 0 0 0, fBuf 1 1 0, fBuf 3 2 0, fBuf 4 4 0]
    , w (0x1404 + 0x20 * p) [fBuf 15 0 0, fBuf 31 16 0]
    , w (0x1408 + 0x20 * p) [fBuf 19 0 0]
    , w (0x140C + 0x20 * p) [fBuf 19 0 0]
    , wCnt (0x1410 + 0x20 * p), wCnt (0x1418 + 0x20 * p) ])
  ++ (List.range 48).map (fun i => w (0x1800 + 4 * i) [fBuf 7 0 1, fBuf 15 8 1, fBuf 23 16 1, fBuf 31 24 1])
  ++ [ w 0x1A00 [fBuf 9 0 0, fBuf 13 10 0]
     , w 0x1A08 [fImm 4 0 0, fImm 6 5 0, fImm 7 7 0, fImm 8 8 0] ]
  ++ (List.range 16).map (fun k => w (0x1A10 + 4 * k) [fRo 31 0 0])
  ++ [w 0x1A50 [fRo 31 0 0]]

/-- Home block: gate registers (Table 6-9). -/
def homeRegs3 : List RegDef :=
  (List.range 8).flatMap (fun j =>
    [w (0x2000 + 0x200 * j) [fBuf 0 0 0, fBuf 6 1 1, fBuf 11 7 0]]
    ++ ww (0x2008 + 0x200 * j) [fBuf 31 0 0] [fBuf 31 0 0]
    ++ [ w (0x2010 + 0x200 * j) [fBuf 15 0 0, fBuf 31 16 0]
       , w (0x2014 + 0x200 * j) [fBuf 15 0 0, fBuf 31 16 0]
       , w (0x2018 + 0x200 * j) [fBuf 15 0 0, fBuf 23 16 2]
       , wSts (0x2020 + 0x200 * j) 4
       , w (0x2028 + 0x200 * j) [fRo 23 0 0, fRo 28 24 0, fRo 29 29 0]
       , wCnt (0x2030 + 0x200 * j), wCnt (0x2038 + 0x200 * j)
       , wCnt (0x2040 + 0x200 * j), wCnt (0x2048 + 0x200 * j) ]
    ++ (List.range 32).map (fun e => w (0x2100 + 0x200 * j + 4 * e) [fBuf 19 0 1000, fBuf 23 20 0xF]))

/-- Home block: directory, encryption, counter and bandwidth registers (Tables 7-8, 7-9, 13-4, 17-9). -/
def homeRegs4 : List RegDef :=
  [ w 0x3000 [fLock 11 0 256, fLock 12 12 1, fLock 13 13 1, fLock 21 14 100]
  , wSts 0x3008 3
  , w 0x3010 [fRo 11 0 0, fRo 18 12 0] ]
  ++ ww 0x3018 [fRo 31 0 0] [fRo 11 0 0]
  ++ (List.range 10).map (fun k => wCnt (0x3040 + 8 * k))
  ++ [ w 0x3090 [fSat 15 0, fSat 31 16]
     , w 0x3098 [fSat 15 0, fSat 31 16]
     , wSts 0x3400 1
     , wCnt 0x3440, wCnt 0x3448, wCnt 0x3450 ]
  ++ cntGroup 0x3800 32
  ++ [w 0x3C00 [fBuf 15 0 0, fRo 31 16 0]]
  ++ (List.range 24).flatMap (fun p =>
      [w (0x3C40 + 16 * p) [fRo 31 0 0], w (0x3C44 + 16 * p) [fRo 31 0 0], w (0x3C48 + 16 * p) [fRo 31 0 0], w (0x3C4C + 16 * p) []])

/-- The home block after its identity and status. -/
def homeRest : List RegDef := homeRegs1 ++ homeRegs2 ++ homeRegs3 ++ homeRegs4

/-- The home block of home `h`. -/
def homeRegs (h : Nat) : List RegDef := blkHead 3 h ++ homeRest

/-- The bay block of bay `b` (Table 5-5). -/
def bayRegs (b : Nat) : List RegDef :=
  blkHead 4 b ++
  [ w 0x0010 [fSec 0 0 0]
  , wSts 0x0018 3
  , w 0x0020 [fRo 5 0 0, fRo 6 6 0, fRo 31 16 0] ]
  ++ (List.range 16).map (fun k => w (0x0040 + 4 * k) [fBuf 4 0 31, fBuf 12 8 31, fBuf 20 16 31, fBuf 28 24 31])
  ++ (List.range 3).map (fun j => w (0x0080 + 4 * j) ((List.range 8).map (fun i => fImm (3 * i + 2) (3 * i) 0)))
  ++ [ wCnt 0x0100, wCnt 0x0108, wCnt 0x0110, wCnt 0x0118, wCnt 0x0120, w 0x0128 [fRo 4 0 0] ]

/-- Course block: training registers of the lanes (Table 14-5). -/
def crsRegs1 : List RegDef :=
  (List.range 8).flatMap (fun l =>
    [ w (0x0400 + 16 * l) [fSec 4 0 0, fSec 10 5 0, fSec 15 11 0, fSec 20 16 0]
    , w (0x0404 + 16 * l) [fSec 6 0 0, fSec 13 7 0, fSec 20 14 0, fSec 27 21 0] ])
  ++ (List.range 6).map (fun l => w (0x0500 + 4 * l) [fSec 3 0 0, fSec 8 4 0, fSec 14 9 48, fSec 19 15 0])
  ++ [w 0x0580 [fSec 0 0 0, fSec 9 1 16]]
  ++ (List.range 8).map (fun l => w (0x0590 + 4 * l) [fSat 31 0])
  ++ [w 0x05B0 [fSat 31 0], w 0x05B8 [fRo 7 0 0], w 0x05C0 [fRo 7 0 0]]

/-- Course block: link and command stream registers (Tables 10-13 to 10-15, 11-8). -/
def crsRegs2 : List RegDef :=
  [ w 0x0800 [fBuf 1 0 0, fBuf 2 2 0, fImm 3 3 0, fBuf 10 4 64, fBuf 18 11 64, fBuf 22 19 8, fBuf 24 23 3, fBuf 30 25 0, fImm 31 31 0]
  , wSts 0x0808 5
  , w 0x0810 [fRo 2 0 0, fRo 4 3 0, fRo 12 5 0, fRo 20 13 0, fRo 28 21 0, fRo 29 29 0]
  , w 0x0840 [fSec 1 0 0, fSec 19 2 0, fSec 23 20 0]
  , w 0x0848 [fSec 31 0 0]
  , w 0x0850 [fRo 31 0 0]
  , w 0x0858 [fRo 1 0 0, fRo 3 2 0, fRo 11 4 0] ]
  ++ (List.range 12).map (fun k => wCnt (0x0880 + 8 * k))
  ++ [ w 0x08E0 [fSat 15 0, fSat 31 16]
     , wSts 0x0C00 3
     , w 0x0C08 [fRo 1 0 0, fRo 3 2 0, fRo 11 4 0, fRo 19 12 0, fRo 20 20 0, fRo 21 21 0]
     , w 0x0C10 [fRo 23 0 0, fRo 24 24 0, fRo 25 25 0] ]
  ++ (List.range 4).map (fun k => wCnt (0x0C40 + 8 * k))

/-- Course block: scheduler and timing registers (Tables 8-4, 8-13, 8-14). -/
def crsRegs3 : List RegDef :=
  [ w 0x1000 [fLock 1 0 0, fBuf 9 2 16, fBuf 19 10 32, fBuf 20 20 0]
  , w 0x1008 [fBuf 6 0 96, fBuf 13 7 32, fBuf 21 14 8]
  , w 0x1010 [fBuf 9 0 128, fBuf 25 16 16]
  , w 0x1018 [fBuf 6 0 48, fRo 16 8 0]
  , w 0x1020 [fBuf 7 0 0, fBuf 15 8 0, fRo 16 16 0] ]
  ++ ww 0x1028 [fRo 31 0 0] [fRo 15 0 0]
  ++ [ w 0x1030 [fLock 1 0 0, fLock 3 2 0]
     , wSts 0x1038 2
     , w 0x1040 [fRo 7 0 0, fRo 15 8 0, fRo 17 16 0, fRo 27 18 0] ]
  ++ (List.range 8).map (fun k => w (0x1100 + 4 * k) [fLock 7 0 0, fLock 15 8 0, fLock 23 16 0, fLock 31 24 0])
  ++ [w 0x1120 [fLock 7 0 0, fLock 15 8 0]]
  ++ (List.range 3).map (fun k => w (0x1124 + 4 * k) [fLock 15 0 0, fLock 31 16 0])
  ++ (List.range 11).map (fun k => wCnt (0x1200 + 8 * k))

/-- Course block: refresh and line protection registers (Tables 9-7 to 9-9, 12-9 to 12-13). -/
def crsRegs4 : List RegDef :=
  [ w 0x1400 [fLock 1 0 0, fLock 13 2 3900, fLock 16 14 4, fBuf 21 17 25, fBuf 22 22 0]
  , w 0x1408 [fBuf 7 0 2, fBuf 15 8 95, fBuf 23 16 16, fBuf 24 24 0]
  , w 0x1410 [fImm 0 0 0, fImm 1 1 0, fLock 9 2 0, fBuf 19 10 0, fBuf 20 20 1]
  , wSts 0x1418 7
  , w 0x1420 [fRo 15 0 0, fRo 19 16 0, fRo 22 20 0] ]
  ++ ww 0x1428 [fRo 31 0 0] [fRo 31 0 0]
  ++ [w 0x1430 [fRo 7 0 0x80, fRo 15 8 0x80, fRo 23 16 0x80, fRo 31 24 0x80]]
  ++ (List.range 10).map (fun k => wCnt (0x1480 + 8 * k))
  ++ [w 0x1800 [fLock 0 0 0]]
  ++ ww 0x1808 ((List.range 4).flatMap (fun b => [fLock (8*b+7) (8*b+7) 0, fLock (8*b+3) (8*b) 0]))
       ((List.range 4).flatMap (fun b => [fLock (8*b+7) (8*b+7) 0, fLock (8*b+3) (8*b) 0]))
  ++ [wSts 0x1818 3]
  ++ ww 0x1820 [fRo 31 0 0] [fRo 0 0 0, fRo 3 1 0, fRo 7 4 0, fRo 14 8 0, fRo 15 15 0]
  ++ ww 0x1828 [fRo 31 0 0] [fRo 0 0 0, fRo 3 1 0, fRo 7 4 0, fRo 14 8 0, fRo 15 15 0]
  ++ (List.range 6).map (fun k => wCnt (0x1840 + 8 * k))
  ++ (List.range 10).map (fun k => w (0x1880 + 4 * k) [fSat 15 0, fSat 31 16])

/-- Course block: Pointing and repeat tracker registers (Tables 12-11 to 12-13). -/
def crsRegs5 : List RegDef :=
  [ w 0x1900 [fBuf 0 0 1, fBuf 16 1 1250, fBuf 21 17 16]
  , w 0x1908 [fBuf 31 0 86400]
  , wSts 0x1910 3 ]
  ++ ww 0x1918 [fRo 31 0 0] [fRo 0 0 0]
  ++ [w 0x1920 [fRo 31 0 0], w 0x1928 [fRo 31 0 0]]
  ++ (List.range 6).map (fun k => wCnt (0x1940 + 8 * k))
  ++ [ w 0x1A00 [fBuf 0 0 1, fBuf 4 1 4, fBuf 12 5 24]
     , wSts 0x1A08 3
     , w 0x1A10 [fRo 6 0 0, fRo 13 7 0] ]
  ++ (List.range 4).map (fun k => wCnt (0x1A40 + 8 * k))
  ++ (List.range 64).flatMap (fun e =>
      [ w (0x1C00 + 16 * e) [fRo 31 0 0]
      , w (0x1C04 + 16 * e) [fRo 0 0 0, fRo 3 1 0, fRo 7 4 0, fRo 17 8 0, fRo 24 18 0]
      , w (0x1C08 + 16 * e) [fRo 31 0 0], w (0x1C0C + 16 * e) [] ])

/-- Course block: fresh map, DRAM checker, counter group and bus-slot registers (Tables 13-3, 14-5, 16-9, 17-7, 17-9). -/
def crsRegs6 : List RegDef :=
  [ w 0x2000 [fLock 0 0 1]
  , wSts 0x2008 3
  , w 0x2010 [fRo 17 0 0, fRo 20 18 0, fRo 27 21 0]
  , w 0x2018 [fImm 11 0 0]
  , w 0x201C [fRo 31 0 0]
  , w 0x2020 [fImm 17 0 0, fRo 18 18 0] ]
  ++ (List.range 4).flatMap (fun e => ww (0x2040 + 8 * e) [fRo 16 0 0, fRo 17 17 0, fRo 31 18 0] [fRo 1 0 0])
  ++ (List.range 6).map (fun k => wCnt (0x2080 + 8 * k))
  ++ [ w 0x2400 [fSec 0 0 0, fSec 1 1 0, fSec 2 2 0, fSec 4 3 0, fSec 12 5 0, fSec 28 13 0]
     , wSts 0x2408 3
     , w 0x240C [fSec 15 0 0]
     , w 0x2410 [fSec 3 0 0, fSec 4 4 0, fSec 7 5 0, fSec 10 8 0, fSec 12 11 0, fSec 29 13 0, fSec 30 30 0]
     , w 0x2418 [fRo 4 0 0]
     , w 0x2420 [fRo 31 0 0], w 0x2424 [fRo 31 0 0], w 0x2428 [fRo 15 0 0]
     , w 0x2440 [fSec 15 0 0, fSec 26 16 0]
     , wCnt 0x2450 ]
  ++ (List.range 10).map (fun d => w (0x2460 + 4 * d) [fRo 15 0 0])
  ++ (List.range 40).map (fun q => w (0x2500 + 4 * q) [fSat 31 0])
  ++ cntGroup 0x3000 16
  ++ (List.range 33).flatMap (fun m => wwCnt (0x3400 + 8 * m))

/-- The course block after its identity and status. -/
def crsRest : List RegDef := crsRegs1 ++ crsRegs2 ++ crsRegs3 ++ crsRegs4 ++ crsRegs5 ++ crsRegs6

/-- The course block of course `n` (Table 22-7). -/
def crsRegs (n : Nat) : List RegDef :=
  blkHead 5 n ++ crsRest

/-- The Hod block (Table 22-8), less its snapshot buffer and user page. -/
def hodRegs : List RegDef :=
  blkHead 6 0 ++
  [ w 0x0010 [fImm 0 0 0, fImm 1 1 0, fImm 2 2 0]
  , wSts 0x0018 2
  , w 0x0020 [fRo 0 0 0, fRo 1 1 0]
  , wCnt 0x0028
  , w 0x0030 [fRo 24 0 0] ]
  ++ (List.range 7).flatMap (fun i => cntGroup (0x1000 + 0x100 * i) 8)

/-- The Security, Debug and BIST block (Table 22-9), less the command trace. -/
def secRegs : List RegDef :=
  blkHead 7 0 ++
  [w 0x0010 [fRo 2 0 0, fRo 5 3 0]]
  ++ (List.range 32).map (fun k => w (0x1000 + 4 * k) [fSec 31 0 0])
  ++ [w 0x2000 [fImm 1 0 0]]
  ++ ww 0x2008 [fImm 31 0 0] [fImm 31 0 0]
  ++ [ w 0x2010 [fRo 1 0 0, fSts 2, fSts 3, fSts 4, fRo 5 5 0, ⟨31, 24, .sts, 0, false⟩]
     , w 0x2040 [fImm 15 0 0, fImm 16 16 0]
     , w 0x2048 [fRo 31 0 1]
     , wCnt 0x2050
     , w 0x3000 [fImm 7 0 0]
     , w 0x3008 [fRo 2 0 0, fRo 7 3 0, fRo 23 8 0]
     , w 0x3010 [fRo 31 0 0], w 0x3014 [fRo 31 0 0], w 0x3018 [fRo 31 0 0]
     , w 0x3020 [fBuf 3 0 2, fBuf 19 4 1000]
     , w 0x3028 [fRo 3 0 0, fRo 5 4 0]
     , wCnt 0x3030
     , w 0x3040 [fImm 7 0 0, fImm 11 8 0]
     , w 0x3048 [fRo 17 0 0, fRo 18 18 0, fRo 19 19 0]
     , w 0x3050 [fRo 8 0 0] ]

/-- The block of a window offset at the stepping-B1 default bases (Table 22-1): kind, instance, block base. -/
def blockOf (off : Nat) : Option (Nat × Nat × Nat) :=
  if 0x010000 ≤ off ∧ off < 0x020000 then some (1, 0, 0x010000)
  else if 0x020000 ≤ off ∧ off < 0x040000 then some (2, 0, 0x020000)
  else if 0x040000 ≤ off ∧ off < 0x080000 then some (3, (off - 0x040000) / 0x20000, 0x040000 + (off - 0x040000) / 0x20000 * 0x20000)
  else if 0x080000 ≤ off ∧ off < 0x088000 then some (4, (off - 0x080000) / 0x1000, 0x080000 + (off - 0x080000) / 0x1000 * 0x1000)
  else if 0x100000 ≤ off ∧ off < 0x500000 then some (5, (off - 0x100000) / 0x40000, 0x100000 + (off - 0x100000) / 0x40000 * 0x40000)
  else if 0x800000 ≤ off ∧ off < 0x820000 then some (6, 0, 0x800000)
  else if 0xC00000 ≤ off ∧ off < 0xC10000 then some (7, 0, 0xC00000)
  else none

/-- The registers of a block. -/
def blockRegs (kind inst : Nat) : List RegDef :=
  match kind with
  | 1 => zmcRegs
  | 2 => mbxRegs
  | 3 => homeRegs inst
  | 4 => bayRegs inst
  | 5 => crsRegs inst
  | 6 => hodRegs
  | 7 => secRegs
  | _ => []

/-- The definition of the register word at a window offset. -/
def regDef (off : Nat) : Option RegDef :=
  match blockOf off with
  | none => none
  | some (k, i, base) => (blockRegs k i).find? (fun d => d.off == off - base)

/-- The reset word of a definition: every field at its reset value. -/
def RegDef.rstWord (d : RegDef) : Word := d.flds.foldl (fun a f => a ||| (BitVec.ofNat 32 f.rst <<< f.lo)) 0

/-- The reset word of a window offset; an unbacked offset reads zero (R24). -/
def rstWord (off : Nat) : Word :=
  match regDef off with
  | none => 0
  | some d => d.rstWord

/-- The island that owns a register word (Tables 22-1, 22-3, 22-9). -/
def ownerOf (off : Nat) : Nat :=
  match blockOf off with
  | none => 19
  | some (1, _, b) =>
      let o := off - b
      if 0x0300 ≤ o ∧ o < 0x0400 then (o - 0x0300) / 4
      else if (0x0400 ≤ o ∧ o < 0x0A00) ∨ (0x0E00 ≤ o ∧ o < 0x0F00) then 20 else 19
  | some (2, _, _) => 19
  | some (3, h, _) => 16 + h
  | some (4, b, _) => 16 + b / 4
  | some (5, c, _) => c
  | some (6, _, b) => let o := off - b; if 0x1000 ≤ o ∧ o < 0x1700 then 18 + (o - 0x1000) / 0x100 else 24
  | some (_, _, b) =>
      let o := off - b
      if o < 0x2000 then 21 else if o < 0x3000 ∨ 0x4000 ≤ o then 22 else 23

/-- Block base of the ZMC global block. -/
def zmcBase : Nat := 0x010000
/-- Block base of home `h`. -/
def homeBase (h : Nat) : Nat := 0x040000 + h * 0x20000
/-- Block base of bay `b`. -/
def bayBase (b : Nat) : Nat := 0x080000 + b * 0x1000
/-- Block base of course `n`. -/
def crsBase (n : Nat) : Nat := 0x100000 + n * 0x40000
/-- Block base of the mailboxes. -/
def mbxBase : Nat := 0x020000
/-- MBX[m]_STS. -/
def mbxSts (m : Nat) : Nat := mbxBase + 0x0188 + 0x100 * m
/-- Block base of Hod. -/
def hodBase : Nat := 0x800000
/-- Block base of Security, Debug and BIST. -/
def secBase : Nat := 0xC00000

/-- The window offsets of every word of island `i` that holds a BUF field, ascending (R47). -/
def bufWords (i : Nat) : List Nat :=
  let pick (base : Nat) (ds : List RegDef) : List Nat :=
    (ds.filter (fun d => d.flds.any (fun f => f.cls == .buf))).map (fun d => base + d.off)
  let own (l : List Nat) : List Nat := l.filter (fun o => ownerOf o == i)
  if i < 16 then pick (crsBase i) (crsRegs i)
  else if i < 18 then
    pick (homeBase (i - 16)) (homeRegs (i - 16))
    ++ (List.range 4).flatMap (fun k => pick (bayBase (4 * (i - 16) + k)) (bayRegs (4 * (i - 16) + k)))
  else own (pick zmcBase zmcRegs ++ pick mbxBase mbxRegs ++ pick secBase secRegs)

end Sys2Proof.Machine
end

