-- ==== Sys2Proof/Machine/Tbl.lean ====
section
/-! DEFINITION. Sparse maps in one canonical form, and the small list operations the block's queues use. -/

namespace Sys2Proof.Machine

/-- A sparse map: pairs of key and value, keys strictly rising. -/
abbrev Tbl (α : Type) := List (Nat × α)

/-- The value listed at a key. -/
def tblFind {α : Type} : Tbl α → Nat → Option α
  | [], _ => none
  | (k, v) :: m, i => if i = k then some v else tblFind m i

/-- The value at a key, `d` where none is listed. -/
def tblGet {α : Type} (d : α) (m : Tbl α) (i : Nat) : α := (tblFind m i).getD d

/-- List `v` at a key, in place of what is listed there. -/
def tblPut {α : Type} : Tbl α → Nat → α → Tbl α
  | [], i, v => [(i, v)]
  | (k, w) :: m, i, v =>
      if i < k then (i, v) :: (k, w) :: m
      else if i = k then (i, v) :: m
      else (k, w) :: tblPut m i v

/-- Remove a key. -/
def tblDel {α : Type} : Tbl α → Nat → Tbl α
  | [], _ => []
  | (k, w) :: m, i => if i = k then m else if i < k then (k, w) :: m else (k, w) :: tblDel m i

/-- Write `v`, listing nothing where `v` is what an unlisted key reads as: equal memories are equal data. -/
def tblStore {α : Type} [DecidableEq α] (d : α) (m : Tbl α) (i : Nat) (v : α) : Tbl α :=
  if v = d then tblDel m i else tblPut m i v

/-- Every key of the map lies at or above `n` and the keys rise strictly. -/
def tblAbove {α : Type} : Nat → Tbl α → Bool
  | _, [] => true
  | n, (k, _) :: m => decide (n ≤ k) && tblAbove (k + 1) m

/-- The canonical form: keys strictly rising. -/
def tblWf {α : Type} (m : Tbl α) : Bool := tblAbove 0 m

/-- The canonical form of a memory whose unlisted entries read as `d`: keys strictly rising, no entry equal to `d`. -/
def tblCanon {α : Type} [DecidableEq α] (d : α) (m : Tbl α) : Bool := tblWf m && m.all (fun p => decide (p.2 ≠ d))

/-- Keep the last `n` elements. -/
def lastN {α : Type} (n : Nat) (l : List α) : List α := l.drop (l.length - n)

/-- The element of a list with the smallest measure, the first of equals. -/
def minBy {α : Type} (f : α → Nat) : List α → Option α
  | [] => none
  | a :: l =>
      match minBy f l with
      | none => some a
      | some b => if f a ≤ f b then some a else some b

/-- Replace the first element that satisfies `p`. -/
def replaceFirst {α : Type} (p : α → Bool) (f : α → α) : List α → List α
  | [] => []
  | a :: l => if p a then f a :: l else a :: replaceFirst p f l

/-- Remove the first element that satisfies `p`. -/
def removeFirst {α : Type} (p : α → Bool) : List α → List α
  | [] => []
  | a :: l => if p a then l else a :: removeFirst p l

/-- The element of a vector at a number known to be in range, by its list. -/
def nthD {α : Type} (d : α) (l : List α) (i : Nat) : α := l.getD i d

end Sys2Proof.Machine
end

