-- ==== Sys2Proof/Machine/State.lean ====
section
/-! DEFINITION. The state of the block as plain data, the reasons a step can stop, and the state after reset. Instants are in units of
1/84 ns (Word.lean). Registers that no structure below holds live in `Regs.reg`, keyed by window offset (22_register_maps.md). -/

namespace Sys2Proof.Machine

/-- The reasons a command can end in a fault. -/
inductive Fault where
  /-- Raised by every command whose operands lie outside `Instr.wf` (a train of 0 or more than 4 lines, a sensor list that is not one
  reading per island): no such command exists at the block's boundary. Safe: the machine stops where no hardware event is described. -/
  | illFormed
  deriving DecidableEq, Repr

/-- The reasons a command can be refused. -/
inductive Refusal where
  /-- Raised by a row of exec that has no meaning yet, under the row's mnemonic. Safe: nothing is claimed of it. -/
  | notModelled (mnemonic : String)
  deriving DecidableEq, Repr

/-! ## Registers (02_register_behaviour.md) -/

/-- A hardware update of a word in one cycle of its owner: what R44 and Table 2-6 need. -/
structure HwUpd where
  off : Nat
  /-- the owner's cycle number -/
  cyc : Nat
  /-- the word before the update -/
  old : Word
  deriving DecidableEq, Repr

/-- A software write of a word in one cycle of its owner, with the event bits it cleared (R44). -/
structure SwUpd where
  off : Nat
  cyc : Nat
  clr : Word
  deriving DecidableEq, Repr

/-- The register file of the configuration window. -/
structure Regs where
  /-- active and current words; an unlisted offset holds its reset word -/
  reg   : Tbl Word := []
  /-- pending words of BUF registers; listed once written (R37) -/
  pend  : Tbl Word := []
  /-- failed checks of BUF fields: offset × 32 + lowest bit, and the code (R37) -/
  fail  : Tbl Nat := []
  /-- offsets whose W1 field has been written (R28) -/
  w1    : List Nat := []
  /-- hold_fck pending values of 0 whose last writer R138 permits, by home -/
  holdOk : List Nat := []
  /-- read shadow per originator class (R34) -/
  rdSh  : Vector Word 8 := Vector.replicate 8 0
  /-- write shadow per originator class: offset and word (R35) -/
  wrSh  : Vector (Option (Nat × Word)) 8 := Vector.replicate 8 none
  /-- hardware updates and software writes of words in the present cycles of their owners (R44) -/
  hw    : List HwUpd := []
  sw    : List SwUpd := []
  /-- general counters in mode 2: island and counter number (R342) -/
  lvl   : List (Nat × Nat) := []
  /-- SEAL (R66), held in the Security island -/
  sealed : Bool := false
  deriving DecidableEq, Repr

/-- The SET unit (R38 to R42). -/
structure SetU where
  busy  : Bool := false
  /-- islands named by the accepted SET that have not applied it yet -/
  named : List Nat := []
  /-- the snapshot of their pending words -/
  snap  : Tbl Word := []
  accAt : Nat := 0
  deriving DecidableEq, Repr

/-- The Plumb engine (R47 to R49). -/
structure Plumb where
  lapStart : Nat := 0
  /-- end of the last complete lap, or the start of counting for R48 -/
  lastLap  : Nat := 0
  /-- words whose BUF fields Potrie has changed on its own initiative and not yet audited, as they were before (R49) -/
  own      : Tbl Word := []
  deriving DecidableEq, Repr

/-- The Bond table (R51 to R58): its bytes without the generation, and the generation. -/
structure Bond where
  bytes : List Byte := []
  gen   : Word := 0
  /-- a record's value has changed since the last regeneration (R56) -/
  dirty : Bool := false
  deriving DecidableEq, Repr

/-! ## Mason and the mailboxes (04, 21) -/

/-- Mailbox states (Table 4-5). -/
inductive MbxPh where
  | idle | posted | running | done
  deriving DecidableEq, Repr

/-- Parts of a staged command received so far (R393). -/
structure Staged where
  op    : Nat
  obj   : Nat
  next  : Nat
  words : List Word
  deriving DecidableEq, Repr

/-- One mailbox (Tables 4-3, 4-5, 4-6). -/
structure Mbx where
  req    : Vector Word 16 := Vector.replicate 16 0
  rsp    : Vector Word 16 := Vector.replicate 16 0
  ph     : MbxPh := .idle
  /-- class of the originator that rang the doorbell -/
  orig   : Nat := 0
  /-- when the doorbell was rung, and when Potrie took the request -/
  rungAt : Nat := 0
  tookAt : Nat := 0
  /-- a withdrawal of this SCK cycle, which a take in the cycle undoes (R74): the cycle, MBX[m]_STS and the order of rings before it -/
  undo   : Option (Nat × Word × List MbxId) := none
  /-- opcode and seq of the last completed request, and its kept response and audit target (R71, R394) -/
  last   : Option (Nat × Nat) := none
  kept   : Vector Word 16 := Vector.replicate 16 0
  keptTg : Nat := 0
  staged : Option Staged := none
  deriving DecidableEq, Repr

/-- What a held resource is (R392). -/
inductive Rsrc where
  | course (c : Nat) | range (base size : Nat) | banks | bist (c : Nat) | fuses | lifeCycle | inactiveBank | all
  deriving DecidableEq, Repr

/-- ACCEPTED work that has not completed (R391, R392). -/
structure Job where
  mbx  : MbxId
  op   : Nat
  seq  : Nat
  orig : Nat
  rsrc : Rsrc
  /-- the command's own argument: course, offer, memory, target state or clear -/
  arg  : Nat
  target : Nat
  /-- digest of the argument words, which its completion entry carries (R394) -/
  dg   : Word
  startAt : Nat
  deriving DecidableEq, Repr

/-- An event that Potrie posts once it runs again (R77). -/
structure PotEv where
  code   : Nat
  island : Nat
  course : Nat
  d      : List Word
  deriving DecidableEq, Repr

/-- A coalescing window of the audit log (R79). -/
structure Coal where
  orig : Nat
  off  : Nat
  t0   : Nat
  n    : Nat
  old  : Word
  new  : Word
  deriving DecidableEq, Repr

/-- A captured field write (R80). -/
structure FifoRec where
  orig : Nat
  off  : Nat
  t    : Nat
  old  : Word
  new  : Word
  deriving DecidableEq, Repr

/-- An image bank (R60, R61). -/
structure Bank where
  bytes : List Byte := []
  valid : Bool := false
  ver   : Nat := 0
  build : Word := 0
  lvlMin : Nat := 0
  lvlMax : Nat := 0
  deriving DecidableEq, Repr

/-- A live activation (R81, R82). -/
structure Act where
  mbx    : MbxId
  seq    : Nat
  orig   : Nat
  dg     : Word
  oldBank : Nat
  openAt : Nat
  /-- the new image missed its 20 ms and the old one restarts -/
  failed : Bool
  deriving DecidableEq, Repr

/-- A repair offer (R260): kind 1 hPPR, 2 device mark. -/
structure Offer where
  id   : Nat
  crs  : Nat
  kind : Nat
  line : Nat
  dev  : Nat
  fmtA : List Word
  deriving DecidableEq, Repr

/-- A HARD line Potrie has handled (R260): when, course, device and row coordinates. -/
structure HardRec where
  t    : Nat
  crs  : Nat
  dev  : Nat
  sub  : Nat
  lrank : Nat
  row  : Nat
  bank : Nat
  deriving DecidableEq, Repr

/-- An audit record on its way to the log (R79, R83). -/
structure AudRec where
  time : Nat
  op   : Nat
  orig : Nat
  src  : Nat
  res  : Nat
  tgt  : Nat
  kind : Nat
  old  : Word
  new  : Word
  deriving DecidableEq, Repr

/-- Mason, Potrie and the mailboxes. -/
structure Mgt where
  /-- Potrie runs -/
  up     : Bool := false
  act    : Option Act := none
  active : Nat := 0
  banks  : Vector Bank 2 := #v[{ valid := true, ver := 0x040200, build := 1, lvlMin := 6, lvlMax := 7 }, {}]
  /-- the end of the image parts received so far (IMAGE_WRITE) -/
  imgEnd : Option Nat := none
  mbx    : Vector Mbx 6 := Vector.replicate 6 {}
  /-- mailboxes POSTED, in the order rung (R75) -/
  ringQ  : List MbxId := []
  lastPeer : Bool := false
  jobs   : List Job := []
  evq    : Tbl (List Word) := []
  evtNext : Word := 1
  wait   : List PotEv := []
  /-- the last SCK cycle in which Potrie posted events, their first evt_seq, and their words from word 1 on (R77) -/
  potCyc : Nat := 0
  potSeq : Word := 1
  potEvs : List (List Word) := []
  /-- requests of P21 that a restart orphaned, to be reissued (R87) -/
  reissue : List FabReq := []
  aud    : Tbl (List Word) := []
  audQ   : List AudRec := []
  audNext : Word := 1
  chain  : Word := 0
  gap    : Word := 0
  fifo   : List FifoRec := []
  lost   : Nat := 0
  coal   : List Coal := []
  /-- policies by opcode, as the command's words (R395) -/
  pol    : Tbl (List Word) := []
  offers : List Offer := []
  offerNext : Nat := 1
  hist   : List HardRec := []
  /-- rows repaired by hPPR: course, rank, bank group key -/
  hppr   : List (Nat × Nat × Nat) := []
  /-- time of the last double-bit error in Mason RAM (R358) -/
  ramUe  : Option Nat := none
  /-- the entry latched by AUDIT_HEAD part 0: aud_seq, chain, time -/
  head   : Option (Word × Word × BitVec 64) := none
  wdogAt : Nat := 0
  deriving DecidableEq, Repr

/-! ## Fuses, keys, debug (15, 13) -/

/-- What fuses and non-volatile cells hold. -/
structure Fuse where
  variant : Nat := 16
  uid     : BitVec 64 := 1
  /-- the life-cycle state the next cold reset reads, as lc_state (Table 15-1) -/
  lc      : Nat := 2
  /-- hard repairs: memory id, spare, row (R327) -/
  hard    : List (Nat × Nat × Nat) := []
  deriving DecidableEq, Repr

/-- A loaded key slot: the wrapped blob and the pair (R274, R394). -/
structure KeySlot where
  blob : List Byte
  k1   : BitVec 256
  k2   : BitVec 256
  deriving DecidableEq, Repr

/-- The key store of the Security island. -/
structure Keys where
  slots : Tbl KeySlot := []
  kek   : Option (BitVec 256) := none
  /-- key loads are refused until the next cold reset (R303) -/
  blocked : Bool := false
  /-- key IDs in each engine's cache, most recent first (R276) -/
  cache : Vector (List Nat) 8 := Vector.replicate 8 []
  deriving DecidableEq, Repr

/-- A consent token (R307). -/
structure Token where
  tok : BitVec 64
  lvl : Nat
  exp : Nat
  deriving DecidableEq, Repr

/-- A slot on its way to the command trace (R408). -/
structure TraceEnt where
  slot    : Slot
  crs     : Nat
  rebuilt : Bool
  deriving DecidableEq, Repr

/-- The debug access port. -/
structure Dbg where
  /-- 0 CLOSED, 1 OBSERVE, 2 INVASIVE -/
  level  : Nat := 0
  /-- an INVASIVE attach that is zeroing the key store, and when it ends -/
  zero   : Option Nat := none
  /-- that attach has been cancelled -/
  cancel : Bool := false
  tokReg : BitVec 64 := 0
  consent : Option Token := none
  refused : List Nat := []
  lockTo : Option Nat := none
  trace  : Tbl (List Word) := []
  trcNext : Word := 1
  trcQ   : Vector (List TraceEnt) 2 := Vector.replicate 2 []
  trcAt  : Vector Nat 2 := Vector.replicate 2 0
  /-- DBG_TRC_NEXT when trc_stop was set -/
  trcStop : Option Word := none
  deriving DecidableEq, Repr

/-! ## Bring-up, power, thermal (16, 15, 20) -/

/-- The record of a memory test (R325, R328). -/
structure BistRec where
  result : Nat := 0
  spares : Nat := 0
  fails  : Nat := 0
  word   : Nat := 0
  bit    : Nat := 0
  pass2  : Bool := false
  steps  : Nat := 0
  sig    : Word := 0
  /-- programmed length of a re-test (R337), 0 for the power-up length -/
  len    : Nat := 0
  deriving DecidableEq, Repr

/-- A spare in use (R410). -/
structure Spare where
  row  : Nat
  hard : Bool
  deriving DecidableEq, Repr

/-- Bring-up and built-in self-test. -/
structure Boot where
  pwrGood : Bool := true
  phase   : Nat := 0
  hold    : Nat := 0
  failIsl : Nat := 0
  failLoc : Nat := 0
  failRes : Nat := 0
  failWord : Nat := 0
  failBit : Nat := 0
  failPass : Bool := false
  warm    : Bool := false
  hodOk   : Bool := false
  startAt : Nat := 0
  trainAt : Nat := 0
  releaseUs : Word := 0
  ready   : Bool := false
  /-- unique identifier, hard-repair entries used, variant and life-cycle state as read at the last cold reset -/
  uid     : BitVec 64 := 1
  fuses   : Nat := 0
  variant : Nat := 16
  lc      : Nat := 2
  lcPend  : Nat := 2
  bist    : Tbl BistRec := []
  /-- spares by memory id × 16 + spare index -/
  spares  : Tbl Spare := []
  decFail : List Nat := []
  rtCourse : Nat := 0
  rtState : Nat := 0
  deriving DecidableEq, Repr

/-- What the Bond table shows of a course, and what the homes need of it. -/
structure CInfo where
  /-- fence_cause, 0 when not fenced (Table 3-3) -/
  fence   : Nat := 0
  trained : Bool := false
  rate    : Nat := 0
  ranks   : Nat := 0
  dies    : Nat := 0
  density : Nat := 0
  /-- Potrie holds the course in a degraded link mode -/
  degraded : Bool := false
  /-- link mode in force: 0 full, 1 half width, 2 half rate, 3 both (Table 3-3) -/
  mode    : Nat := 0
  /-- the link is FAILED (R213) -/
  failed  : Bool := false
  /-- COURSE_FENCE is draining the course: its bay grants nothing more to it -/
  draining : Bool := false
  deriving DecidableEq, Repr

/-- One bit per 4 MiB region with its state (R263). -/
inductive RState where
  | fresh | claimed | rendering | written
  deriving DecidableEq, Repr

/-- The fresh map: the state of an unlisted region, the exceptions, and how many regions the course has. -/
structure FreshMap where
  dflt : RState := .written
  ex   : Tbl RState := []
  deriving DecidableEq, Repr

/-- The save area of RETAIN (R315). -/
structure SaveArea where
  reg   : Tbl Word
  maps  : List FreshMap
  deriving DecidableEq, Repr

/-- A RETAIN entry or stay. -/
structure RetainSt where
  mbx    : MbxId
  seq    : Nat
  orig   : Nat
  /-- step of R313 in progress, 1 to 5 -/
  step   : Nat
  t0     : Nat
  parked : List PortId
  deriving DecidableEq, Repr

/-- ZMC power state (R311 to R316). -/
structure Pwr where
  /-- zmc_pwr: 0 RUN, 1 DOZE, 2 RETAIN_ENTRY, 3 RETAIN, 4 RETAIN_EXIT -/
  st      : Nat := 0
  doze    : Bool := false
  wakeSrc : Nat := 0
  ret     : Option RetainSt := none
  inAt    : Nat := 0
  latched : Option (Nat × BitVec 64) := none
  save    : Option SaveArea := none
  deriving DecidableEq, Repr

/-- Sensors, alerts and references (R16, R383, R386). -/
structure Therm where
  temps   : List Int := []
  hotOut  : Bool := false
  alertOn : Bool := false
  alertTo : Nat := 0
  /-- the courses Potrie holds at half rate (R16), and consecutive samples at or below 25 °C -/
  thr     : List CourseId := []
  okRun   : Nat := 0
  /-- DRAM_CRIT work by course: when every rank was first at or below release_c -/
  crit    : Tbl Nat := []
  /-- link mode × 2 + lane_sel that a course moved for its heat had before -/
  was     : Tbl Nat := []
  laneClk : Vector Bool 2 := Vector.replicate 2 true
  deriving DecidableEq, Repr

/-- Hod (R346 to R348). -/
structure Hod where
  frozen : Bool := false
  busy   : Bool := false
  trig   : Nat := 0
  trigAt : Nat := 0
  frozenAtTrig : Bool := false
  seq    : Word := 0
  /-- the snapshot buffer by word index -/
  buf    : Tbl Word := []
  /-- the counters latched for the snapshot in progress, by word index -/
  latch  : Tbl Word := []
  deriving DecidableEq, Repr

/-! ## Quoin pairs (19) -/

/-- A mirrored range (Table 19-1). -/
structure Mir where
  st    : Nat := 0
  fo    : BitVec 16 := 0
  /-- a RESYNC is a pull -/
  pull  : Bool := false
  /-- next byte to copy in each home's resync, and lines in flight -/
  pos   : Vector Nat 2 := Vector.replicate 2 0
  /-- regions of 4 MiB per way that the partner has reported FRESH during a pull, as course × 2^17 + region -/
  frs   : List Nat := []
  /-- a pull was cut short: lines at or above `lpos` of each home are lost but for the offsets `kept`, written since (R372) -/
  lose  : Bool := false
  lpos  : Vector Nat 2 := Vector.replicate 2 0
  kept  : List Nat := []
  deriving DecidableEq, Repr

/-- A line the resync engine has in flight (R373). -/
structure RsLine where
  r    : Nat
  home : Nat
  addr : Nat
  pull : Bool
  deriving DecidableEq, Repr

/-- Pair state (R363 to R378). -/
structure Pair where
  st     : Nat := 0
  lvlRun : Nat := 7
  peerMin : Nat := 0
  peerMax : Nat := 0
  /-- levels by package heard from: lvl_min and lvl_max -/
  heard  : Tbl (Nat × Nat) := []
  digs   : List Word := []
  mirs   : Vector Mir 8 := Vector.replicate 8 {}
  /-- mirror writes awaiting acknowledgement, by line address -/
  acks   : List (BitVec 64) := []
  /-- mirror reads awaiting data: line address, home request, and that it is a fetch of an uncorrectable line (R369) -/
  reads  : List (BitVec 64 × Nat × Bool) := []
  /-- lines of fetches to which a write has been enqueued since -/
  stale  : List Nat := []
  flight : List RsLine := []
  /-- this ZMC's own pair fault: the faulted offset (R374) -/
  fault  : Option Nat := none
  /-- the partner has said that it is ready for a resync while this ZMC's own fault stood (R375) -/
  ready  : Bool := false
  deriving DecidableEq, Repr

/-! ## Homes and bays (05, 06, 07) -/

/-- A request queued at a bay (R103). -/
structure QReq where
  rid    : Nat
  port   : PortId
  kind   : ReqKind
  addr   : BitVec 64
  /-- target course and course-local byte address; `none` is a decode miss (R407) -/
  dest   : Option (CourseId × Nat)
  /-- how a miss is counted: 0 dec_miss_cnt (R407), 1 xpkg_miss_cnt (R365), 2 copy_hit_cnt (R370) -/
  xmiss  : Nat
  lines  : Nat
  cls    : Fin 4
  stream : Fin 8
  key    : BitVec 10
  tag    : BitVec 16
  data   : Line
  poison : Bool
  arr    : Nat
  /-- start and finish tags (R113) -/
  s      : BitVec 32
  f      : BitVec 32
  /-- train_wait_cnt has counted it (R116) -/
  waited : Bool
  /-- a mirror message of the partner (R368, R369) -/
  mirror : Bool
  /-- counts against the 48 entries of its port (R103): of the parts of a split train the last one does -/
  ent    : Bool
  deriving DecidableEq, Repr

/-- A decided grant (R89, R91). -/
structure Grant where
  port  : PortId
  rid   : Nat
  write : Bool
  crs   : Option CourseId
  /-- queue entries its decision took -/
  took  : Nat
  /-- the bucket it charged and by how much -/
  bkt   : Nat
  chg   : Int
  /-- FCK cycle of the grant -/
  cyc   : Nat
  /-- it follows a grant to the same port in the cycle before (R89, R109) -/
  second : Bool
  deriving DecidableEq, Repr

/-- A data cycle to come: of a write whose header has transferred, or used up by a hollow write grant (R87). -/
structure DataCyc where
  port : PortId
  req  : Option QReq
  cyc  : Nat
  /-- it directly follows its header cycle (R89) -/
  direct : Bool
  /-- its port has stopped being live since the header (R86) -/
  orph : Bool
  /-- course entries that the grant took and holds -/
  took : Nat
  deriving DecidableEq, Repr

/-- One bay. -/
structure BaySt where
  q      : List QReq := []
  vt     : Vector (BitVec 32) 24 := Vector.replicate 24 0
  rr     : Vector (Fin 24) 8 := Vector.replicate 8 0
  /-- a Pattern table armed by a SET with the FCK cycle of arming, and one armed after the slot-63 decision (R94, R95) -/
  armed  : Option (List Word × Nat) := none
  armed2 : Option (List Word × Nat) := none
  patGen : BitVec 16 := 0
  /-- the last FCK cycle the bay has run -/
  ran    : Option Nat := none
  next   : Option Grant := none
  data   : List DataCyc := []
  /-- FCK cycle of P22's last grant -/
  p22    : Option Nat := none
  deriving DecidableEq, Repr

/-- A token bucket (R109, R110); the count has 16 fractional bits. -/
structure Bucket where
  tok   : Int := 0
  at_   : Nat := 0
  rate  : Nat := 0
  burst : Nat := 0
  ovh   : Nat := 0
  /-- timing-wheel slot, counted from time 0, and that the slot is the last of the wheel (R112) -/
  wheel : Option Nat := none
  capped : Bool := false
  /-- the FCK cycle in which it entered the wheel -/
  wcyc  : Nat := 0
  /-- the count at the end of the cycle before `at_`, which decisions of that cycle sample (R109), and what was charged in that cycle -/
  smp   : Int := 0
  chg   : Int := 0
  deriving DecidableEq, Repr

/-- A request that a marker has measured: its bay, the request, its class and colour before marking, its lines (R106). -/
structure Meas where
  bay   : Nat
  rid   : Nat
  cls   : Fin 4
  col   : Nat
  lines : Nat
  deriving DecidableEq, Repr

/-- A two-rate marker (R106); counts have 16 fractional bits. -/
structure Marker where
  tc : Int := 0
  tp : Int := 0
  at_ : Nat := 0
  /-- the counts before the requests measured in the FCK cycle `at_`, and those requests in ascending bay number -/
  tc0 : Int := 0
  tp0 : Int := 0
  seen : List Meas := []
  cir : Nat := 0
  pir : Nat := 0
  cbs : Nat := 0
  pbs : Nat := 0
  deriving DecidableEq, Repr

/-- A request that has been granted to a course and not yet served, by its number on the course (R118). -/
structure Late where
  rid : Nat
  cls : Fin 4
  deriving DecidableEq, Repr

/-- A gate list in force or armed (R114). -/
structure GList where
  base : Nat
  ents : List (Nat × Nat)
  lint : List Nat
  catchNs : Nat
  catchEnt : Nat
  start : Nat
  deriving DecidableEq, Repr

/-- The gate of one course. -/
structure Gate where
  list  : Option GList := none
  armed : Option GList := none
  ent   : Nat := 0
  /-- end of the entry in force, in local package ns -/
  endAt : Nat := 0
  /-- the entry in force was shortened by this much -/
  cut   : Nat := 0
  off   : Nat := 0
  /-- classes whose lintel has started before the coming close -/
  lint  : List (Fin 4) := []
  /-- classes closed at a close whose late work is unfinished, and the close -/
  ovr  : Option (List (Fin 4) × Nat) := none
  /-- an overrun has moved the schedule in the gate cycle in force: catch-up waits for the next one (R119) -/
  hold : Bool := false
  /-- a re-anchor: the entry in force runs out, and then every class is open until the restart (R120) -/
  anchor : Bool := false
  rsync : Bool := false
  /-- the re-anchored list with its start (R120) -/
  again : Option GList := none
  late  : List Late := []
  deriving DecidableEq, Repr

/-- A line on its way to a home. `fresh` lines are plaintext zero; `uncor` is an uncorrectable outcome (R250). -/
structure JData where
  id    : Nat
  line  : Nat
  data  : Line
  poison : Bool
  uncor : Bool
  fresh : Bool
  deriving DecidableEq, Repr

/-- Where a home request stands. -/
inductive HPh where
  /-- waits for its lookup -/
  | look
  /-- waits for footing bytes -/
  | ftg
  /-- snoops outstanding -/
  | snoop
  /-- waits for memory data -/
  | mem
  /-- waits for the partner: mirror acknowledgement or mirror read data -/
  | peer
  deriving DecidableEq, Repr

/-- A granted request in the home request queue (R139, R141). -/
structure HReq where
  rid    : Nat
  port   : PortId
  kind   : ReqKind
  crs    : CourseId
  /-- course-local line index -/
  line   : Nat
  addr   : BitVec 64
  cls    : Fin 4
  key    : BitVec 10
  tag    : BitVec 16
  data   : Line
  poison : Bool
  ph     : HPh
  /-- earliest lookup: the end of stage 2 (R132) -/
  dueAt  : Nat
  orphan : Bool
  /-- outstanding snoops and when each was sent -/
  snps   : List (PortId × Nat)
  /-- modified data a snoop returned -/
  snpData : Option Line
  /-- the footing byte acted on -/
  byte   : Byte
  /-- grant state of the response: 0 none, 1 S, 2 E -/
  grant  : Nat
  /-- its number on the course; it still holds the course entry its grant took (R90); a transfer of it has been sent to the course; it waits for a
  read entry -/
  mid    : Nat
  ent    : Bool
  sent   : Bool
  need   : Bool
  /-- what a speculative read returned (R133) -/
  spec   : Option JData
  holdCnt : Bool
  evCnt : Bool
  pinCnt : Bool
  mirror : Bool
  deriving DecidableEq, Repr

/-- A hold window (R137). -/
structure HoldW where
  crs  : CourseId
  line : Nat
  port : PortId
  endAt : Nat
  deriving DecidableEq, Repr

/-- A footing write buffer entry (R142). -/
structure Fwb where
  crs   : CourseId
  /-- footing line index, course-local -/
  ftg   : Nat
  mask  : BitVec 64
  data  : Line
  /-- 0 waiting, 1 footing read sent, 2 footing bytes returned -/
  drain : Nat
  rd    : Line
  deriving DecidableEq, Repr

/-- A directory cache entry (R131). -/
structure DirEnt where
  tag   : Nat
  bytes : Vector Byte 4
  dirty : Bool
  /-- its footing bytes have not arrived yet -/
  pend  : Bool
  deriving DecidableEq, Repr

/-- A message of the writeback channel: a writeback waiting to merge (R125, R136), or a snoop answer behind its port's writeback of the line. -/
structure WbMsg where
  ans  : Option SnpAns
  port : PortId
  kind : WbKind
  addr : BitVec 64
  data : Line
  key  : BitVec 10
  poison : Bool
  at_  : Nat
  deriving DecidableEq, Repr

/-- A course read that returns a footing line (R132, R133, R142). -/
structure FtgRd where
  id   : Nat
  crs  : CourseId
  ftg  : Nat
  /-- home request that needs it, or 0 for a drain -/
  rid  : Nat
  /-- bytes, once they have left the course -/
  got  : Option (Line × Bool)
  deriving DecidableEq, Repr

/-- A request on its way to a course (R145). -/
structure JReq where
  id    : Nat
  write : Bool
  line  : Nat
  data  : Line
  poison : Bool
  /-- requesting port, 24 for internal work (R353) -/
  port  : Nat
  /-- uses an entry reserved for writebacks -/
  wb    : Bool
  /-- a footing line -/
  ftg   : Bool
  deriving DecidableEq, Repr

/-- One home. -/
structure HomeSt where
  /-- local package time less the Timebase's, in ns -/
  skew   : Int := 0
  rdFree : Vector Nat 8 := Vector.replicate 8 192
  wrFree : Vector Nat 8 := Vector.replicate 8 112
  wbFree : Vector Nat 8 := Vector.replicate 8 16
  bkt    : Tbl Bucket := []
  mark   : Tbl Marker := []
  sweepAt : Nat := 0
  /-- histograms: key ((port × 4 + class) × 2 + delay) × 16 + bin -/
  hist   : Tbl Word := []
  hmax   : Tbl Word := []
  /-- the instant of the last sample, and its values, which the next copy of a later cycle shows (R122) -/
  latAt  : Nat := 0
  latNew : List (Nat × Nat) := []
  gates  : Vector Gate 8 := Vector.replicate 8 {}
  dir    : Tbl DirEnt := []
  lru    : Tbl (BitVec 15) := []
  hrq    : List HReq := []
  holds  : List HoldW := []
  fwb    : List Fwb := []
  wbq    : List WbMsg := []
  /-- merged writebacks of lines whose footing bytes are not in the cache: applied when they come (R134) -/
  wbLate : List (CourseId × Nat × PortId × WbKind) := []
  /-- memory writes that wait for a reserved write-queue entry -/
  wrPend : List (CourseId × JReq) := []
  wbCred : Vector Nat 24 := Vector.replicate 24 16
  ftgs   : List FtgRd := []
  ridNext : Nat := 1
  /-- lines counted since the last bandwidth latch: key port × 4 + kind -/
  bw     : Tbl Word := []
  bwAt   : Nat := 0
  gated  : Bool := false
  deriving DecidableEq, Repr

/-- What the status and credit joint carries (R118, R145). -/
inductive JStat where
  | rd | wr | wb
  | served (id : Nat)
  deriving DecidableEq, Repr

/-- A clear on its way to a course (R271). -/
structure ClrReq where
  job  : Nat
  lo   : Nat
  hi   : Nat
  deriving DecidableEq, Repr

/-- A region clear in progress (R270): the command, the courses not yet at their clear points. -/
structure ClrJob where
  id   : Nat
  mbx  : MbxId
  seq  : Nat
  base : Nat
  size : Nat
  tookAt : Nat
  left : List Nat
  /-- waits for the partner as well (R371) -/
  peer : Bool
  deriving DecidableEq, Repr

/-- A message the block sends. -/
inductive OutMsg where
  /-- Data or poison to a port: tag, line address, data, poison, grant state (0 none, 1 S, 2 E), dirty flag, and the fabric's fresh indication
  of a zero line (R264). -/
  | data (p : PortId) (tag : BitVec 16) (addr : BitVec 64) (d : Line) (poison : Bool) (grant : Nat) (dirty fresh : Bool)
  | grantE (p : PortId) (tag : BitVec 16)
  | wrDone (p : PortId) (tag : BitVec 16) (poison : Bool)
  | wbAck (p : PortId) (addr : BitVec 64)
  | snoop (p : PortId) (addr : BitVec 64) (inv : Bool)
  | park (p : PortId)
  | credits
  | mirWrite (addr : BitVec 64) (d : Line) (poison : Bool) (lvl : Nat)
  | mirAck (addr : BitVec 64)
  | mirRead (addr : BitVec 64) (lvl : Nat)
  | mirData (addr : BitVec 64) (d : Option Line)
  | faultNotice (off : Nat) (lvl : Nat)
  | regionFresh (addr : BitVec 64) (lvl : Nat)
  | hello (lvl : Nat) (words : List Word)
  | peerClear (base size : Nat)
  | peerNotice (kind : Nat)
  deriving DecidableEq, Repr

/-- Everything of the ZMC outside its course islands. -/
structure Zmc where
  rg    : Regs := {}
  setu  : SetU := {}
  plumb : Plumb := {}
  bond  : Bond := {}
  mgt   : Mgt := {}
  keys  : Keys := {}
  dbg   : Dbg := {}
  boot  : Boot := {}
  pwr   : Pwr := {}
  therm : Therm := {}
  hod   : Hod := {}
  pair  : Pair := {}
  /-- package time at instant 0 in ns -/
  pkg0  : Nat := 0
  /-- the PORT_LIVE inputs (R84) -/
  pins  : Vector Bool 24 := Vector.replicate 24 false
  /-- effective liveness changes on their way: port, level, first FCK cycle (R85) -/
  liveAt : List (PortId × Bool × Nat) := []
  live  : Vector Bool 24 := Vector.replicate 24 false
  homes : Vector HomeSt 2 := Vector.replicate 2 {}
  bays  : Vector BaySt 8 := Vector.replicate 8 {}
  cinfo : Vector CInfo 16 := Vector.replicate 16 {}
  jreq  : Vector (List JReq) 16 := Vector.replicate 16 []
  jdat  : Vector (List JData) 16 := Vector.replicate 16 []
  jsts  : Vector (List JStat) 16 := Vector.replicate 16 []
  jclr  : Vector (List ClrReq) 16 := Vector.replicate 16 []
  clrs  : List ClrJob := []
  clrNext : Nat := 1
  out   : List OutMsg := []
  /-- data of the last configuration read -/
  bus   : BitVec 64 := 0
  deriving DecidableEq, Repr

/-! ## A course island (08 to 14) -/

/-- A DCK counter (R150, R222): the count, the accumulator, the ratio in force, and the LCK cycle up to which it has counted. Stamps are
counted without wrapping; registers and slots show the low 48 bits. -/
structure DckCnt where
  dck : Int := 0
  acc : Nat := 0
  num : Nat := 0
  den : Nat := 0
  cyc : Nat := 0
  deriving DecidableEq, Repr

/-- What a committed command serves. -/
inductive Src where
  | none
  /-- a read-queue entry, by its order number -/
  | rd (ord : Nat)
  /-- a write-queue entry, by its order number -/
  | wr (ord : Nat)
  /-- render engine `e`, offset `off` -/
  | render (e off : Nat)
  /-- a Pointing read; the tracker entry it serves, or none for a lap read -/
  | ptRd (line : Nat) (e : Option Nat)
  | ptWr
  /-- a refresh of target `i` -/
  | ref (i : Nat)
  /-- a training command; `chk` sends its burst to the DRAM checker -/
  | tcmd (chk : Bool)
  /-- the MR46 (0) or MR47 (1) read of a probe of target `i`, or another probe command (2) -/
  | probe (i k : Nat)
  deriving DecidableEq, Repr

/-- A command with its stamp (Tables 11-1, 11-2). -/
structure Cmd where
  op    : Nat
  sub   : Nat
  lr    : Nat
  bg    : Nat := 0
  bk    : Nat := 0
  arg   : Nat := 0
  stamp : Nat := 0
  epoch : Nat := 0
  /-- row the bank holds, for a column command -/
  row   : Nat := 0
  /-- a REF in fine granularity -/
  fg    : Bool := false
  src   : Src := .none
  /-- line symbols of a write -/
  data  : Option Code := Option.none
  /-- port its burst is credited to, 24 for internal work (R353) -/
  port  : Nat := 24
  /-- order of commitment -/
  ord   : Nat := 0
  deriving DecidableEq, Repr

/-- Where a queue entry stands. -/
inductive QPh where
  /-- held in a CLAIMED region or behind a clear (R269, R271) -/
  | held
  /-- waits for its chain -/
  | queued
  /-- its column command is committed at this stamp -/
  | committed (stamp : Nat)
  /-- a read whose line is in the read-data joint -/
  | back
  deriving DecidableEq, Repr

/-- DRAM coordinates of a line (Table 8-1). -/
structure Coord where
  sub : Nat
  lr  : Nat
  bg  : Nat
  bk  : Nat
  row : Nat
  col : Nat
  deriving DecidableEq, Repr

/-- A read-queue entry (R144, R145). -/
structure REnt where
  ent  : Nat
  ord  : Nat
  id   : Nat
  line : Nat
  at_  : Coord
  port : Nat
  ftg  : Bool
  /-- LCK cycle of its enqueue -/
  enq  : Nat
  ph   : QPh
  /-- dck_now at its enqueue, while it waits for a self-refresh exit (R183) -/
  wait : Option Nat
  /-- its served report has been sent -/
  srv  : Bool
  /-- selected again in tier 5 after a return overflow (R208) -/
  again : Bool := false
  deriving DecidableEq, Repr

/-- A write-queue entry; its number is its wtag. -/
structure WEnt where
  ent  : Nat
  ord  : Nat
  id   : Nat
  line : Nat
  at_  : Coord
  port : Nat
  /-- holds one of the 16 entries reserved for writebacks (R125) -/
  wb   : Bool
  ftg  : Bool
  code : Code
  /-- stored as a poison codeword (R247) -/
  psn  : Bool
  enq  : Nat
  /-- instant of its enqueue -/
  born : Nat
  ph   : QPh
  wait : Option Nat
  /-- pulled by a clear (R271) -/
  clr  : Bool
  deriving DecidableEq, Repr

/-- A bank slot at the end of the committed timeline (R153, R160). -/
structure BankSt where
  open_ : Option Nat := none
  act   : Nat := 0
  /-- stamps of the last precharge and of the last REF, and the end of the REF period -/
  pre   : Nat := 0
  ref   : Nat := 0
  busy  : Nat := 0
  pred  : Nat := 2
  last  : Option Nat := none
  lastCol : Nat := 0
  /-- orders of the column commands to the open row -/
  hits  : List Nat := []
  /-- youngest fence write of in-order mode, by order number (R162) -/
  fence : Option Nat := none
  deriving DecidableEq, Repr

/-- Kinds of planned downstream flits (R159). -/
inductive PKind where
  | cmd | wdata0 | wdata1
  deriving DecidableEq, Repr

/-- A planned downstream flit. -/
structure PFlit where
  cyc  : Nat
  kind : PKind
  tag  : Nat := 0
  code : Code := 0
  /-- room for at most four commands (R198) -/
  four : Bool := false
  cmds : List Cmd := []
  deriving DecidableEq, Repr

/-- A refresh target (R168 to R175). -/
structure RTgt where
  /-- accrual in quarter ns -/
  e     : Nat := 0
  owed  : Nat := 0
  /-- LCK cycles at which emergencies were raised and not yet committed -/
  em    : List Nat := []
  catch_ : Bool := false
  /-- tick count at which the catch-up timer expires -/
  timer : Nat := 0
  /-- bank indices refreshed in the REFsb set in progress (R172) -/
  mask  : Nat := 0
  /-- tick count at which the pallet last rose from empty -/
  since : Nat := 0
  /-- of `em`, how many youngest ones a self-refresh entry raised (Table 9-4) -/
  quie  : Nat := 0
  deriving DecidableEq, Repr

/-- A physical rank as the refresh logic sees it (R176, R177). -/
structure RankSt where
  /-- hot in force, and hot by the reports alone -/
  hot   : Bool := false
  nat   : Bool := false
  /-- what the reports since the last tick ask for: hot, or not hot -/
  rep   : Option Bool := none
  temp  : Byte := 0x80
  /-- last arrival, and treated as stale -/
  repAt : Nat := 0
  stale : Bool := false
  deriving DecidableEq, Repr

/-- Self-refresh state (Table 9-4). -/
structure SrSt where
  /-- 0 AWAKE, 1 QUIESCE, 2 SRE_SENT, 3 IN_SR, 4 ASLEEP, 5 EXITING -/
  st    : Nat := 0
  /-- largest SRE stamp -/
  sre   : Nat := 0
  /-- largest SRX stamp of each subchannel, once committed -/
  srx   : Vector (Option Nat) 2 := Vector.replicate 2 none
  /-- instant of the last demand request, or of the course coming into use -/
  demand : Nat := 0
  deriving DecidableEq, Repr

/-- Payload of a link flit: its type, body or payload bits, and the sc and rstamp of RDATA. -/
structure Body where
  ftype : Nat
  body  : BitVec 640
  sc    : Nat := 0
  rst   : Nat := 0
  deriving DecidableEq, Repr

/-- A sequenced flit in a replay buffer (R203). -/
structure SFlit where
  seq  : Nat
  body : Body
  /-- LCK cycle in which it was last sent -/
  at_  : Nat
  deriving DecidableEq, Repr

/-- One end of a link: its sender and its receiver (R203 to R205). -/
structure LEnd where
  next : Nat := 0
  buf  : List SFlit := []
  /-- sequenced flits of the buffer still to send again -/
  rep  : Nat := 0
  e    : Nat := 0
  nak  : Bool := false
  nakAt : Nat := 0
  nakDue : Bool := false
  deriving DecidableEq, Repr

/-- The scramblers of one direction at one end (R192), by lane in use. -/
abbrev Scr := List (BitVec 31)

/-- A maintenance request (R215). -/
structure MntReq where
  mop  : Nat
  tag  : Nat
  addr : Nat
  data : Word
  be   : Nat
  deriving DecidableEq, Repr

/-- The course's maintenance unit. -/
structure Mnt where
  st   : Nat := 0
  tag  : Nat := 0
  at_  : Nat := 0
  /-- the request not yet sent, and the LCK cycle since which it waits -/
  req  : Option (MntReq × Nat) := none
  deriving DecidableEq, Repr

/-- The course side of a link (Table 10-11). -/
structure CLink where
  st    : Nat := 0
  /-- lane group in use (R188) -/
  sel   : Nat := 0
  stop  : Bool := false
  /-- WAKE comes from DOWN or FAILED, not ASLEEP -/
  fromDown : Bool := true
  since : Nat := 0
  tries : Nat := 0
  /-- a SET has changed mode_req or lane_sel (R209) -/
  rate  : Bool := false
  /-- a SET has changed the ratio (R151) -/
  armed : Bool := false
  ends  : LEnd := {}
  /-- instants of the replays of the last 10 µs (R206) -/
  replays : List Nat := []
  safe  : Bool := false
  /-- rtt_lck as last latched, and the link mode of that exchange -/
  rtt   : Nat := 0
  rttMode : Nat := 0
  scrTx : Scr := []
  scrRx : Scr := []
  /-- flits on the downstream and upstream lanes as PAM4 levels, two bits a UI in the codeword's order (R191), oldest first -/
  dn    : List DnBits := []
  up    : List UpBits := []
  /-- the last ALIGN with cnt 0 that each end sent (R214) -/
  alDn  : DnBits := 0
  alUp  : UpBits := 0
  /-- accepted RDATA: subchannel, rstamp, symbols -/
  rdata : List (Nat × Nat × Code) := []
  /-- accepted records, oldest first -/
  recs  : List (BitVec 80) := []
  mnt   : Mnt := {}
  slept : Bool := false
  /-- a SLEEP is still to be sent -/
  slp   : Bool := false
  lock  : Nat := 0
  /-- good ALIGN flits received in a row in the present exchange (R209) -/
  alGood : Nat := 0
  /-- target mode and lane group that Potrie applies once a wake is done (R286) -/
  goal  : Option (Nat × Nat) := none
  /-- in RATE, the instant at which the new mode came into force -/
  newAt : Option Nat := none
  /-- IDLE flits still to send after a SLEEP_ACK, and the counts their headers carry (Table 10-11) -/
  idles : Nat := 0
  idleEnds : LEnd := {}
  deriving DecidableEq, Repr

/-- The rebuild of one subchannel (R229). -/
structure Rebuild where
  on    : Bool := false
  set   : List Cmd := []
  /-- no rebuilt command takes a lower stamp -/
  floor : Nat := 0
  /-- logical ranks that still need an SRX first (R234) -/
  srx   : List Nat := []
  /-- after a safe return (R234): 1 waits for the Corbel's acknowledgement, 2 has it and waits for the other subchannel's -/
  wait  : Nat := 0
  /-- acknowledgements of the subchannel on their way before the one of the safe return -/
  skip  : Nat := 0
  deriving DecidableEq, Repr

/-- A render engine (R265, R267). -/
structure Render where
  region : Nat
  pos    : Nat := 0
  /-- order number of its start -/
  start  : Nat
  /-- offsets at or above `pos` written by requests -/
  bits   : List Nat := []
  deriving DecidableEq, Repr

/-- A clear in progress at the course (R271). -/
structure ClrSt where
  job  : Nat
  lo   : Nat
  hi   : Nat
  /-- entries with a lower order number were enqueued before it -/
  ord  : Nat
  deriving DecidableEq, Repr

/-- A rewrite of the Pointing engine (R253). -/
structure PtRw where
  line : Nat
  code : Code
  e    : Option Nat
  /-- a demand or render write, or a clear, has come in between -/
  drop : Bool
  ord  : Nat
  deriving DecidableEq, Repr

/-- The Pointing engine (R251 to R255). -/
structure Pointing where
  pos   : Nat := 0
  /-- time run in the present lap, and since when it runs again -/
  ran   : Nat := 0
  from_ : Option Nat := none
  evts  : Nat := 0
  ovr  : Bool := false
  last  : Nat := 0
  lastAt : Option Nat := none
  /-- outstanding reads: line, tracker entry, dropped-rewrite flag -/
  out   : List (Nat × Option Nat × Bool) := []
  rw    : List PtRw := []
  deriving DecidableEq, Repr

/-- A repeat-tracker entry (Table 12-13); state 0 FREE, 1 COUNTING, 2 QUEUED, 3 WATCH, 4 HARD. -/
structure Rpt where
  st    : Nat := 0
  line  : Nat := 0
  count : Nat := 0
  devs  : Nat := 0
  syms  : Nat := 0
  /-- instant of the last state change and of the last correction -/
  since : Nat := 0
  corr  : Nat := 0
  /-- order of allocation -/
  ord   : Nat := 0
  /-- order of entering QUEUED -/
  qord  : Nat := 0
  /-- what the HARD event carried, until Potrie handles it -/
  evt   : Option (List Word) := none
  deriving DecidableEq, Repr

/-- A command in the TCMD FIFO (R292). -/
structure Tcmd where
  op : Nat
  sub : Nat
  lr : Nat
  bg : Nat
  bk : Nat
  arg : Nat
  urgent : Bool
  ord : Nat
  deriving DecidableEq, Repr

/-- A probe in progress (R297): target, subchannel, logical rank, end stamp, and that an alert came between. -/
structure Probe where
  i    : Nat
  endAt : Nat
  bad  : Bool
  done : Bool
  deriving DecidableEq, Repr

/-- Training state of a course (R284, R287, R293, R297). -/
structure Train where
  fifo  : List Tcmd := []
  lfsr  : BitVec 16 := 0
  left  : Nat := 0
  dwell : Nat := 0
  probes : List Probe := []
  /-- the LCK cycle of the last arming with the targets armed in it, and armed targets whose subchannel has seen an alert since (R297, R298) -/
  armAt : Nat × List Nat := (0, [])
  armBad : List Nat := []
  /-- oscillator baselines by refresh target and device (R298) -/
  base  : Tbl Nat := []
  /-- bits over the limit on consecutive probes, by target and DQ -/
  badQ  : Tbl Nat := []
  /-- lanes over the limit in consecutive dwells, by direction and lane (R299) -/
  badL  : Tbl Nat := []
  /-- the Corbel words that Potrie restores after a wake from DOWN (R286) -/
  saved : Tbl Word := []
  deriving DecidableEq, Repr

/-- An hPPR in progress (R261): its offer, the line and the device, the 128 lines in Mason RAM once they are read (index, data, poison), and the
maintenance commands still to be committed, with the stamp of the last one that was. -/
structure Ppr where
  id    : Nat
  line  : Nat
  dev   : Nat
  /-- carried out at once under the repair policy, no mailbox command -/
  auto  : Bool
  saved : Option (List (Nat × Line × Bool))
  cmds  : List Tcmd
  last  : Nat
  deriving DecidableEq, Repr

/-- A burst at the Corbel. -/
structure Burst where
  sub   : Nat
  lr    : Nat
  stamp : Nat
  code  : Code
  /-- LCK cycle from which it may be sent (R202) -/
  due   : Nat := 0
  deriving DecidableEq, Repr

/-- A Corbel record waiting to be sent: its bits and since when. -/
structure RecQ where
  bits : BitVec 80
  at_  : Nat
  deriving DecidableEq, Repr

/-- The Corbel of a course with its DRAM (11_corbel_command_stream.md). -/
structure Corbel where
  reg   : Tbl Word := []
  /-- delays in force, where they differ from the staged values of `reg` (R290) -/
  act   : Tbl Word := []
  pend  : Vector Nat 2 := Vector.replicate 2 0
  dck   : DckCnt := {}
  ends  : LEnd := {}
  scrTx : Scr := []
  scrRx : Scr := []
  /-- the Corbel has no live link -/
  down  : Bool := true
  hold  : Vector (List Cmd) 2 := Vector.replicate 2 []
  /-- issued commands of the last 8,192 DCK and PREab commands to come, for R227 -/
  iss   : Vector (List Cmd) 2 := Vector.replicate 2 []
  /-- issued and not yet confirmed (R224) -/
  unconf : Vector (List Cmd) 2 := Vector.replicate 2 []
  epoch : Vector Nat 2 := Vector.replicate 2 0
  /-- conf_stamp, the last one reported, and the LCK cycle of the oldest advance not reported, by subchannel × 4 + epoch (R224) -/
  conf  : Tbl Nat := []
  acked : Tbl Nat := []
  advAt : Tbl Nat := []
  wbuf  : Tbl Code := []
  /-- tag and symbols of a WDATA0 whose WDATA1 comes next -/
  half  : Option (Nat × Code) := none
  /-- reads issued whose bursts are not captured yet -/
  reads : List Burst := []
  retq  : List Burst := []
  recs  : List RecQ := []
  maint : List MntReq := []
  /-- SLEEP accepted and not answered, and SLEEP_ACK sent (R210) -/
  sleepRx : Bool := false
  asleep : Bool := false
  /-- LCK cycle of the last flit sent -/
  sentAt : Option Nat := none
  /-- link status counts since the last record (R201) -/
  fec   : Nat := 0
  bad   : Nat := 0
  naks  : Nat := 0
  proto : Nat := 0
  statAt : Nat := 0
  goodAt : Nat := 0
  /-- good ALIGN flits received in a row in the present exchange (R209) -/
  alGood : Nat := 0
  /-- downstream lanes that have lost lock (R206) -/
  lost  : Nat := 0
  safe  : Bool := false
  temps : Vector (Option (BitVec 8)) 4 := Vector.replicate 4 none
  tempAt : Vector Nat 4 := Vector.replicate 4 0
  dwell : Nat := 0
  /-- DQ feedback to be sampled: subchannel, sampling point in DCK, levels (R291) -/
  tfbq  : List (Nat × Nat × BitVec 40) := []
  /-- DRAM RESET_n has been released (R333) -/
  rstn  : Bool := false
  /-- open rows, self-refresh ranks and mode registers of the DRAM, and its lines by coordinates -/
  rows  : Tbl Nat := []
  inSr  : List (Nat × Nat) := []
  mr    : Tbl (BitVec 8) := []
  dram  : Tbl Code := []
  /-- lines of rows from here on that `dram` does not list hold zeros (R129, R335); above every row: none do -/
  zeroRow : Nat := 2 ^ 18
  deriving DecidableEq, Repr

/-- A course island with the Corbel its link leads to. -/
structure CourseSt where
  dck   : DckCnt := {}
  /-- next order number of enqueues and commitments -/
  ord   : Nat := 1
  rdq   : List REnt := []
  wrq   : List WEnt := []
  banks : Tbl BankSt := []
  /-- committed commands of the calendar (R156), by subchannel; op 16 is an internal precharge -/
  cal   : Vector (List Cmd) 2 := Vector.replicate 2 []
  plan  : List PFlit := []
  /-- last LCK cycle in which a flit was sent, and in which each subchannel committed a request or another chain -/
  sentAt : Option Nat := none
  reqAt : Vector (Option Nat) 2 := Vector.replicate 2 none
  othAt : Vector (Option Nat) 2 := Vector.replicate 2 none
  /-- last LCK cycle counted with a full retry buffer (R225) -/
  fullAt : Vector (Option Nat) 2 := Vector.replicate 2 none
  modeAt : Option Nat := none
  /-- 0 read, 1 idle drain, 2 forced drain (Table 8-9) -/
  mode  : Nat := 0
  /-- ranks in power-down: subchannel, physical rank (R166) -/
  pd    : List (Nat × Nat) := []
  /-- last stamp of a command of a rank, by 4 × subchannel + physical rank (R166) -/
  lastCmd : Tbl Nat := []
  /-- probe commands whose stamps are taken and lie beyond the calendar's span (R156, R297) -/
  later : List Cmd := []
  /-- emergency precharges not yet reached: order number, stamp, open rows they close (R165) -/
  preRows : List (Nat × Nat × Nat) := []
  /-- wtags of borrowed or rebuilt writes and the stamps that free them (R230, R268) -/
  tags  : Tbl Nat := []
  tgts  : Vector RTgt 16 := Vector.replicate 16 {}
  /-- sequence number of the last tick, and ticks counted -/
  tickSeq : Option (BitVec 16) := none
  ticks : Nat := 0
  ranks : Vector RankSt 4 := Vector.replicate 4 {}
  sr    : SrSt := {}
  lk    : CLink := {}
  retry : Vector (List Cmd) 2 := Vector.replicate 2 []
  epoch : Vector Nat 2 := Vector.replicate 2 0
  rb    : Vector Rebuild 2 := Vector.replicate 2 {}
  /-- reads outstanding at the Corbel (R200) -/
  outRd : List Cmd := []
  /-- reads without a queue entry to select again after a return overflow (R208) -/
  redo  : List Cmd := []
  fm    : FreshMap := {}
  eng   : Vector (Option Render) 4 := Vector.replicate 4 none
  /-- stamps of committed render writes, with their engine -/
  engOut : List (Nat × Nat) := []
  claims : List Nat := []
  clrs  : List ClrSt := []
  pt    : Pointing := {}
  rpt   : Vector Rpt 64 := Vector.replicate 64 {}
  tr    : Train := {}
  /-- hPPRs of the course; the first one holds its bank (R261) -/
  ppr   : List Ppr := []
  /-- next DQ slot of each subchannel to classify (R352) -/
  saPos : Vector Nat 2 := Vector.replicate 2 0
  /-- queues have been empty for 1 µs (R319), and since when they are empty -/
  idle  : Bool := false
  emptyAt : Nat := 0
  cb    : Corbel := {}
  deriving DecidableEq, Repr

/-! ## The whole block -/

/-- Everything a command acts on besides the queue of commands and the fuses. -/
structure Sys where
  /-- the latest instant at which a command has taken place -/
  now  : Nat := 0
  /-- how many free values have been drawn (log entry 5) -/
  free : Nat := 0
  z    : Zmc := {}
  crs  : Vector CourseSt 16 := Vector.replicate 16 {}
  deriving DecidableEq, Repr

/-- The state of the block. -/
structure State where
  pending : List Instr := []
  fuse    : Fuse := {}
  sys     : Sys := {}
  deriving DecidableEq, Repr

/-- The block right after reset: every register at its reset word, nothing queued, phase 0 of bring-up. -/
def State.reset : State := {}

end Sys2Proof.Machine
end

