-- ==== Sys2Proof/Machine/Ops.lean ====
section
/-! DEFINITION. The shared operations over registers, events and the audit log: reading and updating a word, counting (CNT), posting
(STS), event-queue and audit entries. -/

namespace Sys2Proof.Machine

/-- Change one element of a vector. -/
def modV {α : Type} {n : Nat} (v : Vector α n) (i : Fin n) (f : α → α) : Vector α n := v.set i.val (f v[i]) i.isLt

/-- A number as an index, 0 when it is out of range. -/
def toFin (n : Nat) (h : 0 < n) (i : Nat) : Fin n := if hi : i < n then ⟨i, hi⟩ else ⟨0, h⟩

/-- A course number. -/
def toCrs (i : Nat) : CourseId := toFin 16 (by decide) i
/-- A home number. -/
def toHome (i : Nat) : HomeId := toFin 2 (by decide) i
/-- A port number. -/
def toPort (i : Nat) : PortId := toFin 24 (by decide) i
/-- A mailbox number. -/
def toMbx (i : Nat) : MbxId := toFin 6 (by decide) i
/-- A bay number. -/
def toBay (i : Nat) : BayId := toFin 8 (by decide) i

/-- Courses present in a fused variant (Table 0-2). -/
def present (variant : Nat) (c : Nat) : Bool :=
  if variant = 16 then decide (c < 16) else if variant = 12 then decide (c % 8 < 6 ∧ c < 16) else decide (c % 8 < 4 ∧ c < 16)

/-- The course is present and its island is powered: fence_cause 1 powers it off (R330). -/
def powered (z : Zmc) (c : CourseId) : Bool := present z.boot.variant c && z.cinfo[c].fence != 1

/-- The course is present and not fenced. -/
def liveCrs (z : Zmc) (c : CourseId) : Bool := present z.boot.variant c && z.cinfo[c].fence == 0

/-- LCK period of a link mode (Table 0-4): halved by half width and by half rate -/
def lckOf (mode : Nat) : Nat := if mode = 0 then 75 else if mode = 3 then 300 else 150

/-- The clock period of an island. -/
def islTu (z : Zmc) (i : Nat) : Nat :=
  if i < 16 then lckOf z.cinfo[toCrs i].mode
  else if i < 18 then tuFck
  else if i = 18 then tuMck
  else if i = 20 then tuTck
  else if i = 21 then tuSec
  else if i = 22 then tuDbg
  else if i = 23 then tuBist
  else tuSck

/-- The cycle of an island's clock at an instant. -/
def islCyc (z : Zmc) (i now : Nat) : Nat := now / islTu z i

/-- Package time in ns, as the Timebase holds it. -/
def pkgNs (z : Zmc) (now : Nat) : Nat := (z.pkg0 + now / tuPerNs) % 2 ^ 64

/-- Package time as 64 bits. -/
def pkgTime (z : Zmc) (now : Nat) : BitVec 64 := BitVec.ofNat 64 (pkgNs z now)

/-- The word stored at a window offset. -/
def wordAt (z : Zmc) (off : Nat) : Word :=
  match tblFind z.rg.reg off with
  | some v => v
  | none => rstWord off

/-- Store a word. -/
def putWord (z : Zmc) (off : Nat) (v : Word) : Zmc := { z with rg := { z.rg with reg := tblPut z.rg.reg off v } }

/-- Bits [hi:lo] of a word. -/
def bitsOf (w : Word) (hi lo : Nat) : Nat := (w.toNat >>> lo) % 2 ^ (hi + 1 - lo)

/-- A word with bits [hi:lo] replaced. -/
def setBits (w : Word) (hi lo v : Nat) : Word :=
  let m := BitVec.ofNat 32 (2 ^ (hi + 1 - lo) - 1) <<< lo
  (w &&& ~~~m) ||| ((BitVec.ofNat 32 v <<< lo) &&& m)

/-- A field of the stored word. -/
def getF (z : Zmc) (off hi lo : Nat) : Nat := bitsOf (wordAt z off) hi lo

/-- Drive a field. -/
def setF (z : Zmc) (off hi lo v : Nat) : Zmc := putWord z off (setBits (wordAt z off) hi lo v)

/-- A 64-bit value in two words. -/
def getWide (z : Zmc) (off : Nat) : BitVec 64 := wordAt z (off + 4) ++ wordAt z off

/-- Drive a 64-bit value. -/
def putWide (z : Zmc) (off : Nat) (v : BitVec 64) : Zmc :=
  putWord (putWord z off (v.extractLsb' 0 32)) (off + 4) (v.extractLsb' 32 32)

/-- Log a hardware update of a word for R44; only the latest cycles matter. -/
def logHw (z : Zmc) (now off : Nat) : Zmc :=
  let cyc := islCyc z (ownerOf off) now
  if z.rg.hw.any (fun u => u.off == off && u.cyc == cyc) then z
  else { z with rg := { z.rg with hw := ⟨off, cyc, wordAt z off⟩ :: z.rg.hw.filter (fun u => u.cyc == islCyc z (ownerOf u.off) now) } }

/-- A software write of this word in the owner's present cycle (R44). -/
def swHit (z : Zmc) (now off : Nat) : Bool := z.rg.sw.any (fun u => u.off == off && u.cyc == islCyc z (ownerOf off) now)

/-- The event bits that software writes of this word have cleared in the owner's present cycle. -/
def swCleared (z : Zmc) (now off : Nat) : Word :=
  (z.rg.sw.filter (fun u => u.off == off && u.cyc == islCyc z (ownerOf off) now)).foldl (fun a u => a ||| u.clr) 0

/-- Log a software write of a word for R44. -/
def logSw (z : Zmc) (now off : Nat) (clr : Word) : Zmc :=
  { z with rg := { z.rg with sw := ⟨off, islCyc z (ownerOf off) now, clr⟩ :: z.rg.sw.filter (fun u => u.cyc == islCyc z (ownerOf u.off) now) } }

/-- Post events: set the bits `m` of an STS word and increment its seq (R33); a software clear in the same cycle is void (R44). -/
def postBits (z : Zmc) (now off : Nat) (m : Word) : Zmc :=
  let z := logHw z now off
  let w := wordAt z off ||| swCleared z now off
  putWord z off ((w ||| m) + 0x01000000#32)

/-- Post one event bit. -/
def post (z : Zmc) (now off bit : Nat) : Zmc := postBits z now off (1#32 <<< bit)

/-- Block base of a window offset. -/
def blkBase (off : Nat) : Nat := match blockOf off with | none => 0 | some (_, _, b) => b

/-- A CNT field of the block has lost an increment (R45). -/
def cntLost (z : Zmc) (now off : Nat) : Zmc := post z now (blkBase off + 8) 0

/-- The counter group of an island: base and number (R340). -/
def ctrBase (i : Nat) : Nat :=
  if i < 16 then crsBase i + 0x3000 else if i < 18 then homeBase (i - 16) + 0x3800 else hodBase + 0x1000 + (i - 18) * 0x100
/-- Counters in the group. -/
def ctrNum (i : Nat) : Nat := if i < 16 then 16 else if i < 18 then 32 else 8

/-- Post ovf_k of a group (bit k of its STS register) . -/
def ctrSts (z : Zmc) (now i k bit : Nat) : Zmc := post z now (ctrBase i + 16 * ctrNum i + 8 * (k / 16)) bit

/-- Add to a 48-bit value whose low word is at `off`; answers the wraps. -/
def add48 (z : Zmc) (now off n : Nat) : Zmc × Nat :=
  let z := logHw (logHw z now off) now (off + 4)
  let v := (wordAt z (off + 4)).toNat % 2 ^ 16 * 2 ^ 32 + (wordAt z off).toNat + n
  (putWord (putWord z off (BitVec.ofNat 32 v)) (off + 4) (BitVec.ofNat 32 (v / 2 ^ 32 % 2 ^ 16)), v / 2 ^ 48)

/-- A software write of either word of a 48-bit value in the owner's present cycle. -/
def swHit48 (z : Zmc) (now off : Nat) : Bool := swHit z now off || swHit z now (off + 4)

/-- `w` carries reach odd counter `k` (R343, R344). -/
def ctrCarry (z : Zmc) (now i k w : Nat) : Zmc :=
  let ctl := ctrBase i + 16 * k
  let j := k / 2
  if swHit z now ctl then ctrSts z now i k (16 + j % 8)
  else if getF z ctl 1 0 ≠ 3 then z
  else if swHit48 z now (ctl + 8) then ctrSts (cntLost z now ctl) now i k (16 + j % 8)
  else
    let (z, wraps) := add48 z now (ctl + 8) w
    if wraps = 0 then z else ctrSts z now i k (k % 16)

/-- General counter `k` of island `i` adds `n` (R340 to R344). -/
def ctrAdd (z : Zmc) (now i k n : Nat) : Zmc :=
  let ctl := ctrBase i + 16 * k
  if z.hod.frozen then z
  else if swHit48 z now (ctl + 8) then cntLost z now ctl
  else
    let (z, wraps) := add48 z now (ctl + 8) n
    if wraps = 0 then z
    else
      let z := ctrSts z now i k (k % 16)
      if k % 2 = 0 then ctrCarry z now i (k + 1) wraps else z

/-- The register block whose CNT fields an island's counters select (R341). -/
def islBlock (i : Nat) : Nat :=
  if i < 16 then crsBase i
  else if i < 18 then homeBase (i - 16)
  else if i = 18 then mbxBase
  else if i < 21 then zmcBase
  else if i < 24 then secBase
  else hodBase

/-- Every counter of island `i` in mode 1 that selects the CNT field of `off` at bit `lo` adds `n` (R341). -/
def edgeCtrs (z : Zmc) (now i off lo n : Nat) : Zmc :=
  if (lo ≠ 0 ∧ lo ≠ 16) ∨ blkBase off ≠ islBlock i then z
  else (List.range (ctrNum i)).foldl (fun z k =>
    let c := wordAt z (ctrBase i + 16 * k)
    if bitsOf c 1 0 = 1 ∧ bitsOf c 16 3 * 4 = off - blkBase off ∧ bitsOf c 17 17 = lo / 16 then ctrAdd z now i k n else z) z

/-- The CNT field of a word at bit `lo`. -/
def cntFld (off lo : Nat) : Option Fld :=
  match regDef off with
  | none => none
  | some d => d.flds.find? (fun f => f.lo == lo && f.cls == .cnt)

/-- Count `n` events in a CNT field: it wraps, or saturates where its description says so; an increment that meets a software write of
the word in the same cycle is lost (R28, R44); general counters in edge mode count the event all the same (R341). -/
def bumpN (z : Zmc) (now off lo n : Nat) : Zmc :=
  let z1 :=
    match cntFld off lo with
    | none => z
    | some f =>
        if swHit z now off then cntLost z now off
        else
          let z := logHw z now off
          let w := f.hi + 1 - f.lo
          let v := getF z off f.hi f.lo + n
          setF z off f.hi f.lo (if f.flag then min v (2 ^ w - 1) else v % 2 ^ w)
  edgeCtrs z1 now (ownerOf off) off lo n

/-- Count one event in the field at bit 0. -/
def bump (z : Zmc) (now off : Nat) : Zmc := bumpN z now off 0 1

/-- Count `n` in a 48-bit CNT value (Table 17-9); frozen counters discard (R346). -/
def bump48 (z : Zmc) (now off n : Nat) : Zmc :=
  if z.hod.frozen then z
  else
    let z1 := if swHit48 z now off then cntLost z now off else (add48 z now off n).1
    edgeCtrs z1 now (ownerOf off) off 0 n

/-- The transfer discarded by a joint into a dead island is counted in the sender's counter (R15). -/
def jDiscard (z : Zmc) (now island : Nat) : Zmc := bump z now (zmcBase + 0x0300 + 4 * island)

/-- The four detail words of an event. -/
def detail (d : List Word) : List Word := (d ++ [0, 0, 0, 0]).take 4

/-- Completion detail (Table 4-8): mailbox, seq and status in word 4, then word 5. -/
def complD (m : MbxId) (seq status : Nat) (w5 : Word) : List Word :=
  [BitVec.ofNat 32 (m.val + seq % 65536 * 256 + status * 16777216), w5]

/-- Format C detail (Table 18-2). -/
def fmtC (id v : Nat) (w5 w6 : Nat) : List Word := [BitVec.ofNat 32 (id % 256 + v % 256 * 256), BitVec.ofNat 32 w5, BitVec.ofNat 32 w6]

/-- Format B detail: port, other port (31 for none), system address. -/
def fmtB (p other : Nat) (addr : BitVec 64) : List Word :=
  [BitVec.ofNat 32 (p + other * 256), addr.extractLsb' 0 32, addr.extractLsb' 32 32]

/-- Words 1 to 7 of an event (Table 4-8); `course` is 255 when it is not course-specific. -/
def evWords (z : Zmc) (now code island course : Nat) (d : List Word) : List Word :=
  let t := pkgTime z now
  [BitVec.ofNat 32 (code + island * 65536 + course * 16777216), t.extractLsb' 0 32, t.extractLsb' 32 32] ++ detail d

/-- The next event takes the next evt_seq and its entry of the ring (R77). -/
def evPut (m : Mgt) (ws : List Word) : Mgt :=
  let e := m.evtNext
  { m with evq := tblPut m.evq (e.toNat % 256) (e :: ws), evtNext := if e = 0xFFFFFFFF#32 then 1#32 else e + 1 }

/-- A hardware event (R77): it takes a lower evt_seq than the events Potrie has posted in the same SCK cycle. -/
def evPost (z : Zmc) (now code island course : Nat) (d : List Word) : Zmc :=
  let m := z.mgt
  let ws := evWords z now code island course d
  if m.potCyc = now / tuSck ∧ m.potEvs ≠ [] then
    let m1 := evPut { m with evtNext := m.potSeq } ws
    { z with mgt := m.potEvs.foldl evPut { m1 with potSeq := m1.evtNext } }
  else { z with mgt := evPut m ws }

/-- An event Potrie posts now. -/
def potPut (z : Zmc) (now code island course : Nat) (d : List Word) : Zmc :=
  let m := z.mgt
  let ws := evWords z now code island course d
  let m := if m.potCyc = now / tuSck ∧ m.potEvs ≠ [] then { m with potEvs := m.potEvs ++ [ws] } else { m with potCyc := now / tuSck, potSeq := m.evtNext, potEvs := [ws] }
  { z with mgt := evPut m ws }

/-- Potrie runs and is not inside an activation window (R81, R83). -/
def potrieOn (z : Zmc) : Bool := z.mgt.up && z.mgt.act.isNone

/-- An event of Potrie: it waits while Potrie does not run (R77). -/
def potPost (z : Zmc) (now code island course : Nat) (d : List Word) : Zmc :=
  if potrieOn z then potPut z now code island course d
  else { z with mgt := { z.mgt with wait := z.mgt.wait ++ [⟨code, island, course, d⟩] } }

/-- Words 0 to 6 of an audit entry (Table 4-10). -/
def audWords (seq : Word) (r : AudRec) : List Word :=
  [ seq, BitVec.ofNat 32 r.time, BitVec.ofNat 32 (r.time / 2 ^ 32)
  , BitVec.ofNat 32 (r.op % 65536 + r.orig % 8 * 65536 + r.src % 8 * 524288 + r.res % 256 * 16777216)
  , BitVec.ofNat 32 (r.tgt % 2 ^ 25 + r.kind * 2 ^ 25), r.old, r.new ]

/-- Write one audit entry (R79): the chain is the digest of the previous chain and the entry's bytes 0 to 27. -/
def audWrite (z : Zmc) (r : AudRec) : Zmc :=
  let m := z.mgt
  let ws := audWords m.audNext r
  let ch := digest32 (wordBytes m.chain ++ ws.flatMap wordBytes)
  { z with mgt := { m with
      aud := tblPut m.aud ((m.audNext.toNat + 1023) % 1024) (ws ++ [ch])
      audNext := m.audNext + 1
      chain := ch } }

/-- An audit record of Potrie: it waits while Potrie does not run (R83). -/
def audit (z : Zmc) (r : AudRec) : Zmc :=
  if potrieOn z then audWrite z r else { z with mgt := { z.mgt with audQ := z.mgt.audQ ++ [r] } }

/-- Digest of words in order, each as 4 bytes little-endian (R79). -/
def wordsDg (ws : List Word) : Word := if ws.isEmpty then 0 else digest32 (ws.flatMap wordBytes)

/-- A change that Potrie makes on its own initiative outside the BUF fields: a fence, or a value of re-centring. The entry has kind 3, no opcode
and target zero, and digests of the changed words (R79, Table 4-10; the kind is DESIGN CHOICE, log entry 90). -/
def potAudit (z : Zmc) (now : Nat) (old new : List Word) : Zmc := audit z ⟨pkgNs z now, 0, 0, 7, 0, 0, 3, wordsDg old, wordsDg new⟩

/-- The record of a closed coalescing window (R79, kind 1). -/
def coalRec (z : Zmc) (c : Coal) : AudRec :=
  ⟨pkgNs z c.t0, min c.n 65535, c.orig, 6, 0, c.off, 1, digest32 (wordBytes c.old), digest32 (wordBytes c.new)⟩

/-- A field write joins the open window of its originator and register, or opens one (R79). -/
def coalesce (z : Zmc) (r : FifoRec) : Zmc :=
  let m := z.mgt
  match m.coal.find? (fun c => c.orig == r.orig && c.off == r.off) with
  | some c =>
      if r.t < c.t0 + tuPerMs then
        { z with mgt := { m with coal := replaceFirst (fun x => x.orig == r.orig && x.off == r.off) (fun x => { x with n := x.n + 1, new := r.new }) m.coal } }
      else
        let z := audit z (coalRec z c)
        { z with mgt := { z.mgt with coal := removeFirst (fun x => x.orig == r.orig && x.off == r.off) z.mgt.coal ++ [⟨r.orig, r.off, r.t, 1, r.old, r.new⟩] } }
  | none => { z with mgt := { m with coal := m.coal ++ [⟨r.orig, r.off, r.t, 1, r.old, r.new⟩] } }

/-- An effective write to an IMM, SEC or MSK field by an originator other than Mason is captured for the audit log (R79, R80). -/
def capture (z : Zmc) (now orig off : Nat) (old new : Word) : Zmc :=
  if orig = 0 then z
  else if potrieOn z then coalesce z ⟨orig, off, now, old, new⟩
  else if z.mgt.fifo.length < 256 then { z with mgt := { z.mgt with fifo := z.mgt.fifo ++ [⟨orig, off, now, old, new⟩] } }
  else { z with mgt := { z.mgt with lost := z.mgt.lost + 1 } }

/-- The coalescing windows that have been open for 1 ms close, each with its audit entry (R79). -/
def coalClose (z : Zmc) (now : Nat) : Zmc :=
  let due := z.mgt.coal.filter (fun c => decide (c.t0 + tuPerMs ≤ now))
  let z := { z with mgt := { z.mgt with coal := z.mgt.coal.filter (fun c => decide (now < c.t0 + tuPerMs)) } }
  due.foldl (fun z c => audit z (coalRec z c)) z

/-- Potrie runs again: waiting events and records are posted, captured writes are logged, and lost ones are entered (R77, R80). -/
def potResume (z : Zmc) (now : Nat) : Zmc :=
  let m := z.mgt
  let z := { z with mgt := { m with wait := [], audQ := [], fifo := [], lost := 0 } }
  let z := m.wait.foldl (fun z e => potPut z now e.code e.island e.course e.d) z
  let z := m.audQ.foldl audWrite z
  let z := m.fifo.foldl coalesce z
  if m.lost = 0 then z
  else
    let z := audWrite z ⟨pkgNs z now, min m.lost 65535, 0, 7, 0, 0, 7, 0, 0⟩
    { z with mgt := { z.mgt with gap := z.mgt.gap + BitVec.ofNat 32 m.lost } }

/-- The Bond table no longer matches what it describes (R56). -/
def needBond (z : Zmc) : Zmc := { z with bond := { z.bond with dirty := true } }

/-- Send a message. -/
def send (z : Zmc) (m : OutMsg) : Zmc := { z with out := z.out ++ [m] }

/-- A request reaches a home: a ZMC in DOZE is in RUN (R15, R312). -/
def wakeHomes (z : Zmc) : Zmc := if z.pwr.st = 1 then { z with pwr := { z.pwr with st := 0, doze := false } } else z

/-- Course c's record in Z. -/
def modInfo (z : Zmc) (c : CourseId) (f : CInfo → CInfo) : Zmc := { z with cinfo := modV z.cinfo c f }
/-- Change one home. -/
def modHome (z : Zmc) (h : HomeId) (f : HomeSt → HomeSt) : Zmc := { z with homes := modV z.homes h f }
/-- Change one bay. -/
def modBay (z : Zmc) (b : BayId) (f : BaySt → BaySt) : Zmc := { z with bays := modV z.bays b f }
/-- Change one mailbox. -/
def modMbx (z : Zmc) (m : MbxId) (f : Mbx → Mbx) : Zmc := { z with mgt := { z.mgt with mbx := modV z.mgt.mbx m f } }

/-- The home of a course (Table 0-2). -/
def homeOf (c : CourseId) : HomeId := toHome (c.val / 8)
/-- The bay of a course (R88). -/
def bayOf (c : CourseId) : BayId := toBay (c.val / 2)
/-- The home of a bay. -/
def bayHome (b : BayId) : HomeId := toHome (b.val / 4)
/-- A course's number within its home. -/
def crsIdx (c : CourseId) : Fin 8 := ⟨c.val % 8, by omega⟩

/-- Capacity of a course in bytes (Table 3-3): ranks × 8 data devices × 2 subchannels × density × dies. -/
def capBytes (i : CInfo) : Nat := if i.trained then i.ranks * i.dies * 16 * (i.density * 2 ^ 27) else 0
/-- Start of the footing table (R127). -/
def ftgStart (i : CInfo) : Nat := capBytes i - capBytes i / 64

/-- A field write R46 drops: one count for the whole word and the last-access record, reasons 1 to 5. -/
def dropAcc (z : Zmc) (now off reason orig : Nat) : Zmc :=
  let cnt := zmcBase + 0x0100
  let z :=
    if reason = 1 then bumpN z now cnt 0 1
    else if reason = 2 then bumpN z now cnt 8 1
    else if reason = 3 then bumpN z now cnt 16 1
    else if reason = 4 then bumpN z now cnt 24 1
    else z
  putWord z (zmcBase + 0x0108) (BitVec.ofNat 32 (off % 2 ^ 24 + reason * 2 ^ 24 + orig * 2 ^ 27))

end Sys2Proof.Machine
end

