-- ==== Sys2Proof/Machine/HomePath.lean ====
section
/-! DEFINITION. What a request meets before a bay: address decode (R407), liveness (R85), policing (R106), shaping (R109 to R112), fair
queuing (R113) and time gates (R114 to R116). -/

namespace Sys2Proof.Machine

/-- FCK cycle of an instant. Both homes count from instant 0 and no reset restarts their counts, so their slot indexes agree; the spec says that the
homes count independently and gives neither count's phase (R93; DESIGN CHOICE, log entry 93). -/
def fckCyc (now : Nat) : Nat := now / tuFck

/-- Local package time of a home in ns at a FCK cycle (R13). -/
def homeNs (z : Zmc) (h : HomeId) (cyc : Nat) : Nat := (((z.pkg0 + cyc * tuFck / tuPerNs) % 2 ^ 64 : Nat) + z.homes[h].skew).toNat

/-! ### Address decode -/

/-- An interleave record as a home holds it (Table 22-6). -/
structure Ilv where
  ways : Nat
  gran : Nat
  base : Nat
  size : Nat
  way  : List Nat
  deriving DecidableEq, Repr

/-- Record `r` of home `h` read through `rd`, active or pending. -/
def ilvOf (rd : Nat → Word) (h r : Nat) : Ilv :=
  let b := homeBase h + 0x0100 + 0x40 * r
  let wide (o : Nat) : Nat := (rd (o + 4) ++ rd o).toNat
  { ways := bitsOf (rd b) 4 0, gran := bitsOf (rd b) 11 8, base := wide (b + 8), size := wide (b + 16)
    way := (List.range 16).map (fun k => bitsOf (rd (b + 0x18 + k / 4 * 4)) (8 * (k % 4) + 7) (8 * (k % 4))) }

/-- The record holds the address. -/
def Ilv.holds (i : Ilv) (a : Nat) : Bool := decide (i.size ≠ 0 ∧ i.base ≤ a ∧ a < i.base + i.size)

/-- The record of a home in use that contains an address. -/
def findIlv (z : Zmc) (h : HomeId) (a : Nat) : Option Ilv :=
  ((List.range 4).map (fun r => ilvOf (wordAt z) h.val r)).find? (fun i => i.holds a)

/-- Course and course-local byte address of an address within a record (R407). -/
def ilvMap (i : Ilv) (a : Nat) : Nat × Nat :=
  let off := a - i.base
  let g := off >>> i.gran
  (i.way.getD (g % max i.ways 1) 255, (g / max i.ways 1) <<< i.gran ||| off % 2 ^ i.gran)

/-- The system address of a course-local byte address within a record, by the way of its course. -/
def ilvBack (i : Ilv) (c loc : Nat) : Option Nat :=
  match i.way.take i.ways |>.findIdx? (fun x => x == c) with
  | none => none
  | some w =>
      let a := i.base + ((loc >>> i.gran * i.ways + w) <<< i.gran ||| loc % 2 ^ i.gran)
      if a < i.base + i.size then some a else none

/-- R407: the target of an address at a home, `none` for a decode miss. A fenced course is a target (R213). -/
def decodeAddr (z : Zmc) (h : HomeId) (a : Nat) : Option (CourseId × Nat) :=
  match findIlv z h a with
  | none => none
  | some i =>
      let (c, loc) := ilvMap i a
      if hc : c < 16 then
        let cid : CourseId := ⟨c, hc⟩
        if homeOf cid ≠ h then none
        else if !present z.boot.variant c then none
        else if z.cinfo[cid].fence ≠ 0 then some (cid, loc)
        else if loc < ftgStart z.cinfo[cid] then some (cid, loc) else none
      else none

/-- The system address of line `line` of course `c`: the inverse of R407 over the records in use. -/
def sysAddr (z : Zmc) (c : CourseId) (line : Nat) : Option Nat :=
  ((List.range 4).map (fun r => ilvOf (wordAt z) (homeOf c).val r)).findSome? (fun i => if i.size = 0 then none else ilvBack i c.val (line * 64))

/-! ### Liveness -/

/-- A port's level as the decisions of a FCK cycle see it (R85). -/
def liveAtCyc (z : Zmc) (cyc : Nat) (p : PortId) : Bool :=
  z.liveAt.foldl (fun l e => if e.1 = p ∧ e.2.2 ≤ cyc then e.2.1 else l) z.live[p]

/-- A port's latest level, whether or not the masks follow it yet. -/
def liveFinal (z : Zmc) (p : PortId) : Bool := z.liveAt.foldl (fun l e => if e.1 = p then e.2.1 else l) z.live[p]

/-- A change of liveness reaches the homes: it takes effect in the third FCK cycle after (R85). Changes in force are settled. -/
def setLive (z : Zmc) (now : Nat) (p : PortId) (l : Bool) : Zmc :=
  let cyc := fckCyc now
  let done := z.liveAt.filter (fun e => decide (e.2.2 ≤ cyc))
  let live := done.foldl (fun v e => modV v e.1 (fun _ => e.2.1)) z.live
  { z with live := live, liveAt := z.liveAt.filter (fun e => decide (cyc < e.2.2)) ++ [(p, l, cyc + 3)] }

/-- P20 is live only for a member of a pair or a board (Table 5-1). -/
def member (z : Zmc) : Bool := getF z (zmcBase + 0x0C00) 1 0 != 0

/-! ### Buckets -/

/-- 16 fractional bits of a byte count. -/
def fx (n : Nat) : Int := (n * 65536 : Nat)

/-- Tokens earned in `d` FCK cycles at a rate in 16 MB/s units: 5 ns every 12 FCK (R111), 16 bytes per µs and unit (R110). The rule does not
say how a fraction below the 16 fractional bits is rounded: it is dropped at each refill (DESIGN CHOICE, log entry 91). -/
def earned (rate d : Nat) : Int := (rate * 16 * 65536 * d * 5 / 12000 : Nat)

/-- The bucket of (port, class): instance 4p + c. -/
def bktOf (h : HomeSt) (i : Nat) : Bucket := tblGet {} h.bkt i

/-- The count a decision samples at the end of a FCK cycle. -/
def bktCount (b : Bucket) (cyc : Nat) : Int := min (b.tok + earned b.rate (cyc - b.at_)) (fx b.burst)

/-- A refill of bucket `i` in a FCK cycle (R110). -/
def refill (z : Zmc) (h : HomeId) (b : Bucket) (i cyc : Nat) : Bucket :=
  let r := wordAt z (homeBase h.val + 0x1000 + 8 * i)
  let rate := bitsOf r 15 0
  let burst := getF z (homeBase h.val + 0x1004 + 8 * i) 19 0
  let tok := if b.rate = 0 ∧ rate ≠ 0 then fx burst else bktCount b cyc
  let now : Bool := b.at_ == cyc
  { b with
    tok := tok
    at_ := cyc
    rate := rate
    burst := burst
    ovh := bitsOf r 23 16
    smp := if now then b.smp else bktCount b (cyc - 1)
    chg := if now then b.chg else 0 }

/-- Some bay of the home holds a request of (port, class) `i`. -/
def hasHead (z : Zmc) (h : HomeId) (i : Nat) : Bool :=
  (List.range 4).any (fun k => (z.bays[toBay (4 * h.val + k)].q).any (fun r => r.port.val * 4 + r.cls.val == i))

/-- The wheel's present slot: 4 ns of the shaping time base (R112). -/
def wheelSlot (cyc : Nat) : Nat := cyc * 5 / 48

/-- Enter a negative bucket on the wheel once (R112). -/
def enterWheel (z : Zmc) (h : HomeId) (b : Bucket) (i cyc : Nat) : Bucket :=
  if b.wheel.isSome ∨ 0 ≤ b.tok ∨ b.rate = 0 ∨ !hasHead z h i then b
  else
    let a := b.rate * 16 * 65536
    let num := cyc * 5 * a + (-b.tok).toNat * 12000
    let slot := (num + 48 * a - 1) / (48 * a)
    { b with wheel := some (min slot (wheelSlot cyc + 511)), capped := decide (wheelSlot cyc + 511 < slot), wcyc := cyc }

/-- Store a bucket. -/
def putBkt (z : Zmc) (h : HomeId) (i : Nat) (b : Bucket) : Zmc := modHome z h (fun s => { s with bkt := tblPut s.bkt i b })

/-- R109: refill and charge bucket `i` for `lines` lines; answers the amount charged. -/
def chargeBkt (z : Zmc) (h : HomeId) (i lines cyc : Nat) : Zmc × Int :=
  let b := refill z h (bktOf z.homes[h] i) i cyc
  if b.rate = 0 then (putBkt z h i b, 0)
  else
    let c := fx ((64 + b.ovh) * lines)
    let b := { b with tok := b.tok - c, chg := b.chg + c }
    (putBkt z h i (enterWheel z h b i cyc), c)

/-- Shaper eligibility of bucket `i` in FCK cycle `cyc`: the sample of the end of the cycle before, which an entry on the wheel made in the cycle
itself does not change (R109, R112). -/
def shpOk (z : Zmc) (h : HomeId) (i cyc : Nat) : Bool :=
  let b := bktOf z.homes[h] i
  decide (b.rate = 0) || ((b.wheel.isNone || b.wcyc == cyc) && decide (0 ≤ (if b.at_ = cyc then b.smp else bktCount b (cyc - 1))))

/-! ### Policing -/

/-- A marker latches its port's rates and bursts. -/
def mrkLatch (z : Zmc) (h : HomeId) (p : Nat) (m : Marker) : Marker :=
  let b := homeBase h.val + 0x1400 + 0x20 * p
  { m with cir := getF z (b + 4) 15 0, pir := getF z (b + 4) 31 16, cbs := getF z (b + 8) 19 0, pbs := getF z (b + 12) 19 0 }

/-- A refill of a marker (R108, R110): the first one of a FCK cycle adds what has been earned. -/
def mrkRefill (z : Zmc) (h : HomeId) (p cyc : Nat) (m : Marker) : Marker :=
  if m.at_ = cyc then mrkLatch z h p m
  else
    let tc := min (m.tc + earned m.cir (cyc - m.at_)) (fx m.cbs)
    let tp := min (m.tp + earned m.pir (cyc - m.at_)) (fx m.pbs)
    mrkLatch z h p { m with tc := tc, tp := tp, tc0 := tc, tp0 := tp, at_ := cyc, seen := [] }

/-- pol_en of a port has changed from 0 to 1: both buckets start full (R108). -/
def mrkFill (z : Zmc) (h : HomeId) (p cyc : Nat) : Marker :=
  let m := mrkLatch z h p { at_ := cyc }
  { m with tc := fx m.cbs, tp := fx m.pbs, tc0 := fx m.cbs, tp0 := fx m.pbs }

/-- Table 6-2 for a request of `n` lines that carries `col`: the colour (0 green, 1 yellow, 2 red) and the marker after. -/
def markReq (m : Marker) (aware : Bool) (col n : Nat) : Nat × Marker :=
  let b := fx (64 * n)
  if aware ∧ col = 2 then (2, m)
  else if m.tp < b then (2, m)
  else if aware ∧ col = 1 then (1, { m with tp := m.tp - b })
  else if m.tc < b then (1, { m with tp := m.tp - b })
  else (0, { m with tp := m.tp - b, tc := m.tc - b })

/-- The requests of one FCK cycle measured in ascending bay number, from the counts before them: their colours and the marker after (R106). -/
def measure (m : Marker) (aware : Bool) (l : List Meas) : List Nat × Marker :=
  l.foldl (fun p x => let q := markReq p.2 aware x.col x.lines; (p.1 ++ [q.1], q.2)) ([], { m with tc := m.tc0, tp := m.tp0 })

/-- A request joins those of its cycle behind all of its bay and of lower ones. -/
def insMeas (x : Meas) (l : List Meas) : List Meas := l.filter (fun y => decide (y.bay ≤ x.bay)) ++ x :: l.filter (fun y => decide (x.bay < y.bay))

/-- Table 6-3: the class after marking. -/
def demote (cls : Fin 4) (col : Nat) : Fin 4 :=
  if col = 0 then cls
  else if col = 1 then (if cls = 0 then 1 else if cls = 1 then 2 else 3)
  else 3

/-! ### Time gates -/

/-- The gate registers of course index `j` of home `h`, as a list to run from `start` (Table 6-9). -/
def gateRegs (z : Zmc) (h : HomeId) (j start : Nat) : GList :=
  let b := homeBase h.val + 0x2000 + 0x200 * j
  { base := (getWide z (b + 8)).toNat
    ents := (List.range (getF z b 6 1)).map (fun e => (getF z (b + 0x100 + 4 * e) 19 0, getF z (b + 0x100 + 4 * e) 23 20))
    lint := [getF z (b + 0x10) 15 0, getF z (b + 0x10) 31 16, getF z (b + 0x14) 15 0, getF z (b + 0x14) 31 16]
    catchNs := getF z (b + 0x18) 15 0
    catchEnt := getF z b 11 7
    start := start }

/-- Duration of one cycle of a list. -/
def GList.cycle (g : GList) : Nat := g.ents.foldl (fun a e => a + e.1) 0

/-- Entry `e` opens class `c`. -/
def GList.opens (g : GList) (e : Nat) (c : Fin 4) : Bool := ((g.ents.getD (e % max g.ents.length 1) (0, 15)).2 >>> c.val) % 2 = 1

/-- Nominal duration of entry `e`. -/
def GList.dur (g : GList) (e : Nat) : Nat := (g.ents.getD (e % max g.ents.length 1) (0, 15)).1

/-- Time from the end of the entry in force to the opening of class `c`, over at most `n` further entries, with the entry that opens it. -/
def openAfter (g : GList) (cut : Nat → Nat) (c : Fin 4) : Nat → Nat → Option (Nat × Nat)
  | 0, _ => none
  | n + 1, e => if g.opens e c then some (0, e) else (openAfter g cut c n (e + 1)).map (fun x => (x.1 + (g.dur e - cut e), x.2))

/-- Time from the end of the entry in force to the close of class `c`, over at most `n` further entries; `none` when it never closes. -/
def closeAfter (g : GList) (cut : Nat → Nat) (c : Fin 4) : Nat → Nat → Option Nat
  | 0, _ => none
  | n + 1, e => if g.opens e c then (closeAfter g cut c n (e + 1)).map (fun x => x + (g.dur e - cut e)) else some 0

/-- Shortening that catch-up applies to an entry while the offset is `d` (R119). -/
def catchCut (g : GList) (d e : Nat) : Nat :=
  if e % max g.ents.length 1 = g.catchEnt ∧ g.catchNs ≠ 0 then min (min d g.catchNs) (g.dur e - 64) else 0

/-- What catch-up takes from the entry `e` to come, counted from entry 0 of the gate cycle in force (R119). -/
def Gate.cutOf (gt : Gate) (g : GList) (e : Nat) : Nat := if gt.hold ∧ e < g.ents.length then 0 else catchCut g (gt.off - gt.cut) e

/-- The close of the window of class `c` in force, or of its next one, in local ns (R114). -/
def nextClose (gt : Gate) (c : Fin 4) : Option Nat :=
  match gt.list with
  | none => none
  | some g =>
      let n := g.ents.length
      if g.opens gt.ent c then (closeAfter g (gt.cutOf g) c n (gt.ent + 1)).map (fun x => gt.endAt + x)
      else match openAfter g (gt.cutOf g) c n (gt.ent + 1) with
        | some (t, e) => (closeAfter g (gt.cutOf g) c n e).map (fun x => gt.endAt + t + x)
        | none => none

/-- Classes that close when the entry in force ends. -/
def closing (gt : Gate) (g : GList) : List (Fin 4) := ([0, 1, 2, 3] : List (Fin 4)).filter (fun c => g.opens gt.ent c && !g.opens (gt.ent + 1) c)

/-- A list begins at entry 0 with offset 0 (R117, R120). -/
def Gate.begin (gt : Gate) (g : GList) : Gate := { list := some g, endAt := g.start + g.dur 0, late := gt.late }

/-- A re-anchored list begins again; a list that a SET has armed stays armed (R120). -/
def Gate.restart (gt : Gate) (g : GList) : Gate := { gt.begin g with armed := gt.armed }

/-- At a close with late work the entry stays in force with the closing classes closed (R118). -/
def Gate.overrun (gt : Gate) (g : GList) : Gate := { gt with ovr := some (closing gt g, gt.endAt) }

/-- A close falls due with late work of a closing class. -/
def Gate.hasLate (gt : Gate) (g : GList) : Bool := gt.late.any (fun l => (closing gt g).contains l.cls)

/-- The entry in force ends: the next one, shortened by catch-up (R114, R119), or every class open after a re-anchor (R120). -/
def Gate.next (gt : Gate) (g : GList) : Gate :=
  if gt.anchor then { gt with anchor := false, rsync := true, hold := false, off := 0, cut := 0, lint := [] }
  else
    let cut := gt.cutOf g (gt.ent + 1)
    let e := (gt.ent + 1) % max g.ents.length 1
    { gt with
      ent := e
      hold := gt.hold && e != 0
      off := gt.off - gt.cut
      cut := cut
      endAt := gt.endAt + (g.dur e - cut)
      lint := gt.lint.filter (fun x => !(closing gt g).contains x) }

/-- The entry in force has ended by local time `ns` and nothing keeps it. -/
def Gate.due (gt : Gate) (ns : Nat) : Bool := decide (gt.endAt ≤ ns) && gt.ovr.isNone && !gt.rsync

/-- The gate as it stands at local time `ns`, at most one change ahead: a grant is judged by the entry in force in its own cycle (R115). -/
def gateAhead (gt : Gate) (ns : Nat) : Gate :=
  match gt.armed.filter (fun g => g.start ≤ ns), gt.again.filter (fun g => g.start ≤ ns), gt.list with
  | some g, _, _ => gt.begin g
  | none, some g, _ => gt.restart g
  | none, none, some g => if !gt.due ns then gt else if gt.hasLate g then gt.overrun g else gt.next g
  | none, none, none => gt

/-- Start of the lintel of class `c` in local ns: close − lint − 11 (R115). -/
def lintelAt (gt : Gate) (c : Fin 4) : Option Nat :=
  match gt.list with
  | none => none
  | some g => (nextClose gt c).map (fun x => x - (g.lint.getD c.val 0 + 11))

/-- Class `c` is open to a grant that transfers at local time `ns` (R115). -/
def gateOpen (gt : Gate) (c : Fin 4) (ns : Nat) : Bool :=
  let gt := gateAhead gt ns
  match gt.list with
  | none => true
  | some g =>
      gt.rsync ||
      (g.opens gt.ent c && !gt.lint.contains c &&
        (match gt.ovr with | some (cl, _) => !cl.contains c | none => true) &&
        (match lintelAt gt c with | some x => decide (ns < x) | none => true))

/-- Longest window of class `c` in the programmed list, from each entry over the wrap (R116). -/
def longestWin (g : GList) (c : Fin 4) : Option Nat :=
  if (List.range g.ents.length).all (fun e => g.opens e c) then none
  else some ((List.range g.ents.length).foldl (fun m e =>
    max m (match closeAfter g (fun _ => 0) c g.ents.length e with | some x => x | none => 0)) 0)

/-- Spacing per extra train line of a course's gate (Table 6-9): the register's active value, at once after a SET (DESIGN CHOICE, log entry 92: the spec
does not say whether a list keeps the value it was armed with). -/
def lineGap (z : Zmc) (c : CourseId) : Nat := getF z (homeBase (homeOf c).val + 0x2018 + 0x200 * (crsIdx c).val) 23 16

/-- R116: a train of `k` lines fits when it transfers at local time `ns`. -/
def trainFits (z : Zmc) (c : CourseId) (cls : Fin 4) (k ns : Nat) : Bool :=
  let gt := gateAhead z.homes[homeOf c].gates[crsIdx c] ns
  if k ≤ 1 ∨ gt.rsync then true
  else match lintelAt gt cls with
    | none => true
    | some x => decide (ns + (k - 1) * lineGap z c ≤ x)

/-- R116: the train can never fit. -/
def trainNever (z : Zmc) (c : CourseId) (cls : Fin 4) (k : Nat) : Bool :=
  match z.homes[homeOf c].gates[crsIdx c].list with
  | none => false
  | some g =>
      match longestWin g cls with
      | none => false
      | some w => decide (k > 1 ∧ w < (k - 1) * lineGap z c + g.lint.getD cls.val 0 + 11)

/-- Register base of the gate of course `c`. -/
def gateReg (c : CourseId) : Nat := homeBase (homeOf c).val + 0x2000 + 0x200 * (crsIdx c).val

/-! ### Queues at a bay -/

/-- Serial comparison of 32-bit tags (R113). -/
def tagLt (a b : BitVec 32) : Bool := (a - b).getLsbD 31

/-- Heads of a port's queue of class `c` as a sample of the end of cycle n − 1 shows them: one, or for STD one per stream (R104). -/
def headsOf (q : List QReq) (p : PortId) (c : Fin 4) : List QReq :=
  let l := q.filter (fun r => r.port == p && r.cls == c)
  if c = 2 then (List.range 8).filterMap (fun s => l.find? (fun r => r.stream.val == s)) else l.take 1

/-- The request with the smallest start tag, the lowest stream of equals. -/
def minTag : List QReq → Option QReq
  | [] => none
  | r :: l =>
      match minTag l with
      | none => some r
      | some x => if tagLt x.s r.s then some x else some r

end Sys2Proof.Machine
end

