-- ==== Sys2Proof/Machine/Bay.lean ====
section
/-! DEFINITION. The bays: arrival of a request (R102 to R107), the grant decision of each FCK cycle (R88 to R100) and the Pattern table
(R93 to R95). -/

namespace Sys2Proof.Machine

/-! ### Arrival -/

/-- A range descriptor of the pair registers (Table 19-4): base, size, peer_base, role, en. -/
structure MirDesc where
  base : Nat
  size : Nat
  peer : Nat
  role : Nat
  en   : Bool
  deriving DecidableEq, Repr

/-- Descriptor `r` through `rd`, active or pending. -/
def mirDesc (rd : Nat → Word) (r : Nat) : MirDesc :=
  let b := zmcBase + 0x0C40 + 32 * r
  let wide (o : Nat) : Nat := (rd (o + 4) ++ rd o).toNat
  { base := wide b, size := wide (b + 8), peer := wide (b + 16), role := bitsOf (rd (b + 24)) 0 0, en := bitsOf (rd (b + 24)) 1 1 == 1 }

/-- The address lies in the range. -/
def MirDesc.holds (d : MirDesc) (a : Nat) : Bool := d.en && decide (d.size ≠ 0 ∧ d.base ≤ a ∧ a < d.base + d.size)

/-- The range in use with a role that holds an address. -/
def mirFind (z : Zmc) (role a : Nat) : Option Nat :=
  (List.range 8).find? (fun r => let d := mirDesc (wordAt z) r; d.role == role && d.holds a)

/-- The requests of (port, bay) hold at most 48 entries (R103). -/
def bayRoom (z : Zmc) (b : BayId) (p : PortId) : Bool := decide ((z.bays[b].q.filter (fun r => r.port == p && r.ent)).length < 48)

/-- The STD overhead of a port's latched bucket (R113). -/
def stdOvh (z : Zmc) (h : HomeId) (p : PortId) : Nat := (bktOf z.homes[h] (4 * p.val + 2)).ovh

/-- Start and finish tags of a request joining stream `s` of a port at a bay (R113). -/
def sfqTags (z : Zmc) (b : BayId) (p : PortId) (s : Fin 8) (lines : Nat) : BitVec 32 × BitVec 32 :=
  let h := bayHome b
  let q := z.bays[b].q.filter (fun r => r.port == p && r.cls.val == 2 && r.stream == s)
  let st := match q.getLast? with | some r => r.f | none => z.bays[b].vt[p]
  let w := getF z (homeBase h.val + 0x1800 + 8 * p.val + s.val / 4 * 4) (8 * (s.val % 4) + 7) (8 * (s.val % 4))
  (st, st + BitVec.ofNat 32 ((64 + stdOvh z h p) * lines * 256 / max w 1))

/-- Queue a request at a bay, with its class after marking. -/
def bayEnqueue (z : Zmc) (now : Nat) (b : BayId) (r : FabReq) (cls : Fin 4) (dest : Option (CourseId × Nat)) (xm : Nat) (mirror : Bool) : Zmc :=
  let h := bayHome b
  let rid := z.homes[h].ridNext
  let (s, f) := sfqTags z b r.port r.stream r.lines
  let q : QReq := { rid, port := r.port, kind := r.kind, addr := r.addr, dest, xmiss := xm, lines := r.lines, cls, stream := r.stream
                    key := r.key, tag := r.tag, data := r.data, poison := r.poison, arr := now, s, f, waited := false, mirror, ent := true }
  let z := modHome z h (fun x => { x with ridNext := rid + 1, gated := false })
  modBay z b (fun x => { x with q := x.q ++ [q] })

/-- The lines of a train leave their naturally aligned 256-byte block (R105). -/
def trainCrosses (r : FabReq) : Bool := decide ((r.addr.toNat % 256) / 64 + r.lines > 4)

/-- Register base of a port's policer. -/
def polReg (h : HomeId) (p : PortId) : Nat := homeBase h.val + 0x1400 + 0x20 * p.val

/-- A demotion of a request of class `cls` by colour `c` is counted (R107). -/
def countDemote (z : Zmc) (now : Nat) (h : HomeId) (p : PortId) (cls : Fin 4) (c : Nat) : Zmc :=
  if c = 0 ∨ demote cls c = cls then z else bump z now (polReg h p + (if c = 1 then 0x10 else 0x18))

/-- The colour of a request measured in this cycle changes, because one of the cycle has come at a lower bay: its class, its tags and the
counts follow (R106, R107). -/
def recolour (z : Zmc) (now : Nat) (h : HomeId) (p : PortId) (x : Meas) (o n : Nat) : Zmc :=
  if o = n then z
  else
    let z := if o = 0 ∨ demote x.cls o = x.cls then z else let k := polReg h p + (if o = 1 then 0x10 else 0x18); putWord z k (wordAt z k - 1)
    let z := countDemote z now h p x.cls n
    let b := toBay x.bay
    match z.bays[b].q.find? (fun r => r.rid == x.rid) with
    | some r =>
        let (s, f) := sfqTags z b p r.stream r.lines
        modBay z b (fun y => { y with q := replaceFirst (fun r => r.rid == x.rid) (fun r => { r with cls := demote x.cls n, s, f }) y.q })
    | none => z

/-- Marking of an arriving request (R102, R106, R107): the marker measures the port's requests of one cycle in ascending bay number, and
demotions are counted. -/
def police (z : Zmc) (now : Nat) (h : HomeId) (b : BayId) (r : FabReq) : Zmc × Fin 4 :=
  let p := r.port
  let ctl := wordAt z (polReg h p)
  let cls0 : Fin 4 := if p.val = 21 ∨ p.val = 22 then 2 else r.cls
  let cls0 : Fin 4 := if bitsOf ctl 4 4 = 1 then Fin.ofNat 4 (bitsOf ctl 3 2) else cls0
  let col := if p.val < 12 ∧ r.colour.val < 3 then r.colour.val else 0
  if bitsOf ctl 0 0 = 0 then (z, cls0)
  else
    let aware := bitsOf ctl 1 1 == 1
    let m := mrkRefill z h p.val (fckCyc now) (tblGet {} z.homes[h].mark p.val)
    let me : Meas := ⟨b.val, z.homes[h].ridNext, cls0, col, r.lines⟩
    let l := insMeas me m.seen
    let (cols, m') := measure m aware l
    let now_ := l.zip cols
    let colOf (x : Meas) : Nat := match now_.find? (fun p => p.1 == x) with | some p => p.2 | none => 0
    let z := (m.seen.zip (measure m aware m.seen).1).foldl (fun z q => recolour z now h p q.1 q.2 (colOf q.1)) z
    let z := modHome z h (fun x => { x with mark := tblPut x.mark p.val { m' with seen := l } })
    (countDemote z now h p cls0 (colOf me), demote cls0 (colOf me))

/-- The bay accepts a port's request: released, with a free entry of the port, and the ZMC neither held nor past step 5 of RETAIN (R103, R313,
R336, R359). A dead port's request is accepted and waits: it is no candidate while the port is dead (R85, R86). -/
def mayRequest (z : Zmc) (p : PortId) (b : BayId) : Bool :=
  z.boot.phase == 7 && z.boot.hold == 0 && decide (z.pwr.st < 3) && bayRoom z b p

/-- FABRIC_REQUEST: a request arrives at the home, is decoded, policed and queued by port and class (R102 to R107, R364, R365, R370,
R407). -/
def fabricArrive (z : Zmc) (now : Nat) (r : FabReq) : Zmc :=
  let h := bayHome r.bay
  let copy := (mirFind z 1 r.addr.toNat).isSome
  let inRec := (findIlv z h r.addr.toNat).isSome
  let xm := if copy then 2 else if r.port.val = 20 ∧ !inRec then 1 else 0
  let dest := if xm ≠ 0 ∨ trainCrosses r then none else decodeAddr z h r.addr.toNat
  let b := match dest with | some (c, _) => bayOf c | none => r.bay
  if !mayRequest z r.port b then z
  else
    let (z, cls) := police z now h b r
    bayEnqueue (wakeHomes z) now b r cls dest xm false

/-! ### The Pattern table -/

/-- The 16 words of the active Pattern table of a bay. -/
def patWords (z : Zmc) (b : BayId) : List Word := (List.range 16).map (fun k => wordAt z (bayBase b.val + 0x40 + 4 * k))

/-- Owner of slot `s` in 16 words (Table 5-7). -/
def patOwner (ws : List Word) (s : Nat) : Nat := bitsOf (ws.getD (s / 4) 0x1F1F1F1F) (8 * (s % 4) + 4) (8 * (s % 4))

/-- The owner of FCK cycle `c` as a decision sees it: across the next wrap the armed table is in force when it was armed by the start of the
slot-63 cycle (R94, R95). -/
def slotOwner (z : Zmc) (b : BayId) (n c : Nat) : Nat :=
  let y := z.bays[b]
  match y.armed with
  | some (ws, at_) => if c / 64 ≠ n / 64 ∧ at_ + 2 ≤ c / 64 * 64 then patOwner ws (c % 64) else patOwner (patWords z b) (c % 64)
  | none => patOwner (patWords z b) (c % 64)

/-- The bay feeds courses of the variant: the clocks of other bays are gated (R2). -/
def bayThere (z : Zmc) (b : BayId) : Bool := present z.boot.variant (2 * b.val)

/-- A SET arms the bay with a table (R94, R95). -/
def armBay (z : Zmc) (now : Nat) (b : BayId) (ws : List Word) : Zmc :=
  let n := fckCyc now
  if !bayThere z b then z
  else modBay z b (fun y =>
    match y.armed with
    | some (_, at_) => if n % 64 = 63 ∧ at_ < n then { y with armed2 := some (ws, n) } else { y with armed := some (ws, n), armed2 := none }
    | none => { y with armed := some (ws, n) })

/-- PATTERN_SWAP: at slot 0, a table armed by the start of the slot-63 cycle becomes active as a whole (R94, R95). -/
def patSwap (z : Zmc) (now : Nat) (b : BayId) : Zmc :=
  let n := fckCyc now
  let y := z.bays[b]
  match y.armed with
  | some (ws, at_) =>
      if bayThere z b ∧ at_ + 2 ≤ n / 64 * 64 then
        let z := (List.range 16).foldl (fun z k => putWord z (bayBase b.val + 0x40 + 4 * k) (ws.getD k 0x1F1F1F1F)) z
        let z := modBay z b (fun y => { y with armed := y.armed2, armed2 := none, patGen := y.patGen + 1 })
        post z now (bayBase b.val + 0x18) 0
      else z
  | none => z

/-! ### What a port presents -/

/-- The course is under re-test (R337). -/
def retesting (z : Zmc) (c : CourseId) : Bool := z.boot.rtState != 0 && z.boot.rtCourse == c.val

/-- Room at the target course for a request (R90): free entries, no re-test, no fence in progress, no failed link. A decode miss or a fenced
course needs no entry (R407, R213). -/
def crsRoom (z : Zmc) (dest : Option (CourseId × Nat)) (write : Bool) (lines : Nat) : Bool :=
  match dest with
  | none => true
  | some (c, _) =>
      let i := z.cinfo[c]
      if retesting z c then false
      else if i.fence ≠ 0 then true
      else
        let h := z.homes[homeOf c]
        !i.failed && !i.draining &&
          (if write then decide (1 ≤ h.wrFree[crsIdx c]) else decide (lines ≤ h.rdFree[crsIdx c]))

/-- The head is eligible by the sample of cycle `n` for a transfer in cycle `t` (R104). -/
def headOk (z : Zmc) (h : HomeId) (n t : Nat) (r : QReq) : Bool :=
  shpOk z h (4 * r.port.val + r.cls.val) n &&
  (match r.dest with
   | none => true
   | some (c, _) =>
       gateOpen z.homes[h].gates[crsIdx c] r.cls (homeNs z h t) && trainFits z c r.cls r.lines (homeNs z h t))

/-- The request a port presents (R104): the first class whose head is eligible, in STD the eligible stream head of smallest tag. -/
def presented (z : Zmc) (b : BayId) (n t : Nat) (q : List QReq) (p : PortId) : Option QReq :=
  ([0, 1, 2, 3] : List (Fin 4)).findSome? (fun c => minTag ((headsOf q p c).filter (headOk z (bayHome b) n t)))

/-- The sample of cycle n: requests that had arrived by the end of cycle n − 1 (R89). -/
def sampleQ (z : Zmc) (b : BayId) (n : Nat) : List QReq := z.bays[b].q.filter (fun r => decide (fckCyc r.arr < n))

/-- A waiting train of an open class that does not fit is counted once; one that can never fit is split into single-line reads (R116). The
rule does not say which entries and tags these reads have: each is a request of its own with the stream's next tag, and they hold the one
entry of the train until the last is granted (DESIGN CHOICE, log entry 94). -/
def trainWork (z : Zmc) (now : Nat) (b : BayId) (n : Nat) (r : QReq) : Zmc :=
  match r.dest with
  | none => z
  | some (c, loc) =>
      let h := bayHome b
      let gt := gateAhead z.homes[h].gates[crsIdx c] (homeNs z h (n + 1))
      let open_ := match gt.list with | some g => g.opens gt.ent r.cls | none => true
      if r.lines ≤ 1 then z
      else if trainNever z c r.cls r.lines then
        let w := getF z (homeBase h.val + 0x1800 + 8 * r.port.val + r.stream.val / 4 * 4) (8 * (r.stream.val % 4) + 7) (8 * (r.stream.val % 4))
        let step := BitVec.ofNat 32 ((64 + stdOvh z h r.port) * 256 / max w 1)
        let rid0 := z.homes[h].ridNext
        let parts := (List.range r.lines).map (fun k =>
          { r with rid := rid0 + k, addr := r.addr + BitVec.ofNat 64 (64 * k), dest := some (c, loc + 64 * k), lines := 1, ent := k + 1 == r.lines
                   s := r.s + BitVec.ofNat 32 k * step, f := r.s + BitVec.ofNat 32 (k + 1) * step })
        let z := modHome z h (fun x => { x with ridNext := rid0 + r.lines })
        let z := modBay z b (fun y => { y with q := y.q.flatMap (fun x => if x.rid = r.rid then parts else [x]) })
        let z := bump z now (gateReg c + 0x48)
        post z now (gateReg c + 0x20) 1
      else if !r.waited && open_ && !trainFits z c r.cls r.lines (homeNs z h (n + 1)) then
        let z := modBay z b (fun y => { y with q := replaceFirst (fun x => x.rid == r.rid) (fun x => { x with waited := true }) y.q })
        bump z now (gateReg c + 0x40)
      else z

/-- The train work of every head of a bay. -/
def trainHeads (z : Zmc) (now : Nat) (b : BayId) (n : Nat) : Zmc :=
  (List.range 24).foldl (fun z p =>
    ([0, 1, 2, 3] : List (Fin 4)).foldl (fun z c => (headsOf (sampleQ z b n) (toPort p) c).foldl (fun z r => trainWork z now b n r) z) z) z

/-! ### The decision (R91) -/

/-- Write requests. -/
def isWr (k : ReqKind) : Bool := k == .wrFull

/-- Take `k` read or write entries of a course from the home's count (R90). -/
def takeEnt (z : Zmc) (c : CourseId) (write : Bool) (k : Nat) : Zmc :=
  modHome z (homeOf c) (fun h =>
    if write then { h with wrFree := modV h.wrFree (crsIdx c) (fun x => x - k) } else { h with rdFree := modV h.rdFree (crsIdx c) (fun x => x - k) })

/-- Return `k` entries to the count (R90, R145). -/
def giveEnt (z : Zmc) (c : CourseId) (write : Bool) (k : Nat) : Zmc :=
  modHome z (homeOf c) (fun h =>
    if write then { h with wrFree := modV h.wrFree (crsIdx c) (fun x => min 112 (x + k)) }
    else { h with rdFree := modV h.rdFree (crsIdx c) (fun x => min 192 (x + k)) })

/-- Entries a request needs: one a line, none for a decode miss or a fenced course (R90, R407, R213). -/
def entsOf (z : Zmc) (r : QReq) : Nat := match r.dest with | some (c, _) => if z.cinfo[c].fence ≠ 0 then 0 else r.lines | none => 0

/-- The entries of a request are taken in its decision, or in its own cycle (R90); answered with their number. -/
def takeFor (z : Zmc) (r : QReq) : Zmc × Nat :=
  match r.dest with
  | some (c, _) => (takeEnt z c (isWr r.kind) (entsOf z r), entsOf z r)
  | none => (z, 0)

/-- Candidates of a decision in cycle n (R90): live ports that present a request with room. -/
def candidates (z : Zmc) (b : BayId) (n : Nat) : List QReq :=
  let q := sampleQ z b n
  let excl := (z.bays[b].data.filter (fun d => d.cyc == n && d.direct)).map (fun d => d.port)
  (List.range 24).filterMap (fun i =>
    let p := toPort i
    if !liveAtCyc z n p || excl.contains p then none
    else match presented z b n (n + 1) q p with
      | some r => if crsRoom z r.dest (isWr r.kind) r.lines then some r else none
      | none => none)

/-- R92: a write in slot s is excluded when slot s + 1 is owned by a different port that is a candidate in the same sample; P22's never (R99). -/
def wrExcluded (z : Zmc) (b : BayId) (n : Nat) (cs : List QReq) (r : QReq) : Bool :=
  isWr r.kind && r.port.val != 22 && (let o := slotOwner z b n (n + 2); o != r.port.val && cs.any (fun x => x.port.val == o))

/-- P22 may pre-empt in the decision of cycle n (R99). The three preceding cycles are those before the granted cycle n + 1, that is n − 2 to n
(DESIGN CHOICE, log entry 95: the rule does not say of which cycle). -/
def mayPreempt (z : Zmc) (b : BayId) (n : Nat) : Bool :=
  getF z (bayBase b.val + 0x10) 0 0 == 1 && z.dbg.level == 2 &&
  (match z.bays[b].p22 with | some c => decide (c + 3 < n + 1) | none => true)

/-- Background rank of a port (R96). -/
def rankOf (z : Zmc) (b : BayId) (p : PortId) : Nat := getF z (bayBase b.val + 0x80 + 4 * (p.val / 8)) (3 * (p.val % 8) + 2) (3 * (p.val % 8))

/-- The background ranking (R96): highest rank, then the first port at or after that rank's pointer. -/
def ranked (z : Zmc) (b : BayId) (cs : List QReq) : Option (QReq × Nat) :=
  match cs.foldl (fun m r => max m (some (rankOf z b r.port))) none with
  | none => none
  | some k =>
      let l := cs.filter (fun r => rankOf z b r.port == k)
      let ptr := z.bays[b].rr[toFin 8 (by decide) k]
      (minBy (fun r => (r.port.val + 24 - ptr.val) % 24) l).map (fun r => (r, k))

/-- The grant of cycle n goes to the same port, so that the one now decided is charged in its own cycle (R89, R109). -/
def follows (z : Zmc) (b : BayId) (n : Nat) (p : PortId) : Bool :=
  match z.bays[b].next with
  | some g => g.port == p && g.cyc == n
  | none => false

/-- Record the decision for cycle n + 1: entries are taken, and the bucket is charged unless the grant follows one to the same port, which
is charged in its own cycle (R89, R90, R109). -/
def decideFor (z : Zmc) (b : BayId) (n : Nat) (r : QReq) : Zmc :=
  let i := 4 * r.port.val + r.cls.val
  let second := follows z b n r.port
  let (z, chg) := if second then (z, (0 : Int)) else chargeBkt z (bayHome b) i r.lines n
  let (z, took) := takeFor z r
  let g : Grant := { port := r.port, rid := r.rid, write := isWr r.kind, crs := r.dest.map Prod.fst, took, bkt := i, chg, cyc := n + 1, second }
  modBay z b (fun y => { y with next := some g, p22 := if r.port.val = 22 then some (n + 1) else y.p22 })

/-- The decision in cycle n for cycle n + 1 (R91). The grant of cycle n is still in `next`; it is answered for the transfer. -/
def decideGrant (z : Zmc) (now : Nat) (b : BayId) (n : Nat) : Zmc :=
  let y := z.bays[b]
  let cs := candidates z b n
  let p22 := if mayPreempt z b n then cs.find? (fun r => r.port.val == 22) else none
  match p22 with
  | some r =>
      let z := decideFor z b n r
      let z := bump z now (bayBase b.val + 0x0110)
      let d := if isWr r.kind then 2 else 1
      modBay z b (fun y => { y with data := y.data.map (fun x => if x.cyc = n + 1 ∧ x.port.val ≠ 22 then { x with cyc := x.cyc + d, direct := false } else x) })
  | none =>
      let wr := match y.next with | some g => g.write && g.cyc == n | none => false
      if wr || y.data.any (fun d => d.cyc == n + 1) then modBay z b (fun y => { y with next := none })
      else
        let ex := cs.filter (wrExcluded z b n cs)
        let z := bumpN z now (bayBase b.val + 0x0108) 0 ex.length
        let ok := cs.filter (fun r => !wrExcluded z b n cs r)
        match ok.find? (fun r => r.port.val == slotOwner z b n (n + 1)) with
        | some r => decideFor z b n r
        | none =>
            match ranked z b ok with
            | some (r, k) =>
                let z := decideFor z b n r
                modBay z b (fun y => { y with rr := modV y.rr (toFin 8 (by decide) k) (fun _ => toPort ((r.port.val + 1) % 24)) })
            | none => modBay z b (fun y => { y with next := none })

/-! ### The transfer -/

/-- Add lines to a home's bandwidth account: kind 0 reads, 1 writes, 2 writebacks (R351); while frozen they are discarded (R346; DEDUCED, log
entry 105). -/
def bwAdd (z : Zmc) (h : HomeId) (p : PortId) (kind n : Nat) : Zmc :=
  if z.hod.frozen then z else
  modHome z h (fun x => { x with bw := tblPut x.bw (4 * p.val + kind) (tblGet 0 x.bw (4 * p.val + kind) + BitVec.ofNat 32 n) })

/-- A line of a granted request as the home request queue holds it. -/
def mkHReq (r : QReq) (c : CourseId) (loc k rid : Nat) (due : Nat) (orphan ent : Bool) : HReq :=
  { rid, port := r.port, kind := r.kind, crs := c, line := loc / 64 + k, addr := r.addr + BitVec.ofNat 64 (64 * k), cls := r.cls, key := r.key
    tag := r.tag, data := r.data, poison := r.poison, ph := .look, dueAt := due, orphan, snps := [], snpData := none, byte := 0
    grant := 0, mid := rid, ent, sent := false, need := false, spec := none, holdCnt := false, evCnt := false, pinCnt := false, mirror := r.mirror }

/-- A response or completion of an orphaned request is dropped and counted at its bay (R86). -/
def dropOrphan (z : Zmc) (now : Nat) (b : BayId) (p : PortId) : Zmc :=
  let z := bump z now (bayBase b.val + 0x0118)
  let z := setF z (bayBase b.val + 0x0128) 4 0 p.val
  post z now (bayBase b.val + 0x18) 1

/-- Answer a decode miss (R407, R365, R370): a read returns poison with zero data, a write is discarded with the poison indication. -/
def answerMiss (z : Zmc) (now : Nat) (b : BayId) (r : QReq) (orphan : Bool) : Zmc :=
  let h := bayHome b
  let z :=
    if r.xmiss = 0 then bump z now (homeBase h.val + 0x0200)
    else if r.xmiss = 1 then bumpN z now (zmcBase + 0x0D60) 0 1
    else bumpN z now (zmcBase + 0x0D60) 16 1
  if orphan then (List.range r.lines).foldl (fun z _ => dropOrphan z now b r.port) z
  else if isWr r.kind then send z (.wrDone r.port r.tag true)
  else (List.range r.lines).foldl (fun z i => send z (.data r.port r.tag (r.addr + BitVec.ofNat 64 (64 * i)) 0 true 0 false false)) z

/-- A granted request enters the home with the course entries its grant took: each line has a lookup of its own at the end of stage 2 (R105,
R132), and is late work until it is served (R118). -/
def enterHome (z : Zmc) (now : Nat) (b : BayId) (n : Nat) (r : QReq) (took : Nat) (orph : Bool) : Zmc :=
  let h := bayHome b
  let orphan := orph || !liveFinal z r.port
  match r.dest with
  | none => answerMiss z now b r orphan
  | some (c, loc) =>
      let rid0 := z.homes[h].ridNext
      let reqs := (List.range r.lines).map (fun k => mkHReq r c loc k (rid0 + k) ((n + 6) * tuFck) orphan (decide (0 < took)))
      let late := reqs.map (fun x => (⟨x.mid, r.cls⟩ : Late))
      modHome z h (fun x => { x with
        ridNext := rid0 + r.lines, hrq := x.hrq ++ reqs
        gates := modV x.gates (crsIdx c) (fun g => { g with late := g.late ++ late }) })

/-- The data cycle of a write whose header cycle is n, and that it directly follows: the next cycle, or the first after a grant that P22 has
taken there (R88, R99). -/
def dataCycle (y : BaySt) (n : Nat) : Nat × Bool :=
  match y.next with
  | some g => (if g.write then n + 3 else n + 2, false)
  | none => (n + 1, true)

/-- A header transfers: a read enters the home, a write awaits its data cycle (R88). -/
def headerXfer (z : Zmc) (now : Nat) (b : BayId) (n : Nat) (r : QReq) (took : Nat) : Zmc :=
  let z := modBay z b (fun y => { y with q := removeFirst (fun x => x.rid == r.rid) y.q, vt := if r.cls.val = 2 then modV y.vt r.port (fun _ => r.s) else y.vt })
  let z := if r.mirror then z else bwAdd z (bayHome b) r.port (if isWr r.kind then 1 else 0) r.lines
  if isWr r.kind then modBay z b (fun y => { y with data := y.data ++ [⟨r.port, some r, (dataCycle y n).1, (dataCycle y n).2, false, took⟩] })
  else enterHome z now b n r took false

/-- The entries that a grant's decision took return (R90). -/
def untake (z : Zmc) (g : Grant) : Zmc := match g.crs with | some c => giveEnt z c g.write g.took | none => z

/-- A hollow grant: its entries and its charge return, nothing transfers, the cycle is used and counted (R87, R89, R109). -/
def hollow (z : Zmc) (now : Nat) (b : BayId) (g : Grant) : Zmc :=
  let z := untake z g
  let z := if g.chg = 0 then z else modHome z (bayHome b) (fun x => { x with bkt := tblPut x.bkt g.bkt { bktOf x g.bkt with tok := (bktOf x g.bkt).tok + g.chg } })
  bump z now (bayBase b.val + 0x0100)

/-- What the port presents in the grant's own cycle (R89, R104). -/
def presentsAt (z : Zmc) (b : BayId) (g : Grant) : Option QReq :=
  presented z b g.cyc g.cyc (z.bays[b].q.filter (fun r => decide (fckCyc r.arr < g.cyc))) g.port

/-- A second consecutive grant: the request that the port now presents transfers, when it is a read with room, and is charged now; the
entries its decision took return first (R89, R90, R109). -/
def secondXfer (z : Zmc) (now : Nat) (b : BayId) (g : Grant) : Zmc :=
  match presentsAt z b g with
  | none => hollow z now b g
  | some r =>
      if isWr r.kind ∨ !crsRoom (untake z g) r.dest false r.lines then hollow z now b g
      else
        let (z, took) := takeFor (untake z g) r
        headerXfer (chargeBkt z (bayHome b) (4 * r.port.val + r.cls.val) r.lines g.cyc).1 now b g.cyc r took

/-- The transfer of a granted cycle (R87, R89). A write that a second consecutive grant names was another request of the port from the start, so
its data cycle is set aside. -/
def transfer (z : Zmc) (now : Nat) (b : BayId) (g : Grant) : Zmc :=
  if !liveAtCyc z g.cyc g.port then
    let z := hollow z now b g
    if g.write then modBay z b (fun y => { y with data := y.data ++ [⟨g.port, none, (dataCycle y g.cyc).1, (dataCycle y g.cyc).2, true, 0⟩] }) else z
  else if g.second ∧ !g.write then secondXfer z now b g
  else
    match z.bays[b].q.find? (fun r => r.rid == g.rid) with
    | some r =>
        let z := if g.second then (chargeBkt z (bayHome b) g.bkt r.lines g.cyc).1 else z
        headerXfer z now b g.cyc r g.took
    | none => hollow z now b g

/-- A data cycle: the write enters the home, as poison when the port's data is not valid (R87). The spec does not say what makes the data not
valid: here it is that the port is masked off in that cycle (DESIGN CHOICE, log entry 96). -/
def dataXfer (z : Zmc) (now : Nat) (b : BayId) (d : DataCyc) : Zmc :=
  match d.req with
  | none => z
  | some r =>
      if liveAtCyc z d.cyc d.port then enterHome z now b d.cyc r d.took d.orph
      else
        let z := bump z now (bayBase b.val + 0x0120)
        let z := post z now (bayBase b.val + 0x18) 2
        enterHome z now b d.cyc { r with poison := true } d.took d.orph

/-- Transfers and data cycles of cycles before n that no BAY_GRANT has carried out yet. -/
def catchUp (z : Zmc) (now : Nat) (b : BayId) (n : Nat) : Zmc :=
  let y := z.bays[b]
  let z :=
    match y.next with
    | some g => if g.cyc < n then transfer (modBay z b (fun y => { y with next := none })) now b g else z
    | none => z
  let ds := z.bays[b].data.filter (fun d => decide (d.cyc < n))
  let z := modBay z b (fun y => { y with data := y.data.filter (fun d => decide (n ≤ d.cyc)) })
  ds.foldl (fun z d => dataXfer z now b d) z

/-- BAY_GRANT: one FCK cycle n of a bay: the decision for cycle n + 1, then the transfer of cycle n (R88 to R100). A cycle runs once. -/
def bayCycle (z : Zmc) (now : Nat) (b : BayId) : Zmc :=
  let n := fckCyc now
  if (match z.bays[b].ran with | some m => decide (n ≤ m) | none => false) then z
  else
    let z := trainHeads (catchUp z now b n) now b n
    let g := z.bays[b].next
    let z := decideGrant z now b n
    let z := match g with | some x => transfer z now b x | none => z
    let ds := z.bays[b].data.filter (fun d => d.cyc == n)
    let z := modBay z b (fun y => { y with data := y.data.filter (fun d => d.cyc != n), ran := some n })
    ds.foldl (fun z d => dataXfer z now b d) z

/-- The bay feeds a live course and its home is out of reset (R2). -/
def bayRuns (z : Zmc) (b : BayId) : Bool :=
  z.boot.phase == 7 && z.boot.hold == 0 && decide (z.pwr.st < 3) && bayThere z b

end Sys2Proof.Machine
end

