-- ==== Sys2Proof/Machine/Shape.lean ====
section
/-! DEFINITION. The homes' clocked work before arbitration: sweeps and the timing wheel (R110, R112), gate lists (R114 to R120), depth and
delay sampling (R121, R122) and bandwidth windows (R351). -/

namespace Sys2Proof.Machine

/-- The homes run: released or at least out of reset, and powered. -/
def homesRun (z : Zmc) : Bool := z.boot.hold == 0 && decide (4 ≤ z.boot.phase) && decide (z.pwr.st < 3)

/-- A bucket that registers or history give any state to. -/
def bktUsed (z : Zmc) (h : HomeId) (i : Nat) : Bool :=
  (tblFind z.homes[h].bkt i).isSome || (tblFind z.rg.reg (homeBase h.val + 0x1000 + 8 * i)).isSome

/-- SHAPER_SWEEP, once per µs: every bucket and marker of a home is refilled (R108, R110, R112). -/
def sweep (z : Zmc) (now : Nat) (h : HomeId) : Zmc :=
  let cyc := fckCyc now
  if now < z.homes[h].sweepAt + tuPerUs then z else
  let z := (List.range 96).foldl (fun z i =>
    if bktUsed z h i then
      let b := refill z h (bktOf z.homes[h] i) i cyc
      let b := if 0 ≤ b.tok then { b with wheel := none } else enterWheel z h b i cyc
      putBkt z h i b
    else z) z
  let z := (List.range 24).foldl (fun z p =>
    match tblFind z.homes[h].mark p with
    | some m => modHome z h (fun x => { x with mark := tblPut x.mark p (mrkRefill z h p cyc m) })
    | none => z) z
  modHome z h (fun x => { x with sweepAt := now })

/-- Every entry of a wheel slot reached expires: refill, and a new entry where the count is still negative, counted when the old one was the last
slot of the wheel. A charge of the same cycle comes after it (R112). -/
def wheelTurn (z : Zmc) (now : Nat) (h : HomeId) : Zmc :=
  let cyc := fckCyc now
  (List.range 96).foldl (fun z i =>
    let b := bktOf z.homes[h] i
    match b.wheel with
    | some s =>
        if s ≤ wheelSlot cyc then
          let r := refill z h { b with wheel := none, capped := false } i cyc
          let e := enterWheel z h { r with tok := r.tok + r.chg } i cyc
          let c := enterWheel z h { e with tok := e.tok - r.chg } i cyc
          let z := putBkt z h i c
          if b.capped ∧ e.wheel.isSome then bump z now (homeBase h.val + 0x1300) else z
        else z
    | none => z) z

/-! ### Gate lists -/

/-- The first instant base + N × cycle at or after `t` (R117). N is 0 or more: a base in the future is the first start (DEDUCED, log entry 97: the
rule calls N a whole number). -/
def gateStart (g : GList) (t : Nat) : Nat :=
  if t ≤ g.base then g.base
  else
    let cy := max g.cycle 1
    g.base + (t - g.base + cy - 1) / cy * cy

/-- Change a course's gate. -/
def modGate (z : Zmc) (c : CourseId) (f : Gate → Gate) : Zmc :=
  modHome z (homeOf c) (fun h => { h with gates := modV h.gates (crsIdx c) f })

/-- Local package time of a course's home. -/
def locNs (z : Zmc) (c : CourseId) (now : Nat) : Nat := homeNs z (homeOf c) (fckCyc now)

/-- A SET applied at the home: a list is armed with its start, or gate_en = 0 takes effect at once (R117). -/
def gateApply (z : Zmc) (c : CourseId) (now : Nat) : Zmc :=
  if getF z (gateReg c) 0 0 = 0 then modGate z c (fun gt => { late := gt.late })
  else
    let g := gateRegs z (homeOf c) (crsIdx c).val 0
    modGate z c (fun gt => { gt with armed := some { g with start := gateStart g (locNs z c now + 256) } })

/-- The armed list begins, which is posted (R117); a re-anchored one begins again without a post (R120). -/
def gateListStart (z : Zmc) (c : CourseId) (now : Nat) : Zmc :=
  let gt := z.homes[homeOf c].gates[crsIdx c]
  let due (o : Option GList) : Option GList := o.filter (fun g => g.start ≤ locNs z c now)
  match due gt.armed, due gt.again with
  | some g, _ => post (modGate z c (fun gt => gt.begin g)) now (gateReg c + 0x20) 3
  | none, some g => modGate z c (fun gt => gt.restart g)
  | none, none => z

/-- At a close with late work, the entry stays in force with the closing classes closed (R118). -/
def gateCloseAt (z : Zmc) (c : CourseId) (now : Nat) : Zmc :=
  let gt := z.homes[homeOf c].gates[crsIdx c]
  match gt.list with
  | some g => if gt.due (locNs z c now) && gt.hasLate g then modGate z c (fun gt => gt.overrun g) else z
  | none => z

/-- The last late request has been served: the overrun is added to the schedule offset and counted (R118). -/
def overrunDone (z : Zmc) (c : CourseId) (now : Nat) : Zmc :=
  let gt := z.homes[homeOf c].gates[crsIdx c]
  match gt.ovr with
  | some (cl, t) =>
      if gt.late.any (fun l => cl.contains l.cls) then z
      else
        let ov := (locNs z c now - t + 3) / 4 * 4
        let z := modGate z c (fun gt => { gt with ovr := none, hold := true, endAt := t + ov, off := min (gt.off + ov) (2 ^ 24 - 1), lint := gt.lint ++ cl })
        let z := bump z now (gateReg c + 0x30)
        let z := bumpN z now (gateReg c + 0x38) 0 ov
        post z now (gateReg c + 0x20) 0
  | none => z

/-- The next entry starts (R114, R119); after a re-anchor every class is open instead (R120). -/
def entryStart (z : Zmc) (c : CourseId) (now : Nat) : Zmc :=
  let z := gateCloseAt z c now
  let gt := z.homes[homeOf c].gates[crsIdx c]
  match gt.list with
  | some g => if gt.due (locNs z c now) then modGate z c (fun gt => gt.next g) else z
  | none => z

/-- The lintel of an open class starts (R115). -/
def lintelBegin (z : Zmc) (c : CourseId) (cls : Fin 4) (now : Nat) : Zmc :=
  let gt := z.homes[homeOf c].gates[crsIdx c]
  let open_ : Bool := match gt.list with | some g => g.opens gt.ent cls | none => false
  match lintelAt gt cls with
  | some x => if open_ && decide (x ≤ locNs z c now) && !gt.lint.contains cls then modGate z c (fun gt => { gt with lint := gt.lint ++ [cls] }) else z
  | none => z

/-- The home's local package time becomes `ns`; a step of more than 1 µs re-anchors its lists (R120). -/
def resyncHome (z : Zmc) (h : HomeId) (ns now : Nat) : Zmc :=
  let old := homeNs z h (fckCyc now)
  let skew : Int := (ns : Int) - (((z.pkg0 + fckCyc now * tuFck / tuPerNs) % 2 ^ 64 : Nat) : Int)
  let move := (ns : Int) - (old : Int)
  let z := modHome z h (fun x => { x with skew := skew })
  if move ≤ 1000 ∧ -1000 ≤ move then z
  else
    (List.range 8).foldl (fun z j =>
      let c := toCrs (8 * h.val + j)
      let gt := z.homes[h].gates[crsIdx c]
      match gt.list with
      | some g =>
          let e := ns + (gt.endAt - old)
          let z := modGate z c (fun gt => { gt with endAt := e, anchor := true, again := some { g with start := gateStart g (e + 256) } })
          post z now (gateReg c + 0x20) 2
      | none => z) z

/-! ### Sampling -/

/-- The bin of a sample (R121). -/
def latBin (v : Nat) : Nat := if v = 0 then 0 else min 15 (Nat.log2 v + 1)

/-- Enter a sample in a histogram and its maximum. -/
def latPut (h : HomeSt) (k v : Nat) : HomeSt :=
  let b := 16 * k + latBin v
  { h with hist := tblPut h.hist b (tblGet 0 h.hist b + 1)
           hmax := if (tblGet 0 h.hmax k).toNat < v then tblPut h.hmax k (BitVec.ofNat 32 v) else h.hmax }

/-- Requests of (port, class) queued in a home's bays. -/
def queuedOf (z : Zmc) (h : HomeId) (p : PortId) (c : Nat) : List QReq :=
  (List.range 4).flatMap (fun k => z.bays[toBay (4 * h.val + k)].q.filter (fun r => r.port == p && r.cls.val == c))

/-- A multiple of `us` µs of a home's local package time has come since the instant `last` (R121, R351). -/
def stepDue (z : Zmc) (h : HomeId) (now last us : Nat) : Bool := us != 0 && decide (homeNs z h (fckCyc now) % (us * 1000) < (now - last) / tuPerNs)

/-- The last sample's values enter the histograms. -/
def latFlush (h : HomeSt) : HomeSt := { h.latNew.foldl (fun h p => latPut h p.1 p.2) h with latNew := [] }

/-- LAT_SAMPLE: when a multiple of lat_int_us has passed since the last one, one sample of every (port, class): depth and delay of the oldest
(R121). Its values enter the histograms behind a copy of the same cycle (R122). -/
def latSampleAll (z : Zmc) (now : Nat) (h : HomeId) : Zmc :=
  let us := getF z (homeBase h.val + 0x1A00) 9 0
  let sh := getF z (homeBase h.val + 0x1A00) 13 10
  if !stepDue z h now z.homes[h].latAt us then z
  else
    let vals := (List.range 96).flatMap (fun i =>
      let q := queuedOf z h (toPort (i / 4)) (i % 4)
      let age := q.foldl (fun a r => max a (now - r.arr)) 0
      [(2 * i, q.length), (2 * i + 1, age / tuPerNs / (4 * 2 ^ sh))])
    modHome z h (fun x => { latFlush x with latNew := vals, latAt := now })

/-- A write to HOME_LAT_SEL: the selected histogram and its maximum are copied, and cleared when clr is 1; a sample of the same home cycle comes
after it (R122). -/
def latCopy (z : Zmc) (now : Nat) (h : HomeId) (v : Word) : Zmc :=
  let z := if fckCyc z.homes[h].latAt < fckCyc now then modHome z h latFlush else z
  let b := homeBase h.val
  let p := bitsOf v 4 0
  let k := 2 * (4 * p + bitsOf v 6 5) + bitsOf v 7 7
  let x := z.homes[h]
  let z := putWord z (b + 0x1A08) (v &&& 0xFF#32)
  let z := (List.range 16).foldl (fun z j => putWord z (b + 0x1A10 + 4 * j) (if p < 24 then tblGet 0 x.hist (16 * k + j) else 0)) z
  let z := putWord z (b + 0x1A50) (if p < 24 then tblGet 0 x.hmax k else 0)
  if bitsOf v 8 8 = 1 ∧ p < 24 then
    modHome z h (fun x => { x with hist := (List.range 16).foldl (fun m j => tblDel m (16 * k + j)) x.hist, hmax := tblDel x.hmax k })
  else z

/-- BW_WINDOW_CLOSE at a multiple of bw_win_us: lines counted since the last latch go to the port registers and bw_seq advances (R351). -/
def bwClose (z : Zmc) (now : Nat) (h : HomeId) : Zmc :=
  let b := homeBase h.val + 0x3C00
  let bw := z.homes[h].bw
  if z.hod.frozen ∨ !stepDue z h now z.homes[h].bwAt (getF z b 15 0) then z else
  let z := (List.range 24).foldl (fun z p =>
    (List.range 3).foldl (fun z k => putWord z (b + 0x40 + 16 * p + 4 * k) (tblGet 0 bw (4 * p + k))) z) z
  let z := setF z b 31 16 ((getF z b 31 16 + 1) % 65536)
  modHome z h (fun x => { x with bw := [], bwAt := now })

end Sys2Proof.Machine
end

