-- ==== Sys2Proof/Machine/HomeDir.lean ====
section
/-! DEFINITION. The directory pipeline of a home: lookups (R131 to R134), snoops (R135), writeback merging (R136), hold windows (R137),
the footing write buffer (R142) and encryption (R275 to R278). -/

namespace Sys2Proof.Machine

/-! ### Footing bytes -/

/-- Sharer group of a port (Table 7-4). -/
def groupOf (p : PortId) : Nat := if p.val < 16 then p.val / 4 else if p.val < 20 then 4 else 5

/-- Ports of a sharer group. -/
def groupPorts (g : Nat) : List PortId :=
  if g < 5 then [toPort (4 * g), toPort (4 * g + 1), toPort (4 * g + 2), toPort (4 * g + 3)] else [20]

/-- What a footing byte says (Table 7-3). -/
inductive DState where
  | uncached
  | owned (p : PortId)
  | shared (v : BitVec 6)
  deriving DecidableEq, Repr

/-- Decode a footing byte; the flag marks a reserved encoding, handled as vector 0x3F (Table 7-3). -/
def dirDec (b : Byte) : DState × Bool :=
  let v := b.toNat % 128
  if b.getLsbD 7 then (if 1 ≤ v ∧ v < 64 then (.shared (BitVec.ofNat 6 v), false) else (.shared 0x3F, true))
  else if v = 0 then (.uncached, false)
  else if v ≤ 24 then (.owned (toPort (v - 1)), false)
  else (.shared 0x3F, true)

/-- Encode a directory state (Table 7-3). -/
def dirEnc (s : DState) : Byte :=
  match s with
  | .uncached => 0
  | .owned p => BitVec.ofNat 8 (p.val + 1)
  | .shared v => BitVec.ofNat 8 (128 + v.toNat)

/-- A sharer vector with a port's group added. -/
def addGroup (v : BitVec 6) (p : PortId) : BitVec 6 := v ||| (1#6 <<< groupOf p)

/-- The ports of a vector, less one. -/
def vecPorts (v : BitVec 6) (except : PortId) : List PortId :=
  ((List.range 6).flatMap (fun g => if v.getLsbD g then groupPorts g else [])).filter (fun p => p != except)

/-! ### The directory cache -/

/-- Set and tag of a line (R131). -/
def dirIdx (c : CourseId) (line : Nat) : Nat × Nat :=
  let q := line / 4
  let hi := q / 65536 % 32768
  ((q % 65536) ^^^ hi ^^^ ((crsIdx c).val * 8192), (crsIdx c).val * 32768 + hi)

/-- The way that holds a line's sector. -/
def dirWay (h : HomeSt) (c : CourseId) (line : Nat) : Option Nat :=
  let (set, tag) := dirIdx c line
  (List.range 16).find? (fun w => match tblFind h.dir (16 * set + w) with | some e => e.tag == tag | none => false)

/-- The entry that holds a line's sector, with its key. -/
def dirEntry (h : HomeSt) (c : CourseId) (line : Nat) : Option (Nat × DirEnt) :=
  match dirWay h c line with
  | none => none
  | some w => let k := 16 * (dirIdx c line).1 + w; (tblFind h.dir k).map (fun e => (k, e))

/-- Lines busy by a request past its lookup, a hold window, a mirror acknowledgement outstanding or a memory write waiting (R139, R367). -/
def busyLine (z : Zmc) (hid : HomeId) (c : CourseId) (line : Nat) : Bool :=
  let h := z.homes[hid]
  h.hrq.any (fun r => r.ph != .look && r.crs == c && r.line == line) ||
  h.holds.any (fun w => w.crs == c && w.line == line) ||
  h.wrPend.any (fun p => p.1 == c && p.2.line == line) ||
  z.pair.acks.any (fun a => decodeAddr z hid a.toNat == some (c, line * 64)) ||
  z.pair.flight.any (fun f => f.home == hid.val && decodeAddr z hid f.addr == some (c, line * 64))

/-- Course and sector of a directory entry at key `k`. -/
def entSector (hid : HomeId) (k : Nat) (e : DirEnt) : CourseId × Nat :=
  let c := toCrs (8 * hid.val + e.tag / 32768 % 8)
  let hi := e.tag % 32768
  (c, hi * 65536 + ((k / 16) ^^^ hi ^^^ ((crsIdx c).val * 8192)) % 65536)

/-- Mark a way recently used: each node on its path points to the other half. A node's bit 0 marks its lower half less recently used. -/
def lruTouch (t : BitVec 15) (w : Nat) : BitVec 15 :=
  let set (t : BitVec 15) (node : Nat) (lowUsed : Bool) : BitVec 15 := if lowUsed then t ||| (1#15 <<< node) else t &&& ~~~(1#15 <<< node)
  let n1 := 1 + w / 8
  let n2 := 3 + w / 4
  let n3 := 7 + w / 2
  set (set (set (set t 0 (decide (w < 8))) n1 (decide (w % 8 < 4))) n2 (decide (w % 4 < 2))) n3 (decide (w % 2 = 0))

/-- Walk the tree from a node that covers `n` ways from `lo` to an unpinned way (R142). -/
def lruWalk (t : BitVec 15) (pin : Nat → Bool) : Nat → Nat → Nat → Nat → Nat
  | 0, _, lo, _ => lo
  | d + 1, node, lo, n =>
      let half := n / 2
      let lowFree := (List.range half).any (fun i => !pin (lo + i))
      let hiFree := (List.range half).any (fun i => !pin (lo + half + i))
      let goHi := if t.getLsbD node then hiFree else !lowFree
      if goHi then lruWalk t pin d (2 * node + 2) (lo + half) half else lruWalk t pin d (2 * node + 1) lo half

/-- The tree state of a set. -/
def lruOf (h : HomeSt) (set : Nat) : BitVec 15 := tblGet 0 h.lru set

/-- Touch a way of a set. -/
def touchWay (z : Zmc) (hid : HomeId) (set w : Nat) : Zmc :=
  modHome z hid (fun h => { h with lru := tblPut h.lru set (lruTouch (lruOf h set) w) })

/-- Busy lines of an entry's sector: its 6-bit pin count (R131, R140), which follows from the requests, windows and writes in the home. -/
def pinCount (z : Zmc) (hid : HomeId) (k : Nat) (e : DirEnt) : BitVec 6 :=
  let (c, q) := entSector hid k e
  BitVec.ofNat 6 ((List.range 4).filter (fun i => busyLine z hid c (4 * q + i))).length

/-- The entry's sector has a busy line (R140). -/
def pinnedEnt (z : Zmc) (hid : HomeId) (k : Nat) (e : DirEnt) : Bool := pinCount z hid k e != 0

/-- A line's footing byte in the cache; `none` when the sector is not cached or its bytes have not arrived. -/
def dirByte (h : HomeSt) (c : CourseId) (line : Nat) : Option Byte :=
  match dirEntry h c line with
  | some (_, e) => if e.pend then none else some e.bytes[toFin 4 (by decide) (line % 4)]
  | none => none

/-- Set a line's directory state in its cached entry. -/
def dirSet (z : Zmc) (hid : HomeId) (c : CourseId) (line : Nat) (s : DState) : Zmc :=
  modHome z hid (fun h =>
    match dirEntry h c line with
    | some (k, e) =>
        let i := toFin 4 (by decide) (line % 4)
        if e.bytes[i] = dirEnc s then h
        else { h with dir := tblPut h.dir k { e with bytes := modV e.bytes i (fun _ => dirEnc s), dirty := true } }
    | none => h)

/-! ### The footing write buffer -/

/-- Footing line of a line, and the byte within it (R127). -/
def ftgLine (z : Zmc) (c : CourseId) (line : Nat) : Nat := ftgStart z.cinfo[c] / 64 + line / 64

/-- Byte `i` of a line of data. -/
def lineByte (d : Line) (i : Nat) : Byte := d.extractLsb' (8 * i) 8

/-- Replace byte `i`. -/
def setByte (d : Line) (i : Nat) (b : Byte) : Line := (d &&& ~~~((0xFF#512) <<< (8 * i))) ||| (b.setWidth 512 <<< (8 * i))

/-- Merge the masked bytes of `n` into `d`. -/
def mergeBytes (d n : Line) (m : BitVec 64) : Line :=
  (List.range 64).foldl (fun a i => if m.getLsbD i then setByte a i (lineByte n i) else a) d

/-- A line whose every byte is 0xBF (R130). -/
def allBF : Line := (List.range 64).foldl (fun a i => setByte a i 0xBF) 0

/-- An entry of that footing line not yet draining exists, or the buffer has room (R142). -/
def fwbRoom (h : HomeSt) (c : CourseId) (f : Nat) : Bool :=
  h.fwb.any (fun x => x.crs == c && x.ftg == f && x.drain == 0) || decide (h.fwb.length < 64)

/-- Bytes bound for a footing line join its entry not yet draining, or take a new one (R142). -/
def fwbAdd (z : Zmc) (hid : HomeId) (c : CourseId) (f : Nat) (m : BitVec 64) (d : Line) : Zmc :=
  modHome z hid (fun h =>
    if h.fwb.any (fun x => x.crs == c && x.ftg == f && x.drain == 0) then
      let up : Fwb → Fwb := fun x => { x with mask := x.mask ||| m, data := mergeBytes x.data d m }
      { h with fwb := replaceFirst (fun x => x.crs == c && x.ftg == f && x.drain == 0) up h.fwb }
    else { h with fwb := h.fwb ++ [⟨c, f, m, d, 0, 0⟩] })

/-- A byte as the newest buffer entry that holds it gives it (R142). -/
def fwbByte (h : HomeSt) (c : CourseId) (f i : Nat) : Option Byte :=
  (h.fwb.reverse.find? (fun x => x.crs == c && x.ftg == f && x.mask.getLsbD i)).map (fun x => lineByte x.data i)

/-- The four bytes of a sector and their mask within the footing line. -/
def sectorMask (line : Nat) : BitVec 64 := 0xF#64 <<< (line / 4 % 16 * 4)

/-- The bytes of an entry at their places in the footing line. -/
def sectorData (line : Nat) (b : Vector Byte 4) : Line :=
  (List.range 4).foldl (fun a i => setByte a (line / 4 % 16 * 4 + i) b[toFin 4 (by decide) i]) 0

/-! ### Keys and encryption -/

/-- The slot a key ID names is empty: no key, or an INVASIVE level (R274, R308). -/
def slotEmpty (z : Zmc) (key : BitVec 10) : Bool := z.dbg.level == 2 || (tblFind z.keys.slots key.toNat).isNone

/-- An engine uses a key ID: its cache is least recently used over 32, a miss loads the key (R276). -/
def useKey (z : Zmc) (now : Nat) (b : BayId) (key : BitVec 10) : Zmc :=
  let c := z.keys.cache[b]
  let k := key.toNat
  let z := if c.contains k then z else bump z now (homeBase (bayHome b).val + 0x3440)
  { z with keys := { z.keys with cache := modV z.keys.cache b (fun l => (k :: l.filter (fun x => x != k)).take 32) } }

/-- A request has named an empty slot (R277, R278). -/
def keyEmpty (z : Zmc) (now : Nat) (h : HomeId) : Zmc := post (bump z now (homeBase h.val + 0x3448)) now (homeBase h.val + 0x3400) 0

/-- The stored form of a write (R278): data, poison. -/
def encryptLine (z : Zmc) (now : Nat) (c : CourseId) (key : BitVec 10) (addr : BitVec 64) (d : Line) (poison : Bool) : Zmc × Line × Bool :=
  if key = 0 then (z, d, poison)
  else if slotEmpty z key then (keyEmpty z now (homeOf c), 0, true)
  else
    let z := useKey z now (bayOf c) key
    match tblFind z.keys.slots key.toNat with
    | some s => (z, xtsLine false s.k1 s.k2 (addr &&& ~~~0x3F#64) d, poison)
    | none => (z, 0, true)

/-- The returned form of stored data that the decoder found good (R277): data, poison. -/
def decryptLine (z : Zmc) (now : Nat) (c : CourseId) (key : BitVec 10) (addr : BitVec 64) (d : Line) : Zmc × Line × Bool :=
  if key = 0 then (z, d, false)
  else if d = 0 then (bump z now (homeBase (homeOf c).val + 0x3450), 0, false)
  else if slotEmpty z key then (keyEmpty z now (homeOf c), 0, true)
  else
    let z := useKey z now (bayOf c) key
    match tblFind z.keys.slots key.toNat with
    | some s => (z, xtsLine true s.k1 s.k2 (addr &&& ~~~0x3F#64) d, false)
    | none => (z, 0, true)

/-! ### Traffic to the course and to the partner -/

/-- Send a request over the home-course joint. A course in reset or powered off gives a dead indication (R15): a read then comes back as poison,
and a write is lost and its entry returns, as for a fenced course (R213). -/
def toCourse (z : Zmc) (now : Nat) (c : CourseId) (r : JReq) : Zmc :=
  if powered z c then { z with jreq := modV z.jreq c (fun l => l ++ [r]) }
  else
    let z := jDiscard z now (16 + (homeOf c).val)
    if r.write then { bumpN z now (crsBase c.val + 0x08E0) 16 1 with jsts := modV z.jsts c (fun l => l ++ [if r.wb then .wb else .wr, .served r.id]) }
    else { z with jdat := modV z.jdat c (fun l => l ++ [⟨r.id, r.line, 0, true, false, false⟩]), jsts := modV z.jsts c (fun l => l ++ [.served r.id]) }

/-- Write memory with an entry reserved for writebacks, waiting for one where none is free (R125). -/
def memWrite (z : Zmc) (now : Nat) (c : CourseId) (r : JReq) : Zmc :=
  let h := homeOf c
  if z.homes[h].wbFree[crsIdx c] = 0 ∨ z.homes[h].wrPend.any (fun p => p.1 == c) then modHome z h (fun x => { x with wrPend := x.wrPend ++ [(c, r)] })
  else toCourse (modHome z h (fun x => { x with wbFree := modV x.wbFree (crsIdx c) (fun k => k - 1) })) now c r

/-- The primary range of an address, when writes to it go to the partner: MIRRORED, FAILOVER or RESYNC (Table 19-1). -/
def mirRange (z : Zmc) (a : Nat) : Option Nat :=
  match mirFind z 0 a with
  | some r => let st := z.pair.mirs[toFin 8 (by decide) r].st; if st = 1 ∨ st = 3 ∨ st = 4 then some r else none
  | none => none

/-- Lines of the range on course c are served from the partner (fo_mask, R372). -/
def foLine (z : Zmc) (r : Nat) (c : CourseId) : Bool :=
  let m := z.pair.mirs[toFin 8 (by decide) r]
  m.st == 3 && m.fo.getLsbD c.val

/-- Reads of a line come from the partner: a failed-over line, or one that a pull has not copied yet (R372). -/
def peerLine (z : Zmc) (r : Nat) (c : CourseId) (a : Nat) : Bool :=
  let m := z.pair.mirs[toFin 8 (by decide) r]
  let h := homeOf c
  foLine z r c || (m.st == 4 && m.pull && decide (m.pos[h] ≤ a - (mirDesc (wordAt z) r).base) &&
    !m.frs.contains (c.val * 2 ^ 17 + (match decodeAddr z h a with | some (_, l) => l / 2 ^ 22 | none => 0)))

/-- The range in use whose cut-short pull has left a line without a good copy (R372). -/
def lostLine (z : Zmc) (c : CourseId) (a : Nat) : Option Nat :=
  match mirFind z 0 a with
  | some r =>
      let m := z.pair.mirs[toFin 8 (by decide) r]
      let o := a - (mirDesc (wordAt z) r).base
      if m.lose ∧ m.lpos[homeOf c] ≤ o ∧ !m.kept.contains (o / 64) then some r else none
  | none => none

/-- The course's own copy of a line is good to read. -/
def localLine (z : Zmc) (c : CourseId) (a : Nat) : Bool :=
  (lostLine z c a).isNone && (match mirRange z a with | some k => !peerLine z k c a | none => true)

/-- A write of a line to the course: a lost line is good again (R372), and a fetch of it writes nothing back (R369). -/
def noteWrite (z : Zmc) (c : CourseId) (line a : Nat) : Zmc :=
  let z :=
    match lostLine z c a with
    | some r =>
        let f := toFin 8 (by decide) r
        { z with pair := { z.pair with mirs := modV z.pair.mirs f (fun m => { m with kept := (a - (mirDesc (wordAt z) r).base) / 64 :: m.kept }) } }
    | none => z
  if z.pair.reads.any (fun p => p.2.2 && p.1.toNat / 64 == a / 64) then { z with pair := { z.pair with stale := (c.val * 2 ^ 33 + line) :: z.pair.stale } } else z

/-- The partner's address of a line of a range (R366). -/
def peerAddr (z : Zmc) (r : Nat) (a : BitVec 64) : BitVec 64 := let d := mirDesc (wordAt z) r; a - BitVec.ofNat 64 d.base + BitVec.ofNat 64 d.peer

/-- Send a mirror write and make the line busy until its acknowledgement (R367). -/
def mirrorWr (z : Zmc) (now r : Nat) (a : BitVec 64) (d : Line) (poison : Bool) : Zmc :=
  let z := send z (.mirWrite (peerAddr z r a) d poison z.pair.lvlRun)
  let z := bump z now (zmcBase + 0x0D40)
  { z with pair := { z.pair with acks := z.pair.acks ++ [a &&& ~~~0x3F#64] } }

/-! ### Responses -/

/-- Change a home request. -/
def modReq (z : Zmc) (h : HomeId) (rid : Nat) (f : HReq → HReq) : Zmc :=
  modHome z h (fun x => { x with hrq := replaceFirst (fun r => r.rid == rid) f x.hrq })

/-- The request ends: it leaves the home request queue. One that sent the course nothing is no late work any more (R118). -/
def endReq (z : Zmc) (h : HomeId) (rid : Nat) : Zmc :=
  let z :=
    match z.homes[h].hrq.find? (fun r => r.rid == rid) with
    | some r => if r.sent then z else modGate z r.crs (fun g => { g with late := g.late.filter (fun x => x.rid != r.mid) })
    | none => z
  modHome z h (fun x => { x with hrq := removeFirst (fun r => r.rid == rid) x.hrq })

/-- A request that will not use the course entry it holds returns it: the spec gives no other way back for it (DESIGN CHOICE, log entry 98). -/
def dropEnt (z : Zmc) (r : HReq) : Zmc :=
  if r.ent then modReq (giveEnt z r.crs (isWr r.kind) 1) (homeOf r.crs) r.rid (fun x => { x with ent := false }) else z

/-- Send the data read of a request: with the entry it holds, else with one that is free, else when one comes back (R90, R145). -/
def sendRead (z : Zmc) (now : Nat) (r : HReq) : Zmc :=
  let h := homeOf r.crs
  if !r.ent ∧ z.homes[h].rdFree[crsIdx r.crs] = 0 then modReq z h r.rid (fun x => { x with need := true })
  else
    let z := if r.ent then z else takeEnt z r.crs false 1
    let z := modReq z h r.rid (fun x => { x with ent := false, sent := true, need := false })
    toCourse z now r.crs { id := r.mid, write := false, line := r.line, data := 0, poison := false, port := r.port.val, wb := false, ftg := false }

/-- hold_fck of a home. -/
def holdFck (z : Zmc) (h : HomeId) : Nat := getF z (homeBase h.val + 0x3000) 11 0

/-- Each request that waits for a line in a hold window of another port is counted once (R137). -/
def countHeld (z : Zmc) (now : Nat) (h : HomeId) : Zmc :=
  z.homes[h].hrq.foldl (fun z r =>
    if r.ph == .look && decide (r.dueAt ≤ now) && !r.holdCnt && !r.mirror && z.homes[h].holds.any (fun w => w.crs == r.crs && w.line == r.line && w.port != r.port) then
      modReq (bump z now (homeBase h.val + 0x3070)) h r.rid (fun x => { x with holdCnt := true })
    else z) z

/-- The grant of E leaves the home: the hold window opens (R137). -/
def openHold (z : Zmc) (now : Nat) (r : HReq) : Zmc :=
  let h := homeOf r.crs
  if holdFck z h = 0 then z
  else countHeld (modHome z h (fun x => { x with holds := x.holds ++ [⟨r.crs, r.line, r.port, now + holdFck z h * tuFck⟩] })) now h

/-- Return data to a requester, with the fresh indication of a zero line (R264), and end the request; an orphan's response is dropped (R86).
A line that the resync engine read goes to the partner as a mirror write (R373). -/
def respondLine (z : Zmc) (now : Nat) (r : HReq) (d : Line) (poison dirty fresh : Bool) : Zmc :=
  let h := homeOf r.crs
  let z :=
    if r.orphan then dropOrphan z now (bayOf r.crs) r.port
    else if r.mirror then
      (if z.pair.flight.any (fun f => f.addr == r.addr.toNat && !f.pull) then
        (match mirFind z 0 r.addr.toNat with | some k => mirrorWr z now k r.addr (if poison then 0 else d) poison | none => z)
      else send z (.mirData r.addr (if poison then none else some d)))
    else
      let z := send z (.data r.port r.tag r.addr (if poison then 0 else d) poison r.grant dirty fresh)
      if r.grant = 2 then openHold z now r else z
  endReq z h r.rid

/-- Return data that is no zero line of a fresh region. -/
def respondData (z : Zmc) (now : Nat) (r : HReq) (d : Line) (poison dirty : Bool) : Zmc := respondLine z now r d poison dirty false

/-- Complete a write and end the request. -/
def respondWr (z : Zmc) (now : Nat) (r : HReq) (poison : Bool) : Zmc :=
  let z :=
    if r.orphan then dropOrphan z now (bayOf r.crs) r.port
    else if r.mirror then send z (.mirAck r.addr)
    else send z (.wrDone r.port r.tag poison)
  endReq z (homeOf r.crs) r.rid

/-- The line of a request is written to the course with the entry the request holds. -/
def sendWrite (z : Zmc) (now : Nat) (r : HReq) (d : Line) (poison : Bool) : Zmc :=
  let z := modReq z (homeOf r.crs) r.rid (fun x => { x with ent := false, sent := true })
  toCourse z now r.crs { id := r.mid, write := true, line := r.line, data := d, poison, port := r.port.val, wb := false, ftg := false }

/-- A write passes the directory: stored form to the course and to the partner; the completion waits for the partner's acknowledgement
(R20, R278, R367). A write to a course that has died on the way completes with the poison indication (R15). -/
def doWrite (z : Zmc) (now : Nat) (r : HReq) (d : Line) (poison : Bool) : Zmc :=
  let (z, d, poison) := if r.mirror then (z, d, poison) else encryptLine z now r.crs r.key r.addr d poison
  let z := noteWrite z r.crs r.line r.addr.toNat
  let rng := if r.mirror then none else mirRange z r.addr.toNat
  let only := match rng with | some k => foLine z k r.crs | none => false
  let z := if only then dropEnt z r else sendWrite z now r d poison
  match rng with
  | some k => modReq (mirrorWr z now k r.addr d poison) (homeOf r.crs) r.rid (fun x => { x with ph := .peer, poison := poison })
  | none => respondWr z now r (!powered z r.crs)

/-- A request for memory data: served from the partner where the range's line is failed over, from an early speculative read, or by a
read of the course (R133, R134, R372). -/
def readMem (z : Zmc) (now : Nat) (r : HReq) : Zmc :=
  let h := homeOf r.crs
  let z := modReq z h r.rid (fun x => { x with ph := .mem, grant := r.grant })
  if (lostLine z r.crs r.addr.toNat).isSome then respondData (dropEnt z r) now r 0 true false
  else match (mirRange z r.addr.toNat).filter (fun k => peerLine z k r.crs r.addr.toNat) with
  | some k =>
      let z := dropEnt z r
      let z := send z (.mirRead (peerAddr z k r.addr) z.pair.lvlRun)
      let z := modReq z h r.rid (fun x => { x with ph := .peer })
      { z with pair := { z.pair with reads := z.pair.reads ++ [(r.addr, r.rid, false)] } }
  | none => if r.sent then z else sendRead z now r

/-- Memory data for a request at the home (R277, R360, R369). -/
def memData (z : Zmc) (now : Nat) (r : HReq) (j : JData) : Zmc :=
  if j.fresh then respondLine z now r 0 false false true
  else if r.mirror then respondData z now r j.data (j.poison || j.uncor) false
  else if j.uncor ∧ getF z (zmcBase + 0x0C00) 12 12 = 1 ∧
      (match mirFind z 0 r.addr.toNat with | some k => z.pair.mirs[toFin 8 (by decide) k].st == 1 | none => false) = true then
    let k := match mirFind z 0 r.addr.toNat with | some k => k | none => 0
    let z := send z (.mirRead (peerAddr z k r.addr) z.pair.lvlRun)
    let z := modReq z (homeOf r.crs) r.rid (fun x => { x with ph := .peer })
    { z with pair := { z.pair with reads := z.pair.reads ++ [(r.addr, r.rid, true)] } }
  else if j.uncor || j.poison then respondData z now r 0 true false
  else
    let (z, d, p) := decryptLine z now r.crs r.key r.addr j.data
    respondData z now r d p false

/-- Memory data, at once when a speculative read has already returned it. -/
def wantMem (z : Zmc) (now : Nat) (r : HReq) : Zmc :=
  let z := readMem z now r
  match r.spec with
  | some j =>
      match (z.homes[homeOf r.crs].hrq.find? (fun x => x.rid == r.rid)) with
      | some x => if x.ph = .mem then memData z now x j else z
      | none => z
  | none => z

/-! ### Coherence actions (Table 7-5) -/

/-- proto_cnt. -/
def protoCnt (z : Zmc) (now : Nat) (h : HomeId) : Zmc := bumpN z now (homeBase h.val + 0x3098) 0 1

/-- The footing bytes show an owner: a speculative read is discarded and counted, and data still needed from memory is read anew, under another
number (R133). -/
def wasteSpec (z : Zmc) (now : Nat) (r : HReq) : Zmc × HReq :=
  if !r.sent then (z, r)
  else
    let h := homeOf r.crs
    let mid := z.homes[h].ridNext
    let z := bump z now (homeBase h.val + 0x3050)
    let z := modHome z h (fun x => { x with ridNext := mid + 1 })
    let z := modGate z r.crs (fun g => { g with late := g.late.map (fun x => if x.rid = r.mid then { x with rid := mid } else x) })
    let r := { r with mid := mid, sent := false, spec := none }
    (modReq z h r.rid (fun _ => r), r)

/-- Every snoop of a request has been answered (Table 7-5). -/
def snoopsDone (z : Zmc) (now : Nat) (r : HReq) : Zmc :=
  let h := homeOf r.crs
  let st := (dirDec r.byte).1
  match r.kind with
  | .wrFull => doWrite (dirSet z h r.crs r.line .uncached) now r r.data r.poison
  | .rdShared | .rdCur =>
      let z := match st with
        | .owned a => dirSet z h r.crs r.line (.shared (if r.kind = ReqKind.rdShared then addGroup (addGroup 0 a) r.port else addGroup 0 a))
        | _ => z
      let r := { r with grant := 1 }
      match r.snpData with
      | some d =>
          let z := dropEnt z r
          let (z, e, p) := encryptLine z now r.crs r.key r.addr d false
          let z := memWrite z now r.crs { id := 0, write := true, line := r.line, data := e, poison := p, port := r.port.val, wb := true, ftg := false }
          let z := match mirRange z r.addr.toNat with | some k => mirrorWr z now k r.addr e p | none => z
          respondData z now r d false false
      | none => wantMem z now r
  | .rdOwn | .upgrade =>
      let z := dirSet z h r.crs r.line (.owned r.port)
      let r := { r with grant := 2 }
      match r.snpData with
      | some d => respondData (dropEnt z r) now r d false true
      | none =>
          let noData : Bool := match st with | .shared v => r.kind == .upgrade && v.getLsbD (groupOf r.port) | _ => false
          if noData then
            let z := dropEnt z r
            let z := if r.orphan then dropOrphan z now (bayOf r.crs) r.port else openHold (send z (.grantE r.port r.tag)) now r
            endReq z h r.rid
          else wantMem z now r

/-- Send the snoops of a request; ports not live are answered for it (R134, R135). -/
def sendSnoops (z : Zmc) (now : Nat) (r : HReq) (ps : List PortId) (inv owner : Bool) : Zmc :=
  let h := homeOf r.crs
  let cyc := fckCyc now
  let dead := ps.filter (fun p => !liveAtCyc z cyc p)
  let live := ps.filter (fun p => liveAtCyc z cyc p)
  let z := bumpN z now (homeBase h.val + 0x3060) 0 dead.length
  let z := if owner ∧ !dead.isEmpty then
      let z := post z now (homeBase h.val + 0x3008) 1
      evPost z now 0x0033 (16 + h.val) r.crs.val (fmtB (ps.headD 0).val r.port.val r.addr)
    else z
  let z := live.foldl (fun z p => send z (.snoop p r.addr inv)) z
  let z := bumpN z now (homeBase h.val + 0x3058) 0 live.length
  let r := { r with ph := .snoop, snps := live.map (fun p => (p, now)) }
  let z := modReq z h r.rid (fun _ => r)
  if live.isEmpty then snoopsDone z now r else z

/-- Table 7-5 for a request whose line's footing byte is known. -/
def actOn (z : Zmc) (now : Nat) (r : HReq) (byte : Byte) : Zmc :=
  let h := homeOf r.crs
  let st := (dirDec byte).1
  let r := { r with byte := dirEnc st }
  match st with
  | .uncached =>
      match r.kind with
      | .wrFull => doWrite z now r r.data r.poison
      | .rdCur => wantMem z now { r with grant := 0 }
      | .rdShared =>
          if getF z (homeBase h.val + 0x3000) 13 13 = 1 then wantMem (dirSet z h r.crs r.line (.owned r.port)) now { r with grant := 2 }
          else wantMem (dirSet z h r.crs r.line (.shared (addGroup 0 r.port))) now { r with grant := 1 }
      | .rdOwn | .upgrade => wantMem (dirSet z h r.crs r.line (.owned r.port)) now { r with grant := 2 }
  | .owned a =>
      if a = r.port then
        let z := protoCnt z now h
        let (z, r) := wasteSpec z now r
        let (z, r) := if isWr r.kind then (dropEnt z r, { r with ent := false }) else (z, r)
        let r := { r with kind := .rdCur, grant := 0 }
        wantMem (modReq z h r.rid (fun x => { x with kind := r.kind })) now r
      else
        let (z, r) := wasteSpec z now r
        sendSnoops z now r [a] (r.kind != .rdShared && r.kind != .rdCur) true
  | .shared v =>
      match r.kind with
      | .rdShared => wantMem (dirSet z h r.crs r.line (.shared (addGroup v r.port))) now { r with grant := 1 }
      | .rdCur => wantMem z now { r with grant := 1 }
      | .rdOwn | .upgrade | .wrFull => sendSnoops z now r (vecPorts v r.port) true false

/-! ### Lookup -/

/-- Table 7-5 for a writeback of port `p` to a line whose footing byte is cached: the state, and whether its data is stored. -/
def wbDir (z : Zmc) (now : Nat) (hid : HomeId) (c : CourseId) (line : Nat) (p : PortId) (k : WbKind) : Zmc × Bool :=
  match (dirByte z.homes[hid] c line).map (fun b => (dirDec b).1) with
  | some (.owned a) => if a = p then (dirSet z hid c line .uncached, k == .wbDirty) else (protoCnt z now hid, false)
  | some (.shared v) =>
      if k = .wbClean ∧ v.getLsbD (groupOf p) then
        let v' := v &&& ~~~0x20#6
        (if p.val = 20 then dirSet z hid c line (if v' = 0 then .uncached else .shared v') else z, false)
      else (protoCnt z now hid, false)
  | some .uncached => (protoCnt z now hid, false)
  | none => (z, false)

/-- The footing bytes of sector `q` have come into the cache: writebacks merged before are applied to them, oldest first (R134, R136). -/
def lateWbs (z : Zmc) (now : Nat) (hid : HomeId) (c : CourseId) (q : Nat) : Zmc :=
  let mine (e : CourseId × Nat × PortId × WbKind) : Bool := e.1 == c && e.2.1 / 4 == q
  let l := z.homes[hid].wbLate.filter mine
  let z := modHome z hid (fun h => { h with wbLate := h.wbLate.filter (fun e => !mine e) })
  l.foldl (fun z e => (wbDir z now hid c e.2.1 e.2.2.1 e.2.2.2).1) z

/-- Footing bytes as the home takes them: a reserved value becomes vector 0x3F and is counted (R128). Answers the bytes and how many. -/
def ftgTake (l : List Byte) : List Byte × Nat := (l.map (fun b => dirEnc (dirDec b).1), (l.filter (fun b => (dirDec b).2)).length)

/-- dir_bad_cnt. -/
def dirBad (z : Zmc) (now : Nat) (hid : HomeId) (k : Nat) : Zmc := if k = 0 then z else bumpN z now (homeBase hid.val + 0x3090) 16 k

/-- Lines of the sectors that a footing line covers, by their first line (R127). -/
def ftgSectors (z : Zmc) (c : CourseId) (f : Nat) : List Nat := (List.range 16).map (fun s => 64 * (f - ftgStart z.cinfo[c] / 64) + 4 * s)

/-- Send a footing read for a footing line. -/
def footingRead (z : Zmc) (now : Nat) (c : CourseId) (f rid : Nat) : Zmc :=
  let h := homeOf c
  let id := z.homes[h].ridNext
  let z := takeEnt z c false 1
  let z := modHome z h (fun x => { x with ridNext := id + 1, ftgs := x.ftgs ++ [⟨id, c, f, rid, none⟩] })
  toCourse z now c { id, write := false, line := f, data := 0, poison := false, port := 24, wb := false, ftg := true }

/-- The way a miss allocates: an invalid one, else the victim of the tree walk; `none` when every way is pinned (R141, R142). -/
def allocWay (z : Zmc) (hid : HomeId) (set : Nat) : Option Nat :=
  let h := z.homes[hid]
  match (List.range 16).find? (fun w => (tblFind h.dir (16 * set + w)).isNone) with
  | some w => some w
  | none =>
      let pin (w : Nat) : Bool := match tblFind h.dir (16 * set + w) with | some e => e.pend || pinnedEnt z hid (16 * set + w) e | none => false
      if (List.range 16).all pin then none else some (lruWalk (lruOf h set) pin 4 0 0 16)

/-- The victim's bytes have room in the footing write buffer, or it is clean. -/
def victimRoom (z : Zmc) (hid : HomeId) (k : Nat) : Bool :=
  match tblFind z.homes[hid].dir k with
  | some e => let (c, q) := entSector hid k e; !e.dirty || fwbRoom z.homes[hid] c (ftgLine z c (4 * q))
  | none => true

/-- A victim leaves the cache: a dirty one's bytes go to the footing write buffer (R142). -/
def evict (z : Zmc) (hid : HomeId) (k : Nat) : Zmc :=
  match tblFind z.homes[hid].dir k with
  | some e =>
      let (c, q) := entSector hid k e
      let z := if e.dirty then fwbAdd z hid c (ftgLine z c (4 * q)) (sectorMask (4 * q)) (sectorData (4 * q) e.bytes) else z
      modHome z hid (fun h => { h with dir := tblDel h.dir k })
  | none => z

/-- A writeback for the line that had reached the home 6 FCK ago, when this lookup began, has not merged: the request waits behind it (R125,
R136). -/
def wbAhead (z : Zmc) (now : Nat) (r : HReq) : Bool :=
  z.homes[homeOf r.crs].wbq.any (fun w => w.ans.isNone && decide (w.at_ + 6 * tuFck ≤ now) && decodeAddr z (homeOf r.crs) w.addr.toNat == some (r.crs, r.line * 64))

/-- The request may be looked up now. -/
def mayLook (z : Zmc) (now : Nat) (r : HReq) : Bool :=
  r.ph == .look && decide (r.dueAt ≤ now) && !wbAhead z now r && !busyLine z (homeOf r.crs) r.crs r.line

/-- A request to a fenced course (R213): a read completes with poison, a write is discarded and counted. -/
def fencedReq (z : Zmc) (now : Nat) (r : HReq) : Zmc :=
  let z := dropEnt z r
  if isWr r.kind then respondWr (bumpN z now (crsBase r.crs.val + 0x08E0) 16 1) now r true
  else respondData z now { r with grant := 0 } 0 true false

/-- A lookup that misses: allocate, then take the bytes from the footing write buffer or read the footing line, with a speculative data
read beside it (R132, R133, R141, R142). -/
def missLook (z : Zmc) (now : Nat) (r : HReq) : Zmc :=
  let hid := homeOf r.crs
  let b := homeBase hid.val
  let (set, tag) := dirIdx r.crs r.line
  match allocWay z hid set with
  | none => if r.pinCnt then z else modReq (bump z now (b + 0x3078)) hid r.rid (fun x => { x with pinCnt := true })
  | some w =>
      let k := 16 * set + w
      let f := ftgLine z r.crs r.line
      let i0 := r.line / 4 % 16 * 4
      let h := z.homes[hid]
      let buf := (List.range 4).map (fun i => fwbByte h r.crs f (i0 + i))
      let inBuf := buf.all Option.isSome
      if !victimRoom z hid k then (if r.evCnt then z else modReq (bump z now (b + 0x3088)) hid r.rid (fun x => { x with evCnt := true }))
      else if !inBuf ∧ z.homes[hid].rdFree[crsIdx r.crs] = 0 then z
      else
        let z := bump (bump z now (b + 0x3040)) now (b + 0x3048)
        let z := evict z hid k
        let z := touchWay z hid set w
        let bs : Vector Byte 4 := Vector.ofFn (fun i : Fin 4 => (buf.getD i.val none).getD 0)
        let z := modHome z hid (fun h => { h with dir := tblPut h.dir k { tag, bytes := bs, dirty := false, pend := !inBuf } })
        if inBuf then
          let z := lateWbs z now hid r.crs (r.line / 4)
          let r := { r with ph := .mem }
          actOn (modReq z hid r.rid (fun _ => r)) now r ((dirByte z.homes[hid] r.crs r.line).getD 0)
        else
          let z := footingRead z now r.crs f r.rid
          let spec := getF z (b + 0x3000) 12 12 = 1 ∧ (r.kind = .rdShared ∨ r.kind = .rdOwn ∨ r.kind = .rdCur) ∧ localLine z r.crs r.addr.toNat
          let z := modReq z hid r.rid (fun x => { x with ph := .ftg, kind := r.kind })
          if spec then sendRead z now r else z

/-- The lookup of one request (R126, R131 to R134). -/
def lookReq (z : Zmc) (now : Nat) (r : HReq) : Zmc :=
  let hid := homeOf r.crs
  let b := homeBase hid.val
  if z.cinfo[r.crs].fence ≠ 0 ∧ (match mirRange z r.addr.toNat with | some k => !foLine z k r.crs | none => true) = true then fencedReq z now r
  else if r.mirror then
    (if isWr r.kind then doWrite z now r r.data r.poison else wantMem z now r)
  else
    let fix := r.port.val ≥ 21 ∧ (r.kind = .rdShared ∨ r.kind = .rdOwn ∨ r.kind = .upgrade)
    let z := if fix then bumpN z now (b + 0x3098) 16 1 else z
    let r := if fix then { r with kind := .rdCur } else r
    let z := modReq z hid r.rid (fun _ => r)
    if z.cinfo[r.crs].fence ≠ 0 then
      actOn (modReq (bump z now (b + 0x3040)) hid r.rid (fun x => { x with ph := .mem })) now { r with ph := .mem } 0xBF
    else
      match dirEntry z.homes[hid] r.crs r.line with
      | some (k, e) =>
          let z := touchWay (bump z now (b + 0x3040)) hid (k / 16) (k % 16)
          if e.pend then modReq z hid r.rid (fun x => { x with ph := .ftg })
          else
            let r := { r with ph := .mem }
            actOn (modReq z hid r.rid (fun _ => r)) now r e.bytes[toFin 4 (by decide) (r.line % 4)]
      | none => missLook z now r

/-- REQUEST_LOOKUP: the oldest granted request that may proceed is looked up; requests that wait for a pinned set or a buffer entry are
passed over (R134, R139, R141). -/
def lookupOldest (z : Zmc) (now : Nat) (hid : HomeId) : Zmc :=
  let z := countHeld z now hid
  z.homes[hid].hrq.foldl (fun (p : Zmc × Bool) r =>
    if p.2 ∨ !mayLook p.1 now r then p
    else
      let z' := lookReq p.1 now r
      (z', match z'.homes[hid].hrq.find? (fun x => x.rid == r.rid) with | some x => x.ph != .look | none => true)) (z, false) |>.1

/-! ### Footing data -/

/-- A poisoned footing line is reported (R130). -/
def ftgPoison (z : Zmc) (now : Nat) (hid : HomeId) (c : CourseId) (f : Nat) : Zmc :=
  let b := homeBase hid.val
  let z := bumpN z now (b + 0x3090) 0 1
  let z := post z now (b + 0x3008) 0
  putWide z (b + 0x3018) (BitVec.ofNat 64 (f * 64 % 2 ^ 40 + c.val * 2 ^ 40))

/-- Sectors in the cache of a footing line that read as poison differ from the table now, so that their bytes are written back (R130, R131). -/
def ftgDirty (z : Zmc) (hid : HomeId) (c : CourseId) (f : Nat) : Zmc :=
  (ftgSectors z c f).foldl (fun z l =>
    modHome z hid (fun h => match dirEntry h c l with | some (k, e) => if e.pend then h else { h with dir := tblPut h.dir k { e with dirty := true } } | none => h)) z

/-- Footing bytes reach a waiting sector: the entry is filled, bytes of the write buffer over those of the line, writebacks merged meanwhile are
applied, and every request that waits for it acts in order (R132, R133). -/
def ftgFill (z : Zmc) (now : Nat) (hid : HomeId) (c : CourseId) (line : Nat) (d : Line) (poison : Bool) : Zmc :=
  match dirEntry z.homes[hid] c line with
  | some (k, e) =>
      let i0 := line / 4 % 16 * 4
      let f := ftgLine z c line
      let (bs, bad) := ftgTake ((List.range 4).map (fun i => (fwbByte z.homes[hid] c f (i0 + i)).getD (lineByte d (i0 + i))))
      let bs : Vector Byte 4 := Vector.ofFn (fun i : Fin 4 => bs.getD i.val 0)
      let z := dirBad z now hid bad
      let z := modHome z hid (fun h => { h with dir := tblPut h.dir k { e with bytes := bs, pend := false, dirty := poison || bad != 0 } })
      let z := lateWbs z now hid c (line / 4)
      let rs := z.homes[hid].hrq.filter (fun r => r.ph == .ftg && r.crs == c && r.line / 4 == line / 4)
      rs.foldl (fun z r =>
        match z.homes[hid].hrq.find? (fun x => x.rid == r.rid) with
        | some x =>
            let x := { x with ph := .mem }
            actOn (modReq z hid x.rid (fun _ => x)) now x ((dirByte z.homes[hid] c x.line).getD 0)
        | none => z) z
  | none => z

/-- The line that a drain merges into: the bytes read, or, of a poisoned line, those the home knows from its cache and 0xBF for the others
(R128, R130). -/
def drainLine (z : Zmc) (hid : HomeId) (c : CourseId) (f : Nat) (d : Line) (poison : Bool) : Line × Nat :=
  if poison then
    ((ftgSectors z c f).foldl (fun a l =>
      match dirEntry z.homes[hid] c l with
      | some (_, e) => if e.pend then a else mergeBytes a (sectorData l e.bytes) (sectorMask l)
      | none => a) allBF, 0)
  else
    let (bs, bad) := ftgTake ((List.range 64).map (lineByte d))
    ((List.range 64).foldl (fun a i => setByte a i (bs.getD i 0)) 0, bad)

/-- FOOTING_DATA_RETURN: the bytes of the oldest returned footing read reach the home (R130, R133, R142). -/
def ftgReturn (z : Zmc) (now : Nat) (hid : HomeId) : Zmc :=
  match z.homes[hid].ftgs.find? (fun f => f.got.isSome) with
  | none => z
  | some f =>
      let (d, p) := f.got.getD (0, false)
      let z := modHome z hid (fun h => { h with ftgs := removeFirst (fun x => x.id == f.id) h.ftgs })
      let z := if p then ftgDirty (ftgPoison z now hid f.crs f.ftg) hid f.crs f.ftg else z
      if f.rid = 0 then
        let (l, bad) := drainLine z hid f.crs f.ftg d p
        modHome (dirBad z now hid bad) hid (fun h =>
          { h with fwb := replaceFirst (fun x => x.crs == f.crs && x.ftg == f.ftg && x.drain == 1) (fun x => { x with drain := 2, rd := l }) h.fwb })
      else
        match z.homes[hid].hrq.find? (fun r => r.rid == f.rid) with
        | some r => ftgFill z now hid f.crs r.line (if p then allBF else d) p
        | none => z

/-- FOOTING_DRAIN: a drain whose line has returned is merged and written back, with one of the write entries that WR_FULL uses (R144), or the oldest
startable drain starts (R142). An entry leaves the buffer when its write is on its way, ahead of any later read of the line. Potrie marks the
write poisoned when the course is fenced meanwhile (R247; which of its footing writes is a DESIGN CHOICE, log entry 101). -/
def drainStep (z : Zmc) (now : Nat) (hid : HomeId) : Zmc :=
  let h := z.homes[hid]
  match h.fwb.find? (fun x => x.drain == 2 && decide (0 < h.wrFree[crsIdx x.crs])) with
  | some x =>
      let z := modHome z hid (fun h => { h with fwb := removeFirst (fun y => y.crs == x.crs && y.ftg == x.ftg && y.drain == 2) h.fwb })
      let z := bump z now (homeBase hid.val + 0x3080)
      toCourse (takeEnt z x.crs true 1) now x.crs { id := 0, write := true, line := x.ftg, data := mergeBytes x.rd x.data x.mask, poison := z.cinfo[x.crs].fence != 0, port := 24, wb := false, ftg := true }
  | none =>
      let running := h.fwb.filter (fun x => x.drain != 0)
      if 4 ≤ running.length then z
      else
        match h.fwb.find? (fun x => x.drain == 0 && !running.any (fun y => y.crs == x.crs && y.ftg == x.ftg) && z.cinfo[x.crs].fence == 0 && decide (0 < h.rdFree[crsIdx x.crs])) with
        | some x =>
            let z := modHome z hid (fun h => { h with fwb := replaceFirst (fun y => y.crs == x.crs && y.ftg == x.ftg && y.drain == 0) (fun y => { y with drain := 1 }) h.fwb })
            footingRead z now x.crs x.ftg 0
        | none => z

/-! ### Writebacks -/

/-- WRITEBACK: a writeback or an eviction notice arrives under one of its port's 16 credits (R125). One whose address no record holds is
taken by Home-N (DESIGN CHOICE, log entry 99). -/
def wbArrive (z : Zmc) (now : Nat) (p : PortId) (k : WbKind) (addr : BitVec 64) (d : Line) (key : BitVec 10) (poison : Bool) : Zmc :=
  let h := (([0, 1] : List (Fin 2)).find? (fun h => (decodeAddr z h addr.toNat).isSome)).getD 0
  if !liveFinal z p ∨ z.homes[h].wbCred[p] = 0 ∨ z.boot.phase ≠ 7 ∨ z.boot.hold ≠ 0 ∨ 3 ≤ z.pwr.st then z
  else modHome (wakeHomes z) h (fun x => { x with wbq := x.wbq ++ [⟨none, p, k, addr, d, key, poison, now⟩], wbCred := modV x.wbCred p (fun n => n - 1), gated := false })

/-- The hold window of a line ends early (R137). -/
def endHold (z : Zmc) (c : CourseId) (line : Nat) (p : PortId) : Zmc :=
  modHome z (homeOf c) (fun h => { h with holds := h.holds.filter (fun w => !(w.crs == c && w.line == line && w.port == p)) })

/-- The stored effect of a merged WB_DIRTY (R136, R367). -/
def wbStore (z : Zmc) (now : Nat) (c : CourseId) (line : Nat) (w : WbMsg) : Zmc :=
  let (z, d, p) := encryptLine z now c w.key w.addr w.data w.poison
  let z := noteWrite z c line w.addr.toNat
  let rng := mirRange z w.addr.toNat
  let only := match rng with | some k => foLine z k c | none => false
  let z := bwAdd z (homeOf c) w.port 2 1
  let z := if only then z
    else toCourse (modHome z (homeOf c) (fun h => { h with wbFree := modV h.wbFree (crsIdx c) (fun k => k - 1) })) now c
      { id := 0, write := true, line, data := d, poison := p, port := w.port.val, wb := true, ftg := false }
  match rng with | some k => mirrorWr z now k w.addr d p | none => z

/-- Table 7-5 for a writeback at its merge. The merge waits for no footing read (R125): of a line whose sector is not cached, a WB_DIRTY is taken as its
owner's unless the write buffer's byte says otherwise, and the state changes when the bytes come (DESIGN CHOICE, log entry 99). -/
def wbApply (z : Zmc) (now : Nat) (hid : HomeId) (c : CourseId) (line : Nat) (w : WbMsg) : Zmc :=
  match dirByte z.homes[hid] c line with
  | some _ =>
      let (z, store) := wbDir z now hid c line w.port w.kind
      if store then wbStore z now c line w else z
  | none =>
      let other : Bool := match fwbByte z.homes[hid] c (ftgLine z c line) (line % 64) with | some b => (dirDec b).1 != .owned w.port | none => false
      if w.kind == .wbDirty && other then protoCnt z now hid
      else
        let z := if w.kind = .wbDirty then wbStore z now c line w else z
        modHome z hid (fun h => { h with wbLate := h.wbLate ++ [(c, line, w.port, w.kind)] })

/-! ### Snoop answers -/

/-- The request whose outstanding snoop an answer of port `p` for an address meets. -/
def snoopReq (z : Zmc) (p : PortId) (addr : BitVec 64) : Option HReq :=
  ([0, 1] : List (Fin 2)).findSome? (fun h =>
    z.homes[h].hrq.find? (fun r => r.ph == .snoop && r.addr.toNat / 64 == addr.toNat / 64 && r.snps.any (fun x => x.1 == p)))

/-- An answer takes effect; a late one is discarded (R134, R135). -/
def snoopTake (z : Zmc) (now : Nat) (p : PortId) (a : SnpAns) (addr : BitVec 64) (d : Line) : Zmc :=
  match snoopReq z p addr with
  | none => z
  | some r =>
      let isData := a == .dataInv || a == .dataShared
      let r := { r with snps := r.snps.filter (fun x => x.1 != p), snpData := if isData then some d else r.snpData }
      let z := modReq z (homeOf r.crs) r.rid (fun _ => r)
      if r.snps.isEmpty then snoopsDone z now r else z

/-- A message of the writeback channel is done: it leaves the queue and its credit returns (R125). -/
def wbDone (z : Zmc) (hid : HomeId) (w : WbMsg) : Zmc := modHome z hid (fun x => { x with wbq := x.wbq.erase w, wbCred := modV x.wbCred w.port (fun n => n + 1) })

/-- The home holds a writeback of the port for the line. -/
def wbHeld (z : Zmc) (hid : HomeId) (p : PortId) (addr : BitVec 64) : Bool :=
  z.homes[hid].wbq.any (fun w => w.ans.isNone && w.port == p && w.addr.toNat / 64 == addr.toNat / 64)

/-- SNOOP_RESPONSE: an answer to an outstanding snoop, under one of its port's credits. It waits behind the port's own writeback of the line
(R125, R136). -/
def snoopAnswer (z : Zmc) (now : Nat) (p : PortId) (a : SnpAns) (addr : BitVec 64) (d : Line) : Zmc :=
  match snoopReq z p addr with
  | none => z
  | some r =>
      let h := homeOf r.crs
      if z.homes[h].wbCred[p] = 0 then z
      else if wbHeld z h p addr then
        modHome z h (fun x => { x with wbq := x.wbq ++ [⟨some a, p, .wbClean, addr, d, 0, false, now⟩], wbCred := modV x.wbCred p (fun n => n - 1) })
      else snoopTake z now p a addr d

/-- WRITEBACK_MERGE: the oldest writeback whose 6 FCK have passed and whose reserved entry is free is merged: directory, write path, WB_ACK
and the port's credit (R125, R136). Then the port's snoop answers for the line that waited behind it take effect. -/
def wbMerge (z : Zmc) (now : Nat) (hid : HomeId) : Zmc :=
  let h := z.homes[hid]
  let ok (w : WbMsg) : Bool := w.ans.isNone && decide (w.at_ + 6 * tuFck ≤ now) &&
    (match decodeAddr z hid w.addr.toNat with
     | some (c, _) => !(retesting z c && z.cinfo[c].fence != 0) && (z.cinfo[c].fence != 0 || w.kind == .wbClean || decide (0 < h.wbFree[crsIdx c]))
     | none => true)
  match h.wbq.find? ok with
  | none => z
  | some w =>
      let z := wbDone z hid w
      let z :=
        match decodeAddr z hid w.addr.toNat with
        | some (c, loc) =>
            if z.cinfo[c].fence ≠ 0 then (if w.kind = .wbDirty then bumpN z now (crsBase c.val + 0x08E0) 16 1 else z)
            else endHold (wbApply z now hid c (loc / 64) w) c (loc / 64) w.port
        | none => protoCnt z now hid
      let z := if liveFinal z w.port then send z (.wbAck w.port w.addr) else z
      if wbHeld z hid w.port w.addr then z
      else
        (z.homes[hid].wbq.filter (fun x => x.ans.isSome && x.port == w.port && x.addr.toNat / 64 == w.addr.toNat / 64)).foldl (fun z x =>
          match x.ans with
          | some a => snoopTake (wbDone z hid x) now x.port a x.addr x.data
          | none => z) z

/-- SNOOP_TIMEOUT: a snoop unanswered for snp_to_us: poison to the requester and to memory, the line uncached (R135). -/
def snoopTimeout (z : Zmc) (now : Nat) (hid : HomeId) : Zmc :=
  let lim := getF z (homeBase hid.val + 0x3000) 21 14 * tuPerUs
  match z.homes[hid].hrq.find? (fun r => r.ph == .snoop && r.snps.any (fun x => decide (x.2 + lim ≤ now))) with
  | none => z
  | some r =>
      let late := (r.snps.filter (fun x => decide (x.2 + lim ≤ now))).headD (0, 0)
      let z := bump z now (homeBase hid.val + 0x3068)
      let z := post z now (homeBase hid.val + 0x3008) 2
      let z := evPost z now 0x0032 (16 + hid.val) r.crs.val (fmtB r.port.val late.1.val r.addr)
      let z := dirSet z hid r.crs r.line .uncached
      if isWr r.kind then
        let r := { r with snps := [] }
        let z := sendWrite (modReq z hid r.rid (fun _ => r)) now r 0 true
        let z := match mirRange z r.addr.toNat with | some k => mirrorWr z now k r.addr 0 true | none => z
        respondWr z now r true
      else
        let z := dropEnt z r
        let z := memWrite z now r.crs { id := 0, write := true, line := r.line, data := 0, poison := true, port := r.port.val, wb := true, ftg := false }
        let z := match mirRange z r.addr.toNat with | some k => mirrorWr z now k r.addr 0 true | none => z
        respondData z now { r with grant := 0 } 0 true false

/-- HOLD_WINDOW_END: the oldest window that has run out ends; the line is no longer busy, so the request that waited for it may be looked
up (R137, R139). -/
def holdEnd (z : Zmc) (now : Nat) (hid : HomeId) : Zmc :=
  match z.homes[hid].holds.find? (fun w => decide (w.endAt ≤ now)) with
  | none => z
  | some w => endHold z w.crs w.line w.port

/-! ### Data and credits from a course -/

/-- READ_DATA_RETURN at the home: the oldest line of the read-data joint goes to the footing read, resync or request it belongs to. -/
def dataReturn (z : Zmc) (now : Nat) (c : CourseId) : Zmc × Option Nat :=
  match z.jdat[c] with
  | [] => (z, none)
  | j :: l =>
      let hid := homeOf c
      let z := { z with jdat := modV z.jdat c (fun _ => l), jsts := modV z.jsts c (fun x => x ++ [.rd]) }
      let z := modHome z hid (fun h => { h with gated := false })
      if z.homes[hid].ftgs.any (fun f => f.id == j.id && f.crs == c) then
        (modHome z hid (fun h => { h with ftgs := replaceFirst (fun f => f.id == j.id) (fun f => { f with got := some (j.data, j.poison || j.uncor) }) h.ftgs }), some j.id)
      else
        match z.homes[hid].hrq.find? (fun r => r.mid == j.id && r.crs == c) with
        | some r =>
            if r.ph = .mem then (memData z now r j, some j.id)
            else (modReq z hid r.rid (fun x => { x with spec := some j }), some j.id)
        | none => (z, some j.id)

/-- A waiting memory write takes a reserved entry that has come back. -/
def flushWr (z : Zmc) (now : Nat) (c : CourseId) : Zmc :=
  let hid := homeOf c
  match z.homes[hid].wrPend.find? (fun p => p.1 == c) with
  | some p =>
      if z.homes[hid].wbFree[crsIdx c] = 0 then z
      else
        let z := modHome z hid (fun h => { h with wrPend := removeFirst (fun x => x.1 == c) h.wrPend, wbFree := modV h.wbFree (crsIdx c) (fun k => k - 1) })
        toCourse z now c p.2
  | none => z

/-- COURSE_CREDIT: the oldest message of the status joint reaches the home: a credit, or a served report (R118, R145). -/
def creditReturn (z : Zmc) (now : Nat) (c : CourseId) : Zmc :=
  match z.jsts[c] with
  | [] => z
  | m :: l =>
      let hid := homeOf c
      let z := { z with jsts := modV z.jsts c (fun _ => l) }
      match m with
      | .rd =>
          let z := giveEnt z c false 1
          match z.homes[hid].hrq.find? (fun r => r.need && r.crs == c) with
          | some r => sendRead z now r
          | none => z
      | .wr => giveEnt z c true 1
      | .wb => flushWr (modHome z hid (fun h => { h with wbFree := modV h.wbFree (crsIdx c) (fun k => min 16 (k + 1)) })) now c
      | .served id => modGate z c (fun g => { g with late := g.late.filter (fun x => x.rid != id) })

end Sys2Proof.Machine
end

