-- ==== Sys2Proof/Machine/Live.lean ====
section
/-! DEFINITION. Ports that come and go (R84 to R87): a rise, a fall with its orphans, and the ports whose liveness is internal. -/

namespace Sys2Proof.Machine

/-- Accepted requests of a port are orphaned: in the homes, and writes whose header has transferred (R86). -/
def orphanAll (z : Zmc) (p : PortId) : Zmc :=
  let z := ([0, 1] : List HomeId).foldl (fun z h => modHome z h (fun s => { s with hrq := s.hrq.map (fun r => if r.port == p then { r with orphan := true } else r) })) z
  (List.finRange 8).foldl (fun z b => modBay z b (fun y => { y with data := y.data.map (fun d => if d.port == p then { d with orph := true } else d) })) z

/-- The hold windows of a port end (R137). -/
def endHolds (z : Zmc) (p : PortId) : Zmc :=
  ([0, 1] : List HomeId).foldl (fun z h =>
    (z.homes[h].holds.filter (fun w => w.port == p)).foldl (fun z w => endHold z w.crs w.line p) z) z

/-- A port stops being live: the masks follow in the third FCK cycle, its accepted requests are orphaned (R85, R86). -/
def liveFall (z : Zmc) (now : Nat) (p : PortId) : Zmc :=
  if liveFinal z p then endHolds (orphanAll (setLive z now p false) p) p else z

/-- A port becomes live (R85). -/
def liveRise (z : Zmc) (now : Nat) (p : PortId) : Zmc := if liveFinal z p then z else setLive z now p true

/-- P20 follows its pin, quoin and multi_pkg (Table 5-1). -/
def portPeer (z : Zmc) (now : Nat) : Zmc :=
  if member z && z.pins[(20 : Fin 24)] then liveRise z now 20 else liveFall z now 20

/-- After RETAIN the ports P0 to P20 are those whose pins say so (R84, R316). -/
def pinsLive (z : Zmc) : Zmc :=
  { z with
    live := Vector.ofFn (fun i => if i.val < 20 then z.pins[i] else if i.val = 20 then member z && z.pins[i] else liveFinal z i)
    liveAt := [] }

end Sys2Proof.Machine
end

