-- ==== Sys2Proof/Config.lean ====
section
/-! DEFINITION. What an implementation fixes and the spec leaves open: constants without a body, of which no proof can see a value. Every one is a
DESIGN CHOICE, log entry 5. -/

namespace Sys2Proof.Config

/-- A fresh value the spec leaves open, drawn with the State's counter `free`. DESIGN CHOICE, log entry 5. -/
opaque freeWord : Nat → Word

/-- The 64-bit random tokens of the Security island (R307), drawn with the counter. DESIGN CHOICE, log entry 5. -/
opaque freeToken : Nat → BitVec 64

/-- The power-up contents of DRAM: course, line index (R273 calls them arbitrary). -/
opaque dramPowerUp : Nat → Nat → Code

/-- ECDSA P-384 over SHA-384 under the Lutuwald key of the fuses: message bytes and signature bytes (R60, R302). -/
opaque ecdsaP384 : List Byte → List Byte → Bool

/-- ECDSA P-256 signature of 32 bytes under the part's attestation key, r and s as 64 bytes (AUDIT_HEAD). -/
opaque attest : List Byte → List Byte

/-- Whether a bank image is signed and at or above the fused minimum security version (R60). -/
opaque imgValid : List Byte → Bool
/-- The version an image carries. -/
opaque imgVer : List Byte → BitVec 24
/-- The build number an image carries. -/
opaque imgBuild : List Byte → Word
/-- The lowest protocol level an image accepts. -/
opaque imgLvlMin : List Byte → BitVec 8
/-- The highest protocol level an image accepts. -/
opaque imgLvlMax : List Byte → BitVec 8

/-- The device key in fuses (R279). -/
opaque deviceKey : BitVec 256

/-- words_per_lap of the 12- and 8-course variants (R47 gives the 16-course count only). -/
opaque plumbWords : Nat → BitVec 12

/-- Reference signature of a memory's test, by memory id and backgrounds (R325). -/
opaque bistRef : Nat → Nat → Word

/-- The state bytes Potrie saves besides registers and maps at a RETAIN entry (R315). -/
opaque retainExtra : Nat

/-- CB_ID of the Corbel of a course (Table 11-7: per part). -/
opaque cbId : Nat → Word
/-- Held commands per subchannel above the 128 that CB_CAP promises, below 128 (Table 11-7). -/
opaque holdExtra : Nat → BitVec 7
/-- Return queue lines above the 96 that R208 promises. -/
opaque rtnExtra : Nat → BitVec 7
/-- Mode register byte of a DRAM device that no MRW has written: course, subchannel × 8 + logical rank, register, device. -/
opaque mrByte : Nat → Nat → Nat → Nat → Byte

/-- Steps of write delay for a device's oscillator change (R298: as JESD79-5 defines): osc_len, baseline, count. -/
opaque oscSteps : Nat → Nat → Nat → Int

/-- Word `k` of CRS[n]_TIM for a data rate, density and number of dies whose Table 8-4 values the spec does not give; word 12 is tsr_res. -/
opaque timWord : Nat → Nat → Nat → Nat → Word

/-- Words that training finds by sweeps: course, register offset (Corbel registers from 2^20), and the draw. -/
opaque sweepWord : Nat → Nat → Nat → Word

/-- The commands of the hPPR sequence of JESD79-5, which the spec cites and does not give (R261): op and argument of each, for a device, a bank group,
a bank and a row. -/
opaque hpprSeq : Nat → Nat → Nat → Nat → List (Nat × Nat)

/-- par_win_dck as Potrie programs it: course (Table 11-7). -/
opaque parWin : Nat → BitVec 7

end Sys2Proof.Config
end

