-- ==== Sys2Proof/Machine/Check.lean ====
section
/-! DEFINITION. The checks of BUF fields on arrival of a write (R37, R43): the meaning of zero (code 1), ranges (code 2), reserved
encodings (code 3) and cross-checks (code 4), each as its register table states it. A failure is kept under its word and its field's
lowest bit until a later write mends it. -/

namespace Sys2Proof.Machine

/-- The pending word of a BUF register (R37). -/
def pendWord (z : Zmc) (off : Nat) : Word := match tblFind z.rg.pend off with | some w => w | none => wordAt z off

/-- The bits of a word that its BUF fields cover. -/
def bufMask (d : RegDef) : Word := d.flds.foldl (fun a f => if f.cls == .buf then a ||| setBits 0 f.hi f.lo (2 ^ (f.hi + 1 - f.lo) - 1) else a) 0

/-- Zero has no meaning. -/
def ckZero (v : Nat) : Nat := if v = 0 then 1 else 0
/-- A legal range without zero. -/
def ckRange (lo hi v : Nat) : Nat := if v = 0 then 1 else if v < lo ∨ hi < v then 2 else 0
/-- A largest value. -/
def ckMax (hi v : Nat) : Nat := if hi < v then 2 else 0
/-- A condition between fields. -/
def ckCross (ok : Bool) : Nat := if ok then 0 else 4
/-- The first check that fails counts. -/
def ckThen (a b : Nat) : Nat := if a = 0 then b else a

/-- Least cure window of a link mode (Table 10-1). -/
def cureMin (mode : Nat) : Nat := if mode = 0 then 24 else if mode = 3 then 64 else 40

/-- Checks of one word by itself: lowest bit of the field and its code. -/
def wordChecks (z : Zmc) (kind inst o : Nat) (v : Word) : List (Nat × Nat) :=
  let f (hi lo : Nat) : Nat := bitsOf v hi lo
  if kind = 1 then
    if o = 0x0400 then [(0, ckMax 30 (f 7 0))]
    else if o = 0x0600 then [(20, ckZero (f 27 20))]
    else if o = 0x0C00 then [0, 2, 5].map (fun b => (b, ckCross (f 0 0 == 0 || f 4 2 != f 7 5))) ++ [(8, ckZero (f 11 8))]
    else if o = 0x0E00 then [(0, ckRange 60 110 (f 7 0))]
    else []
  else if kind = 2 then (if o = 0x0010 then [(0, ckZero (f 7 0))] else [])
  else if kind = 3 then
    if 0x1400 ≤ o ∧ o < 0x1700 ∧ o % 0x20 = 4 then [0, 16].map (fun b => (b, ckCross (decide (f 15 0 ≤ f 31 16))))
    else if 0x1800 ≤ o ∧ o < 0x18C0 then [(0, ckZero (f 7 0)), (8, ckZero (f 15 8)), (16, ckZero (f 23 16)), (24, ckZero (f 31 24))]
    else if o = 0x1A00 then [(0, ckMax 1000 (f 9 0))]
    else if o = 0x3000 then [(0, if f 11 0 = 0 ∧ !z.rg.holdOk.contains inst then 2 else 0), (14, ckZero (f 21 14))]
    else []
  else if kind = 4 then
    if 0x0040 ≤ o ∧ o < 0x0080 then (List.range 4).map (fun k => (8 * k, if 23 ≤ f (8 * k + 4) (8 * k) ∧ f (8 * k + 4) (8 * k) < 31 then 3 else 0))
    else []
  else if kind = 5 then
    let i := z.cinfo[toCrs inst]
    if o = 0x0800 then [(4, ckRange 16 127 (f 10 4)), (11, ckRange 16 255 (f 18 11)), (23, ckZero (f 24 23))]
    else if o = 0x1000 then [(0, if f 1 0 = 3 then 3 else 0)]
    else if o = 0x1008 then [(0, ckThen (ckRange 2 127 (f 6 0)) (ckCross (decide (f 13 7 < f 6 0)))), (7, ckCross (f 6 0 == 0 || decide (f 13 7 < f 6 0)))]
    else if o = 0x1018 then [(0, ckRange 24 96 (f 6 0))]
    else if o = 0x1020 then
      [(0, ckThen (ckZero (f 7 0)) (if f 15 8 ≠ 0 ∧ (f 7 0 < 2 * f 15 8 ∨ 16 * f 15 8 < f 7 0) then 2 else 0)), (8, ckZero (f 15 8))]
    else if o = 0x1030 then [(0, if 2 ≤ f 1 0 then 3 else 0)]
    else if o = 0x1400 then
      [(0, if f 1 0 = 3 then 3 else 0), (2, ckRange 1000 3900 (f 13 2)), (14, ckRange 1 4 (f 16 14)), (17, ckMax 25 (f 21 17))]
    else if o = 0x1408 then [(0, ckMax 20 (f 7 0)), (8, ckRange 86 125 (f 15 8)), (16, ckZero (f 23 16))]
    else if o = 0x1410 then [(2, ckRange 8 255 (f 9 2))]
    else if o = 0x1808 ∨ o = 0x180C then
      (List.range 4).map (fun b => (8 * b, if f (8 * b + 7) (8 * b + 7) = 1 ∧ 10 ≤ f (8 * b + 3) (8 * b) then 3 else 0))
    else if o = 0x1A00 then [(1, ckZero (f 4 1))]
    else []
  else if kind = 7 then (if o = 0x3020 then [(0, ckRange 1 8 (f 3 0))] else [])
  else []

/-- Range of a byte field of CRS[n]_TIM0 to TIM8, by word and byte (Table 8-4); a third component of true admits zero (3DS). -/
def timRange : List (Nat × Nat × Bool) :=
  [ (22, 98, false), (1, 255, false), (16, 98, false), (16, 98, false), (64, 200, false), (80, 255, false), (8, 64, false), (2, 8, false)
  , (8, 32, false), (8, 64, false), (16, 128, false), (8, 16, false), (8, 64, false), (8, 32, false), (16, 160, false), (64, 200, false)
  , (4, 32, false), (16, 80, false), (8, 40, false), (32, 255, false), (8, 24, false), (8, 24, false), (8, 40, false), (4, 40, false)
  , (4, 32, true), (8, 64, true), (8, 16, true), (16, 128, false), (8, 64, false), (16, 96, false), (8, 255, false), (8, 64, false)
  , (4, 32, false), (8, 64, false) ]

/-- Range of a half-word field of TIM9 to TIM11. -/
def timRangeH : List (Nat × Nat × Bool) :=
  [(512, 4095, false), (256, 2047, false), (256, 2047, false), (128, 2047, true), (1024, 8191, false), (512, 4095, false)]

/-- One timing field against its range; zero of a 3DS field is accepted with one die only (R154). -/
def timCheck (dies v : Nat) (r : Nat × Nat × Bool) : Nat :=
  if r.2.2 ∧ v = 0 then (if dies = 2 then 4 else 0) else ckRange r.1 r.2.1 v

/-- The timing set of course `n`: every word's failures (Table 8-4). A cross-check that fails marks each field it names (R37). -/
def timChecks (z : Zmc) (n : Nat) : List (Nat × Nat × Nat) :=
  let w (k : Nat) : Word := pendWord z (crsBase n + 0x1100 + 4 * k)
  let b (j : Nat) : Nat := bitsOf (w (j / 4)) (8 * (j % 4) + 7) (8 * (j % 4))
  let h (j : Nat) : Nat := bitsOf (w (9 + j / 2)) (16 * (j % 2) + 15) (16 * (j % 2))
  let dies := z.cinfo[toCrs n].dies
  let cross (j : Nat) : Nat :=
    if j = 0 then ckThen (if b 0 % 2 = 1 then 2 else 0) (ckCross (b 1 + 2 == b 0))
    else if j = 1 then ckCross (b 1 + 2 == b 0)
    else if 3 ≤ j ∧ j ≤ 5 then ckCross (decide (b 4 + b 3 ≤ b 5))
    else 0
  let crossH (j : Nat) : Nat :=
    if j = 0 then ckCross (decide (h 1 ≤ h 0 ∧ h 0 ≤ h 5))
    else if j = 1 then ckCross (decide (h 1 ≤ h 0))
    else if j = 5 then ckCross (decide (h 0 ≤ h 5))
    else 0
  ((List.range 34).zip timRange).map (fun p => (crsBase n + 0x1100 + p.1 / 4 * 4, 8 * (p.1 % 4), ckThen (timCheck dies (b p.1) p.2) (cross p.1)))
  ++ ((List.range 6).zip timRangeH).map (fun p =>
      (crsBase n + 0x1124 + p.1 / 2 * 4, 16 * (p.1 % 2), ckThen (timCheck dies (h p.1) p.2) (crossH p.1)))

/-- Two ranges overlap. -/
def rangesMeet (b1 s1 b2 s2 : Nat) : Bool := decide (s1 ≠ 0 ∧ s2 ≠ 0 ∧ b1 < b2 + s2 ∧ b2 < b1 + s1)

/-- Base and size of a mirrored range fit the interleave record that contains it (R366). -/
def mirFits (z : Zmc) (base size : Nat) : Bool × Bool :=
  match findIlv z 0 base with
  | none => (false, true)
  | some i => (decide ((base - i.base) % (i.ways * 2 ^ 22) = 0 ∧ base + size ≤ i.base + i.size), decide (size % (max i.ways 1 * 2 ^ 22) = 0))

/-- The range descriptors (R366); `off` is the word now written. A write to a descriptor whose en is 1 fails unless it clears en. -/
def mirChecks (z : Zmc) (off : Nat) : List (Nat × Nat × Nat) :=
  let ds := (List.range 8).map (fun r => (r, mirDesc (pendWord z) r))
  ds.flatMap (fun p =>
    let b := zmcBase + 0x0C40 + 32 * p.1
    let d := p.2
    let fit := mirFits z d.base d.size
    let lap := ds.any (fun q => q.1 != p.1 && rangesMeet d.base d.size q.2.base q.2.size)
    let moved (o : Nat) : Bool := (pendWord z o ^^^ wordAt z o) &&& (if o = b + 24 then 3#32 else 0xFFFFFFFF#32) != 0
    let live (o : Nat) : Bool := (mirDesc (wordAt z) p.1).en && d.en && (off == o || off == o + 4 || moved o || moved (o + 4))
    [ (b, 0, ckCross ((d.size == 0 || (fit.1 && !lap)) && !live b)), (b + 8, 0, ckCross ((d.size == 0 || (fit.1 && fit.2 && !lap)) && !live (b + 8)))
    , (b + 16, 0, ckCross (!live (b + 16))), (b + 24, 0, ckCross (!live (b + 24))) ])

/-- Words of an interleave record. -/
def ilvOffs : List Nat := [0x00, 0x08, 0x0C, 0x10, 0x14, 0x18, 0x1C, 0x20, 0x24]

/-- Courses that a record names. -/
def Ilv.courses (i : Ilv) : List Nat := if i.size = 0 then [] else (i.way.take i.ways).filter (fun c => c < 16)

/-- Every course of the old and of the new record is fenced or absent (R406). -/
def ilvFenced (z : Zmc) (a b : Ilv) : Bool := (a.courses ++ b.courses).all (fun c => !liveCrs z (toCrs c))

/-- The interleave records of both homes (Table 22-6, R406). A cross-check that fails marks each field it names (R37): of two records that
overlap, base and size of both, and of two homes that differ, the field of both. -/
def ilvChecks (z : Zmc) : List (Nat × Nat × Nat) :=
  (List.range 2).flatMap (fun h => (List.range 4).flatMap (fun r =>
    let base := homeBase h + 0x0100 + 0x40 * r
    let i := ilvOf (pendWord z) h r
    let used := decide (i.size ≠ 0)
    let lap := (List.range 4).any (fun q => q != r && (let k := ilvOf (pendWord z) h q; rangesMeet i.base i.size k.base k.size))
    let ws := i.way.take i.ways
    let waysOk := !used || (decide ws.Nodup && (i.way.drop i.ways).all (fun c => c == 255) && ws.all (fun c => c < 16))
    let other (o : Nat) : Bool := pendWord z (base + o) == pendWord z (homeBase (1 - h) + 0x0100 + 0x40 * r + o)
    let frozen := decide (7 ≤ z.boot.phase) && !ilvFenced z (ilvOf (wordAt z) h r) i
    let same (o : Nat) : Nat := ckCross (other o && (!frozen || pendWord z (base + o) == wordAt z (base + o)))
    let same8 (o : Nat) : Nat := ckThen (same o) (same (o + 4))
    let mult := ckCross (decide (i.size % (max i.ways 1 * 2 ^ i.gran) = 0))
    let aligned := ckCross (decide (i.base % 2 ^ i.gran = 0))
    let some_ := ckCross (!used || i.ways != 0)
    let apart := ckCross (!used || !lap)
    let way (o : Nat) : List (Nat × Nat × Nat) :=
      let j := (o - 0x18) / 4
      (List.range 4).map (fun k =>
        let v := i.way.getD (4 * j + k) 255
        (base + o, 8 * k, ckThen (if 16 ≤ v ∧ v < 255 then 3 else 0) (ckThen (if k = 0 then same o else 0) (ckCross waysOk))))
    [ (base, 0, [ckMax 16 i.ways, some_, mult, ckCross waysOk, same 0].foldl ckThen 0)
    , (base, 8, [if used ∧ (i.gran < 8 ∨ 12 < i.gran) then 2 else 0, aligned, mult].foldl ckThen 0)
    , (base + 8, 0, [if 2 ^ 52 ≤ i.base then 2 else 0, aligned, apart, same8 8].foldl ckThen 0)
    , (base + 16, 0, [some_, mult, apart, same8 16].foldl ckThen 0) ]
    ++ way 0x18 ++ way 0x1C ++ way 0x20 ++ way 0x24))

/-- Gate list `j` of home `h` (Table 6-9, R114). -/
def gateChecks (z : Zmc) (h j : Nat) : List (Nat × Nat × Nat) :=
  let b := homeBase h + 0x2000 + 0x200 * j
  let c := pendWord z b
  let n := bitsOf c 6 1
  let ents := (List.range 32).map (fun e => (e, pendWord z (b + 0x100 + 4 * e)))
  let used := ents.take n
  let masks := used.foldl (fun a p => a ||| p.2) 0
  let total := used.foldl (fun a p => a + bitsOf p.2 19 0) 0
  let opens := ckCross (bitsOf masks 23 20 == 15)
  let within := ckCross (n == 0 || decide (bitsOf c 11 7 < n))
  [ (b, 1, [ckRange 1 32 n, within, opens].foldl ckThen 0), (b, 7, within) ]
  ++ ents.flatMap (fun p =>
      [ (b + 0x100 + 4 * p.1, 0, if p.1 < n then ckThen (ckRange 64 1048575 (bitsOf p.2 19 0)) (ckCross (decide (total ≤ 1000000))) else 0)
      , (b + 0x100 + 4 * p.1, 20, if p.1 < n then opens else 0) ])

/-- The checks that a write of a word decides again: each word and field of its group with its code. -/
def checksOf (z : Zmc) (off : Nat) : List (Nat × Nat × Nat) :=
  match blockOf off with
  | none => []
  | some (k, i, b) =>
      let o := off - b
      if k = 1 ∧ 0x0C40 ≤ o ∧ o < 0x0D40 then mirChecks z off
      else if k = 3 ∧ 0x0100 ≤ o ∧ o < 0x0200 then ilvChecks z
      else if k = 3 ∧ 0x2000 ≤ o ∧ o < 0x3000 then gateChecks z i ((o - 0x2000) / 0x200)
      else if k = 5 ∧ 0x1100 ≤ o ∧ o < 0x1130 then timChecks z i
      else (wordChecks z k i o (pendWord z off)).map (fun p => (off, p.1, p.2))

/-- Decide the checks of a written word again (R37). -/
def recheck (z : Zmc) (off : Nat) : Zmc :=
  { z with rg := { z.rg with fail := (checksOf z off).foldl (fun t p => tblStore 0 t (p.1 * 32 + p.2.1) p.2.2) z.rg.fail } }

/-- The pending value of a word becomes `v` in its BUF fields, and its checks are decided again. -/
def pendPut (z : Zmc) (off : Nat) (v : Word) : Zmc := recheck { z with rg := { z.rg with pend := tblPut z.rg.pend off v } } off

/-- Potrie writes a field's pending value and applies it by a SET of its own (R16, R49, R83, R190). -/
def potField (z : Zmc) (off hi lo v : Nat) : Zmc :=
  let p := setBits (pendWord z off) hi lo v
  let own := if (tblFind z.plumb.own off).isSome then z.plumb.own else tblPut z.plumb.own off (wordAt z off)
  let z := pendPut (setF z off hi lo v) off p
  { z with plumb := { z.plumb with own := own } }

end Sys2Proof.Machine
end

