-- ==== Sys2Proof/Machine/Rs.lean ====
section
/-! DEFINITION. Reed-Solomon codes over GF(2^m): the line code (R239 to R248) and the flit codes (R193), with bounded-distance decoding
of errors and erasures. Codewords are lists of symbols, highest-degree coefficient first. -/

namespace Sys2Proof.Machine

/-- A field GF(2^m) with its polynomial; the root is 2. -/
structure Gf where
  m    : Nat
  poly : Nat

/-- GF(2^8) of the line code (R239). -/
def gf8 : Gf := ⟨8, 0x11D⟩
/-- GF(2^10) of the flit codes (R193). -/
def gf10 : Gf := ⟨10, 0x409⟩

/-- Multiply by the root. -/
def Gf.dbl (f : Gf) (a : Nat) : Nat := let b := 2 * a; if b.testBit f.m then b ^^^ f.poly else b

/-- Product, from the bits of `b` at positions below `n`, highest first. -/
def Gf.mulN (f : Gf) (a b : Nat) : Nat → Nat → Nat
  | 0, r => r
  | n + 1, r => let r := f.dbl r; Gf.mulN f a b n (if b.testBit n then r ^^^ a else r)

/-- Product. -/
def Gf.mul (f : Gf) (a b : Nat) : Nat := if a = 0 ∨ b = 0 then 0 else Gf.mulN f a b f.m 0

/-- Power, exponent given by its bits. -/
def Gf.powN (f : Gf) (a n : Nat) : Nat → Nat → Nat
  | 0, r => r
  | k + 1, r => let r := f.mul r r; Gf.powN f a n k (if n.testBit k then f.mul r a else r)

/-- Power of an exponent below 2^10. -/
def Gf.pow (f : Gf) (a n : Nat) : Nat := Gf.powN f a n 10 1

/-- Inverse. -/
def Gf.inv (f : Gf) (a : Nat) : Nat := f.pow a (2 ^ f.m - 2)

/-- Power of the root. -/
def Gf.alpha (f : Gf) (i : Nat) : Nat := f.pow 2 (i % (2 ^ f.m - 1))

/-- Value of a polynomial, highest-degree coefficient first. -/
def Gf.eval (f : Gf) (p : List Nat) (x : Nat) : Nat := p.foldl (fun a c => f.mul a x ^^^ c) 0

/-- Value of a polynomial, lowest-degree coefficient first. -/
def Gf.evalLow (f : Gf) : List Nat → Nat → Nat
  | [], _ => 0
  | c :: p, x => c ^^^ f.mul x (f.evalLow p x)

/-- Sum of two polynomials, lowest degree first. -/
def addPoly : List Nat → List Nat → List Nat
  | [], q => q
  | p, [] => p
  | a :: p, b :: q => (a ^^^ b) :: addPoly p q

/-- Product of two polynomials, lowest degree first. -/
def Gf.mulPoly (f : Gf) : List Nat → List Nat → List Nat
  | [], _ => []
  | a :: p, q => addPoly (q.map (f.mul a)) (0 :: f.mulPoly p q)

/-- Generator of `n` roots from the zeroth power (R193, R239), lowest degree first. -/
def Gf.gen (f : Gf) (n : Nat) : List Nat := (List.range n).foldl (fun g i => f.mulPoly g [f.alpha i, 1]) [1]

/-- One step of the division by the generator: the register holds the highest degree first. -/
def Gf.lfsr (f : Gf) (ghi : List Nat) (r : List Nat) (c : Nat) : List Nat :=
  match r with
  | [] => []
  | h :: t =>
      let k := h ^^^ c
      (t ++ [0]).zipWith (fun a g => a ^^^ f.mul k g) ghi

/-- The check symbols of a message. -/
def Gf.parity (f : Gf) (n : Nat) (msg : List Nat) : List Nat :=
  let ghi := (f.gen n).reverse.drop 1
  msg.foldl (f.lfsr ghi) (List.replicate n 0)

/-- The codeword of a message (R193, R239). -/
def Gf.encode (f : Gf) (n : Nat) (msg : List Nat) : List Nat := msg ++ f.parity n msg

/-- Syndromes of a word. -/
def Gf.synd (f : Gf) (n : Nat) (r : List Nat) : List Nat := (List.range n).map (fun i => f.eval r (f.alpha i))

/-- State of the search for the error locator. -/
structure Bm where
  c : List Nat
  b : List Nat
  l : Nat
  m : Nat
  bb : Nat

/-- One step of the search (Berlekamp and Massey) at syndrome `n`. -/
def Gf.bmStep (f : Gf) (s : List Nat) (x : Bm) (n : Nat) : Bm :=
  let d := (List.range (x.l + 1)).foldl (fun a i => a ^^^ f.mul (x.c.getD i 0) (if i ≤ n then s.getD (n - i) 0 else 0)) 0
  if d = 0 then { x with m := x.m + 1 }
  else
    let q := f.mul d (f.inv x.bb)
    let c := addPoly x.c (List.replicate x.m 0 ++ x.b.map (f.mul q))
    if 2 * x.l ≤ n then ⟨c, x.c, n + 1 - x.l, 1, d⟩ else ⟨c, x.b, x.l, x.m + 1, x.bb⟩

/-- The error locator of a list of syndromes, lowest degree first. -/
def Gf.locator (f : Gf) (s : List Nat) : List Nat := ((List.range s.length).foldl (f.bmStep s) ⟨[1], [1], 0, 1, 1⟩).c

/-- Coefficients of odd degree, for the derivative of a polynomial. -/
def Gf.deriv : List Nat → List Nat
  | [] => []
  | _ :: p => (List.range p.length).map (fun i => if i % 2 = 0 then p.getD i 0 else 0)

/-- Correct errors and the erasures `er` (positions from the left) of a word with `n` check symbols: the corrected word and the positions
changed. `none` when no codeword lies within (n − erasures)/2, or `t`, errors of the word. -/
def Gf.decode (f : Gf) (n t : Nat) (er : List Nat) (r : List Nat) : Option (List Nat × List Nat) :=
  let len := r.length
  let s := f.synd n r
  if s.all (· == 0) then some (r, [])
  else
    let gam := er.foldl (fun g p => f.mulPoly g [1, f.alpha (len - 1 - p)]) [1]
    let ms := (f.mulPoly s gam).take n
    let lam := f.locator (ms.drop er.length)
    let psi := f.mulPoly gam lam
    let om := (f.mulPoly s psi).take n
    let dp := Gf.deriv psi
    let hits := (List.range len).filter (fun p => f.evalLow psi (f.inv (f.alpha (len - 1 - p))) == 0)
    let mag (p : Nat) : Nat :=
      let x := f.alpha (len - 1 - p)
      let y := f.inv x
      f.mul x (f.mul (f.evalLow om y) (f.inv (f.evalLow dp y)))
    let fix := (List.range len).map (fun p => if hits.contains p then r.getD p 0 ^^^ mag p else r.getD p 0)
    let ch := hits.filter (fun p => mag p != 0)
    if (ch.filter (fun p => !er.contains p)).length ≤ t ∧ (f.synd n fix).all (· == 0) then some (fix, ch) else none

/-! ### The line code -/

/-- Symbols of a line codeword. -/
def symsOf (c : Code) : List Nat := (List.range 80).map (fun j => (c.extractLsb' (8 * j) 8).toNat)

/-- A line codeword of symbols. -/
def codeOf (l : List Nat) : Code := BitVec.ofNat 640 (l.foldr (fun s a => a * 256 + s % 256) 0)

/-- The poison mask of check symbols 64 to 79 (Table 12-4). -/
def poisonMask : List Nat :=
  [0x96, 0x3C, 0xE1, 0x5A, 0x0F, 0xA5, 0x78, 0xD2, 0x69, 0xC3, 0x1E, 0xB4, 0x87, 0x2D, 0xF0, 0x4B]

/-- The mask as a codeword difference (R246). -/
def poisonCode : Code := codeOf (List.replicate 64 0 ++ poisonMask)

/-- The codeword of a line (R239), poisoned under R246 on request. -/
def lineCode (d : Line) (poison : Bool) : Code :=
  let ms := (List.range 64).map (fun j => (d.extractLsb' (8 * j) 8).toNat)
  let c := codeOf (gf8.encode 16 ms)
  if poison then c ^^^ poisonCode else c

/-- The data symbols of a codeword. -/
def lineData (c : Code) : Line := c.extractLsb' 0 512

/-- Positions of a device's symbols (R240). -/
def devSyms (d : Nat) : List Nat := (List.range 8).map (fun i => 8 * d + i)

/-- What the decoder corrects in a mode, with or without a mark (Table 12-2). -/
def lineFix (restricted : Bool) (mark : Option Nat) (r : List Nat) : Option (List Nat × List Nat) :=
  match mark with
  | some d => gf8.decode 16 (if restricted then 2 else 4) (devSyms d) r
  | none =>
      if restricted then
        match gf8.decode 16 4 [] r with
        | some x => some x
        | none => (List.range 10).findSome? (fun d => gf8.decode 16 0 (devSyms d) r)
      else gf8.decode 16 8 [] r

/-- Decoder outcomes (Table 12-3). -/
inductive Dec where
  | clean (d : Line)
  /-- corrected word, positions changed -/
  | fixed (c : Code) (ch : List Nat)
  | poison (ch : List Nat)
  | bad
  deriving DecidableEq, Repr

/-- Decode a line as read (R244). -/
def decodeLine (restricted : Bool) (mark : Option Nat) (c : Code) : Dec :=
  let r := symsOf c
  if (gf8.synd 16 r).all (· == 0) then .clean (lineData c)
  else
    let p := symsOf (c ^^^ poisonCode)
    if (gf8.synd 16 p).all (· == 0) then .poison []
    else
      match lineFix restricted mark r with
      | some (x, ch) => .fixed (codeOf x) ch
      | none =>
          match lineFix restricted mark p with
          | some (_, ch) => .poison ch
          | none => .bad

/-! ### Flits (R193 to R196, R199) -/

/-- Bits [hi:lo] of a number. -/
def slice (v hi lo : Nat) : Nat := (v >>> lo) % 2 ^ (hi + 1 - lo)

/-- The symbols of a flit of `n` symbols: symbol 0 is sent first and is the most significant. -/
def flitSyms (n v : Nat) : List Nat := (List.range n).map (fun j => (v >>> (10 * (n - 1 - j))) % 1024)

/-- A flit of its symbols. -/
def symsFlit (l : List Nat) : Nat := l.foldl (fun a s => a * 1024 + s) 0

/-- CRC-24 over `n` bits of `v`, most significant first (R194). -/
def crc24N (v : Nat) : Nat → Nat → Nat
  | 0, c => c
  | n + 1, c =>
      let top := c.testBit 23 != v.testBit n
      let c2 := c * 2 % 2 ^ 24
      crc24N v n (if top then c2 ^^^ 0x864CFB else c2)

/-- CRC-24 of `n` bits. -/
def crc24 (v n : Nat) : Nat := crc24N v n 0xB704CE

/-- A downstream flit of its 516 bits of header and body (R196). -/
def dnFlit (h : Nat) : DnBits :=
  let m := h * 2 ^ 24 + crc24 h 516
  BitVec.ofNat 600 (symsFlit (gf10.encode 6 (flitSyms 54 m)))

/-- An upstream flit of its 688 bits of header and payload (R199); 8 reserved zero bits precede the CRC. -/
def upFlit (h : Nat) : UpBits :=
  let v := h * 256
  let m := v * 2 ^ 24 + crc24 v 696
  BitVec.ofNat 800 (symsFlit (gf10.encode 8 (flitSyms 72 m)))

/-- What a receiver makes of a flit (R195). -/
inductive Rx where
  /-- header and body, and the symbols corrected with the corrected flit -/
  | good (h : Nat) (n : Nat) (bits : Nat)
  | fecFail
  | crcFail
  deriving DecidableEq, Repr

/-- Decode a received flit of `msg` + `par` symbols whose CRC covers `cov` bits. -/
def rxFlit (msg par cov v : Nat) : Rx :=
  match gf10.decode par (par / 2) [] (flitSyms (msg + par) v) with
  | none => .fecFail
  | some (x, ch) =>
      let b := symsFlit x
      let m := b >>> (10 * par)
      if crc24 (m >>> 24) cov = m % 2 ^ 24 then .good (m >>> 24) ch.length b else .crcFail

/-- Decode a downstream flit: header and body of 516 bits. -/
def rxDn (v : DnBits) : Rx := rxFlit 54 6 516 v.toNat

/-- Decode an upstream flit: header, payload and the reserved byte, 696 bits. -/
def rxUp (v : UpBits) : Rx := rxFlit 72 8 696 v.toNat

/-- One step of the scrambler x^31 + x^28 + 1 (R192): the state shifts left and its output is the new bit. -/
def scrStep (s : BitVec 31) : BitVec 31 × Bool :=
  let b := s.getLsbD 30 != s.getLsbD 27
  ((s <<< 1) ||| (if b then 1#31 else 0#31), b)

/-- Ten steps: the scrambling of one symbol, most significant bit first. -/
def scrSym : Nat → BitVec 31 → Nat → BitVec 31 × Nat
  | 0, s, a => (s, a)
  | n + 1, s, a => let (s, b) := scrStep s; scrSym n s (2 * a + (if b then 1 else 0))

/-- Scramble symbols: symbol k travels on lane k mod w (R191). -/
def scrSyms (w : Nat) : Nat → Scr → List Nat → Scr × List Nat
  | _, sc, [] => (sc, [])
  | k, sc, x :: l =>
      let (s, m) := scrSym 10 (sc.getD (k % w) 0) 0
      let (sc, l) := scrSyms w (k + 1) (sc.set (k % w) s) l
      (sc, (x ^^^ m) :: l)

/-- Scramble or descramble a flit of `n` symbols on the lanes of `sc`. -/
def scramble (n : Nat) (sc : Scr) (v : Nat) : Scr × Nat :=
  let (sc, l) := scrSyms (max 1 sc.length) 0 sc (flitSyms n v)
  (sc, symsFlit l)

/-- Seeds of lanes `base`, ... (R192). -/
def scrSeeds (lanes : List Nat) : Scr := lanes.map (fun l => BitVec.ofNat 31 (0x0A5A0000 + l))

end Sys2Proof.Machine
end

