-- ==== Sys2Proof/Machine/Course.lean ====
section
/-! DEFINITION. A course island at work: its registers, its DCK counter (R150 to R152), the address map (R149), the timing rules of
Table 8-5 (R154, R155) and the placing of a command on the calendar (R156). -/

namespace Sys2Proof.Machine

/-- What a course's command acts on: the instant, the draws of free values, the rest of the block, the course's number and its state. -/
structure Cx where
  now  : Nat
  free : Nat
  z    : Zmc
  n    : CourseId
  c    : CourseSt
  deriving DecidableEq, Repr

/-- Change the rest of the block. -/
def Cx.onZ (x : Cx) (f : Zmc → Zmc) : Cx := { x with z := f x.z }
/-- Change the course. -/
def Cx.onC (x : Cx) (f : CourseSt → CourseSt) : Cx := { x with c := f x.c }
/-- Change the link. -/
def Cx.onL (x : Cx) (f : CLink → CLink) : Cx := { x with c := { x.c with lk := f x.c.lk } }
/-- Change the Corbel. -/
def Cx.onB (x : Cx) (f : Corbel → Corbel) : Cx := { x with c := { x.c with cb := f x.c.cb } }

/-- Window offset of a course register. -/
def Cx.off (x : Cx) (o : Nat) : Nat := crsBase x.n.val + o
/-- A field of a course register. -/
def Cx.f (x : Cx) (o hi lo : Nat) : Nat := getF x.z (x.off o) hi lo
/-- Drive a field. -/
def Cx.setf (x : Cx) (o hi lo v : Nat) : Cx := x.onZ (fun z => setF z (x.off o) hi lo v)
/-- Post event bit `b` of an STS register. -/
def Cx.sts (x : Cx) (o b : Nat) : Cx := x.onZ (fun z => post z x.now (x.off o) b)
/-- Count `k` in the counter at `o`. -/
def Cx.cntN (x : Cx) (o k : Nat) : Cx := if k = 0 then x else x.onZ (fun z => bumpN z x.now (x.off o) 0 k)
/-- Count one. -/
def Cx.cnt (x : Cx) (o : Nat) : Cx := x.onZ (fun z => bump z x.now (x.off o))
/-- Post a hardware event of this course (R77). -/
def Cx.ev (x : Cx) (code : Nat) (d : List Word) : Cx := x.onZ (fun z => evPost z x.now code x.n.val x.n.val d)
/-- Post an event of Potrie about this course. -/
def Cx.pev (x : Cx) (code : Nat) (d : List Word) : Cx := x.onZ (fun z => potPost z x.now code 18 x.n.val d)

/-- The course's record. -/
def Cx.info (x : Cx) : CInfo := x.z.cinfo[x.n]
/-- Change the course's record. -/
def Cx.onInfo (x : Cx) (f : CInfo → CInfo) : Cx := x.onZ (fun z => modInfo z x.n f)
/-- Period of LCK. -/
def Cx.lck (x : Cx) : Nat := lckOf x.info.mode
/-- The LCK cycle at the instant. -/
def Cx.cyc (x : Cx) : Nat := x.now / x.lck

/-! ### DCK -/

/-- The counter brought up to an LCK cycle (R150). -/
def DckCnt.at (d : DckCnt) (cyc : Nat) : DckCnt :=
  if d.den = 0 then { d with cyc := cyc }
  else
    let s := d.acc + (cyc - d.cyc) * d.num
    { d with dck := d.dck + (s / d.den : Nat), acc := s % d.den, cyc := cyc }

/-- A new ratio: the count does not jump (R151). -/
def DckCnt.ratio (d : DckCnt) (num den : Nat) : DckCnt := { d with num := num, den := den }

/-- dck_now in an LCK cycle. -/
def dckIn (x : Cx) (cyc : Nat) : Nat := (x.c.dck.at cyc).dck.toNat

/-- dck_now. -/
def Cx.dck (x : Cx) : Nat := dckIn x x.cyc

/-- The lead of the cure window in DCK (R152); 0 before rate_mts is set. -/
def cureDck (x : Cx) : Nat := (x.f 0x1018 6 0 * x.info.rate + 1999) / 2000

/-- The base of an LCK cycle (R152). -/
def baseOf (x : Cx) (cyc : Nat) : Nat := dckIn x cyc + cureDck x

/-- The 48-bit or 24-bit value restored as the value nearest a reference (R227). -/
def nearest (bits v ref : Nat) : Nat :=
  let m := 2 ^ bits
  let b := ref / m * m + v % m
  if b + m / 2 < ref then b + m else if ref + m / 2 < b ∧ m ≤ b then b - m else b

/-! ### Address map -/

/-- Bits of the logical rank: lr_bits of CRS[n]_MAP (R149). -/
def lrBits (x : Cx) : Nat := x.f 0x1030 3 2

/-- DRAM coordinates of a line (Table 8-1). -/
def coordOf (x : Cx) (line : Nat) : Coord :=
  let k := lrBits x
  let row := line >>> (13 + k)
  let flat := x.f 0x1030 1 0 = 1
  { sub := line % 2
    col := slice line 3 1 + 8 * slice line 10 7
    bg := slice line 6 4 ^^^ (if flat then 0 else row % 8)
    bk := slice line 12 11 ^^^ (if flat then 0 else row / 8 % 4)
    lr := if k = 0 then 0 else slice line (12 + k) 13
    row := row % 2 ^ 17 }

/-- Physical ranks of the course. -/
def pranks (x : Cx) : Nat := max 1 x.info.ranks
/-- Physical rank of a logical rank (R149). -/
def prankOf (x : Cx) (lr : Nat) : Nat := lr % pranks x
/-- Logical ranks of the course. -/
def lranks (x : Cx) : Nat := max 1 (x.info.ranks * x.info.dies)

/-- Key of a bank slot (R153). -/
def bankKey (sub lr bg bk : Nat) : Nat := sub * 256 + lr * 32 + bg * 4 + bk
/-- A bank slot. -/
def bankAt (c : CourseSt) (k : Nat) : BankSt := tblGet {} c.banks k
/-- Change a bank slot. -/
def modBank (c : CourseSt) (k : Nat) (f : BankSt → BankSt) : CourseSt := { c with banks := tblStore {} c.banks k (f (bankAt c k)) }
/-- Key of a coordinate's bank. -/
def Coord.key (a : Coord) : Nat := bankKey a.sub a.lr a.bg a.bk

/-! ### Timing -/

/-- The timing parameters in force (Table 8-4) with the course's read pace (R207) and self-refresh minimum. -/
structure Tim where
  tcl : Nat
  tcwl : Nat
  trcd : Nat
  trp : Nat
  tras : Nat
  trc : Nat
  trtp : Nat
  tppd : Nat
  trrdS : Nat
  trrdL : Nat
  tfaw : Nat
  tccdS : Nat
  tccdL : Nat
  tccdSw : Nat
  tccdLw : Nat
  twr : Nat
  twtrS : Nat
  twtrL : Nat
  trtw : Nat
  trefsbrd : Nat
  rdrdDr : Nat
  wrwrDr : Nat
  rdwrDr : Nat
  wrrdDr : Nat
  rrdDlr : Nat
  fawDlr : Nat
  ccdDlr : Nat
  tmrd : Nat
  tmrw : Nat
  tmrr : Nat
  tzqlat : Nat
  txp : Nat
  tcpded : Nat
  tpd : Nat
  trfc1 : Nat
  trfc2 : Nat
  trfcsb : Nat
  rfcDlr : Nat
  tzqcal : Nat
  txs : Nat
  tsr : Nat
  pace : Nat
  /-- physical ranks -/
  pr : Nat

/-- Read the parameters. -/
def timOf (x : Cx) : Tim :=
  let b (o i : Nat) := x.f o (8 * i + 7) (8 * i)
  let d := x.c.dck
  { tcl := b 0x1100 0, tcwl := b 0x1100 1, trcd := b 0x1100 2, trp := b 0x1100 3
    tras := b 0x1104 0, trc := b 0x1104 1, trtp := b 0x1104 2, tppd := b 0x1104 3
    trrdS := b 0x1108 0, trrdL := b 0x1108 1, tfaw := b 0x1108 2, tccdS := b 0x1108 3
    tccdL := b 0x110C 0, tccdSw := b 0x110C 1, tccdLw := b 0x110C 2, twr := b 0x110C 3
    twtrS := b 0x1110 0, twtrL := b 0x1110 1, trtw := b 0x1110 2, trefsbrd := b 0x1110 3
    rdrdDr := b 0x1114 0, wrwrDr := b 0x1114 1, rdwrDr := b 0x1114 2, wrrdDr := b 0x1114 3
    rrdDlr := b 0x1118 0, fawDlr := b 0x1118 1, ccdDlr := b 0x1118 2, tmrd := b 0x1118 3
    tmrw := b 0x111C 0, tmrr := b 0x111C 1, tzqlat := b 0x111C 2, txp := b 0x111C 3
    tcpded := b 0x1120 0, tpd := b 0x1120 1
    trfc1 := x.f 0x1124 15 0, trfc2 := x.f 0x1124 31 16
    trfcsb := x.f 0x1128 15 0, rfcDlr := x.f 0x1128 31 16
    tzqcal := x.f 0x112C 15 0, txs := x.f 0x112C 31 16
    tsr := x.f 0x1410 9 2
    pace := (d.num + max 1 d.den - 1) / max 1 d.den
    pr := pranks x }

/-- A column command of kind read. -/
def isRd (o : Nat) : Bool := o == 2 || o == 3
/-- A column command of kind write. -/
def isWrOp (o : Nat) : Bool := o == 4 || o == 5
/-- An explicit precharge command. -/
def isPre (o : Nat) : Bool := o == 6 || o == 7 || o == 8
/-- An internal precharge of an RDA or WRA, entered on the calendar beside it. -/
def opIpre : Nat := 16
/-- PWR commands: 0 PDE, 1 PDX, 2 SRE, 3 SRX. -/
def isPwr (c : Cmd) (k : Nat) : Bool := c.op == 14 && c.arg / 2 ^ 15 == k

/-- DCK a command occupies on the CA bus (R155). -/
def caLen (o : Nat) : Nat := if o = 1 ∨ isRd o ∨ isWrOp o ∨ o = 11 ∨ o = 12 then 2 else if o = opIpre then 0 else 1

/-- The precharge `p` covers bank (bg, bk) of its logical rank. -/
def preCovers (p : Cmd) (bg bk : Nat) : Bool :=
  p.op == 8 || (p.op == 7 && p.bk == bk) || ((p.op == 6 || p.op == opIpre) && p.bg == bg && p.bk == bk)

/-- The banks `a` and `p` are the same or `p` covers the bank of `a`. -/
def bankHit (a p : Cmd) : Bool := a.lr == p.lr && (if isPre p.op || p.op == opIpre then preCovers p a.bg a.bk else a.bg == p.bg && a.bk == p.bk)

/-- Die of a stack. -/
def dieOf (t : Tim) (lr : Nat) : Nat := lr / max 1 t.pr
/-- Same physical rank. -/
def samePr (t : Tim) (a b : Cmd) : Bool := a.lr % max 1 t.pr == b.lr % max 1 t.pr

/-- The refresh distance of a REF (Table 8-5). -/
def rfcOf (t : Tim) (c : Cmd) : Nat := if c.fg then t.trfc2 else t.trfc1

/-- Minimum distance from an earlier command `a` to a later command `b` of one subchannel (Table 8-5), 0 where the table gives none. -/
def minDist (t : Tim) (a b : Cmd) : Nat :=
  let same := bankHit b a && bankHit a b
  let lrEq := a.lr == b.lr
  let pr := samePr t a b
  let bgEq := lrEq && a.bg == b.bg
  let m (c : Bool) (v : Nat) : Nat := if c then v else 0
  let ref (o : Nat) : Bool := o == 9 || o == 10
  -- ACT, ACT
  let v := m (a.op == 1 && b.op == 1 && same) t.trc
  let v := max v (m (a.op == 1 && b.op == 1 && lrEq) (if bgEq then t.trrdL else t.trrdS))
  let v := max v (m (a.op == 1 && b.op == 1 && pr && !lrEq) t.rrdDlr)
  -- ACT, column and ACT, PRE
  let v := max v (m (a.op == 1 && (isRd b.op || isWrOp b.op) && same) t.trcd)
  let v := max v (m (a.op == 1 && isPre b.op && bankHit a b) t.tras)
  -- column, PRE and PRE, ACT
  let v := max v (m (isRd a.op && isPre b.op && bankHit a b) t.trtp)
  let v := max v (m (isWrOp a.op && isPre b.op && bankHit a b) (t.tcwl + 8 + t.twr))
  let v := max v (m ((isPre a.op || a.op == opIpre) && b.op == 1 && bankHit b a) t.trp)
  let v := max v (m (isPre a.op && isPre b.op && pr) t.tppd)
  -- column, column
  let v := max v (m (isRd a.op && isRd b.op) (if !pr then t.rdrdDr else if !lrEq then t.ccdDlr else if bgEq then t.tccdL else t.tccdS))
  let v := max v (m (isWrOp a.op && isWrOp b.op) (if !pr then t.wrwrDr else if !lrEq then t.ccdDlr else if bgEq then t.tccdLw else t.tccdSw))
  let v := max v (m (isRd a.op && isWrOp b.op) (if pr then t.trtw else t.rdwrDr))
  let v := max v (m (isWrOp a.op && isRd b.op) (if !pr then t.wrrdDr else t.tcwl + 8 + (if bgEq then t.twtrL else t.twtrS)))
  -- refresh
  let v := max v (m ((isPre a.op || a.op == opIpre) && b.op == 9 && lrEq) t.trp)
  let v := max v (m (a.op == 9 && (b.op == 1 || ref b.op) && lrEq) (rfcOf t a))
  let v := max v (m (a.op == 10 && b.op == 1 && lrEq) (if a.bk == b.bk then t.trfcsb else t.trefsbrd))
  let v := max v (m (a.op == 10 && b.op == 10 && lrEq) t.trfcsb)
  let v := max v (m (ref a.op && (b.op == 1 || ref b.op) && pr && !lrEq) t.rfcDlr)
  -- mode registers, calibration, power
  let v := max v (m (a.op == 11 && pr && b.op != opIpre) (if b.op == 11 then t.tmrw else t.tmrd))
  let v := max v (m (a.op == 12 && pr && b.op != opIpre) t.tmrr)
  let v := max v (m (a.op == 13 && a.arg / 512 == 5 && b.op == 13 && b.arg / 512 == 4 && pr) t.tzqcal)
  let v := max v (m (a.op == 13 && a.arg / 512 == 4 && pr && b.op != opIpre) t.tzqlat)
  let v := max v (m (isPwr b 0 && pr && a.op != opIpre) t.tcpded)
  let v := max v (m (isPwr a 0 && isPwr b 1 && pr) t.tpd)
  let v := max v (m (isPwr a 1 && pr && b.op != opIpre) t.txp)
  let v := max v (m (isPwr a 3 && pr && b.op != opIpre) t.txs)
  let v := max v (m (isPwr a 2 && isPwr b 3 && pr) t.tsr)
  -- R182: an SRE after the last precharge, REF and any other command
  let v := max v (m (isPwr b 2 && pr && (isPre a.op || a.op == opIpre)) t.trp)
  let v := max v (m (isPwr b 2 && pr && ref a.op) (if a.op == 9 then rfcOf t a else t.trfcsb))
  max v (m (isPwr b 2 && pr && !isPre a.op && a.op != opIpre && !ref a.op && !isPwr a 2) t.tcpded)

/-- The DQ burst of a command, when it has one (R155). -/
def dqOf (t : Tim) (c : Cmd) : Option Nat :=
  if isRd c.op ∨ c.op = 12 then some (c.stamp + t.tcl) else if isWrOp c.op then some (c.stamp + t.tcwl) else none

/-- Two half-open ranges overlap; an empty one overlaps nothing. -/
def overlaps (a la b lb : Nat) : Bool := decide (la ≠ 0 ∧ lb ≠ 0 ∧ a < b + lb ∧ b < a + la)

/-- Commands `a` (committed) and `b` (at its stamp) respect their distance, their CA cycles and their bursts (R155). -/
def pairOk (t : Tim) (a b : Cmd) : Bool :=
  (if a.stamp ≤ b.stamp then decide (a.stamp + minDist t a b ≤ b.stamp) else decide (b.stamp + minDist t b a ≤ a.stamp)) &&
  !overlaps a.stamp (caLen a.op) b.stamp (caLen b.op) &&
  (match dqOf t a, dqOf t b with
   | some p, some q => !overlaps p 8 q 8
   | _, _ => true)

/-- Stamps in ascending order. -/
def insStamp (s : Nat) : List Nat → List Nat
  | [] => [s]
  | a :: l => if s ≤ a then s :: a :: l else a :: insStamp s l

/-- No five of the stamps lie within a window of `w`. -/
def fawOk (w : Nat) : List Nat → Bool
  | a :: b :: c :: d :: e :: l => decide (a + w ≤ e) && fawOk w (b :: c :: d :: e :: l)
  | _ => true

/-- At most four ACTs per window (Table 8-5). -/
def fawsOk (t : Tim) (cal : List Cmd) (b : Cmd) : Bool :=
  if b.op ≠ 1 then true
  else
    let st (l : List Cmd) : List Nat := (l.map (fun c => c.stamp)).foldl (fun a s => insStamp s a) [b.stamp]
    let acts := cal.filter (fun c => c.op == 1)
    fawOk t.tfaw (st (acts.filter (fun c => c.lr == b.lr))) &&
    (t.fawDlr == 0 || fawOk t.fawDlr (st (acts.filter (fun c => samePr t c b))))

/-- Reads of both subchannels keep the read pace (R207). -/
def paceOk (t : Tim) (other : List Cmd) (b : Cmd) : Bool :=
  !isRd b.op || other.all (fun a => !isRd a.op || decide (a.stamp + t.pace ≤ b.stamp ∨ b.stamp + t.pace ≤ a.stamp))

/-- A command may take its stamp (R155, R207): against the calendar of its subchannel and the other's reads. -/
def legal (t : Tim) (cal other : List Cmd) (b : Cmd) : Bool :=
  cal.all (fun a => pairOk t a b) && fawsOk t cal b && (isRd b.op && cal.all (fun a => !isRd a.op || decide (a.stamp + t.pace ≤ b.stamp ∨ b.stamp + t.pace ≤ a.stamp)) || !isRd b.op) && paceOk t other b

/-- The first legal stamp at or above `s`, among `n` (R156). -/
def firstLegal (t : Tim) (cal other : List Cmd) (b : Cmd) : Nat → Nat → Option Nat
  | 0, _ => none
  | n + 1, s => if legal t cal other { b with stamp := s } then some s else firstLegal t cal other b n (s + 1)

/-- Stamp of the internal precharge of an RDA or WRA to a bank whose ACT lies at `act` (Table 8-5). -/
def innerPre (t : Tim) (act : Nat) (b : Cmd) : Nat := max (b.stamp + (if b.op = 3 then t.trtp else t.tcwl + 8 + t.twr)) (act + t.tras)

/-- The calendar entries that a placed command makes: itself, and the internal precharge of an RDA or WRA at its time (Table 8-5). -/
def calOf (t : Tim) (act : Nat) (b : Cmd) : List Cmd :=
  let ip (s : Nat) : Cmd := { op := opIpre, sub := b.sub, lr := b.lr, bg := b.bg, bk := b.bk, stamp := s, ord := b.ord }
  let b := { b with data := none }
  if b.op = 3 ∨ b.op = 5 then [b, ip (innerPre t act b)] else [b]

/-- Place a chain greedily (R156): each command at least at its base, at least at the previous command (a PWR command stands for its own
rank, R182), and at the first legal stamp not above `lim`. Answers the placed commands. -/
def placeChain (t : Tim) (other : List Cmd) (lim : Nat) : List Cmd → Nat → List (Cmd × Nat) → Nat → Option (List Cmd)
  | _, _, [], _ => some []
  | cal, act, (b, base) :: l, prev =>
      let lb := max base (if b.op = 14 then 0 else prev)
      match firstLegal t cal other b (lim + 1 - lb) lb with
      | none => none
      | some s =>
          let b := { b with stamp := s }
          let act := if b.op = 1 then s else act
          (placeChain t other lim (calOf t act b ++ cal) act l s).map (fun r => b :: r)

/-- The calendar of a subchannel. -/
def calAt (c : CourseSt) (s : Nat) : List Cmd := c.cal[toFin 2 (by decide) s]

/-- Index of a subchannel. -/
def toSub (s : Nat) : Fin 2 := toFin 2 (by decide) s

/-- Forget calendar entries that no distance of Table 8-4 can reach any more. -/
def pruneCal (x : Cx) : Cx :=
  let lo := x.dck - 8448
  x.onC (fun c => { c with cal := c.cal.map (fun l => l.filter (fun k => decide (lo ≤ k.stamp))) })

end Sys2Proof.Machine
end

