-- ==== Sys2Proof/Machine/Fresh.lean ====
section
/-! DEFINITION. What enters a course: the read and write queues (R144 to R148), in-order mode (R162), course modes (R163), the fresh map,
renders, claims and clears (R263 to R271). -/

namespace Sys2Proof.Machine

/-! ### Queues -/

/-- The lowest number below `n` that no entry holds. -/
def lowFree (n : Nat) (used : List Nat) : Option Nat := (List.range n).find? (fun i => !used.contains i)

/-- Writes whose WR has not been committed (R163). -/
def wrOcc (c : CourseSt) : Nat := (c.wrq.filter (fun w => match w.ph with | .committed _ => false | _ => true)).length

/-- A demand read waits for its chain; held ones count as queued, footing reads are no demand reads (Table 8-6). -/
def rdWaits (c : CourseSt) : Bool := c.rdq.any (fun r => !r.ftg && (r.ph == .queued || r.ph == .held))

/-- Entries reserved for writebacks in use (R125). -/
def wbUsed (c : CourseSt) : Nat := (c.wrq.filter (fun w => w.wb)).length

/-- Enter forced drain. -/
def forceDrain (x : Cx) : Cx := (x.onC (fun c => { c with mode := 2 })).cnt 0x1228

/-- The transitions of Table 8-9 that an enqueue causes. -/
def modeOnEnq (x : Cx) (read : Bool) : Cx :=
  let x := if x.c.mode = 1 ∧ read = true then x.onC (fun c => { c with mode := 0 }) else x
  if x.c.mode = 2 then x
  else if x.f 0x1008 6 0 ≤ wrOcc x.c then forceDrain x
  else if x.c.mode = 0 ∧ wbUsed x.c = 16 then forceDrain x
  else x

/-- The transitions of Table 8-9 at a selection boundary, at most once in an LCK cycle. -/
def modeStep (x : Cx) : Cx :=
  if x.c.modeAt = some x.cyc then x
  else
    let x := x.onC (fun c => { c with modeAt := some x.cyc })
    if x.c.mode = 2 then (if wrOcc x.c ≤ x.f 0x1008 13 7 then x.onC (fun c => { c with mode := 0 }) else x)
    else if x.f 0x1008 6 0 ≤ wrOcc x.c then forceDrain x
    else if x.c.mode = 1 then (if rdWaits x.c = true ∨ wrOcc x.c = 0 then x.onC (fun c => { c with mode := 0 }) else x)
    else if wbUsed x.c = 16 then forceDrain x
    else if rdWaits x.c = false ∧ wrOcc x.c ≠ 0 then x.onC (fun c => { c with mode := 1 })
    else x

/-- The predictor of a bank at an enqueue (R160). -/
def predict (x : Cx) (a : Coord) : Cx :=
  x.onC (fun c => modBank c a.key (fun b =>
    match b.last with
    | none => b
    | some r => { b with pred := if r = a.row then min 3 (b.pred + 1) else b.pred - 1 }))

/-- A read whose row matches a queued write's puts its bank into in-order mode (R162); the fence is the youngest such write. -/
def enterInOrder (x : Cx) (a : Coord) : Cx :=
  match (x.c.wrq.filter (fun w => w.ph == .queued && w.at_.key == a.key && w.at_.row == a.row)).getLast? with
  | none => x
  | some w =>
      let fresh := (bankAt x.c a.key).fence.isNone
      let x := if fresh then x.cnt 0x1238 else x
      x.onC (fun c => modBank c a.key (fun b => { b with fence := some (max w.ord (b.fence.getD 0)) }))

/-- A read's entry waits for its chain. -/
def queueRd (x : Cx) (r : REnt) : Cx :=
  let x := enterInOrder (predict x r.at_) r.at_
  x.onC (fun c => { c with rdq := replaceFirst (fun e => e.ord == r.ord) (fun e => { e with ph := .queued, enq := x.cyc }) c.rdq })

/-- A write's entry waits for its chain. -/
def queueWr (x : Cx) (w : WEnt) : Cx :=
  let x := predict x w.at_
  x.onC (fun c => { c with wrq := replaceFirst (fun e => e.ord == w.ord) (fun e => { e with ph := .queued, enq := x.cyc }) c.wrq })

/-- Push a line into the read-data joint. -/
def sendData (x : Cx) (j : JData) : Cx := x.onZ (fun z => { z with jdat := modV z.jdat x.n (fun l => l ++ [j]) })
/-- Push a message into the status joint. -/
def sendStat (x : Cx) (m : JStat) : Cx := x.onZ (fun z => { z with jsts := modV z.jsts x.n (fun l => l ++ [m]) })

/-- A zero line is formed for a read (R264); it is served at once (R146). -/
def zeroRead (x : Cx) (r : REnt) : Cx :=
  let x := x.cnt 0x2080
  let x := sendStat (sendData x ⟨r.id, r.line, 0, false, false, true⟩) (.served r.id)
  x.onC (fun c => { c with rdq := replaceFirst (fun e => e.ord == r.ord) (fun e => { e with ph := .back, srv := true }) c.rdq })

/-! ### Fresh map -/

/-- fresh_en in force. -/
def freshOn (x : Cx) : Bool := x.f 0x2000 0 0 == 1
/-- Regions of the course. -/
def regionCount (x : Cx) : Nat := capBytes x.info / 2 ^ 22
/-- State of a region; beyond the capacity nothing is fresh. -/
def regionOf (x : Cx) (r : Nat) : RState := if regionCount x ≤ r then .written else tblGet x.c.fm.dflt x.c.fm.ex r
/-- The fresh map starts anew: no engine renders and no region is claimed (Table 13-1). -/
def CourseSt.mapTo (c : CourseSt) (m : FreshMap) : CourseSt := { c with fm := m, eng := Vector.replicate 4 none, claims := [] }
/-- Set a region's state. -/
def setRegion (x : Cx) (r : Nat) (s : RState) : Cx := x.onC (fun c => { c with fm := { c.fm with ex := tblStore c.fm.dflt c.fm.ex r s } })

/-- The engine that renders a region. -/
def engineOf (x : Cx) (r : Nat) : Option (Fin 4) := ([0, 1, 2, 3] : List (Fin 4)).find? (fun e => match x.c.eng[e] with | some g => g.region == r | none => false)

/-- Insert an offset in ascending order. -/
def insOff (o : Nat) : List Nat → List Nat
  | [] => [o]
  | a :: l => if o < a then o :: a :: l else if o = a then a :: l else a :: insOff o l

/-- The bitmap bit of an offset: every offset the engine has visited is set. -/
def bitSet (g : Render) (o : Nat) : Bool := decide (o < g.pos) || g.bits.contains o

/-- Start a render of a region on the lowest free engine (R265). -/
def startRender (x : Cx) (r : Nat) : Option Cx :=
  match ([0, 1, 2, 3] : List (Fin 4)).find? (fun e => x.c.eng[e].isNone) with
  | none => none
  | some e =>
      let x := (setRegion x r .rendering).cnt 0x2088
      some (x.onC (fun c => { c with eng := modV c.eng e (fun _ => some { region := r, start := c.ord }), ord := c.ord + 1 }))

/-- Set a written line's bit (R266). -/
def markWritten (x : Cx) (line : Nat) : Cx :=
  match engineOf x (line >>> 16) with
  | none => x
  | some e =>
      let mark (g : Render) : Render := if bitSet g (line % 65536) then g else { g with bits := insOff (line % 65536) g.bits }
      x.onC (fun c => { c with eng := modV c.eng e (fun g => g.map mark) })

/-- A region is affected by a clear in progress. -/
def clearing (x : Cx) (r : Nat) : Bool := x.c.clrs.any (fun k => decide (k.lo ≤ r ∧ r < k.hi))

/-- Decide a read against the fresh map (R264), as if it were enqueued now. -/
def decideRd (x : Cx) (r : REnt) : Cx :=
  let g := r.line >>> 16
  if !freshOn x then queueRd x r
  else
    match regionOf x g with
    | .fresh => zeroRead x r
    | .rendering =>
        match engineOf x g with
        | some e => if (match x.c.eng[e] with | some m => bitSet m (r.line % 65536) | none => true) then queueRd x r else zeroRead x r
        | none => queueRd x r
    | .written => queueRd x r
    | .claimed => x

/-- Handle a write against the fresh map (R265, R266): it starts a render, claims the region, or sets its bit. -/
def decideWr (x : Cx) (w : WEnt) : Cx :=
  let g := w.line >>> 16
  if !freshOn x then queueWr x w
  else
    match regionOf x g with
    | .fresh =>
        match startRender x g with
        | some x => queueWr (markWritten x w.line) w
        | none => (setRegion x g .claimed).onC (fun c => { c with claims := c.claims ++ [g] })
    | .rendering => queueWr (markWritten x w.line) w
    | .written => queueWr x w
    | .claimed => x

/-- Handle held entries in enqueue order, as if enqueued now (R269, R271). `pick` says which. -/
def handleHeld (x : Cx) (pick : Nat → Nat → Bool) : Cx :=
  let rs := (x.c.rdq.filter (fun r => r.ph == .held && pick r.line r.ord)).map (fun r => (r.ord, (none : Option WEnt), some r))
  let ws := (x.c.wrq.filter (fun w => w.ph == .held && pick w.line w.ord)).map (fun w => (w.ord, some w, (none : Option REnt)))
  let all := rs ++ ws
  let ordered := (all.map (fun p => p.1)).foldl (fun a s => insStamp s a) []
  ordered.foldl (fun x o =>
    match all.find? (fun p => p.1 == o) with
    | some (_, some w, _) => decideWr x w
    | some (_, none, some r) => decideRd x r
    | _ => x) x

/-- A freed engine takes the oldest claim and its held requests are handled (R269). -/
def takeClaim (x : Cx) : Cx :=
  match x.c.claims with
  | [] => x
  | g :: l =>
      match startRender x g with
      | none => x
      | some x =>
          let x := x.onC (fun c => { c with claims := l })
          if clearing x g then x else handleHeld x (fun line _ => line >>> 16 == g)

/-! ### Self-refresh seen from an enqueue -/

/-- The emergencies that a self-refresh entry raised and that are not committed are taken back. -/
def RTgt.unquiesce (g : RTgt) : RTgt := { g with em := g.em.take (g.em.length - g.quie), quie := 0 }

/-- An entry in QUIESCE is abandoned, as if none had begun (Table 9-4, R183). -/
def srAbort (x : Cx) : Cx :=
  ((x.onC (fun c => { c with sr := { c.sr with st := 0 }, tgts := c.tgts.map RTgt.unquiesce })).setf 0x1410 0 0 0 |>.cnt 0x14B0).sts 0x1418 4

/-- Start of a wake on the link (Table 10-11). -/
def linkWake (x : Cx) (fromDown : Bool) : Cx :=
  x.onL (fun l => { l with
    st := 1
    fromDown := fromDown
    since := x.now
    slept := false
    ends := if fromDown then {} else l.ends
    replays := []
    alGood := 0
    idles := 0
    dn := [] }) |>.onB (fun b => { b with alGood := 0 })

/-- Leave self-refresh (Table 9-4): from ASLEEP the link wakes first; a link in DOWN waits for link_start (Table 10-11). -/
def srLeave (x : Cx) : Cx :=
  let x := if x.c.lk.st = 6 then linkWake x false else x
  x.onC (fun c => { c with sr := { c.sr with st := 5, srx := Vector.replicate 2 none } })

/-- The lap clock of the Pointing engine stops (R255). -/
def ptPause (x : Cx) : Cx :=
  match x.c.pt.from_ with
  | none => x
  | some t => x.onC (fun c => { c with pt := { c.pt with ran := c.pt.ran + (x.now - t), from_ := none } })

/-- The lap clock runs again. -/
def ptResume (x : Cx) : Cx := x.onC (fun c => { c with pt := { c.pt with from_ := some x.now } })

/-- What a demand request does to self-refresh (R183). Answers whether it waits for an exit. -/
def srDemand (x : Cx) : Cx × Bool :=
  let x := x.onC (fun c => { c with sr := { c.sr with demand := x.now }, idle := false })
  match x.c.sr.st with
  | 0 => (x, false)
  | 1 => (ptResume (srAbort x), false)
  | 5 => (x.cnt 0x14B8, true)
  | _ => ((srLeave x).cnt 0x14B8, true)

/-! ### Tracker and Pointing seen from a write -/

/-- The repeat tracker runs; while rt_en is 0 its entries keep their states (R256). -/
def rptOn (x : Cx) : Bool := x.f 0x1A00 0 0 == 1

/-- A write of a line supersedes what the tracker and the Pointing engine know of its copy (R253, R257). -/
def lineWritten (x : Cx) (line : Nat) : Cx :=
  let on := rptOn x
  x.onC (fun c => { c with
    rpt := c.rpt.map (fun e => if on && e.line == line && (e.st == 1 || e.st == 2) then { e with st := 3, since := x.now, corr := x.now } else e)
    pt := { c.pt with
      out := c.pt.out.map (fun p => if p.1 = line then (p.1, p.2.1, true) else p)
      rw := c.pt.rw.map (fun p => if p.line = line then { p with drop := true } else p) } })

/-! ### Enqueue -/

/-- The course serves requests: it is present, powered and not fenced. -/
def crsUp (x : Cx) : Bool := liveCrs x.z x.n && x.z.boot.hold == 0

/-- Reads of a row enqueued in this LCK cycle, none of them selected yet. -/
def rowReads (x : Cx) (a : Coord) : List REnt :=
  x.c.rdq.filter (fun r => r.enq == x.cyc && r.at_.key == a.key && r.at_.row == a.row && (match r.ph with | .committed _ => false | _ => true))

/-- The zero line formed for a read in this LCK cycle is taken back: the read counts as later than the write that comes (R148, R266). -/
def unzero (x : Cx) (r : REnt) : Cx :=
  if r.ph = .back ∧ (x.z.jdat[x.n]).any (fun j => j.id == r.id && j.fresh) = true then
    let x := x.onZ (fun z => { z with
      jdat := modV z.jdat x.n (fun l => removeFirst (fun j => j.id == r.id && j.fresh) l)
      jsts := modV z.jsts x.n (fun l => removeFirst (fun m => m == .served r.id) l) })
    let x := x.setf 0x2080 31 0 (x.f 0x2080 31 0 + (2 ^ 32 - 1))
    x.onC (fun c => { c with rdq := replaceFirst (fun e => e.ord == r.ord) (fun e => { e with ph := .held, srv := false }) c.rdq })
  else x

/-- A read that a write of its cycle precedes is handled again, in the write's wake (R148, R162, R264). -/
def readAgain (x : Cx) (ord : Nat) (zero : Bool) : Cx :=
  match x.c.rdq.find? (fun r => r.ord == ord) with
  | none => x
  | some r =>
      if r.ph = .queued then enterInOrder x r.at_
      else if zero = true ∧ r.ph = .held then (if regionOf x (r.line >>> 16) = .claimed then x.cnt 0x20A0 else decideRd x r)
      else x

/-- A read enters its queue (R144, R264). -/
def enqRead (x : Cx) (j : JReq) (ent : Nat) (wait : Bool) : Cx :=
  let a := coordOf x j.line
  let r : REnt := { ent := ent, ord := x.c.ord, id := j.id, line := j.line, at_ := a, port := j.port, ftg := j.ftg, enq := x.cyc, ph := .held,
                    wait := if wait then some x.dck else none, srv := false }
  let x := x.onC (fun c => { c with ord := c.ord + 1, rdq := c.rdq ++ [r] })
  let held := freshOn x && (clearing x (j.line >>> 16) || regionOf x (j.line >>> 16) == .claimed)
  let x := if held then x.cnt 0x20A0 else decideRd x r
  modeOnEnq x (!j.ftg && x.c.rdq.any (fun e => e.ord == r.ord && (e.ph == .queued || e.ph == .held)))

/-- A write enters its queue (R144, R247, R265); reads of its row that came in the same LCK cycle count as later (R148). -/
def enqWrite (x : Cx) (j : JReq) (ent : Nat) (wait : Bool) : Cx :=
  let a := coordOf x j.line
  let rs := rowReads x a
  let zeros := (rs.filter (fun r => r.ph == .back)).map (fun r => r.id)
  let x := rs.foldl unzero x
  let top := x.c.ord
  let up (o : Nat) : Nat := (rs.filter (fun r => decide (o < r.ord))).foldl (fun m r => min m r.ord) top
  let mine (r : REnt) : Bool := rs.any (fun q => q.ord == r.ord)
  let x := x.onC (fun c => { c with rdq := c.rdq.map (fun r => if mine r then { r with ord := up r.ord } else r) })
  let w : WEnt := { ent := ent, ord := rs.foldl (fun m r => min m r.ord) top, id := j.id, line := j.line, at_ := a, port := j.port, wb := j.wb, ftg := j.ftg,
                    code := lineCode j.data j.poison, psn := j.poison, enq := x.cyc, born := x.now, ph := .held,
                    wait := if wait then some x.dck else none, clr := false }
  let x := lineWritten (x.onC (fun c => { c with ord := c.ord + 1, wrq := c.wrq ++ [w] })) j.line
  let g := j.line >>> 16
  let x :=
    if freshOn x && (clearing x g || regionOf x g == .claimed) then x.cnt 0x20A0
    else
      let x := decideWr x w
      if freshOn x && regionOf x g == .claimed then x.cnt 0x20A0 else x
  modeOnEnq (rs.foldl (fun x r => readAgain x (up r.ord) (zeros.contains r.id)) x) false

/-- A request that meets a fenced course (R213). -/
def refuseFenced (x : Cx) (j : JReq) : Cx :=
  if j.write then sendStat ((x.onZ (fun z => bumpN z x.now (x.off 0x08E0) 16 1))) (if j.wb then .wb else .wr)
  else sendStat (sendData x ⟨j.id, j.line, 0, true, false, false⟩) (.served j.id)

/-- COURSE_ENQUEUE: the oldest request of the joint enters its queue (R145). -/
def courseEnqueue (x : Cx) : Cx :=
  match x.z.jreq[x.n] with
  | [] => x
  | j :: l =>
      let y := x.onZ (fun z => { z with jreq := modV z.jreq x.n (fun _ => l) })
      if (retesting x.z x.n && x.info.fence != 0) || x.c.lk.st == 4 then x
      else if !crsUp x then refuseFenced y j
      else
        match (if j.write then lowFree 128 (x.c.wrq.map (fun w => w.ent)) else lowFree 192 (x.c.rdq.map (fun r => r.ent))) with
        | none => x
        | some ent =>
            let (y, wait) := srDemand y
            if j.write then enqWrite y j ent wait else enqRead y j ent wait

/-- A read's entry is freed once its line has crossed to the home (R145). -/
def freeRead (c : CourseSt) (id : Nat) : CourseSt := { c with rdq := removeFirst (fun r => r.id == id && r.ph == .back) c.rdq }

/-! ### Clears -/

/-- CLEAR_REQUEST: the oldest clear of the joint reaches the course (R271). -/
def clearArrive (x : Cx) : Cx :=
  match x.z.jclr[x.n] with
  | [] => x
  | k :: l =>
      if x.c.lk.st = 4 then x
      else
      let x := x.onZ (fun z => { z with jclr := modV z.jclr x.n (fun _ => l) })
      let hit (line : Nat) : Bool := decide (k.lo ≤ line >>> 16 ∧ line >>> 16 < k.hi)
      x.onC (fun c => { c with
        clrs := c.clrs ++ [⟨k.job, k.lo, k.hi, c.ord⟩]
        wrq := c.wrq.map (fun w => if w.ph == .queued && hit w.line then { w with clr := true } else w) })

/-- The writes a clear waits for have their WR committed (R271 step 3). -/
def clearReady (x : Cx) (k : ClrSt) : Bool :=
  x.c.wrq.all (fun w => !(w.ph == .queued && w.clr && decide (w.ord < k.ord) && decide (k.lo ≤ w.line >>> 16 ∧ w.line >>> 16 < k.hi)))

/-- Regions of a clear become FRESH (R271 step 4); their tracker entries and rewrites end. -/
def clearRegion (x : Cx) (r : Nat) : Cx :=
  if regionCount x ≤ r then x
  else
    let x :=
      match engineOf x r with
      | some e => (x.onC (fun c => { c with eng := modV c.eng e (fun _ => none) })).sts 0x2008 2
      | none => x
    let x := x.onC (fun c => { c with
      claims := c.claims.filter (fun g => g != r)
      rpt := c.rpt.map (fun e => if e.line >>> 16 == r && (e.st == 1 || e.st == 2 || e.st == 3) then { e with st := 0, since := x.now } else e)
      pt := { c.pt with
        out := c.pt.out.map (fun p => if p.1 >>> 16 = r then (p.1, p.2.1, true) else p)
        rw := c.pt.rw.map (fun p => if p.line >>> 16 = r then { p with drop := true } else p) } })
    (setRegion x r .fresh).cnt 0x20A8

/-- A held write older than the clear is superseded: it leaves its entry, its completion stands (R271 step 5). -/
def dropHeldWr (x : Cx) (k : ClrSt) : Cx :=
  let hit (w : WEnt) : Bool := w.ph == .held && decide (w.ord < k.ord) && decide (k.lo ≤ w.line >>> 16 ∧ w.line >>> 16 < k.hi)
  let gone := x.c.wrq.filter hit
  let x := x.onC (fun c => { c with wrq := c.wrq.filter (fun w => !hit w) })
  gone.foldl (fun x w => sendStat (sendStat x (if w.wb then .wb else .wr)) (.served w.id)) x

/-- CLEAR_POINT: the oldest clear whose writes are committed takes effect (R271). Answers the job it serves. -/
def clearPoint (x : Cx) : Cx × Option Nat :=
  match x.c.clrs.find? (clearReady x) with
  | none => (x, none)
  | some k =>
      let x := x.onC (fun c => { c with clrs := removeFirst (fun q => q == k) c.clrs })
      let x := (List.range (k.hi - k.lo)).foldl (fun x i => clearRegion x (k.lo + i)) x
      let x := dropHeldWr x k
      let hit (line : Nat) : Bool := decide (k.lo ≤ line >>> 16 ∧ line >>> 16 < k.hi)
      let x := handleHeld x (fun line ord => hit line && decide (ord < k.ord))
      let x := handleHeld x (fun line ord => hit line && decide (k.ord ≤ ord) && !clearing x (line >>> 16))
      let x := (List.range 4).foldl (fun x _ => takeClaim x) x
      (x.sts 0x2008 1, some k.job)

end Sys2Proof.Machine
end

