-- ==== Sys2Proof/Machine/Sched.lean ====
section
/-! DEFINITION. The selector of a course: candidates and tiers (R157), chains and the flit plan (R156, R159), page policy (R160), refresh
payment (R165, R172), renders and rewrites (R253, R267), rebuilds (R229), probes (R297), the trace (R408) and slot accounting (R352). -/

namespace Sys2Proof.Machine

/-! ### Command slots and the trace -/

/-- The 80-bit slot of a command (Table 11-1). -/
def slotOf (b : Cmd) : Slot :=
  BitVec.ofNat 80 (b.op % 16 * 2 ^ 76 + b.sub % 2 * 2 ^ 75 + b.epoch % 4 * 2 ^ 73 + b.lr % 8 * 2 ^ 70 + b.bg % 8 * 2 ^ 67 + b.bk % 4 * 2 ^ 65
    + b.arg % 2 ^ 17 * 2 ^ 48 + b.stamp % 2 ^ 48)

/-- The command a slot spells; its stamp is restored near a reference count. -/
def slotCmd (s : Slot) (ref : Nat) : Cmd :=
  let v := s.toNat
  { op := slice v 79 76, sub := slice v 75 75, epoch := slice v 74 73, lr := slice v 72 70, bg := slice v 69 67, bk := slice v 66 65
    arg := slice v 64 48, stamp := nearest 48 v ref }

/-- Write one trace entry into the ring (Table 22-11). -/
def tracePut (z : Zmc) (now : Nat) (e : TraceEnt) : Zmc :=
  let d := z.dbg
  let full := match d.trcStop with | some s => decide (128 ≤ (d.trcNext - s).toNat) | none => false
  if full then bump z now (secBase + 0x2050)
  else
    let v := e.slot.toNat
    let w2 := slice v 79 64 + e.crs * 2 ^ 16 + (if e.rebuilt then 2 ^ 20 else 0)
    let ws := [BitVec.ofNat 32 v, BitVec.ofNat 32 (v >>> 32), BitVec.ofNat 32 w2, d.trcNext]
    { z with dbg := { d with trace := tblPut d.trace (d.trcNext.toNat % 128) ws, trcNext := if d.trcNext = 0xFFFFFFFF#32 then 1#32 else d.trcNext + 1 } }

/-- Forward up to `n` entries whose transfer intervals have come (R408: 40 ns each). -/
def tracePump (now : Nat) (h : Fin 2) : Nat → Zmc → Zmc
  | 0, z => z
  | n + 1, z =>
      match z.dbg.trcQ[h] with
      | [] => z
      | e :: l =>
          if now < z.dbg.trcAt[h] then z
          else
            let z := { z with dbg := { z.dbg with trcQ := modV z.dbg.trcQ h (fun _ => l), trcAt := modV z.dbg.trcAt h (fun t => t + 3360) } }
            tracePump now h n (tracePut z now e)

/-- A committed slot of a traced course joins its home's trace queue (R408). -/
def traceCmd (x : Cx) (b : Cmd) (rebuilt : Bool) : Cx :=
  if (getF x.z (secBase + 0x2040) 15 0).testBit x.n.val then
    x.onZ (fun z =>
      let h := homeOf x.n
      let z := tracePump x.now h 8 z
      if 8 ≤ z.dbg.trcQ[h].length then bump z x.now (secBase + 0x2050)
      else
        let t := if z.dbg.trcQ[h] = [] then max z.dbg.trcAt[h] (x.now + 3360) else z.dbg.trcAt[h]
        { z with dbg := { z.dbg with trcQ := modV z.dbg.trcQ h (fun l => l ++ [⟨slotOf b, x.n.val, rebuilt⟩]), trcAt := modV z.dbg.trcAt h (fun _ => t) } })
  else x

/-! ### What a commitment changes -/

/-- Banks a precharge covers. -/
def preKeys (b : Cmd) : List Nat :=
  (List.range 32).filterMap (fun i => if preCovers b (i / 4) (i % 4) then some (bankKey b.sub b.lr (i / 4) (i % 4)) else none)

/-- Banks a REF covers: all of its logical rank, or those of its bank index. -/
def refKeys (b : Cmd) : List Nat :=
  (List.range 32).filterMap (fun i => if b.op = 9 ∨ i % 4 = b.bk then some (bankKey b.sub b.lr (i / 4) (i % 4)) else none)

/-- Bank slots after a commitment (Table 8-3). -/
def noteBank (t : Tim) (c : CourseSt) (b : Cmd) : CourseSt :=
  let k := bankKey b.sub b.lr b.bg b.bk
  let close (p : Nat) (s : BankSt) : BankSt := { s with open_ := none, hits := [], pre := p }
  if b.op = 1 then modBank c k (fun s => { s with open_ := some b.arg, act := b.stamp, hits := [] })
  else if isRd b.op ∨ isWrOp b.op then
    modBank c k (fun s =>
      let s := { s with last := some b.row, lastCol := b.stamp }
      if b.op % 2 = 1 then close (innerPre t s.act b) s else { s with hits := b.ord :: s.hits })
  else if isPre b.op then (preKeys b).foldl (fun c k => modBank c k (close b.stamp)) c
  else if b.op = 9 ∨ b.op = 10 then
    let till := b.stamp + (if b.op = 9 then rfcOf t b else t.trfcsb)
    (refKeys b).foldl (fun c k => modBank c k (fun s => { s with ref := b.stamp, busy := till })) c
  else c

/-- State of a bank slot (Table 8-3): 0 CLOSED, 1 OPEN, 2 REF. -/
def bankState (x : Cx) (k : Nat) : Nat := let b := bankAt x.c k; if b.open_.isSome then 1 else if x.dck < b.busy then 2 else 0

/-- Power-down states after a commitment (R166). -/
def notePd (x : Cx) (b : Cmd) : CourseSt → CourseSt := fun c =>
  let r := (b.sub, prankOf x b.lr)
  if isPwr b 0 then { c with pd := r :: c.pd.filter (fun p => p != r) }
  else if isPwr b 1 then { c with pd := c.pd.filter (fun p => p != r) } else c

/-- The maintenance request has waited 64 LCK (R198). -/
def mntUrgent (x : Cx) : Bool := match x.c.lk.mnt.req with | some (_, since) => decide (since + 64 ≤ x.cyc) && !x.c.plan.any (fun f => f.four) | none => false

/-! ### Requests -/

/-- A queued request of either queue. -/
structure Req where
  rd   : Bool
  ord  : Nat
  line : Nat
  at_  : Coord
  ftg  : Bool
  enq  : Nat
  clr  : Bool
  ent  : Nat
  code : Code
  psn  : Bool
  port : Nat
  deriving DecidableEq, Repr

/-- The requests that wait for their chains. -/
def reqsOf (c : CourseSt) : List Req :=
  ((c.rdq.filter (fun r => r.ph == .queued)).map (fun r => ⟨true, r.ord, r.line, r.at_, r.ftg && !r.again, r.enq, false, r.ent, 0, false, if r.ftg then 24 else r.port⟩)) ++
  ((c.wrq.filter (fun w => w.ph == .queued)).map (fun w => ⟨false, w.ord, w.line, w.at_, w.ftg, w.enq, w.clr, w.ent, w.code, w.psn, if w.ftg then 24 else w.port⟩))

/-- Requests of a bank. -/
def onBank (qs : List Req) (k : Nat) : List Req := qs.filter (fun q => q.at_.key == k)

/-- Banks closed to new work by an emergency that reached the course in an earlier cycle (R165): logical ranks of a subchannel. -/
def blocked (x : Cx) (s lr : Nat) : Bool :=
  let i := 8 * s + lr
  x.c.tgts[toFin 16 (by decide) i].em.any (fun e => decide (e < x.cyc))

/-- The bank that an hPPR holds (R261). -/
def bankHeld (x : Cx) (k : Nat) : Bool := match x.c.ppr with | p :: _ => (coordOf x p.line).key == k | [] => false

/-- Row hits a bank has given since an older request was enqueued (R160). -/
def runSince (b : BankSt) (ord : Nat) : Nat := (b.hits.filter (fun h => decide (ord < h))).length

/-- The request may be served in the present mode (R162, R163, R271). -/
def modeAllows (c : CourseSt) (q : Req) : Bool :=
  if (bankAt c q.at_.key).fence.isSome then true else if q.rd then c.mode == 0 || q.ftg else c.mode != 0 || q.clr

/-- A wtag is held by a borrowed or rebuilt write that has not reached its stamp (R230, R268). -/
def tagHeld (x : Cx) (tag : Nat) : Bool := match tblFind x.c.tags tag with | some s => decide (x.dck < s) | none => false

/-- The request is a candidate before its chain is placed (R147, R148, R160, R162, R163, R165, R261). -/
def mayServe (x : Cx) (s : Fin 2) (qs : List Req) (q : Req) : Bool :=
  let bank := bankAt x.c q.at_.key
  let mine := onBank qs q.at_.key
  q.at_.sub == s.val && decide (q.enq < x.cyc) && !blocked x s.val q.at_.lr && !bankHeld x q.at_.key && modeAllows x.c q &&
  (bank.fence.isNone || mine.all (fun o => decide (q.ord ≤ o.ord))) &&
  (q.rd || (!tagHeld x q.ent && mine.all (fun o => o.rd || o.line != q.line || decide (q.ord ≤ o.ord)))) &&
  (match bank.open_ with
   | some r =>
       r == q.at_.row || bank.fence.isSome || (q.ftg && q.rd) ||
       !(mine.any (fun o => o.at_.row == r && modeAllows x.c o)) ||
       (x.f 0x1000 9 2 != 0 && decide (x.f 0x1000 9 2 ≤ runSince bank q.ord))
   | none => true)

/-- Auto-precharge of a column command (Table 8-8), and whether the hit-run cap ended a run. -/
def autoPre (x : Cx) (qs : List Req) (a : Coord) (ord : Nat) : Bool × Bool :=
  let bank := bankAt x.c a.key
  let cap := x.f 0x1000 9 2
  let others := (onBank qs a.key).filter (fun o => o.ord != ord)
  let older := others.filter (fun o => o.at_.row != a.row && decide (o.ord < ord))
  let run (o : Req) : Nat := (if bank.open_ = some a.row then runSince bank o.ord else 0) + 1
  if cap ≠ 0 ∧ older.any (fun o => decide (cap ≤ run o)) then (true, true)
  else if others.any (fun o => o.at_.row == a.row) then (false, false)
  else if others.any (fun o => o.at_.row != a.row) then (true, false)
  else
    let pm := x.f 0x1000 1 0
    (pm == 1 || (pm == 0 && decide (bank.pred < 2)), false)

/-- A PDX when the rank is in power-down (R166). -/
def pdxFor (x : Cx) (s lr : Nat) : List Cmd :=
  if x.c.pd.contains (s, prankOf x lr) then [{ op := 14, sub := s, lr := prankOf x lr, arg := 2 ^ 15 }] else []

/-- The commands before a column command: PDX, PRE and ACT as the bank needs them. -/
def openRow (x : Cx) (a : Coord) : List Cmd :=
  let pre : Cmd := { op := 6, sub := a.sub, lr := a.lr, bg := a.bg, bk := a.bk }
  let act : Cmd := { op := 1, sub := a.sub, lr := a.lr, bg := a.bg, bk := a.bk, arg := a.row }
  pdxFor x a.sub a.lr ++
  (match (bankAt x.c a.key).open_ with
   | none => [act]
   | some r => if r = a.row then [] else [pre, act])

/-- A column command. -/
def colCmd (a : Coord) (rd ap : Bool) (tag : Nat) (src : Src) (data : Option Code) (port : Nat) : Cmd :=
  { op := (if rd then 2 else 4) + (if ap then 1 else 0), sub := a.sub, lr := a.lr, bg := a.bg, bk := a.bk
    arg := a.col * 1024 + (if rd then 0 else tag % 128 * 8), row := a.row, src := src, data := data, port := port }

/-! ### The flit plan -/

/-- The last SRX stamp of both subchannels, once committed. -/
def lastSrx (c : CourseSt) : Option Nat :=
  match c.sr.srx[(0 : Fin 2)], c.sr.srx[(1 : Fin 2)] with
  | some a, some b => some (max a b)
  | _, _ => none

/-- Request chains may be committed in the present self-refresh state. -/
def srServes (x : Cx) : Bool := decide (x.c.sr.st < 2) || (x.c.sr.st == 5 && (lastSrx x.c).isSome)

/-- Order of candidates: footing reads first, then row hits, then age (R157). -/
def reqRank (x : Cx) (q : Req) : Nat :=
  let hit := (bankAt x.c q.at_.key).open_ == some q.at_.row
  (if q.ftg && q.rd then 0 else 2 ^ 61) + (if hit then 0 else 2 ^ 60) + q.ord

/-- Slots that the other subchannel may still want in this cycle's selection: those of its best request, and of a due refresh. -/
def chainWant (x : Cx) (o : Fin 2) : Nat :=
  let qs := reqsOf x.c
  let best := minBy (reqRank x) (qs.filter (mayServe x o qs))
  let req := if x.c.reqAt[o] = some x.cyc ∨ srServes x = false then 0
    else match best with | some q => if q.rd then (openRow x q.at_).length + 1 else 0 | none => 0
  let oth := if x.c.othAt[o] ≠ some x.cyc ∧ (List.range 8).any (fun l => blocked x o.val l) = true then 2 else 0
  if x.c.rb[o].on then 3 else req + oth

/-- Free slots of the flit planned for a cycle (R158, R159). -/
def planRoom (x : Cx) (cy : Nat) : Nat :=
  match x.c.plan.find? (fun f => f.cyc == cy) with
  | some f => (if f.kind = .cmd then (if f.four then 4 else 6) else 2) - f.cmds.length
  | none => if mntUrgent x then 4 else 6

/-- Insert a flit into the plan by its cycle. -/
def insPlan (f : PFlit) : List PFlit → List PFlit
  | [] => [f]
  | g :: l => if f.cyc < g.cyc then f :: g :: l else g :: insPlan f l

/-- Put a command into the flit planned for a cycle. -/
def planPut (x : Cx) (cy : Nat) (b : Cmd) : Cx :=
  if x.c.plan.any (fun f => f.cyc == cy) then
    x.onC (fun c => { c with plan := replaceFirst (fun f => f.cyc == cy) (fun f => { f with cmds := f.cmds ++ [b] }) c.plan })
  else
    let u := mntUrgent x
    x.onC (fun c => { c with plan := insPlan { cyc := cy, kind := .cmd, four := u, cmds := [b] } c.plan })

/-- Commit one placed command into the flit of cycle `cy`: calendar, retry buffer, plan, banks, counters, trace (R156, R225). -/
def commitCmd (x : Cx) (b : Cmd) (cy : Nat) (rebuilt : Bool) : Cx :=
  let s := toSub b.sub
  let t := timOf x
  let b := { b with epoch := x.c.epoch[s], ord := x.c.ord }
  let x := x.onC (fun c => { c with ord := c.ord + 1 })
  let act := (bankAt x.c (bankKey b.sub b.lr b.bg b.bk)).act
  let x := x.onC (fun c => { c with
    cal := modV c.cal s (fun l => calOf t act b ++ l)
    retry := modV c.retry s (fun l => l ++ [b])
    outRd := if isRd b.op ∨ b.op = 12 then c.outRd ++ [b] else c.outRd })
  let x := x.onC (fun c => notePd x b (noteBank t c b))
  let x := x.onC (fun c => { c with lastCmd := tblPut c.lastCmd (4 * s.val + prankOf x b.lr) (max b.stamp ((tblFind c.lastCmd (4 * s.val + prankOf x b.lr)).getD 0)) })
  let x := planPut x cy b
  let x := if isRd b.op then x.cnt 0x1200 else if isWrOp b.op then x.cnt 0x1208 else if b.op = 9 then x.cnt 0x1480 else if b.op = 10 then x.cnt 0x1488 else x
  let x := if rebuilt then (if b.op = 9 ∨ b.op = 10 then (x.cnt 0x0C50).cnt 0x14A0 else x.cnt 0x0C50) else x
  traceCmd x b rebuilt

/-- Commit a placed chain. -/
def commitAll (x : Cx) (bs : List (Cmd × Nat)) (rebuilt : Bool) : Cx := bs.foldl (fun x p => commitCmd x p.1 p.2 rebuilt) x

/-! ### Placing chains -/

/-- The course may commit now (R151, R203, R209, R159): link ACTIVE, no replay, replay buffer not full, a complete set of parameters. -/
def commitOk (x : Cx) : Bool :=
  crsUp x && x.c.lk.st == 2 && x.c.lk.ends.rep == 0 && decide (x.c.lk.ends.buf.length < 128) && !x.c.lk.rate && !x.c.lk.stop &&
  x.f 0x1100 7 0 != 0 && x.info.rate != 0 && x.c.dck.den != 0

/-- No new command may come before these committed ones: those of its bank, of its rank, and a power-down or self-refresh exit. -/
def stampFloor (t : Tim) (cal : List Cmd) (b : Cmd) : Nat :=
  let touches (e : Cmd) : Bool :=
    if e.op == 14 then samePr t e b && (isPwr e 1 || isPwr e 3 || b.op == 14)
    else if b.op == 14 then samePr t e b
    else if e.lr != b.lr then false
    else if b.op == 8 || b.op == 9 || e.op == 8 || e.op == 9 then e.op ≤ 10 || e.op == opIpre
    else if b.op == 7 || b.op == 10 || e.op == 7 || e.op == 10 then e.bk == b.bk && (e.op ≤ 10 || e.op == opIpre)
    else if b.op ≤ 6 && (e.op ≤ 6 || e.op == opIpre) then e.bg == b.bg && e.bk == b.bk
    else false
  cal.foldl (fun m e => if touches e then max m e.stamp else m) 0

/-- A rank under a probe takes nothing before the probe's end (R297). -/
def probeFloor (x : Cx) (t : Tim) (b : Cmd) : Nat :=
  x.c.tr.probes.foldl (fun m p => if p.i / 8 == b.sub ∧ prankOf x (p.i % 8) = prankOf x b.lr then max m (p.endAt + t.tmrr) else m) 0

/-- In EXITING the waiting work comes no earlier than the last SRX + txs (R183). -/
def srxFloor (x : Cx) (t : Tim) : Nat := if x.c.sr.st = 5 then (match lastSrx x.c with | some s => s + t.txs | none => 0) else 0

/-- Place a chain, no command below the stamp it carries: slots in the flits of `cys`, stamps, room in the retry buffer, the calendar's span and the horizon (R156, R159, R225). -/
def tryChain (x : Cx) (s : Fin 2) (bs : List Cmd) (cys : List Nat) (floor : Nat) (hz : Option Nat) : Option (List (Cmd × Nat)) :=
  if 128 < x.c.retry[s].length + bs.length then none
  else
    let t := timOf x
    let cal := x.c.cal[s]
    let other := calAt x.c (1 - s.val)
    let act := match bs.head? with | some b => (bankAt x.c (bankKey b.sub b.lr b.bg b.bk)).act | none => 0
    let items := (bs.zip cys).map (fun p => (p.1, max (max (max (baseOf x p.2) p.1.stamp) (max floor (srxFloor x t))) (max (stampFloor t cal p.1) (probeFloor x t p.1))))
    match placeChain t other (x.dck + 2047) cal act items 0 with
    | none => none
    | some l =>
        let okHz : Bool := match hz, l.head?, cys.head? with
          | some h, some b, some cy => decide (b.stamp ≤ baseOf x cy + h)
          | _, _, _ => true
        if okHz then some (l.zip cys) else none

/-- Commands of a subchannel in the flit planned for a cycle. -/
def planOf (x : Cx) (o : Fin 2) (cy : Nat) : Nat :=
  match x.c.plan.find? (fun f => f.cyc == cy && f.kind == .cmd) with
  | some f => (f.cmds.filter (fun b => b.sub == o.val)).length
  | none => 0

/-- A planned data flit. -/
def dataAt (x : Cx) (cy : Nat) : Bool := x.c.plan.any (fun f => f.cyc == cy && f.kind != .cmd)

/-- Slots of the flits of `cys` that one subchannel may take: of a command flit's slots three are the other subchannel's, as far as it
wants them (R158). -/
def shareSlots (x : Cx) (o : Fin 2) : List Nat → Nat → List Nat
  | [], _ => []
  | cy :: l, want =>
      let keep := if dataAt x cy then 0 else min want (3 - planOf x o cy)
      List.replicate (planRoom x cy - keep) cy ++ shareSlots x o l (want - keep)

/-- Cycles of the slots that `k` commands of a subchannel take, first fit in the planned flits of `cys`. -/
def takeSlots (x : Cx) (s : Fin 2) (cys : List Nat) (k : Nat) : Option (List Nat) :=
  let o : Fin 2 := if s = 0 then 1 else 0
  let all := (shareSlots x o cys (chainWant x o)).take k
  if all.length = k then some all else none

/-- The cycles whose flits a chain without line data may use: the two after the selection (R147, R159). -/
def cmdCycs (x : Cx) : List Nat := [x.cyc + 1, x.cyc + 2]

/-- First cycle whose flit can still be built. -/
def nextFlit (x : Cx) : Nat := match x.c.sentAt with | some n => max x.cyc (n + 1) | none => x.cyc

/-- A chain without line data. -/
def tryCmds (x : Cx) (s : Fin 2) (bs : List Cmd) (floor : Nat) (hz : Option Nat) : Option (List (Cmd × Nat)) :=
  match takeSlots x s (cmdCycs x) bs.length with
  | none => none
  | some cys => tryChain x s bs cys floor hz

/-- A write chain: its two data flits are free, its last command travels in the second (R158, R159). -/
def tryWrite (x : Cx) (s : Fin 2) (bs : List Cmd) (floor : Nat) (hz : Option Nat) : Option (List (Cmd × Nat)) :=
  let p := nextFlit x
  if x.c.plan.any (fun f => f.cyc == p || f.cyc == p + 1) ∨ p > x.cyc + 1 then none
  else
    let cys := [p, p, p + 1].take (bs.length - 1) ++ [p + 1]
    if cys.length ≠ bs.length then none else tryChain x s bs cys floor hz

/-- Enter the data flits of a write into the plan. -/
def planData (x : Cx) (tag : Nat) (code : Code) : Cx :=
  let p := nextFlit x
  let f0 : PFlit := { cyc := p, kind := .wdata0, tag := tag, code := code }
  let f1 : PFlit := { cyc := p + 1, kind := .wdata1, tag := tag, code := code }
  x.onC (fun c => { c with plan := insPlan f0 (insPlan f1 c.plan) })

/-! ### Serving requests -/

/-- Counters of a request chain (Table 8-14). -/
def countChain (x : Cx) (bs : List Cmd) (cap : Bool) : Cx :=
  let x := if bs.any (fun b => b.op == 6) then x.cnt 0x1220 else if bs.any (fun b => b.op == 1) then x.cnt 0x1218 else x.cnt 0x1210
  if cap then x.cnt 0x1248 else x

/-- Banks leave in-order mode once their fence write's WR is committed (R162). -/
def fenceDone (x : Cx) (a : Coord) (ord : Nat) : Cx :=
  x.onC (fun c => modBank c a.key (fun b => if b.fence = some ord then { b with fence := none } else b))

/-- The largest stamp of a chain. -/
def topStamp (l : List (Cmd × Nat)) : Nat := l.foldl (fun m p => max m p.1.stamp) 0

/-- The stamp of the last command of a chain. -/
def lastStamp (l : List (Cmd × Nat)) : Nat := match l.getLast? with | some p => p.1.stamp | none => 0

/-- Serve one request: place and commit its chain (R156 to R163). -/
def serve (x : Cx) (s : Fin 2) (qs : List Req) (q : Req) : Option Cx :=
  let (ap, cap) := autoPre x qs q.at_ q.ord
  let pre := openRow x q.at_
  let hz := some (x.f 0x1010 9 0)
  if q.rd then
    let bs := pre ++ [colCmd q.at_ true ap 0 (.rd q.ord) none q.port]
    match tryCmds x s bs 0 hz with
    | none => none
    | some l =>
        let x := countChain (commitAll x l false) bs cap
        some (x.onC (fun c => { c with rdq := replaceFirst (fun r => r.ord == q.ord) (fun r => { r with ph := .committed (lastStamp l) }) c.rdq }))
  else
    let bs := pre ++ [colCmd q.at_ false ap q.ent (.wr q.ord) (some q.code) q.port]
    match tryWrite x s bs 0 hz with
    | none => none
    | some l =>
        let pulled := x.c.mode = 0 ∧ (bankAt x.c q.at_.key).fence.isSome = true
        let x := countChain (commitAll (planData x q.ent q.code) l false) bs cap
        let x := if pulled then x.cnt 0x1230 else x
        let x := if q.psn then x.cnt 0x1868 else x
        let x := x.onC (fun c => { c with wrq := replaceFirst (fun w => w.ord == q.ord) (fun w => { w with ph := .committed (lastStamp l) }) c.wrq })
        some (fenceDone x q.at_ q.ord)

/-! ### Borrowed writes: renders, rewrites, training writes -/

/-- The lowest wtag that no queue entry and no borrowed write holds (R268). -/
def borrowTag (x : Cx) : Option Nat := (List.range 128).find? (fun t => !x.c.wrq.any (fun w => w.ent == t) && !tagHeld x t)

/-- Commit a write that uses no queue entry. -/
def borrowWrite (x : Cx) (s : Fin 2) (a : Coord) (code : Code) (src : Src) (hz : Option Nat) : Option (Cx × Nat) :=
  match borrowTag x with
  | none => none
  | some tag =>
      let (ap, _) := autoPre x (reqsOf x.c) a x.c.ord
      match tryWrite x s (openRow x a ++ [colCmd a false ap tag src (some code) 24]) 0 hz with
      | none => none
      | some l =>
          let x := commitAll (planData x tag code) l false
          some (x.onC (fun c => { c with tags := tblPut c.tags tag (lastStamp l) }), lastStamp l)

/-- A render ends (R267). -/
def renderDone (x : Cx) (e : Fin 4) (g : Render) : Cx :=
  let x := (setRegion x g.region .written).onC (fun c => { c with eng := modV c.eng e (fun _ => none) })
  takeClaim (x.sts 0x2008 0)

/-- The engine skips written lines from its offset; answers the skips and the engine. -/
def skipBits : Nat → Render → Nat → Nat × Render
  | 0, g, k => (k, g)
  | n + 1, g, k => if g.bits.head? = some g.pos then skipBits n { g with pos := g.pos + 1, bits := g.bits.tail } (k + 1) else (k, g)

/-- The engine moves past written lines; at the end of the region the render is done. -/
def engineAdvance (x : Cx) (e : Fin 4) : Cx :=
  match x.c.eng[e] with
  | none => x
  | some g =>
      let (k, g) := skipBits (g.bits.length) g 0
      let x := (x.cntN 0x2098 k).onC (fun c => { c with eng := modV c.eng e (fun _ => some g) })
      if 65536 ≤ g.pos then renderDone x e g else x

/-- The line an engine visits next. -/
def renderLine (g : Render) : Nat := g.region * 65536 + g.pos

/-- An engine may commit its next write: the subchannel, the eight outstanding, no read of the line decided for DRAM and uncommitted. -/
def renderReady (x : Cx) (s : Fin 2) (e : Fin 4) (g : Render) : Bool :=
  decide (g.pos < 65536 ∧ renderLine g % 2 = s.val) && decide ((x.c.engOut.filter (fun p => p.2 == e.val && decide (x.dck < p.1))).length < 8) &&
  x.c.rdq.all (fun r => !(r.ph == .queued && r.line == renderLine g)) && !blocked x s.val (coordOf x (renderLine g)).lr &&
  !bankHeld x (coordOf x (renderLine g)).key

/-- Renders and the Pointing engine run only in AWAKE (Table 9-4). -/
def bgRuns (x : Cx) : Bool := x.c.sr.st == 0

/-- Insert by a measure. -/
def insBy {α : Type} (f : α → Nat) (a : α) : List α → List α
  | [] => [a]
  | b :: l => if f a < f b then a :: b :: l else b :: insBy f a l

/-- In the order of a measure, the first of equals first. -/
def sortBy {α : Type} (f : α → Nat) (l : List α) : List α := l.foldl (fun a q => insBy f q a) []

/-- The first success in order. -/
def firstSome {α β : Type} (f : α → Option β) : List α → Option β
  | [] => none
  | a :: l => match f a with | some b => some b | none => firstSome f l

/-- The engines with a write ready on a subchannel, the earliest render first (R267). -/
def readyEngines (x : Cx) (s : Fin 2) : List (Fin 4 × Render) :=
  if !bgRuns x then []
  else
    sortBy (fun p => p.2.start) ((([0, 1, 2, 3] : List (Fin 4)).filterMap (fun e => (x.c.eng[e]).map (fun g => (e, g)))).filter (fun p => renderReady x s p.1 p.2))

/-- The next write of an engine (R267). -/
def renderWrite (x : Cx) (s : Fin 2) (e : Fin 4) (g : Render) : Option Cx :=
  match borrowWrite x s (coordOf x (renderLine g)) 0 (.render e.val g.pos) (some (x.f 0x1010 9 0)) with
  | none => none
  | some (x, st) =>
      let x := lineWritten (x.cnt 0x2090) (renderLine g)
      let x := x.onC (fun c => { c with eng := modV c.eng e (fun _ => some { g with pos := g.pos + 1 }), engOut := c.engOut ++ [(st, e.val)] })
      some (engineAdvance x e)

/-- One render write on a subchannel (R267). -/
def renderStep (x : Cx) (s : Fin 2) : Option Cx := firstSome (fun p => renderWrite x s p.1 p.2) (readyEngines x s)

/-- A line whose row is not open: its chain needs an ACT (R157). -/
def needsAct (x : Cx) (line : Nat) : Nat := let a := coordOf x line; if (bankAt x.c a.key).open_ = some a.row then 0 else 1

/-- The tracker entry of a line, when it is not FREE. -/
def rptFind (x : Cx) (line : Nat) : Option (Fin 64) := (List.finRange 64).find? (fun e => x.c.rpt[e].st != 0 && x.c.rpt[e].line == line)

/-- Change a tracker entry. -/
def modRpt (x : Cx) (e : Fin 64) (f : Rpt → Rpt) : Cx := x.onC (fun c => { c with rpt := modV c.rpt e f })

/-- Allocate an entry for a line in a state (R256): a FREE entry, else the COUNTING entry with the lowest count, else the oldest WATCH
entry; none when rt_en is 0 or every entry is QUEUED or HARD. -/
def rptAlloc (x : Cx) (line st count : Nat) : Cx :=
  let es := List.finRange 64
  let of_ (k : Nat) : List (Fin 64) := es.filter (fun e => x.c.rpt[e].st == k)
  let pick : Option (Fin 64) :=
    match of_ 0 with
    | e :: _ => some e
    | [] =>
        match minBy (fun e => x.c.rpt[e].count * 2 ^ 64 + x.c.rpt[e].ord) (of_ 1) with
        | some e => some e
        | none => minBy (fun e => x.c.rpt[e].ord) (of_ 3)
  if !rptOn x then x
  else
    match pick with
    | none => (x.cnt 0x1A48).sts 0x1A08 2
    | some e =>
        let o := x.c.ord
        let x := (modRpt x e (fun _ => { st := st, line := line, count := count, since := x.now, corr := x.now, ord := o })).cnt 0x1A40
        x.onC (fun c => { c with ord := c.ord + 1 })

/-- A dropped rewrite (R253). -/
def rwDrop (x : Cx) (p : PtRw) : Cx :=
  let x := x.cnt 0x1950
  match rptFind x p.line with
  | some e => if rptOn x && x.c.rpt[e].st == 2 then modRpt x e (fun r => { r with st := 3, since := x.now }) else x
  | none => x

/-- A Pointing rewrite is committed: its tracker entry moves to WATCH, or one is allocated there (R256, Table 12-5). -/
def rwNote (x : Cx) (p : PtRw) : Cx :=
  let x := x.cnt 0x1948
  let x := if p.e.isSome then x.cnt 0x1968 else x
  match rptFind x p.line with
  | some e => if rptOn x && x.c.rpt[e].st == 2 then modRpt x e (fun r => { r with st := 3, since := x.now, corr := x.now }) else x
  | none => rptAlloc x p.line 3 0

/-- Rewrites overtaken by a write or a clear are dropped (R253). -/
def dropRewrites (x : Cx) : Cx :=
  let gone := x.c.pt.rw.filter (fun p => p.drop)
  if gone = [] then x
  else gone.foldl rwDrop (x.onC (fun c => { c with pt := { c.pt with rw := c.pt.rw.filter (fun p => !p.drop) } }))

/-- Commit a rewrite (R253). -/
def rewriteOf (x : Cx) (s : Fin 2) (p : PtRw) : Option Cx :=
  let a := coordOf x p.line
  if blocked x s.val a.lr || bankHeld x a.key then none
  else
    match borrowWrite x s a p.code .ptWr (some (x.f 0x1010 9 0)) with
    | none => none
    | some (x, _) => some (rwNote (x.onC (fun c => { c with pt := { c.pt with rw := removeFirst (fun q => q == p) c.pt.rw } })) p)

/-! ### Refresh -/

/-- Banks of a logical rank that are open at the end of the committed timeline, bank index `k` or all. -/
def openBanks (c : CourseSt) (s lr : Nat) (k : Option Nat) : Nat :=
  ((List.range 32).filter (fun i => (match k with | some k => i % 4 == k | none => true) && (bankAt c (bankKey s lr (i / 4) (i % 4))).open_.isSome)).length

/-- A target in use: training found its logical rank. -/
def tgtUsed (x : Cx) (i : Nat) : Bool := decide (i % 8 < lranks x ∧ x.info.ranks ≠ 0)

/-- refresh mode in force. -/
def refMode (x : Cx) : Nat := x.f 0x1400 1 0

/-- The probe commands after a REF at stamp `r` (R297). -/
def probeCmds (x : Cx) (t : Tim) (i r : Nat) (fg : Bool) : List Cmd :=
  let s := i / 8
  let lr := i % 8
  let k (op arg st : Nat) (src : Src) : Cmd := { op := op, sub := s, lr := lr, arg := arg, stamp := st, src := src }
  let t0 := r + (if fg then t.trfc2 else t.trfc1)
  let m0 := t0 + t.tmrd
  let ex := m0 + 4 * t.tmrr
  let base := [k 11 (25 * 512 + 1 * 2) t0 (.probe i 2)] ++ (List.range 4).map (fun j => k 12 (31 * 512) (m0 + j * t.tmrr) (.probe i 2))
    ++ [k 11 (25 * 512) ex (.probe i 2)]
  let osc := x.f 0x2440 26 16
  if osc = 0 then base
  else
    let st := ex + t.tmrd
    let sp := st + 16 * osc
    base ++ [k 13 (6 * 512) st (.probe i 2), k 13 (7 * 512) sp (.probe i 2), k 12 (46 * 512) (sp + t.tmrd) (.probe i 0), k 12 (47 * 512) (sp + t.tmrd + t.tmrr) (.probe i 1)]

/-- One interval of a target is paid (R172, R173): an emergency raised and not committed is settled first. -/
def payRef (x : Cx) (i : Nat) : Cx :=
  let pay (g : RTgt) : RTgt :=
    { g with
      owed := g.owed - 1
      em := g.em.tail
      quie := min g.quie g.em.tail.length
      catch_ := g.catch_ && g.owed != 1 }
  x.onC (fun c => { c with tgts := modV c.tgts (toFin 16 (by decide) i) pay })

/-- Place a refresh chain of an armed target: the REF takes the first stamp from which every command of the probe is legal at its own
stamp (R155, R297). -/
def probeChain (x : Cx) (s : Fin 2) (i : Nat) (fg : Bool) (pre : List Cmd) (ref : Cmd) (hz : Option Nat) : Nat → Nat → Option (List (Cmd × Nat))
  | 0, _ => none
  | k + 1, lo =>
      match tryCmds x s (pre ++ [{ ref with stamp := lo }]) 0 hz with
      | none => none
      | some l =>
          let t := timOf x
          let r := lastStamp l
          if (probeCmds x t i r fg).all (legal t x.c.cal[s] (calAt x.c (1 - s.val))) = true then some l
          else probeChain x s i fg pre ref hz k (r + 1)

/-- Commit probe commands: those inside the calendar's span (R156) into the slots of `cys`; the stamps of the others are taken too, and they
follow once the span reaches them. -/
def commitProbe (x : Cx) (s : Fin 2) (ps : List Cmd) (cys : List Nat) : Cx :=
  let near (p : Cmd) : Bool := decide (p.stamp ≤ x.dck + 2047)
  let x := commitAll x ((ps.filter near).zip cys) false
  let far := ((ps.filter (fun p => !near p)).zip (List.range ps.length)).map (fun p => { p.1 with ord := x.c.ord + p.2 })
  x.onC (fun c => { c with
    ord := c.ord + far.length
    later := c.later ++ far
    cal := modV c.cal s (fun l => far ++ l) })

/-- Probe commands of a subchannel that the calendar's span has reached are committed (R156, R297). -/
def sendLater (x : Cx) (s : Fin 2) : Cx :=
  let due := x.c.later.filter (fun b => b.sub == s.val && decide (b.stamp ≤ x.dck + 2047))
  due.foldl (fun x b =>
    match takeSlots x s (cmdCycs x) 1 with
    | some (cy :: _) =>
        if 128 ≤ x.c.retry[s].length then x
        else
          let x := x.onC (fun c => { c with later := removeFirst (fun k => k == b) c.later, cal := modV c.cal s (fun l => removeFirst (fun k => k == b) l) })
          commitCmd x b cy false
    | _ => x) x

/-- Targets `l` are armed in this LCK cycle: a payment of the same cycle carries no probe (R297), and alerts count from here (R298). -/
def noteArm (x : Cx) (l : List Nat) : Cx :=
  x.onC (fun c => { c with tr := { c.tr with
    armAt := (x.cyc, if c.tr.armAt.1 = x.cyc then c.tr.armAt.2 ++ l else l)
    armBad := c.tr.armBad.filter (fun i => !l.contains i) } })

/-- Refresh of target `i` on its subchannel (R165, R172, R297). -/
def refreshStep (x : Cx) (s : Fin 2) (i : Nat) (emerg : Bool) (qs : List Req) : Option Cx :=
  let lr := i % 8
  let t := timOf x
  let ti := toFin 16 (by decide) i
  let mode := refMode x
  let armed := (x.f 0x2440 15 0).testBit i && !(x.c.tr.armAt.1 == x.cyc && x.c.tr.armAt.2.contains i)
  let full := mode ≠ 2 ∨ emerg = true ∨ armed = true
  let hz := if emerg then none else some (x.f 0x1010 9 0)
  let tgtQs := qs.filter (fun q => q.at_.sub == s.val && q.at_.lr == lr)
  if full then
    if emerg = false ∧ tgtQs ≠ [] then none
    else
      let n := openBanks x.c s.val lr none
      let pre := pdxFor x s.val lr ++ (if n = 0 then [] else [({ op := 8, sub := s.val, lr := lr } : Cmd)])
      let ref : Cmd := { op := 9, sub := s.val, lr := lr, fg := mode != 0, src := .ref i }
      let placed := if armed then probeChain x s i (mode != 0) pre ref hz 2048 0 else tryCmds x s (pre ++ [ref]) 0 hz
      match placed with
      | none => none
      | some l =>
          let ps := if armed then probeCmds x t i (lastStamp l) (mode != 0) else []
          let near := (ps.filter (fun p => decide (p.stamp ≤ x.dck + 2047))).length
          match takeSlots x s (cmdCycs x) (l.length + near) with
          | none => none
          | some cys =>
              if 128 < x.c.retry[s].length + l.length + near then none
              else
                let preOrd := x.c.ord + (pdxFor x s.val lr).length
                let preAt := match l.find? (fun p => p.1.op == 8) with | some p => p.1.stamp | none => 0
                let x := payRef (commitAll x l false) i
                let x := x.onC (fun c => { c with
                  tgts := modV c.tgts ti (fun g => { g with mask := 0 })
                  preRows := if emerg = true ∧ n ≠ 0 then c.preRows ++ [(preOrd, preAt, n)] else c.preRows })
                if armed then
                  let x := commitProbe x s ps (cys.drop l.length)
                  let x := x.setf 0x2440 i i 0
                  let e := match ps.getLast? with | some p => p.stamp | none => 0
                  some (((x.onC (fun c => { c with tr := { c.tr with probes := c.tr.probes.filter (fun p => p.i != i) ++ [⟨i, e, c.tr.armBad.contains i, false⟩] } })).cnt 0x2450))
                else some x
  else
    let g := x.c.tgts[ti]
    match (List.range 4).find? (fun k => !g.mask.testBit k && tgtQs.all (fun q => q.at_.bk != k)) with
    | none => none
    | some k =>
        let n := openBanks x.c s.val lr (some k)
        let bs := pdxFor x s.val lr ++ (if n = 0 then [] else [{ op := 7, sub := s.val, lr := lr, bk := k }])
          ++ [({ op := 10, sub := s.val, lr := lr, bk := k, fg := true, src := .ref i } : Cmd)]
        match tryCmds x s bs 0 hz with
        | none => none
        | some l =>
            let x := commitAll x l false
            let m := g.mask + 2 ^ k
            if m = 15 then
              some ((payRef x i).onC (fun c => { c with tgts := modV c.tgts ti (fun g => { g with mask := 0 }) }))
            else some (x.onC (fun c => { c with tgts := modV c.tgts ti (fun g => { g with mask := m }) }))

/-- The targets of a subchannel in use. -/
def tgtsOf (x : Cx) (s : Fin 2) : List Nat := ((List.range 8).map (fun l => 8 * s.val + l)).filter (tgtUsed x)

/-! ### Training commands -/

/-- The head of the TCMD FIFO when it is urgent or not, for a subchannel (R292); one that uses banks under an emergency waits (R165). -/
def tcmdHead (x : Cx) (s : Fin 2) (urgent : Bool) : Option Tcmd :=
  match x.c.tr.fifo with
  | k :: _ => if k.sub = s.val ∧ k.urgent = urgent ∧ (k.op ≤ 10 ∧ blocked x s.val k.lr = true → False) then some k else none
  | [] => none

/-- The next 640 bits of the pattern of R293, burst bit 40b + q first, for `n` bits; the LFSR is x^16 + x^15 + x^13 + x^4 + 1. -/
def lfsrBits : Nat → BitVec 16 → List Bool → BitVec 16 × List Bool
  | 0, s, a => (s, a.reverse)
  | n + 1, s, a =>
      let b := (s.getLsbD 15 != s.getLsbD 14) != (s.getLsbD 12 != s.getLsbD 3)
      lfsrBits n ((s <<< 1) ||| (if b then 1#16 else 0#16)) (b :: a)

/-- Line bit of beat `b` and DQ `q` (Table 12-1): symbol on device q/4 by beat pairs, bit by DQ and beat parity. -/
def dqBit (b q : Nat) : Nat := 8 * (8 * (q / 4) + b / 2) + q % 4 + 4 * (b % 2)

/-- The burst of a list of 640 bits ordered 40b + q. -/
def burstOf (l : List Bool) : Code :=
  (List.range 640).foldl (fun (a : Code) i => if l.getD i false then a ||| (1#640 <<< dqBit (i / 40) (i % 40)) else a) 0

/-- The next maintenance command of an hPPR whose lines are in Mason RAM (R261). -/
def pprHead (x : Cx) (s : Fin 2) : Option Tcmd :=
  match x.c.ppr with
  | p :: _ => if p.saved.isSome then p.cmds.head?.filter (fun k => k.sub == s.val) else none
  | [] => none

/-- The first maintenance command of an hPPR has been committed up to a stamp. -/
def pprPop (c : CourseSt) (st : Nat) : CourseSt :=
  { c with ppr := match c.ppr with | p :: l => { p with cmds := p.cmds.tail, last := st } :: l | [] => [] }

/-- Commit the next command of an hPPR, in tier 3, or the head of the FIFO (R261, R292). -/
def tcmdStep (x : Cx) (s : Fin 2) (urgent : Bool) : Option Cx :=
  let own := if urgent then pprHead x s else none
  match own <|> tcmdHead x s urgent with
  | none => none
  | some k =>
      let chk := x.f 0x2400 0 0 == 1 && own.isNone
      let hz := some (x.f 0x1010 9 0)
      let pop (x : Cx) (st : Nat) : Cx := x.onC (fun c => if own.isSome then pprPop c st else { c with tr := { c.tr with fifo := c.tr.fifo.tail } })
      let bank := bankAt x.c (bankKey k.sub k.lr k.bg k.bk)
      let b : Cmd := { op := k.op, sub := k.sub, lr := k.lr, bg := k.bg, bk := k.bk, arg := k.arg, row := bank.open_.getD 0, src := .tcmd chk }
      if isWrOp k.op then
        match borrowTag x with
        | none => none
        | some tag =>
            let (lf, bits) := lfsrBits 640 x.c.tr.lfsr []
            let gen := x.f 0x2400 2 2 = 1 ∧ own.isNone = true
            let code := if gen then burstOf bits else 0
            let b := { b with arg := k.arg / 1024 * 1024 + tag * 8, data := some code }
            match tryWrite x s (pdxFor x k.sub k.lr ++ [b]) 0 hz with
            | none => none
            | some l =>
                let x := commitAll (planData x tag code) l false
                let x := if gen then x.onC (fun c => { c with tr := { c.tr with lfsr := lf } }) else x
                some (pop (x.onC (fun c => { c with tags := tblPut c.tags tag (lastStamp l) })) (lastStamp l))
      else
        match tryCmds x s ((if k.op = 14 then [] else pdxFor x k.sub k.lr) ++ [b]) 0 hz with
        | none => none
        | some l => some (pop (commitAll x l false) (lastStamp l))

/-! ### Rebuilds -/

/-- A rebuild of a subchannel ends (R229). -/
def rebuildEnd (x : Cx) (s : Fin 2) : Cx := (x.onC (fun c => { c with rb := modV c.rb s (fun _ => {}) })).sts 0x0C00 2

/-- Members that a rebuild drops. -/
def rbDropped (b : Cmd) : Bool := b.op == 0 || b.op == 1 || isPre b.op || isPwr b 0 || isPwr b 1

/-- The rebuilt write's tag is free (R230): no other write that holds the entry has a WR committed and not reached. -/
def rbTagOk (x : Cx) (b : Cmd) : Bool :=
  let tag := b.arg / 8 % 128
  !tagHeld x tag &&
  x.c.wrq.all (fun w => w.ent != tag || b.src == .wr w.ord || (match w.ph with | .committed st => decide (st ≤ x.dck) | _ => true))

/-- An SRE or SRX of a rebuilt chain moves the largest stamp of its kind (Table 9-4). -/
def noteSr (x : Cx) (l : List (Cmd × Nat)) : Cx :=
  l.foldl (fun x p =>
    let up (v : Option Nat) : Option Nat := some (max p.1.stamp (v.getD 0))
    if isPwr p.1 2 then x.onC (fun c => { c with sr := { c.sr with sre := max c.sr.sre p.1.stamp } })
    else if isPwr p.1 3 ∧ x.c.sr.st = 5 then x.onC (fun c => { c with sr := { c.sr with srx := modV c.sr.srx (toSub p.1.sub) up } })
    else x) x

/-- One chain of a rebuild (R229, R230, R234). -/
def rebuildStep (x : Cx) (s : Fin 2) : Cx :=
  let rb := x.c.rb[s]
  if rb.wait ≠ 0 then x
  else
    match rb.srx with
    | lr :: rest =>
        match tryCmds x s [{ op := 14, sub := s.val, lr := lr, arg := 3 * 2 ^ 15 }] 0 none with
        | none => x
        | some l => (noteSr (commitAll x l true) l).onC (fun c => { c with rb := modV c.rb s (fun r => { r with srx := rest }) })
    | [] =>
        let live := rb.set.dropWhile rbDropped
        match live with
        | [] => rebuildEnd x s
        | old :: rest =>
            let b := { old with stamp := 0 }
            let next (x : Cx) : Cx :=
              let left := rest.dropWhile rbDropped
              if left = [] then rebuildEnd x s else x.onC (fun c => { c with rb := modV c.rb s (fun r => { r with set := left }) })
            let a : Coord := ⟨b.sub, b.lr, b.bg, b.bk, b.row, b.arg / 1024⟩
            if isWrOp b.op then
              if !rbTagOk x b then x
              else
                let tag := b.arg / 8 % 128
                let code := b.data.getD 0
                match tryWrite x s (openRow x a ++ [b]) rb.floor none with
                | none => x
                | some l =>
                    let st := lastStamp l
                    let x := commitAll (planData x tag code) l true
                    let own (w : WEnt) : Bool := b.src == .wr w.ord && (match w.ph with | .committed _ => true | _ => false)
                    let x := x.onC (fun c => { c with
                      engOut := match b.src with | .render e _ => c.engOut ++ [(st, e)] | _ => c.engOut
                      tags := tblPut c.tags tag st
                      wrq := replaceFirst own (fun w => { w with ph := .committed st }) c.wrq })
                    next x
            else if isRd b.op then
              match tryCmds x s (openRow x a ++ [b]) rb.floor none with
              | none => x
              | some l =>
                  let st := lastStamp l
                  let x := commitAll x l true
                  let x := match b.src with
                    | .rd o => x.onC (fun c => { c with rdq := replaceFirst (fun r => r.ord == o) (fun r => if r.ph == .back then r else { r with ph := .committed st }) c.rdq })
                    | _ => x
                  next x
            else
              let open_ (lr : Nat) (k : Option Nat) : Bool := openBanks x.c s.val lr k != 0
              let preab (lr : Nat) : Cmd := { op := 8, sub := s.val, lr := lr }
              let pre : List Cmd :=
                if b.op = 9 then (if open_ b.lr none then [preab b.lr] else [])
                else if b.op = 10 then (if open_ b.lr (some b.bk) then [{ op := 7, sub := s.val, lr := b.lr, bk := b.bk }] else [])
                else if isPwr b 2 then ((List.range (lranks x)).filter (fun lr => prankOf x lr == b.lr && open_ lr none)).map preab
                else []
              match tryCmds x s (pdxFor x s.val b.lr ++ pre ++ [b]) rb.floor none with
              | none => x
              | some l => next (noteSr (commitAll x l true) l)

/-! ### Slot accounting -/

/-- What binds a lower bound (R352). -/
inductive Bind where
  | ref | pre | turn | other
  deriving DecidableEq, Repr

/-- The kind of a distance of Table 8-5. -/
def bindOf (t : Tim) (a b : Cmd) : Bind :=
  if a.op = 9 ∨ a.op = 10 then .ref
  else if (isPre a.op ∨ a.op = opIpre) ∧ b.op = 1 then .pre
  else if (isRd a.op ∧ isWrOp b.op) ∨ (isWrOp a.op ∧ isRd b.op) then .turn
  else if (isRd a.op ∨ isWrOp a.op) ∧ (isRd b.op ∨ isWrOp b.op) ∧ samePr t a b = false then .turn
  else .other

/-- The larger bound; of equal ones, a refresh before a precharge before a turnaround. -/
def maxBind (a b : Nat × Bind) : Nat × Bind :=
  let rank (k : Bind) : Nat := match k with | .ref => 3 | .pre => 2 | .turn => 1 | .other => 0
  if a.1 < b.1 then b else if b.1 < a.1 then a else if rank a.2 < rank b.2 then b else a

/-- The binding bound of a request's chain, as a data DCK (R352). -/
def binding (x : Cx) (t : Tim) (s : Fin 2) (q : Req) : Bind :=
  let bs := openRow x q.at_ ++ [colCmd q.at_ q.rd false 0 .none none 24]
  let lat := if q.rd then t.tcl else t.tcwl
  let tail (b : Cmd) : Nat := if isPre b.op then t.trp + t.trcd + lat else if b.op = 1 then t.trcd + lat else if b.op = 14 then t.txp + lat else lat
  let b0 := baseOf x (x.cyc + 1)
  (bs.foldl (fun m b =>
    let m := maxBind m (b0 + tail b, .other)
    let m := (x.c.cal[s]).foldl (fun m a => let d := minDist t a b; if d = 0 then m else maxBind m (a.stamp + d + tail b, bindOf t a b)) m
    if isPre b.op then maxBind m (b0 + tail b, .pre) else m) (0, .other)).2

/-- Class of a DQ slot in its decision cycle (Table 17-5), as an index of the SA registers, with the port a carried slot is credited to. Footing
reads are demand requests (R183) that tier 4 serves, so they keep a slot from being unfed and are no tier 5 candidate. -/
def slotClass (x : Cx) (t : Tim) (s : Fin 2) (d : Nat) : Nat × Option Nat :=
  match (x.c.cal[s]).find? (fun b => match dqOf t b with | some p => decide (p ≤ d ∧ d < p + 8) | none => false) with
  | some b => (0, some b.port)
  | none =>
      if x.info.fence ≠ 0 ∨ 2 ≤ x.c.sr.st then (7, none)
      else if x.c.rb[s].on = true ∨ 128 ≤ x.c.lk.ends.buf.length ∨ x.c.lk.ends.rep ≠ 0 ∨ x.c.lk.st ≠ 2 then (4, none)
      else if !(x.c.rdq.any (fun r => r.at_.sub == s.val && (r.ph == .queued || r.ph == .held)) || x.c.wrq.any (fun w => w.at_.sub == s.val && (w.ph == .queued || w.ph == .held))) then (5, none)
      else
        let qs := (reqsOf x.c).filter (fun q => !(q.rd && q.ftg))
        let closed := qs.filter (fun q => q.at_.sub == s.val && blocked x s.val q.at_.lr)
        match minBy (fun q => q.ord) (qs.filter (fun q => mayServe x s qs q && !(q.rd && q.ftg))) with
        | none => if closed = [] then (6, none) else (3, none)
        | some q =>
            match binding x t s q with
            | .ref => (3, none)
            | k =>
                if (openRow x q.at_).any (fun b => isPre b.op) ∨ k = .pre then (2, none)
                else if k = .turn then (1, none) else (6, none)

/-- Classify the slots decided by this cycle (R352, R353): those below base + tcwl. -/
def classify (x : Cx) (s : Fin 2) : Cx :=
  if x.c.dck.den = 0 ∨ x.f 0x1100 15 8 = 0 then x
  else
    let t := timOf x
    let hi := baseOf x x.cyc + t.tcwl
    let lo := x.c.saPos[s]
    let x := x.onC (fun c => { c with saPos := modV c.saPos s (fun _ => max lo hi) })
    (List.range (hi - lo)).foldl (fun y i =>
      let (k, p) := slotClass x t s (lo + i)
      let y := y.onZ (fun z => bump48 z x.now (x.off (0x3400 + 8 * k)) 1)
      match p with
      | some p => y.onZ (fun z => bump48 z x.now (x.off (0x3440 + 8 * p)) 1)
      | none => y) x

/-! ### The selector -/

/-- A read without a queue entry that a return overflow lost is committed again (R208). -/
def redoRead (x : Cx) (s : Fin 2) (b : Cmd) : Option Cx :=
  let a : Coord := ⟨b.sub, b.lr, b.bg, b.bk, b.row, b.arg / 1024⟩
  let chain := if isRd b.op then openRow x a ++ [colCmd a true (autoPre x (reqsOf x.c) a x.c.ord).1 0 b.src none b.port] else pdxFor x b.sub b.lr ++ [{ b with stamp := 0 }]
  if blocked x s.val b.lr || (isRd b.op && bankHeld x a.key) then none
  else (tryCmds x s chain 0 (some (x.f 0x1010 9 0))).map (fun l => (commitAll x l false).onC (fun c => { c with redo := removeFirst (fun k => k == b) c.redo }))

/-- The first chain of tiers 4 and 5 that can be placed. While a region is CLAIMED, the renders are tier 5 candidates as the oldest writes
(R269): a row hit precedes a chain that needs an ACT, and among each the renders come first. -/
def reqChain (x : Cx) (s : Fin 2) : Option Cx :=
  let qs := reqsOf x.c
  let ordered := sortBy (reqRank x) (qs.filter (mayServe x s qs))
  let hit (q : Req) : Bool := (bankAt x.c q.at_.key).open_ == some q.at_.row
  let rest := ordered.filter (fun q => !(q.ftg && q.rd))
  let rnd (k : Nat) : Option Cx :=
    if x.c.claims = [] then none else firstSome (fun p => renderWrite x s p.1 p.2) ((readyEngines x s).filter (fun p => needsAct x (renderLine p.2) == k))
  let redo (k : Bool) : Option Cx :=
    if x.c.mode ≠ 0 then none else firstSome (redoRead x s) (x.c.redo.filter (fun b => b.sub == s.val && (!isRd b.op || (bankAt x.c (bankKey b.sub b.lr b.bg b.bk)).open_ == some b.row) == k))
  (firstSome (serve x s qs) (ordered.filter (fun q => q.ftg && q.rd)))
    <|> rnd 0 <|> redo true <|> (firstSome (serve x s qs) (rest.filter hit))
    <|> rnd 1 <|> redo false <|> (firstSome (serve x s qs) (rest.filter (fun q => !hit q)))

/-- The request chain of a selection (tiers 4 and 5). -/
def selectReq (x : Cx) (s : Fin 2) : Cx :=
  if x.c.reqAt[s] = some x.cyc ∨ srServes x = false then x
  else
    match reqChain x s with
    | some y => y.onC (fun c => { c with reqAt := modV c.reqAt s (fun _ => some x.cyc) })
    | none => x

/-- An SRX per physical rank of the subchannel (Table 9-4). -/
def srxStep (x : Cx) (s : Fin 2) : Option Cx :=
  let bs := (List.range (pranks x)).map (fun r => ({ op := 14, sub := s.val, lr := r, arg := 3 * 2 ^ 15 } : Cmd))
  match tryCmds x s bs 0 none with
  | none => none
  | some l => some ((commitAll x l false).onC (fun c => { c with sr := { c.sr with srx := modV c.sr.srx s (fun _ => some (topStamp l)) } }))

/-- Queues hold no request. -/
def queuesEmpty (c : CourseSt) : Bool := c.rdq.isEmpty && c.wrq.isEmpty

/-- A PREab for a logical rank with an open bank, in QUIESCE with nothing queued (Table 9-4); a rank in power-down leaves it. -/
def quiescePre (x : Cx) (s : Fin 2) : Option Cx :=
  if x.c.sr.st ≠ 1 ∨ (reqsOf x.c).any (fun q => q.at_.sub == s.val) then none
  else if x.c.pd.any (fun p => p.1 == s.val) then
    match x.c.pd.find? (fun p => p.1 == s.val) with
    | some p => (tryCmds x s [{ op := 14, sub := s.val, lr := p.2, arg := 2 ^ 15 }] 0 none).map (fun l => commitAll x l false)
    | none => none
  else
    match (List.range (lranks x)).find? (fun lr => decide (openBanks x.c s.val lr none ≠ 0)) with
    | none => none
    | some lr => (tryCmds x s (pdxFor x s.val lr ++ [{ op := 8, sub := s.val, lr := lr }]) 0 none).map (fun l => commitAll x l false)

/-- Refresh is issued while ref_en is 1 (Table 9-7). -/
def refOn (x : Cx) : Bool := x.f 0x1400 22 22 == 1

/-- Tier 2: the targets of a subchannel with an emergency, the oldest first. -/
def emergencies (x : Cx) (s : Fin 2) : List Nat :=
  if !refOn x then [] else sortBy (fun i => (x.c.tgts[toFin 16 (by decide) i].em).headD 0) ((tgtsOf x s).filter (fun i => blocked x s.val (i % 8)))

/-- Tier 6: the targets of a subchannel with an interval owed, the oldest first. -/
def owedTgts (x : Cx) (s : Fin 2) : List Nat :=
  if !refOn x then []
  else sortBy (fun i => x.c.tgts[toFin 16 (by decide) i].since) ((tgtsOf x s).filter (fun i => decide (1 ≤ x.c.tgts[toFin 16 (by decide) i].owed)))

/-- Tiers 2 and 3. -/
def urgentChain (x : Cx) (s : Fin 2) : Option Cx :=
  (firstSome (fun i => refreshStep x s i true (reqsOf x.c)) (emergencies x s)) <|> tcmdStep x s true

/-- Tier 6, and the precharges of a self-refresh entry. -/
def normalRefresh (x : Cx) (s : Fin 2) : Option Cx :=
  (firstSome (fun i => refreshStep x s i false (reqsOf x.c)) (owedTgts x s)) <|> quiescePre x s

/-- A candidate of tiers 1 to 6 stands on the subchannel, or has been served in this cycle (R252). -/
def upperBusy (x : Cx) (s : Fin 2) : Bool :=
  x.c.rb[s].on || x.c.reqAt[s] == some x.cyc || (reqChain x s).isSome || (urgentChain x s).isSome || (normalRefresh x s).isSome

/-- A source of tier 7: 0 the TCMD FIFO, 1 the rewrites, 2 the renders. -/
def workOf (x : Cx) (s : Fin 2) : Nat → Option Cx
  | 0 => tcmdStep x s false
  | 1 => firstSome (rewriteOf x s) (x.c.pt.rw.filter (fun p => p.line % 2 == s.val))
  | _ => renderStep x s

/-- The sources of tier 7 with work: a chain that needs no ACT first, then the oldest (R157). Rewrites wait for every higher tier (R252),
renders are in tier 5 while a region is CLAIMED (R269). -/
def tier7 (x : Cx) (s : Fin 2) : List Nat :=
  let mnt := match tcmdHead x s false with | some k => [(0, (if k.op = 1 then 2 ^ 60 else 0) + k.ord)] | none => []
  let rw := if bgRuns x = false ∨ upperBusy x s = true then [] else
    match x.c.pt.rw.find? (fun p => p.line % 2 == s.val) with | some p => [(1, needsAct x p.line * 2 ^ 60 + p.ord)] | none => []
  let rnd := if x.c.claims ≠ [] then [] else
    match readyEngines x s with | p :: _ => [(2, needsAct x (renderLine p.2) * 2 ^ 60 + p.2.start)] | [] => []
  (sortBy (fun p => p.2) (mnt ++ rw ++ rnd)).map (fun p => p.1)

/-- The first chain of tiers 2, 3, 6 and 7 that can be placed, or the SRX commands of an exit. -/
def othChain (x : Cx) (s : Fin 2) : Option Cx :=
  if x.c.sr.st = 5 ∧ x.c.sr.srx[s].isNone = true then srxStep x s
  else if 2 ≤ x.c.sr.st then none
  else urgentChain x s <|> normalRefresh x s <|> firstSome (workOf x s) (tier7 x s)

/-- The other chain of a selection (tiers 2, 3, 6, 7). -/
def selectOth (x : Cx) (s : Fin 2) : Cx :=
  if x.c.othAt[s] = some x.cyc then x
  else
    match othChain x s with
    | some y => y.onC (fun c => { c with othAt := modV c.othAt s (fun _ => some x.cyc) })
    | none => x

/-- In QUIESCE, owed refreshes are paid as emergencies (Table 9-4). -/
def quiesceRaise (x : Cx) : Cx :=
  if x.c.sr.st ≠ 1 ∨ refOn x = false then x
  else
    (List.finRange 16).foldl (fun x i =>
      let g := x.c.tgts[i]
      let k := g.owed - g.em.length
      if tgtUsed x i.val = false ∨ k = 0 then x
      else x.onC (fun c => { c with tgts := modV c.tgts i (fun g => { g with em := g.em ++ List.replicate k x.cyc, quie := g.quie + k }) })) x

/-- What the background engines do without a command: engines skip written lines (R267), overtaken rewrites end (R253). -/
def bgTidy (x : Cx) : Cx := if bgRuns x then dropRewrites (([0, 1, 2, 3] : List (Fin 4)).foldl engineAdvance x) else x

/-- Probes whose last command + tmrr has come are done (R297). -/
def probesDone (x : Cx) : Cx :=
  let t := timOf x
  let now (p : Probe) : Bool := !p.done && decide (p.endAt + t.tmrr ≤ x.dck)
  if x.c.tr.probes.any now then
    let n := (x.c.tr.probes.filter now).length
    let x := x.onC (fun c => { c with tr := { c.tr with probes := c.tr.probes.map (fun p => if now p then { p with done := true } else p) } })
    (List.range n).foldl (fun x _ => x.sts 0x2408 2) x
  else x

/-- An LCK cycle with a full retry buffer is counted, once (R225). -/
def retryFull (x : Cx) (s : Fin 2) : Cx :=
  if 128 ≤ x.c.retry[s].length ∧ x.c.fullAt[s] ≠ some x.cyc then (x.cnt 0x0C58).onC (fun c => { c with fullAt := modV c.fullAt s (fun _ => some x.cyc) })
  else x

/-- SELECT_COMMIT: one selection of a subchannel in an LCK cycle (R157). -/
def selectCommit (x : Cx) (s : Fin 2) : Cx :=
  if !powered x.z x.n then x
  else
    let x := retryFull (probesDone (pruneCal (classify x s))) s
    if !commitOk x || decide (128 ≤ x.c.retry[s].length) then x
    else
      let x := modeStep x
      if x.c.rb[s].on then
        (if x.c.reqAt[s] = some x.cyc then x else rebuildStep (x.onC (fun c => { c with reqAt := modV c.reqAt s (fun _ => some x.cyc) })) s)
      else selectOth (selectReq (bgTidy (quiesceRaise (sendLater x s))) s) s

/-! ### Stamps reached, idle pages, power-down -/

/-- STAMP_REACHED: dck_now has reached stamps: writes leave their entries, requests are reported served (R145, R146), and rows closed by an
emergency are counted (Table 8-11). -/
def stampReached (x : Cx) : Cx :=
  let d := x.dck
  let past (p : QPh) : Bool := match p with | .committed s => decide (s ≤ d) | _ => false
  let done := x.c.wrq.filter (fun w => past w.ph)
  let srv := x.c.rdq.filter (fun r => past r.ph && !r.srv)
  let x := done.foldl (fun x w => sendStat (sendStat x (if w.wb then .wb else .wr)) (.served w.id)) x
  let x := srv.foldl (fun x r => sendStat x (.served r.id)) x
  let x := x.cntN 0x1240 ((x.c.preRows.filter (fun p => decide (p.2.1 ≤ d))).foldl (fun a p => a + p.2.2) 0)
  let x := x.onC (fun c => { c with
    wrq := c.wrq.filter (fun w => !past w.ph)
    rdq := c.rdq.map (fun r => if past r.ph then { r with srv := true } else r)
    tags := c.tags.filter (fun p => decide (d < p.2))
    preRows := c.preRows.filter (fun p => decide (d < p.2.1))
    engOut := c.engOut.filter (fun p => decide (d < p.1)) })
  x.onC (fun c => { c with emptyAt := if queuesEmpty c ∧ done ≠ [] then x.now else c.emptyAt })

/-- WRITE_AGE_DRAIN: the oldest write is older than wr_age_us (R163). -/
def writeAge (x : Cx) : Cx :=
  let age := x.f 0x1008 21 14
  let old := x.c.wrq.any (fun w => (match w.ph with | .committed _ => false | _ => true) && decide (w.born + age * tuPerUs < x.now))
  if age = 0 ∨ old = false ∨ x.c.mode ≠ 0 ∨ crsUp x = false then x else (forceDrain x).sts 0x1038 0

/-- PAGE_IDLE_TIMEOUT: a PRE from tier 8, when no higher tier has another chain (R157, R161). -/
def pageIdle (x : Cx) (k : Nat) : Cx :=
  let s := toSub (k / 256)
  let b := bankAt x.c k
  let idle := x.f 0x1000 19 10
  let lr := k / 32 % 8
  if !commitOk x ∨ idle = 0 ∨ b.open_.isNone ∨ x.c.rb[s].on ∨ 2 ≤ x.c.sr.st ∨ x.c.othAt[s] = some x.cyc ∨ x.dck < b.lastCol + idle * 8
      ∨ (onBank (reqsOf x.c) k) ≠ [] ∨ blocked x s.val lr = true ∨ (othChain x s).isSome = true then x
  else
    match tryCmds x s (pdxFor x s.val lr ++ [{ op := 6, sub := s.val, lr := lr, bg := k / 4 % 8, bk := k % 4 }]) 0 (some (x.f 0x1010 9 0)) with
    | none => x
    | some l => (commitAll x l false).onC (fun c => { c with othAt := modV c.othAt s (fun _ => some x.cyc) })

/-- PD_IDLE_ENTRY: an idle rank enters power-down, when no higher tier has another chain (R157, R166). -/
def pdIdle (x : Cx) (s : Fin 2) (r : Nat) : Cx :=
  let d := x.dck
  let t := timOf x
  let cmds := (x.c.cal[s]).filter (fun e => e.lr % max 1 t.pr == r)
  let last := (tblFind x.c.lastCmd (4 * s.val + r)).getD 0
  if !commitOk x ∨ x.f 0x1000 20 20 = 0 ∨ pranks x ≤ r ∨ x.c.pd.contains (s.val, r) ∨ x.c.rb[s].on ∨ x.c.sr.st ≠ 0 ∨ x.c.othAt[s] = some x.cyc
      ∨ (reqsOf x.c).any (fun q => q.at_.sub == s.val && prankOf x q.at_.lr == r)
      ∨ (tgtsOf x s).any (fun i => prankOf x (i % 8) == r && decide (1 ≤ x.c.tgts[toFin 16 (by decide) i].owed))
      ∨ cmds.any (fun e => (isRd e.op || isWrOp e.op) && decide (d < e.stamp))
      ∨ d < last + x.f 0x1010 25 16 * 64 ∨ (othChain x s).isSome = true then x
  else
    match tryCmds x s [{ op := 14, sub := s.val, lr := r, arg := 0 }] 0 (some (x.f 0x1010 9 0)) with
    | none => x
    | some l => ((commitAll x l false).onC (fun c => { c with othAt := modV c.othAt s (fun _ => some x.cyc) })).cnt 0x1250

/-- COURSE_IDLE: the queues have been empty for 1 µs (R319). -/
def courseIdle (x : Cx) : Cx :=
  if crsUp x ∧ x.c.sr.st = 0 ∧ queuesEmpty x.c = true ∧ max x.c.emptyAt x.c.sr.demand + tuPerUs ≤ x.now then x.onC (fun c => { c with idle := true }) else x

end Sys2Proof.Machine
end

