-- ==== Sys2Proof/Machine/Refresh.lean ====
section
/-! DEFINITION. Refresh targets, pallets and catch-up (R168 to R175), DRAM temperature (R176 to R178) and self-refresh (R181 to R184). -/

namespace Sys2Proof.Machine

/-- Interval of a rank's targets in quarter ns (Table 9-1). -/
def refInterval (x : Cx) (hot : Bool) : Nat :=
  let i := x.f 0x1400 13 2 * (if refMode x = 0 then 4 else 2)
  if hot then i / 2 else i

/-- Catch-up interval in ticks of 50 ns, rounded up (R174). -/
def catchTicks (x : Cx) (hot : Bool) : Nat := (refInterval x hot * (100 - x.f 0x1400 21 17) + 19999) / 20000

/-- Rank of a target. -/
def tgtRank (x : Cx) (i : Nat) : Fin 4 := toFin 4 (by decide) (prankOf x (i % 8))

/-- Starting accrual of a target (R170). -/
def startAccr (x : Cx) (i : Nat) : Nat := i * refInterval x x.c.ranks[tgtRank x i].hot / 3200 * 200

/-- Change a target. -/
def modTgt (x : Cx) (i : Fin 16) (f : RTgt → RTgt) : Cx := x.onC (fun c => { c with tgts := modV c.tgts i f })

/-- Every target starts anew (R170, R184). -/
def restartTgts (x : Cx) : Cx := (List.finRange 16).foldl (fun x i => modTgt x i (fun _ => { e := startAccr x i.val })) x

/-- Raise `k` emergencies of a target (R165, R173). -/
def raiseEm (x : Cx) (i : Fin 16) (k : Nat) : Cx := (modTgt x i (fun g => { g with em := g.em ++ List.replicate k x.cyc })).cntN 0x1490 k

/-- A rank's targets change their interval (R178). -/
def stepHot (x : Cx) (r : Fin 4) (hot : Bool) : Cx :=
  let x := x.onC (fun c => { c with ranks := modV c.ranks r (fun k => { k with hot := hot }) })
  (List.finRange 16).foldl (fun x i =>
    if tgtUsed x i.val = true ∧ tgtRank x i.val = r then
      modTgt x i (fun g => { g with
        owed := if hot then 2 * g.owed else (g.owed + 1) / 2
        timer := if g.catch_ then x.c.ticks + catchTicks x hot else g.timer })
    else x) x

/-- °C of a report as an event shows it. -/
def tempNat (t : Byte) : Nat := t.toNat

/-- Step 1 of R175 for one rank: reports, staleness, force_hot and the platform alert decide the hot state (R176, R177, Table 20-4). -/
def hotStep (x : Cx) (r : Fin 4) : Cx :=
  let k := x.c.ranks[r]
  let nat := if k.stale then true else k.rep.getD k.nat
  let x := x.onC (fun c => { c with ranks := modV c.ranks r (fun k => { k with nat := nat, rep := none }) })
  let hot := nat || x.f 0x1408 24 24 == 1 || x.z.therm.alertOn || decide (x.now < x.z.therm.alertTo)
  if hot = k.hot then x
  else
    let x := (stepHot x r hot).sts 0x1418 0
    let x := if hot then x.cnt 0x14C8 else x
    x.ev 0x0014 (fmtC x.n.val (tempNat k.temp) r.val (if hot then 1 else 0))

/-- The physical rank of a target is in self-refresh: the course's own, or one the Corbel placed by itself (R169, R212). -/
def tgtAsleep (x : Cx) (i : Nat) : Bool := decide (3 ≤ x.c.sr.st) || x.c.cb.inSr.contains (i / 8, prankOf x (i % 8))

/-- Step 2: accrual (R169). -/
def accrue (x : Cx) (i : Fin 16) (d : Nat) : Cx :=
  let iv := refInterval x x.c.ranks[tgtRank x i.val].hot
  if refOn x = false ∨ tgtAsleep x i.val = true ∨ crsUp x = false ∨ iv = 0 then x
  else
    let e := x.c.tgts[i].e + 200 * d
    modTgt x i (fun g => { g with
      e := e % iv
      owed := g.owed + e / iv
      since := if g.owed = 0 then x.c.ticks else g.since })

/-- Step 3: the excess above the pallet is raised at once and the target catches up (Table 9-2). -/
def excess (x : Cx) (i : Fin 16) : Cx :=
  let g := x.c.tgts[i]
  let k := g.owed - g.em.length - x.f 0x1400 16 14
  if k = 0 ∨ refOn x = false ∨ crsUp x = false then x
  else
    let x := ((raiseEm x i k).cntN 0x1498 k).sts 0x1418 1
    let t := x.c.ticks + catchTicks x x.c.ranks[tgtRank x i.val].hot
    modTgt x i (fun g => { g with catch_ := true, timer := t })

/-- REFRESH_TICK (R169, R175 steps 1 to 3); into an unpowered course it is discarded and counted (R15). -/
def refreshTick (x : Cx) (seq : BitVec 16) : Cx :=
  if !powered x.z x.n then x.onZ (fun z => jDiscard z x.now 20)
  else
    let d := match x.c.tickSeq with | some p => (seq - p).toNat | none => 1
    let x := x.onC (fun c => { c with tickSeq := some seq, ticks := c.ticks + d })
    let x := (List.finRange 4).foldl (fun x r => if r.val < x.info.ranks then hotStep x r else x) x
    (List.finRange 16).foldl (fun x i => if tgtUsed x i.val then excess (accrue x i d) i else x) x

/-- CATCHUP_TIMER_EXPIRY (R174): one emergency, and the timer restarts. -/
def catchupExpiry (x : Cx) (i : Fin 16) : Cx :=
  let g := x.c.tgts[i]
  if g.catch_ = true ∧ g.timer ≤ x.c.ticks ∧ 1 ≤ g.owed ∧ refOn x = true ∧ crsUp x = true ∧ tgtUsed x i.val = true then
    let t := x.c.ticks + catchTicks x x.c.ranks[tgtRank x i.val].hot
    modTgt (raiseEm x i 1) i (fun g => { g with timer := t })
  else x

/-- Two's complement of a report. -/
def tempInt (t : Byte) : Int := t.toInt

/-- What a report asks for (R176): hot above 85 °C, not hot at or below 85 − hot_hyst_c, in between what stands. -/
def askHot (x : Cx) (t : Int) (p : Option Bool) : Option Bool := if 85 < t then some true else if t ≤ 85 - x.f 0x1408 7 0 then some false else p

/-- A report of a rank arrives (R176, R177). -/
def tempReport (x : Cx) (r : Fin 4) (t : Byte) : Cx :=
  let x := x.onC (fun c => { c with ranks := modV c.ranks r (fun k => { k with rep := askHot x (tempInt t) k.rep, temp := t, repAt := x.now, stale := false }) })
  if (x.f 0x1408 15 8 : Int) ≤ tempInt t then (x.sts 0x1418 3).ev 0x0011 (fmtC x.n.val (tempNat t) r.val 0) else x

/-- TEMP_STALE (R177). -/
def tempStale (x : Cx) (r : Fin 4) : Cx :=
  let k := x.c.ranks[r]
  if crsUp x = true ∧ r.val < x.info.ranks ∧ x.c.sr.st < 3 ∧ k.stale = false ∧ k.repAt + x.f 0x1408 23 16 * tuPerMs ≤ x.now then
    (x.onC (fun c => { c with ranks := modV c.ranks r (fun k => { k with stale := true }) })).sts 0x1418 2
  else x

/-! ### Self-refresh -/

/-- Entry starts (Table 9-4): renders and the Pointing engine pause. -/
def srStart (x : Cx) : Cx :=
  if crsUp x = true ∧ x.c.sr.st = 0 then ptPause (x.onC (fun c => { c with sr := { c.sr with st := 1 } })) else x

/-- A write of 1 to sr_req: in AWAKE entry starts and the bit reads 1. -/
def srReqWr (x : Cx) : Cx := if crsUp x = true ∧ x.c.sr.st = 0 then (srStart x).setf 0x1410 0 0 1 else x

/-- A write of 1 to sr_exit: in SRE_SENT, IN_SR and ASLEEP the course leaves and the bit reads 1. -/
def srExitWr (x : Cx) : Cx := if crsUp x = true ∧ 2 ≤ x.c.sr.st ∧ x.c.sr.st ≤ 4 then (srLeave x).setf 0x1410 1 1 1 else x

/-- SR_IDLE_TIMEOUT (R181). -/
def srIdle (x : Cx) : Cx :=
  let u := x.f 0x1410 19 10
  if u ≠ 0 ∧ x.c.sr.demand + u * tuPerUs ≤ x.now then srStart x else x

/-- The course may send its SRE commands (Table 9-4). -/
def quiesced (x : Cx) : Bool :=
  x.c.sr.st == 1 && queuesEmpty x.c && !x.c.rb[(0 : Fin 2)].on && !x.c.rb[(1 : Fin 2)].on && x.c.pd.isEmpty &&
  (List.finRange 16).all (fun i => !tgtUsed x i.val || x.c.tgts[i].owed == 0) &&
  (List.range (lranks x)).all (fun lr => openBanks x.c 0 lr none == 0 && openBanks x.c 1 lr none == 0)

/-- SR_QUIESCE_DONE: one SRE per subchannel and physical rank, in one flit or two consecutive ones (R182); they are committed in the cycle
in which the first flit leaves, so a cycle whose flit has gone is too late. -/
def srQuiesceDone (x : Cx) : Cx :=
  if !commitOk x || !quiesced x || nextFlit x != x.cyc then x
  else
    let p := x.cyc
    let n := pranks x
    let sre (s : Fin 2) : List Cmd := (List.range n).map (fun r => { op := 14, sub := s.val, lr := r, arg := 2 * 2 ^ 15 })
    let cys := (List.range n).map (fun r => if r < 3 then p else p + 1)
    if planRoom x p < min 6 (2 * n) ∨ planRoom x (p + 1) < 2 * n - 6 then x
    else
      match tryChain x 0 (sre 0) cys 0 none, tryChain x 1 (sre 1) cys 0 none with
      | some a, some b =>
          let x := commitAll (commitAll x a false) b false
          let s := max (topStamp a) (topStamp b)
          (x.onC (fun c => { c with sr := { c.sr with st := 2, sre := s } })).setf 0x1410 0 0 0
      | _, _ => x

/-- SR_ENTERED (R181). -/
def srEntered (x : Cx) : Cx :=
  if x.c.sr.st = 2 ∧ x.c.sr.sre ≤ x.dck then ((x.onC (fun c => { c with sr := { c.sr with st := 3 } })).cnt 0x14A8).sts 0x1418 5 else x

/-- ns of a waiting entry (R183). -/
def waitNs (x : Cx) (endAt : Nat) (w : Option Nat) : Nat := match w with | some d => (endAt - d) * 2000 / max 1 x.info.rate | none => 0

/-- SR_EXIT_DONE (R183, R184). -/
def srExitDone (x : Cx) : Cx :=
  match lastSrx x.c with
  | none => x
  | some s =>
      let e := s + (timOf x).txs
      if x.c.sr.st ≠ 5 ∨ x.dck < e then x
      else
        let ns := x.c.rdq.foldl (fun a r => a + waitNs x e r.wait) 0 + x.c.wrq.foldl (fun a w => a + waitNs x e w.wait) 0
        let x := (x.cntN 0x14C0 ns).onC (fun c => { c with
          rdq := c.rdq.map (fun r => { r with wait := none })
          wrq := c.wrq.map (fun w => { w with wait := none })
          ranks := c.ranks.map (fun k => { k with repAt := x.now, temp := 0x80, stale := false })
          sr := { c.sr with st := 0, srx := Vector.replicate 2 none } })
        ptResume (restartTgts ((x.setf 0x1410 1 1 0).sts 0x1418 6))

end Sys2Proof.Machine
end

