-- ==== Sys2Proof/Machine/Link.lean ====
section
/-! DEFINITION. The course link at the course's end (10_course_link.md): flits, sequence numbers and replay (R191 to R206), link states
(R209 to R214), maintenance (R215), and the records that start rebuilds or retire entries (R223 to R234). -/

namespace Sys2Proof.Machine

/-! ### Lanes -/

/-- Half-width modes (Table 10-1). -/
def halfWidth (mode : Nat) : Bool := mode == 1 || mode == 3
/-- Upstream lanes in use (R188). -/
def upLanes (mode sel : Nat) : List Nat := if halfWidth mode then (List.range 4).map (· + 4 * sel) else List.range 8
/-- Downstream lanes in use (R188). -/
def dnLanes (mode sel : Nat) : List Nat := if halfWidth mode then (List.range 3).map (· + 3 * sel) else List.range 6
/-- Lanes of a course's directions. -/
def Cx.ups (x : Cx) : List Nat := upLanes x.info.mode x.c.lk.sel
/-- Downstream lanes of a course. -/
def Cx.dns (x : Cx) : List Nat := dnLanes x.info.mode x.c.lk.sel

/-- TX, RX and Data budgets of a mode (Table 10-2). -/
def budget (mode : Nat) : Nat × Nat × Nat := if mode = 0 then (2, 6, 4) else if mode = 3 then (1, 3, 2) else (1, 4, 3)

/-- The five UI levels of each symbol of a codeword (R191): each bit pair in place of its PAM4 level, Gray-coded 00, 01, 11, 10. The code is
its own inverse. -/
def pam {n : Nat} (v : BitVec n) : BitVec n := v ^^^ ((v >>> 1) &&& BitVec.ofNat n ((2 ^ n - 1) / 3))

/-- The bit pair that level `l` stands for (R191). -/
def grayPair (l : Nat) : Nat := l ^^^ (l / 2)

/-! ### Flit bodies -/

/-- Line code symbols as they travel, symbol 0 first: bytes most significant first. -/
def symVal (l : List Nat) : Nat := l.foldl (fun a s => a * 256 + s % 256) 0
/-- `n` symbols of a value whose first symbol is the most significant byte. -/
def valSyms (n v : Nat) : List Nat := (List.range n).map (fun j => (v >>> (8 * (n - 1 - j))) % 256)

/-- Slots of a downstream body, first at body bit 0 (Table 10-5). -/
def slotsBody (bs : List Cmd) : Nat := (bs.zip (List.range 6)).foldl (fun a p => a + (slotOf p.1).toNat * 2 ^ (412 - 80 * p.2)) 0

/-- CMD body. -/
def cmdBody (bs : List Cmd) : Body := ⟨1, BitVec.ofNat 640 (slotsBody bs), 0, 0⟩

/-- WDATA0 or WDATA1 body. -/
def dataBody (h : Nat) (bs : List Cmd) (tag : Nat) (code : Code) : Body :=
  let syms := ((symsOf code).drop (40 * h)).take 40
  ⟨2 + h, BitVec.ofNat 640 (slotsBody (bs.take 2) + symVal syms * 2 ^ 12 + tag % 128 * 2 ^ 5), 0, 0⟩

/-- MAINT body. -/
def maintBody (bs : List Cmd) (m : MntReq) : Body :=
  ⟨4, BitVec.ofNat 640 (slotsBody (bs.take 4) + m.mop % 16 * 2 ^ 168 + m.tag % 256 * 2 ^ 160 + m.addr % 2 ^ 20 * 2 ^ 140 + m.data.toNat * 2 ^ 108
    + m.be % 16 * 2 ^ 104), 0, 0⟩

/-! ### Senders and receivers (R203 to R205) -/

/-- The flits up to sequence number `a` are freed when `a` is unacknowledged. -/
def LEnd.free (e : LEnd) (a : Nat) : LEnd :=
  if e.buf.any (fun f => f.seq == a) then
    let b := (e.buf.dropWhile (fun f => f.seq != a)).drop 1
    { e with buf := b, rep := min e.rep b.length }
  else e

/-- What a received ack and nak did (R205). -/
inductive AckRes where
  | none | rewind | stale
  deriving DecidableEq, Repr

/-- Apply the ack and nak of a good flit (R205). -/
def LEnd.apply (e : LEnd) (ack : Nat) (nak : Bool) : LEnd × AckRes :=
  if !nak then (e.free ack, .none)
  else
    let n := (ack + 1) % 256
    if e.buf.any (fun f => f.seq == n) then
      let e := e.free ack
      ({ e with rep := e.buf.length }, .rewind)
    else if n = e.next then ({ e with buf := [], rep := 0 }, .none)
    else (e, .stale)

/-- A bad flit arrives (Table 10-9). -/
def LEnd.bad (e : LEnd) (cyc gap : Nat) : LEnd :=
  if !e.nak then { e with nak := true, nakDue := true }
  else if gap ≠ 0 ∧ e.nakDue = false ∧ e.nakAt + gap ≤ cyc then { e with nakDue := true }
  else e

/-- A good flit arrives: whether it is accepted (Table 10-9). -/
def LEnd.good (e : LEnd) (seqd : Bool) (seq : Nat) : LEnd × Bool :=
  if !seqd then (e, false)
  else
    let d := (seq + 256 - e.e) % 256
    if d = 0 then ({ e with e := (e.e + 1) % 256, nak := false }, true)
    else if d ≤ 127 then (if e.nak then (e, false) else ({ e with nak := true, nakDue := true }, false))
    else (e, false)

/-- The ack field of a flit to be sent. -/
def LEnd.ack (e : LEnd) : Nat := (e.e + 255) % 256

/-- A sequenced flit enters the replay buffer. -/
def LEnd.push (e : LEnd) (b : Body) (cyc : Nat) : LEnd × Nat := ({ e with buf := e.buf ++ [⟨e.next, b, cyc⟩], next := (e.next + 1) % 256 }, e.next)

/-- The next flit of a replay leaves. -/
def LEnd.replay (e : LEnd) (cyc : Nat) : Option (LEnd × SFlit) :=
  if e.rep = 0 then none
  else
    match e.buf.drop (e.buf.length - e.rep) with
    | [] => none
    | f :: _ => some ({ e with rep := e.rep - 1, buf := replaceFirst (fun g => g.seq == f.seq) (fun g => { g with at_ := cyc }) e.buf }, f)

/-- A nak leaves with the flit. -/
def LEnd.sent (e : LEnd) (cyc : Nat) : LEnd := if e.nakDue then { e with nakDue := false, nakAt := cyc } else e

/-- The nak timer of a receiver has run (Table 10-9). -/
def LEnd.nakExpired (e : LEnd) (cyc lim : Nat) : Bool := e.nak && !e.nakDue && decide (e.nakAt + lim ≤ cyc)

/-- The ack timeout of a sender has run (R205); a rewind already made is not made again. -/
def LEnd.ackExpired (e : LEnd) (cyc lim : Nat) : Bool :=
  match e.buf with
  | [] => false
  | f :: _ => decide (f.at_ + lim ≤ cyc) && e.rep != e.buf.length

/-! ### Link states of the course -/

/-- The lanes fall idle, the counts and buffers of the course's end start anew (Table 10-11, R211). -/
def linkDown (x : Cx) : Cx :=
  (x.onC (fun c => { c with
    lk := { c.lk with
      st := 0
      stop := false
      slp := false
      slept := false
      rate := false
      ends := {}
      replays := []
      dn := []
      up := []
      tries := 0
      alGood := 0
      newAt := none
      lock := 0 }
    epoch := Vector.replicate 2 0 })).onInfo (fun i => { i with failed := false })

/-- The link fails (Table 10-11, R213). -/
def linkFail (x : Cx) : Cx :=
  let x := (x.onL (fun l => { l with st := 7, since := x.now, dn := [], up := [], slp := false })).onInfo (fun i => { i with failed := true })
  (x.sts 0x0808 1).ev 0x0030 (fmtC x.n.val 7 0 0)

/-- The link goes to RECOVER (R206). -/
def enterRecover (x : Cx) : Cx :=
  if x.c.lk.st = 2 then
    let x := x.onL (fun l => { l with st := 3, since := x.now, tries := 0, replays := [], alGood := 0 })
    (x.onB (fun b => { b with alGood := 0 })).cnt 0x08B8
  else x

/-- The course rewinds: counted, once in an LCK cycle, and RECOVER when the replays of 10 µs reach recov_thr (R205, R206). -/
def courseRewound (x : Cx) : Cx :=
  if (x.c.lk.replays.head?.map (fun t => t / x.lck)) = some x.cyc then x
  else
    let l := (x.now :: x.c.lk.replays).filter (fun t => decide (x.now < t + 10 * tuPerUs))
    let x := (x.onL (fun k => { k with replays := l })).cnt 0x08A0
    let thr := x.f 0x0800 22 19
    if thr ≠ 0 ∧ thr ≤ l.length then enterRecover x else x

/-! ### ALIGN flits -/

/-- A field of a body, first bit first: `v` in the `n` bits from bit `b` of `w`. -/
def putBits (w b n v : Nat) : Nat := v % 2 ^ n * 2 ^ (w - b - n)

/-- The fill pattern from bit `base` of a body of `w` bits. -/
def alignFill (w base : Nat) : Nat := (List.range (w - base)).foldl (fun a i => if (0x96).testBit (7 - i % 8) then a + 2 ^ (w - 1 - base - i) else a) 0

/-- A downstream ALIGN flit built in this LCK cycle (Table 10-6), unscrambled. -/
def alignDn (x : Cx) (fromDown : Bool) (cnt : Nat) (ready : Bool) : DnBits :=
  let d := x.c.dck.at x.cyc
  let b := putBits 492 0 2 cnt + putBits 492 2 1 ready.toNat + putBits 492 3 2 x.info.mode + putBits 492 5 1 x.c.lk.sel + putBits 492 6 48 d.dck.toNat
    + putBits 492 54 8 d.acc + putBits 492 62 8 d.num + putBits 492 70 8 d.den + putBits 492 78 1 fromDown.toNat + alignFill 492 79
  let e := x.c.lk.ends
  dnFlit ((6 * 2 ^ 21 + e.next * 2 ^ 13 + e.ack * 2 ^ 5) * 2 ^ 492 + b)

/-- An upstream ALIGN flit (Table 10-6), unscrambled. -/
def alignUp (x : Cx) (ok : Bool) (cnt : Nat) (ready : Bool) : UpBits :=
  let p := putBits 640 0 2 cnt + putBits 640 2 1 ready.toNat + putBits 640 3 2 x.info.mode + putBits 640 5 1 x.c.cb.safe.toNat + putBits 640 6 1 ok.toNat
    + alignFill 640 7
  let e := x.c.cb.ends
  upFlit ((4 * 2 ^ 44 + e.next * 2 ^ 36 + e.ack * 2 ^ 28) * 2 ^ 640 + p)

/-! ### Modes and ratios -/

/-- Shift an LCK-cycle number from the old LCK's count to the new one's. -/
def shiftCyc (o n k : Nat) : Nat := k + n - o

/-- LCK-cycle numbers of one end. -/
def LEnd.shift (e : LEnd) (f : Nat → Nat) : LEnd := { e with buf := e.buf.map (fun b => { b with at_ := f b.at_ }), nakAt := f e.nakAt }

/-- Every LCK-cycle number a course holds, moved to the count of a new LCK. -/
def rebaseCyc (c : CourseSt) (f : Nat → Nat) : CourseSt :=
  { c with
    rdq := c.rdq.map (fun r => { r with enq := f r.enq })
    wrq := c.wrq.map (fun w => { w with enq := f w.enq })
    plan := c.plan.map (fun p => { p with cyc := f p.cyc })
    sentAt := c.sentAt.map f
    reqAt := c.reqAt.map (Option.map f)
    othAt := c.othAt.map (Option.map f)
    fullAt := c.fullAt.map (Option.map f)
    modeAt := c.modeAt.map f
    tgts := c.tgts.map (fun g => { g with em := g.em.map f })
    lk := { c.lk with
      ends := c.lk.ends.shift f
      mnt := { c.lk.mnt with req := c.lk.mnt.req.map (fun p => (p.1, f p.2)) } }
    cb := { c.cb with
      ends := c.cb.ends.shift f
      sentAt := c.cb.sentAt.map f
      advAt := c.cb.advAt.map (fun p => (p.1, f p.2))
      retq := c.cb.retq.map (fun b => { b with due := f b.due })
      recs := c.cb.recs.map (fun r => { r with at_ := f r.at_ })
      statAt := f c.cb.statAt } }

/-- The counter at instant `t` under the LCK period `lo`, and from there under period `ln` with a ratio (R151). -/
def DckCnt.change (d : DckCnt) (t lo ln num den : Nat) : DckCnt := { ((d.at (t / lo)).ratio num den) with cyc := t / ln }

/-- The mode of the registers comes into force at the instant `t` (R209); both counters go on with their ratios. -/
def setMode (x : Cx) (t : Nat) : Cx :=
  let m := x.f 0x0800 1 0
  let lo := x.lck
  let ln := lckOf m
  let x := x.onC (fun c => { c with
    dck := c.dck.change t lo ln c.dck.num c.dck.den
    cb := { c.cb with dck := c.cb.dck.change t lo ln c.cb.dck.num c.cb.dck.den } })
  let x := x.onC (fun c => rebaseCyc c (shiftCyc (t / lo) (t / ln)))
  let sel := x.f 0x0800 2 2
  let x := x.onL (fun l => { l with sel := sel, rate := false })
  if x.info.mode = m then x else (x.onInfo (fun i => { i with mode := m })).onZ needBond

/-- The ratio of the registers is applied at the LCK edge `cyc`, at the course and the Corbel in one step, and neither count jumps; an armed
one posts ratio_applied (R151, Table 8-13). -/
def applyRatio (x : Cx) (cyc : Nat) : Cx :=
  let num := x.f 0x1020 7 0
  let den := x.f 0x1020 15 8
  let armed := x.c.lk.armed
  let x := x.onC (fun c => { c with
    dck := (c.dck.at cyc).ratio num den
    lk := { c.lk with armed := false }
    cb := { c.cb with dck := (c.cb.dck.at cyc).ratio num den } })
  if armed then x.sts 0x1038 1 else x

/-- In RATE, the new mode comes into force once the lanes have been idle for 64 LCK at the old rate, and an armed ratio at its first LCK
edge (R151, Table 10-11). -/
def rateEnter (x : Cx) : Cx :=
  let t := x.c.lk.since + 64 * x.lck
  if x.c.lk.st = 4 ∧ x.c.lk.newAt = none ∧ t ≤ x.now then
    let y := setMode x t
    (applyRatio y (t / y.lck)).onL (fun l => { l with newAt := some t })
  else x

/-! ### Downstream flits -/

/-- Put a flit on the downstream lanes: header, FEC and scrambling. -/
def sendDn (x : Cx) (ftype seq : Nat) (body : Nat) : Cx :=
  let e := x.c.lk.ends
  let h := ftype * 2 ^ 21 + seq * 2 ^ 13 + e.ack * 2 ^ 5 + (if e.nakDue then 16 else 0)
  let f := dnFlit (h * 2 ^ 492 + body % 2 ^ 492)
  let (scr, v) := scramble 60 x.c.lk.scrTx f.toNat
  let x := if e.nakDue then x.cnt 0x0898 else x
  x.onC (fun c => { c with
    sentAt := some x.cyc
    lk := { c.lk with
      scrTx := scr
      dn := c.lk.dn ++ [pam (BitVec.ofNat 600 v)]
      ends := e.sent x.cyc } })

/-- Send a new sequenced flit. -/
def sendNewDn (x : Cx) (b : Body) : Cx :=
  let (e, seq) := x.c.lk.ends.push b x.cyc
  sendDn (x.onL (fun l => { l with ends := e })) b.ftype seq b.body.toNat

/-- The maintenance request leaves. -/
def sendMaint (x : Cx) (bs : List Cmd) (m : MntReq) : Cx :=
  sendNewDn (x.onL (fun l => { l with mnt := { l.mnt with req := none } })) (maintBody bs m)

/-- A flit with no work of its own: a waiting maintenance request, or IDLE (R198). -/
def sendIdle (x : Cx) : Cx :=
  match x.c.lk.mnt.req with
  | some (m, _) => if x.c.lk.st = 2 ∧ x.c.lk.ends.buf.length < 128 then sendMaint x [] m else sendDn x 0 x.c.lk.ends.next 0
  | none => sendDn x 0 x.c.lk.ends.next 0

/-- Every planned flit waits one LCK behind a replay (R159). -/
def planWait (x : Cx) : Cx := x.onC (fun c => { c with plan := c.plan.map (fun f => { f with cyc := f.cyc + 1 }) })

/-- A planned flit leaves (R158, R198). -/
def sendPlanned (x : Cx) (f : PFlit) : Cx :=
  let x := x.onC (fun c => { c with plan := c.plan.drop 1 })
  match f.kind with
  | .wdata0 => sendNewDn x (dataBody 0 f.cmds f.tag f.code)
  | .wdata1 => sendNewDn x (dataBody 1 f.cmds f.tag f.code)
  | .cmd =>
      match x.c.lk.mnt.req with
      | some (m, _) => if f.cmds.length ≤ 4 ∧ x.c.lk.st = 2 then sendMaint x f.cmds m else sendNewDn x (cmdBody f.cmds)
      | none => sendNewDn x (cmdBody f.cmds)

/-- A course flit has not left in this LCK cycle. -/
def flitDue (x : Cx) : Bool := match x.c.sentAt with | some n => decide (n < x.cyc) | none => true

/-- One of the IDLE flits after a SLEEP_ACK (Table 10-11). -/
def sendLast (x : Cx) : Cx :=
  let e := x.c.lk.idleEnds
  let f := dnFlit ((e.next * 2 ^ 13 + e.ack * 2 ^ 5) * 2 ^ 492)
  let (scr, v) := scramble 60 x.c.lk.scrTx f.toNat
  x.onC (fun c => { c with
    sentAt := some x.cyc
    lk := { c.lk with scrTx := scr, dn := c.lk.dn ++ [pam (BitVec.ofNat 600 v)], idles := c.lk.idles - 1 } })

/-- A flit of a link that is not carrying work: an ALIGN flit in WAKE, RECOVER and, once the new mode is in force, RATE; the IDLE flits after
a SLEEP_ACK; nothing on idle lanes (Table 10-11). -/
def quietFlit (x : Cx) : Cx :=
  if x.c.lk.st = 1 ∨ x.c.lk.st = 3 ∨ (x.c.lk.st = 4 ∧ x.c.lk.newAt ≠ none) then
    let f := alignDn x (x.c.lk.st == 1 && x.c.lk.fromDown) 3 (decide (16 ≤ x.c.lk.alGood))
    x.onC (fun c => { c with sentAt := some x.cyc, lk := { c.lk with dn := c.lk.dn ++ [pam f] } })
  else if x.c.lk.idles ≠ 0 then sendLast x
  else x

/-- DOWNSTREAM_FLIT: one flit in an LCK cycle (R158); a full replay buffer is counted in every link state (R203). -/
def downstreamFlit (x : Cx) : Cx :=
  if !powered x.z x.n ∨ !flitDue x then x
  else
    let x := if 128 ≤ x.c.lk.ends.buf.length then (x.cnt 0x08C0).onC (fun c => { c with sentAt := some x.cyc }) else x
    let x := rateEnter x
    if !(x.c.lk.st == 2 || x.c.lk.st == 5) then quietFlit x
    else
    match x.c.lk.ends.replay x.cyc with
    | some (e, f) => sendDn ((planWait (x.onL (fun l => { l with ends := e }))).cnt 0x08A8) f.body.ftype f.seq f.body.body.toNat
    | none =>
        if 128 ≤ x.c.lk.ends.buf.length then sendDn (planWait x) 0 x.c.lk.ends.next 0
        else
          match x.c.plan with
          | f :: _ => if f.cyc ≤ x.cyc then sendPlanned x f else sendIdle x
          | [] => if x.c.lk.slp then sendNewDn (x.onL (fun l => { l with slp := false })) ⟨5, 0, 0, 0⟩ else sendIdle x

/-! ### Upstream flits -/

/-- Lane bits that differ between two flits of `n` symbols on lanes `ls`, one count per lane (R287). -/
def laneDiffs (n : Nat) (ls : List Nat) (a b : Nat) : List (Nat × Nat) :=
  let w := max 1 ls.length
  let pop (v : Nat) : Nat := ((List.range 10).filter (fun i => v.testBit i)).length
  let d := flitSyms n (a ^^^ b)
  (ls.zip (List.range w)).map (fun p => (p.1, ((d.zip (List.range n)).filter (fun q => q.2 % w == p.2)).foldl (fun s q => s + pop q.1) 0))

/-- The course's checker sees a flit while a dwell runs (R287). -/
def courseCheck (x : Cx) (raw : Nat) (r : Rx) : Cx :=
  let len := x.f 0x0580 9 1 * 4096
  if x.f 0x0580 0 0 = 0 ∨ (len ≠ 0 ∧ len ≤ x.c.tr.dwell) then x
  else
    let x := x.onC (fun c => { c with tr := { c.tr with dwell := c.tr.dwell + 1 } })
    match r with
    | .good _ _ b => (laneDiffs 80 x.ups raw b).foldl (fun x p => x.cntN (0x0590 + 4 * p.1) p.2) x
    | _ => x.cnt 0x05B0

/-- Records of a REC payload, oldest first; reserved types are counted (R201). -/
def takeRecs (x : Cx) (p : Nat) : Cx :=
  (List.range 8).foldl (fun x i =>
    let r := (p >>> (560 - 80 * i)) % 2 ^ 80
    let ty := r >>> 72
    if ty = 0 then x
    else if 8 ≤ ty then x.cnt 0x08E0
    else x.onL (fun l => { l with recs := l.recs ++ [BitVec.ofNat 80 r] })) x

/-- A sequenced upstream flit is accepted. -/
def acceptUp (x : Cx) (ftype u p : Nat) : Cx :=
  if ftype = 1 then x.onL (fun l => { l with rdata := l.rdata ++ [(slice u 26 26, slice u 25 2, codeOf (valSyms 80 p))] })
  else if ftype = 2 then takeRecs x p
  else if ftype = 3 then x.onL (fun l => { l with slept := true })
  else x

/-- A bad flit at the course. -/
def courseBad (x : Cx) : Cx := let g := x.f 0x0800 30 25; x.onL (fun l => { l with ends := l.ends.bad x.cyc g })

/-- A nak in the cycle of an ack timeout: the one rewind is the nak's, so the timeout's count is taken back (R205). -/
def timeoutUndone (x : Cx) : Cx :=
  if (x.c.lk.replays.head?.map (fun t => t / x.lck)) = some x.cyc then x.setf 0x08B0 31 0 (x.f 0x08B0 31 0 + (2 ^ 32 - 1)) else x

/-- A good flit at the course: header U and payload. -/
def courseGood (x : Cx) (h n : Nat) : Cx :=
  let u := h >>> 648
  let p := (h >>> 8) % 2 ^ 640
  let ftype := slice u 47 44
  if 5 ≤ ftype then courseBad (x.cnt 0x08E0)
  else
    let x := x.cntN 0x0880 n
    let (e, ok) := x.c.lk.ends.good (ftype == 1 || ftype == 2 || ftype == 3) (slice u 43 36)
    let x := x.onL (fun l => { l with ends := e })
    let x := if ok then acceptUp x ftype u p else x
    let (e, r) := x.c.lk.ends.apply (slice u 35 28) (slice u 27 27 == 1)
    let x := x.onL (fun l => { l with ends := e })
    match r with
    | .none => x
    | .rewind => courseRewound (timeoutUndone x)
    | .stale => x.cnt 0x08E0

/-- In an ALIGN exchange an unscrambled good ALIGN flit counts towards the 16 in a row, and its ack and nak are applied (R204, R209). -/
def courseAlign (x : Cx) (f : UpBits) : Option Cx :=
  if !(x.c.lk.st == 1 || x.c.lk.st == 3 || x.c.lk.st == 4) then none
  else
    match rxUp f with
    | .good h n _ =>
        let u := h >>> 648
        if slice u 47 44 ≠ 4 then none
        else
          let x := x.cntN 0x0880 n
          some (x.onL (fun l => { l with alGood := l.alGood + 1, ends := (l.ends.apply (slice u 35 28) (slice u 27 27 == 1)).1 }))
    | _ => none

/-- UPSTREAM_FLIT: the oldest flit of the upstream lanes arrives (R204). -/
def upstreamFlit (x : Cx) (errs : UpBits) : Cx :=
  match x.c.lk.up with
  | [] => x
  | f :: l =>
    match courseAlign (x.onL (fun k => { k with up := l })) (pam f ^^^ errs) with
    | some y => y
    | none =>
      let x := x.onL (fun k => { k with alGood := 0 })
      let (scr, v) := scramble 80 x.c.lk.scrRx (pam f ^^^ errs).toNat
      let x := x.onL (fun k => { k with up := l, scrRx := scr })
      let r := rxUp (BitVec.ofNat 800 v)
      let x := courseCheck x v r
      match r with
      | .good h n _ => courseGood x h n
      | .fecFail => courseBad (x.cnt 0x0888)
      | .crcFail => courseBad (x.cnt 0x0890)

/-- NAK_TIMER_EXPIRY at the course (R204). -/
def courseNakExpiry (x : Cx) : Cx :=
  if (x.c.lk.st = 2 ∨ x.c.lk.st = 5) ∧ x.c.lk.ends.nakExpired x.cyc (x.f 0x0800 10 4) = true then
    x.onL (fun l => { l with ends := { l.ends with nakDue := true } })
  else x

/-- ACK_TIMEOUT at the course (R205). -/
def courseAckTimeout (x : Cx) : Cx :=
  if (x.c.lk.st = 2 ∨ x.c.lk.st = 5) ∧ x.c.lk.ends.ackExpired x.cyc (x.f 0x0800 18 11 * 4) = true then
    courseRewound ((x.onL (fun l => { l with ends := { l.ends with rep := l.ends.buf.length } })).cnt 0x08B0)
  else x

/-! ### Records -/

/-- A 24-bit stamp of a record restored near dck_now (R227). -/
def restore24 (x : Cx) (v : Nat) : Nat := nearest 24 v x.dck

/-- The type of a record. -/
def recTy (r : BitVec 80) : Nat := r.toNat >>> 72

/-- The oldest record of one of the types `grp`, when it is of type `ty`, taken from the accepted ones. -/
def popRec (x : Cx) (grp : List Nat) (ty : Nat) : Option (Nat × Cx) :=
  match x.c.lk.recs.find? (fun r => grp.contains (recTy r)) with
  | some r => if recTy r = ty then some (r.toNat, x.onL (fun l => { l with recs := removeFirst (fun q => q == r) l.recs })) else none
  | none => none

/-- Records whose order among themselves matters: alerts, acknowledgements, overflows. -/
def epochRecs : List Nat := [1, 2, 4, 6]

/-- Insert a command by its stamp. -/
def insCmd (b : Cmd) : List Cmd → List Cmd
  | [] => [b]
  | a :: l => if b.stamp < a.stamp then b :: a :: l else a :: insCmd b l

/-- Commands in the order of their stamps. -/
def byStamp (l : List Cmd) : List Cmd := l.foldl (fun a b => insCmd b a) []

/-- The power-down ranks once the set's commands have not been executed: the first PDE or PDX of a rank in the set says what it was. -/
def pdBefore (x : Cx) (s : Nat) (set : List Cmd) : List (Nat × Nat) :=
  (List.range (pranks x)).foldl (fun pd r =>
    match set.find? (fun b => prankOf x b.lr == r && (isPwr b 0 || isPwr b 1)) with
    | some b => if isPwr b 0 then pd.filter (fun p => p != (s, r)) else if pd.contains (s, r) then pd else (s, r) :: pd
    | none => pd) x.c.pd

/-- Every bank of a subchannel is CLOSED (R229). -/
def closeBanks (c : CourseSt) (s : Nat) : CourseSt :=
  { c with banks := c.banks.filterMap (fun p =>
      if p.1 / 256 = s then
        let b : BankSt := { p.2 with open_ := none, hits := [] }
        if b = {} then none else some (p.1, b)
      else some p) }

/-- A rebuild starts: the set leaves the retry buffer and the calendar, the banks are closed until `pa` + trp (R229). -/
def rebuildStart (x : Cx) (s : Fin 2) (set : List Cmd) (pa : Option Nat) (srx : List Nat) : Cx :=
  let set := byStamp (set ++ x.c.later.filter (fun b => b.sub == s.val) ++ x.c.rb[s].set)
  let t := timOf x
  let gone (b : Cmd) : Bool := set.any (fun k => k.ord == b.ord)
  let pd := pdBefore x s.val set
  let pre : List Cmd := match pa with
    | some p => (List.range (lranks x)).map (fun lr => { op := 8, sub := s.val, lr := lr, stamp := p })
    | none => []
  let x := x.onC (fun c => closeBanks { c with
    retry := modV c.retry s (fun l => l.filter (fun b => !gone b))
    cal := modV c.cal s (fun l => pre ++ l.filter (fun b => !gone b))
    outRd := c.outRd.filter (fun b => !(b.sub == s.val && gone b))
    tags := c.tags.filter (fun p => !set.any (fun k => isWrOp k.op && k.arg / 8 % 128 == p.1 && k.stamp == p.2))
    later := c.later.filter (fun b => b.sub != s.val)
    preRows := c.preRows.filter (fun p => !set.any (fun k => k.ord == p.1))
    engOut := c.engOut.filter (fun p => !set.any (fun k => k.stamp == p.1 && (match k.src with | .render e _ => e == p.2 | _ => false)))
    pd := pd
    tr := { c.tr with
      probes := c.tr.probes.map (fun p => if p.i / 8 = s.val then { p with bad := true } else p)
      armBad := (c.tr.armBad ++ (List.range 8).map (fun l => 8 * s.val + l)).eraseDups } } s.val)
  let floor := match pa with | some p => p + t.trp | none => 0
  x.onC (fun c => { c with rb := modV c.rb s (fun r => { on := true, set := set, floor := max floor r.floor, srx := if srx = [] then r.srx else srx, wait := 0 }) })

/-- The last alert in CRS[n]_CMD_LAST (Table 11-8). -/
def noteAlert (x : Cx) (stamp s kind : Nat) : Cx := x.onZ (fun z => putWord z (x.off 0x0C10) (BitVec.ofNat 32 (stamp + s * 2 ^ 24 + kind * 2 ^ 25)))

/-- The course's epoch of a subchannel becomes that of a record (R223). -/
def setEpoch (x : Cx) (s : Fin 2) (e : Nat) : Cx := x.onC (fun c => { c with epoch := modV c.epoch s (fun _ => e) })

/-- LATE_ALERT (R228, R233). -/
def lateAlert (x : Cx) : Cx :=
  match popRec x epochRecs 1 with
  | none => x
  | some (r, x) =>
      let s := toSub (slice r 71 71)
      let k24 := slice r 68 45
      let k := restore24 x k24
      let pa := restore24 x (slice r 44 21)
      let l := x.c.retry[s]
      let set :=
        if l.any (fun b => b.stamp == k) then
          (l.takeWhile (fun b => b.stamp != k)).filter (fun b => decide (k ≤ b.stamp)) ++ l.dropWhile (fun b => b.stamp != k)
        else l
      let x := setEpoch x s (slice r 70 69)
      let x := (noteAlert x k24 s.val 0 |>.cnt 0x0C40).sts 0x0C00 0
      rebuildStart x s set (some pa) []

/-- CA_PARITY_ALERT (R232, R233). -/
def caParityAlert (x : Cx) : Cx :=
  match popRec x epochRecs 2 with
  | none => x
  | some (r, x) =>
      let s := toSub (slice r 71 71)
      let a24 := slice r 68 45
      let pa := restore24 x (slice r 44 21)
      let x := setEpoch x s (slice r 70 69)
      let x := (noteAlert x a24 s.val 1 |>.cnt 0x0C48).sts 0x0C00 1
      rebuildStart x s x.c.retry[s] (some pa) []

/-- Every logical rank. -/
def allLr (x : Cx) : List Nat := List.range (lranks x)

/-- The rebuild of a safe return starts once both acknowledgements are in (R234). -/
def safeStart (x : Cx) : Cx :=
  (List.finRange 2).foldl (fun x s =>
    let x := x.onC (fun c => { c with epoch := modV c.epoch s (fun e => (e + 1) % 4), pd := c.pd.filter (fun p => p.1 != s.val) })
    rebuildStart x s x.c.retry[s] none (allLr x)) x

/-- ISSUE_ACKNOWLEDGEMENT: entries of its epoch up to conf_stamp retire (R225); after a safe return it covers every epoch (R234). -/
def issueAck (x : Cx) : Cx :=
  match popRec x epochRecs 4 with
  | none => x
  | some (r, x) =>
      let s := toSub (slice r 71 71)
      let e := slice r 70 69
      let conf := restore24 x (slice r 68 45)
      let any : Bool := x.c.rb[s].wait == 1 && x.c.rb[s].skip == 0
      let x := x.onC (fun c => { c with
        retry := modV c.retry s (fun l => l.filter (fun b => !((b.epoch == e || any) && decide (b.stamp ≤ conf))))
        rb := modV c.rb s (fun k => if any then { k with wait := 2 } else { k with skip := k.skip - 1 }) })
      if any ∧ (List.finRange 2).all (fun s => x.c.rb[s].wait != 1) = true then safeStart x else x

/-- RETURN_OVERFLOW: the read is selected again in tier 5 (R208), with its queue entry where it has one. -/
def returnOverflow (x : Cx) : Cx :=
  match popRec x epochRecs 6 with
  | none => x
  | some (r, x) =>
      let s := slice r 71 71
      let st := slice r 70 47
      let x := (x.cnt 0x08C8).sts 0x0808 2
      match x.c.outRd.find? (fun b => b.sub == s && b.stamp % 2 ^ 24 == st) with
      | none => x
      | some b =>
          let x := x.onC (fun c => { c with outRd := c.outRd.filter (fun k => k != b) })
          match b.src with
          | .rd o => x.onC (fun c => { c with rdq := replaceFirst (fun q => q.ord == o) (fun q => { q with ph := .queued, again := true }) c.rdq })
          | _ => x.onC (fun c => { c with redo := c.redo ++ [b] })

/-- LINK_STATUS: the Corbel's counts are added (R201). -/
def linkStatus (x : Cx) : Cx :=
  match popRec x [7] 7 with
  | none => x
  | some (r, x) => (x.cntN 0x08D0 (slice r 71 56)).cntN 0x08D8 (slice r 55 40)

/-! ### Maintenance (R215) -/

/-- MNT_STS and MNT_RDATA. -/
def mntPut (x : Cx) (st res tag : Nat) (data : Word) : Cx :=
  x.onZ (fun z => putWord (putWord z (x.off 0x0858) (BitVec.ofNat 32 (st + res * 4 + tag * 16))) (x.off 0x0850) data)

/-- A write of mop 1 or 2, the register already written. -/
def mntStart (x : Cx) : Cx :=
  let mop := x.f 0x0840 1 0
  if (mop = 1 ∨ mop = 2) ∧ x.c.lk.mnt.st ≠ 1 ∧ powered x.z x.n = true then
    let tag := (x.c.lk.mnt.tag + 1) % 256
    let m : MntReq := ⟨mop, tag, x.f 0x0840 19 2 * 4, if mop = 2 then wordAt x.z (x.off 0x0848) else 0, if mop = 2 then x.f 0x0840 23 20 else 0⟩
    let x := x.onL (fun l => { l with mnt := { st := 1, tag := tag, at_ := x.now, req := some (m, x.cyc) } })
    x.onZ (fun z => putWord z (x.off 0x0858) (BitVec.ofNat 32 (1 + x.f 0x0858 3 2 * 4 + tag * 16)))
  else x

/-- MNT_TIMEOUT. -/
def mntTimeout (x : Cx) : Cx :=
  if x.c.lk.mnt.st = 1 ∧ x.c.lk.mnt.at_ + 20 * tuPerUs ≤ x.now then
    mntPut (x.onL (fun l => { l with mnt := { l.mnt with st := 2, req := none } })) 2 3 x.c.lk.mnt.tag 0
  else x

/-- MAINTENANCE_RESPONSE. -/
def mntResponse (x : Cx) : Cx :=
  match popRec x [5] 5 with
  | none => x
  | some (r, x) =>
      let tag := slice r 71 64
      if x.c.lk.mnt.st = 1 ∧ x.c.lk.mnt.tag = tag then
        mntPut (x.onL (fun l => { l with mnt := { l.mnt with st := 2 } })) 2 (slice r 63 62) tag (BitVec.ofNat 32 (slice r 31 0))
      else x

/-! ### Starting, stopping, changing mode -/

/-- link_start written 1 (R209). -/
def linkStart (x : Cx) : Cx :=
  if powered x.z x.n = true ∧ (x.c.lk.st = 0 ∨ x.c.lk.st = 7) then
    let x := (setMode x x.now).onInfo (fun i => { i with failed := false })
    linkWake x true
  else x

/-- link_stop written 1 (R211, Table 10-11). -/
def linkStop (x : Cx) : Cx :=
  if !powered x.z x.n then x
  else
    match x.c.lk.st with
    | 0 => x
    | 2 => x.onL (fun l => { l with st := 5, since := x.now, stop := true, slp := true, slept := false })
    | 5 => x.onL (fun l => { l with stop := true })
    | _ => linkDown x

/-- WAKE_TIMEOUT (Table 10-11): 100 µs after DOWN, 1.5 µs after ASLEEP. -/
def wakeTimeout (x : Cx) : Cx :=
  let lim := if x.c.lk.fromDown then 100 * tuPerUs else 126000
  if x.c.lk.st = 1 ∧ x.c.lk.since + lim < x.now then linkFail x else x

/-- A RECOVER attempt has failed: another, or FAILED after recov_max in a row. -/
def recoverMiss (x : Cx) : Cx :=
  let n := x.c.lk.tries + 1
  if x.f 0x0800 24 23 ≤ n then linkFail x else x.onL (fun l => { l with st := 3, tries := n, since := x.now })

/-- RECOVER_TIMEOUT. -/
def recoverTimeout (x : Cx) : Cx := if x.c.lk.st = 3 ∧ x.c.lk.since + 2 * tuPerUs < x.now then recoverMiss x else x

/-- RATE: a change of mode_req or lane_sel starts once nothing is outstanding (Table 10-11). -/
def rateStart (x : Cx) : Cx :=
  if x.c.lk.st = 2 ∧ x.c.lk.rate = true ∧ x.c.lk.ends.buf = [] ∧ x.c.plan = [] then (x.onL (fun l => { l with st := 4, since := x.now, alGood := 0, newAt := none })).onB (fun b => { b with alGood := 0 }) else x

/-- RATE_TIMEOUT. -/
def rateTimeout (x : Cx) : Cx := if x.c.lk.st = 4 ∧ x.c.lk.since + 2 * tuPerUs < x.now then linkFail x else x

/-- SLEEP_START (Table 10-11). -/
def sleepStart (x : Cx) : Cx :=
  if x.c.lk.st = 2 ∧ x.c.sr.st = 3 ∧ x.f 0x1410 20 20 = 1 ∧ x.c.lk.ends.buf = [] ∧ x.c.plan = [] ∧ x.c.lk.mnt.st ≠ 1 then
    x.onL (fun l => { l with st := 5, since := x.now, slp := true, slept := false })
  else x

/-- SLEEP_ACK: ASLEEP, or DOWN when link_stop is pending; 16 IDLE flits follow. A course already leaving self-refresh wakes a sleeping link
again; a link in DOWN waits for link_start. -/
def sleepAck (x : Cx) : Cx :=
  if x.c.lk.st = 5 ∧ x.c.lk.slept = true then
    if x.c.lk.stop then
      let e := x.c.lk.ends
      let dn := x.c.lk.dn
      (linkDown x).onL (fun l => { l with dn := dn, idles := 16, idleEnds := e })
    else
      let x := x.onL (fun l => { l with st := 6, slept := false, up := [], idles := 16, idleEnds := l.ends })
      match x.c.sr.st with
      | 3 => x.onC (fun c => { c with sr := { c.sr with st := 4 } })
      | 5 => linkWake x false
      | _ => x
  else x

/-- LANE_LOCK_LOSS (R206): upstream lanes 0 to 7, then downstream lanes 0 to 5; what a lost direction carries does not arrive. -/
def laneLockLoss (x : Cx) (l : Nat) : Cx :=
  if l < 8 then
    if x.ups.contains l then
      let y := x.onL (fun k => { k with lock := k.lock &&& (255 ^^^ 2 ^ l) })
      if y.c.lk.st = 2 then enterRecover (y.onL (fun k => { k with up := [] })) else y
    else x
  else if x.dns.contains (l - 8) then
    let y := x.onB (fun b => { b with lost := b.lost ||| 2 ^ (l - 8) })
    if y.c.lk.st = 2 then enterRecover (y.onL (fun k => { k with dn := [] })) else y
  else x

/-! ### Fencing (R213) -/

/-- A queued read of a fenced course completes with poison. -/
def poisonRead (x : Cx) (r : REnt) : Cx :=
  if r.ph = .back then x
  else
    let x := sendData x ⟨r.id, r.line, 0, true, false, false⟩
    let x := if r.srv then x else sendStat x (.served r.id)
    x.onC (fun c => { c with rdq := replaceFirst (fun e => e.ord == r.ord) (fun e => { e with ph := .back, srv := true }) c.rdq })

/-- A queued write of a fenced course is discarded. -/
def loseWrite (x : Cx) (w : WEnt) : Cx :=
  sendStat (sendStat (x.onZ (fun z => bumpN z x.now (x.off 0x08E0) 16 1)) (if w.wb then .wb else .wr)) (.served w.id)

/-- The course's queued work ends (R213), and what serves it is forgotten; the fresh map with its renders and claims stays (R319). -/
def dropWork (x : Cx) : Cx :=
  let x := x.c.rdq.foldl poisonRead x
  let x := x.c.wrq.foldl loseWrite x
  let x := x.onC (fun c => { c with
    wrq := []
    banks := []
    cal := Vector.replicate 2 []
    plan := []
    pd := []
    lastCmd := []
    later := []
    preRows := []
    tags := []
    retry := Vector.replicate 2 []
    rb := Vector.replicate 2 {}
    outRd := []
    engOut := []
    redo := []
    ppr := []
    pt := { c.pt with out := [], rw := [] }
    tr := { c.tr with fifo := [], probes := [] }
    lk := { c.lk with rdata := [] } })
  x.setf 0x2440 15 0 0

/-- Fence the course with a cause: its record changes and its queued work ends (R213, R330). -/
def fenceCrs (x : Cx) (cause : Nat) : Cx :=
  if x.info.fence ≠ 0 then x
  else
    let x := x.onInfo (fun i => { i with fence := cause, draining := false })
    let x := ptPause (dropWork x)
    (x.onZ needBond).pev 0x0031 (fmtC x.n.val cause 0 0)

/-- Potrie fences the course on its own initiative, which it audits (R79). -/
def potFence (x : Cx) (cause : Nat) : Cx :=
  if x.info.fence ≠ 0 then x else (fenceCrs x cause).onZ (fun z => potAudit z x.now [0] [BitVec.ofNat 32 cause])

end Sys2Proof.Machine
end

