-- ==== Sys2Proof/Machine/Corbel.lean ====
section
/-! DEFINITION. The Corbel of a course with its DRAM (11_corbel_command_stream.md, and the far end of 10_course_link.md): registers (R237, R289,
R290), flits, holding and issuing (R219 to R221), confirmation (R224), alerts (R226, R227, R231), safe actions (R212), and the ALIGN
exchanges that both ends complete together (R209, R214, R222). -/

namespace Sys2Proof.Machine

/-! ### Registers -/

/-- Reset word of a Corbel register (Tables 11-7, 14-1). -/
def cbRst (n off : Nat) : Word :=
  if off = 0 then Config.cbId n
  else if off = 4 then BitVec.ofNat 32 (128 + (Config.holdExtra n).toNat + (96 + (Config.rtnExtra n).toNat) * 2 ^ 8)
  else if off = 0x18 then BitVec.ofNat 32 (32 * 2 ^ 7 + 2 ^ 15)
  else if 0x200 ≤ off ∧ off < 0x220 then BitVec.ofNat 32 (48 * 2 ^ 9)
  else if off = 0x280 then 32#32
  else if 0x10000 ≤ off ∧ 0x800 ≤ off % 0x8000 ∧ off % 0x8000 < 0xC00 then BitVec.ofNat 32 (64 * 2 ^ 24)
  else 0

/-- Lines of the return queue (R208). -/
def rtnDepth (n : Nat) : Nat := 96 + (Config.rtnExtra n).toNat

/-- The register of a subchannel's training block at a relative offset: its writable bits and the rank of a delay (Table 14-1). -/
def cbTrainReg (r : Nat) : Option (Nat × Option Nat) :=
  if r < 0x10 then some (0xFFF, some (r / 4))
  else if 0x40 ≤ r ∧ r < 0x78 then some (0xFFF, some 0)
  else if 0x100 ≤ r ∧ r < 0x200 then (if r % 0x40 < 0x28 then some (0xFFFFFF, some ((r - 0x100) / 0x40)) else none)
  else if 0x800 ≤ r ∧ r < 0xC00 then (if r % 0x100 < 0xA0 then some (0x7FFFFFFF, some ((r - 0x800) / 0x100)) else none)
  else if 0x2000 ≤ r ∧ r < 0x20A0 then some (0xFFFFFFFF, none)
  else if r = 0x2100 then some (0x7F, none)
  else if r = 0x2108 ∨ r = 0x210C then some (0, none)
  else if r = 0x2110 then some (0xFF, none)
  else none

/-- Writable bits of a Corbel word, none where Table 11-7 and Table 14-1 list nothing; a delay with its subchannel and rank. -/
def cbReg (off : Nat) : Option (Nat × Option (Nat × Nat)) :=
  let p (m : Nat) : Option (Nat × Option (Nat × Nat)) := some (m, none)
  if off % 4 ≠ 0 then none
  else if off = 0 ∨ off = 4 ∨ off = 0x30 ∨ off = 0x2B8 then p 0
  else if off = 0x10 then p 0xFF
  else if off = 0x14 then p 0x1FFFFFFF
  else if off = 0x18 then p 0x7FFFF
  else if off = 0x20 ∨ off = 0x24 ∨ off = 0x40 ∨ off = 0x44 ∨ off = 0x48 ∨ off = 0x2B0 then p 0xFFFFFFFF
  else if 0x100 ≤ off ∧ off < 0x160 then (if off % 16 = 0 then p 0x1FFFFF else if off % 16 = 4 then p 0x0FFFFFFF else none)
  else if 0x200 ≤ off ∧ off < 0x220 then p 0xFFFFF
  else if off = 0x280 then p 0x3FF
  else if 0x290 ≤ off ∧ off < 0x2A8 then p 0xFFFFFFFF
  else if 0x10000 ≤ off ∧ off < 0x20000 then
    (cbTrainReg ((off - 0x10000) % 0x8000)).map (fun q => (q.1, q.2.map (fun r => ((off - 0x10000) / 0x8000, r))))
  else none

/-- The stored word of a Corbel register. -/
def cbWord (x : Cx) (off : Nat) : Word := match tblFind x.c.cb.reg off with | some v => v | none => cbRst x.n.val off
/-- A field of it. -/
def Cx.cf (x : Cx) (off hi lo : Nat) : Nat := bitsOf (cbWord x off) hi lo
/-- Store a Corbel word. -/
def cbPut (x : Cx) (off : Nat) (v : Word) : Cx := x.onB (fun b => { b with reg := tblPut b.reg off v })
/-- Count in a wrapping Corbel counter. -/
def cbCnt (x : Cx) (off n : Nat) : Cx := cbPut x off (cbWord x off + BitVec.ofNat 32 n)
/-- Count in a saturating Corbel counter. -/
def cbSat (x : Cx) (off n : Nat) : Cx := cbPut x off (BitVec.ofNat 32 (min ((cbWord x off).toNat + n) 0xFFFFFFFF))

/-- Feedback levels whose sampling point has come are held in tfb, the latest one (R291). -/
def cbSample (x : Cx) : Cx :=
  let d := (x.c.cb.dck.at x.cyc).dck.toNat
  let due := x.c.cb.tfbq.filter (fun p => decide (p.2.1 ≤ d))
  let put (x : Cx) (p : Nat × Nat × BitVec 40) : Cx :=
    let o := 0x12108 + 0x8000 * p.1
    cbPut (cbPut x o (p.2.2.extractLsb' 0 32)) (o + 4) ((p.2.2.extractLsb' 32 8).setWidth 32)
  (due.foldl put x).onB (fun b => { b with tfbq := b.tfbq.filter (fun p => decide (d < p.2.1)) })

/-- What a read of a Corbel word returns. -/
def cbRead (x : Cx) (off : Nat) : Word :=
  let x := cbSample x
  let b := x.c.cb
  if off = 0x30 then BitVec.ofNat 32 (b.epoch[(0 : Fin 2)] + b.epoch[(1 : Fin 2)] * 4 + (if b.safe then 16 else 0))
  else if off = 0x2B8 then BitVec.ofNat 32 (if b.down || b.asleep then 0 else (x.dns.filter (fun l => !b.lost.testBit l)).foldl (fun a l => a + 2 ^ l) 0)
  else if off = 0x12100 ∨ off = 0x1A100 then setBits (cbWord x off) 10 7 (b.pend[toSub ((off - 0x10000) / 0x8000)] % 16)
  else cbWord x off

/-- Physical ranks the Corbel backs (CB_TOPO). -/
def cbRanks (x : Cx) : Nat := if x.cf 0x10 7 5 = 0 ∨ 4 ≤ x.cf 0x10 7 5 then 0 else x.cf 0x10 2 0
/-- Logical ranks the Corbel backs (R218). -/
def cbLranks (x : Cx) : Nat := cbRanks x * max 1 (x.cf 0x10 4 3)
/-- Physical rank of a logical rank at the Corbel. -/
def cbPrank (x : Cx) (lr : Nat) : Nat := lr % max 1 (cbRanks x)

/-- The Corbel's DCK count in an LCK cycle. -/
def cbDck (x : Cx) (cyc : Nat) : Nat := (x.c.cb.dck.at cyc).dck.toNat

/-- The count moved by steps of R150. -/
def DckCnt.move (d : DckCnt) (k : Int) : DckCnt :=
  if d.den = 0 then d
  else
    let s := (d.acc : Int) + k * d.num
    { d with dck := d.dck + s / d.den, acc := (s % d.den).toNat }

/-- A maintenance write of a Corbel word (R237, R288, R290). -/
def cbWrite (x : Cx) (off m : Nat) (dly : Option (Nat × Nat)) (v : Word) (be : Nat) : Cx :=
  let old := cbWord x off
  let bm := (List.range 4).foldl (fun a i => if be.testBit i then a + 0xFF * 256 ^ i else a) 0
  let mask := BitVec.ofNat 32 (m &&& bm)
  let new := (old &&& ~~~mask) ||| (v &&& mask)
  let x1 := cbPut x off new
  match dly with
  | some (s, r) =>
      let s := toSub s
      if be = 0 then x
      else if x.c.cb.hold[s] = [] then x1.onB (fun b => { b with act := tblDel b.act off })
      else x1.onB (fun b => { b with
        act := if (tblFind b.act off).isSome then b.act else tblPut b.act off old
        pend := modV b.pend s (fun p => (p ||| 2 ^ r) &&& (255 ^^^ 2 ^ (r + 4))) })
  | none =>
      if off = 0x14 then
        let k := (bitsOf new 21 16 : Int) - bitsOf old 21 16
        x1.onB (fun b => { b with dck := (b.dck.at x.cyc).move k })
      else if off = 0x10 ∧ bitsOf new 2 0 ≠ 0 then x1.onB (fun b => { b with rstn := true })
      else if off = 0x280 ∧ bitsOf old 0 0 = 0 then x1.onB (fun b => { b with dwell := 0 })
      else x1

/-- A record of LCK cycle `at_` joins the queue: it may leave from the next cycle on (Tables 11-4, 11-5). -/
def cbRecAt (x : Cx) (at_ ty body : Nat) : Cx := x.onB (fun b => { b with recs := b.recs ++ [⟨BitVec.ofNat 80 (ty * 2 ^ 72 + body), at_⟩] })

/-- A record of this cycle joins the queue. -/
def cbRec (x : Cx) (ty body : Nat) : Cx := cbRecAt x x.cyc ty body

/-- CORBEL_MAINT_REQUEST: the oldest accepted request is executed and answered (R237). -/
def cbMaint (x : Cx) : Cx :=
  match x.c.cb.maint with
  | [] => x
  | m :: l =>
      let x := x.onB (fun b => { b with maint := l })
      let ans (x : Cx) (res : Nat) (d : Word) : Cx := cbRec x 5 (m.tag * 2 ^ 64 + res * 2 ^ 62 + d.toNat)
      if m.mop ≠ 1 ∧ m.mop ≠ 2 then ans x 2 0
      else
        match cbReg m.addr with
        | none => ans x 1 0
        | some (mask, dly) => if m.mop = 1 then ans x 0 (cbRead x m.addr) else ans (cbWrite x m.addr mask dly m.data m.be) 0 0

/-- CORBEL_STAGED_APPLY: a REFab of the rank has been reached since the write, and no command or burst of the rank is near (R290). -/
def cbStagedApply (x : Cx) (s : Fin 2) (r : Nat) : Cx :=
  let b := x.c.cb
  let d := cbDck x x.cyc
  let tcl := x.cf 0x14 7 0
  let tcwl := x.cf 0x14 15 8
  let mine (k : Cmd) : Bool := cbPrank x k.lr == r
  let busy (k : Cmd) : Bool :=
    mine k && (overlaps k.stamp (caLen k.op) d 16 || ((isRd k.op || k.op == 12) && overlaps (k.stamp + tcl) 8 d 16) || (isWrOp k.op && overlaps (k.stamp + tcwl) 8 d 16))
  if b.pend[s].testBit r ∧ b.pend[s].testBit (r + 4) ∧ !((b.hold[s]).any busy || (b.iss[s]).any busy) then
    let inRank (p : Nat × Word) : Bool := match cbReg p.1 with | some (_, some (s2, r2)) => s2 == s.val && r2 == r | _ => false
    x.onB (fun b => { b with
      act := b.act.filter (fun p => !inRank p)
      pend := modV b.pend s (fun p => p &&& (255 ^^^ (2 ^ r + 2 ^ (r + 4)))) })
  else x

/-! ### Alerts -/

/-- Commands the Corbel placed itself. -/
def cbOwn (b : Cmd) : Bool := b.ord == 1

/-- The first DCK at or after `v`, among `n`, whose CA cycle no command of the list uses. -/
def cbFree (l : List Cmd) : Nat → Nat → Nat
  | 0, v => v
  | n + 1, v => if l.any (fun b => overlaps b.stamp (caLen b.op) v 1) then cbFree l n (v + 1) else v

/-- Earliest PREab of a logical rank by its spacings (R227). -/
def preAfter (x : Cx) (l : List Cmd) (lr : Nat) : Nat :=
  l.foldl (fun m b =>
    if b.lr ≠ lr then m
    else
      let gap :=
        if b.op = 1 then x.cf 0x20 16 9 else if isRd b.op then x.cf 0x20 24 17 else if isWrOp b.op then x.cf 0x20 8 0
        else if b.op = 9 then x.cf 0x24 11 0 else if b.op = 10 then x.cf 0x24 23 12 else if b.op = 11 then x.cf 0x24 31 24 else 0
      max m (b.stamp + gap)) 0

/-- Place a PREab for each of some logical ranks, from DCK `from_` (R227). Answers the last stamp. -/
def placePre (x : Cx) (s : Fin 2) (from_ : Nat) (lrs : List Nat) : Cx × Nat :=
  lrs.foldl (fun p lr =>
    let (x, prev) := p
    let l := x.c.cb.hold[s] ++ x.c.cb.iss[s]
    let v := cbFree l (2 * l.length + 1) (max (prev + 1) (preAfter x l lr))
    (x.onB (fun b => { b with hold := modV b.hold s (fun h => h ++ [{ op := 8, sub := s.val, lr := lr, stamp := v, ord := 1 }]) }), v)) (x, from_ - 1)

/-- The Corbel's epoch advances (R223); what it keeps of the new epoch starts anew. -/
def cbEpochUp (x : Cx) (s : Fin 2) : Cx :=
  x.onB (fun b =>
    let e := (b.epoch[s] + 1) % 4
    let k := s.val * 4 + e
    { b with
      epoch := modV b.epoch s (fun _ => e)
      conf := tblDel b.conf k
      acked := tblDel b.acked k
      advAt := tblDel b.advAt k })

/-- A late command (R226). -/
def cbLate (x : Cx) (s : Fin 2) (y : Cmd) (d : Nat) : Cx :=
  let gone (b : Cmd) : Bool := !cbOwn b && decide (y.stamp ≤ b.stamp)
  let n := ((x.c.cb.hold[s]).filter gone).length
  let x := x.onB (fun b => { b with hold := modV b.hold s (fun h => h.filter (fun b => !gone b)) })
  let x := cbCnt (cbCnt x 0x48 (n + 1)) 0x40 1
  let (x, pa) := placePre x s (d + 4) (List.range (cbLranks x))
  let x := cbEpochUp x s
  cbRecAt x (x.cyc + 1) 1 (s.val * 2 ^ 71 + x.c.cb.epoch[s] * 2 ^ 69 + y.stamp % 2 ^ 24 * 2 ^ 45 + pa % 2 ^ 24 * 2 ^ 21 + min n 255 * 2 ^ 13)

/-- Count a protocol error at the Corbel (R197, R205, R217, R218). -/
def cbProto (x : Cx) : Cx := x.onB (fun b => { b with proto := min 255 (b.proto + 1) })

/-- One accepted slot enters the hold queue one LCK later, or is ignored, discarded or late (R217, R218, R220, R223). -/
def cbSlot (x : Cx) (v : Slot) : Cx :=
  let d := cbDck x (x.cyc + 1)
  let b := slotCmd v d
  if v = 0 then x
  else if b.op = 0 ∨ b.op = 15 ∨ cbLranks x ≤ b.lr then cbProto x
  else
    let s := toSub b.sub
    if b.epoch ≠ x.c.cb.epoch[s] then cbCnt x 0x48 1
    else if b.stamp < d + 4 ∨ (x.c.cb.hold[s]).any (fun h => overlaps h.stamp (caLen h.op) b.stamp (caLen b.op)) then cbLate x s b d
    else x.onB (fun c => { c with hold := modV c.hold s (fun h => h ++ [b]) })

/-! ### DRAM -/

/-- Key of a bank. -/
def cbBank (b : Cmd) : Nat := bankKey b.sub b.lr b.bg b.bk
/-- Key of a line of DRAM by its coordinates. -/
def dramKey (bank row col : Nat) : Nat := (bank * 2 ^ 18 + row) * 128 + col
/-- A line of DRAM. -/
def dramAt (x : Cx) (k : Nat) : Code :=
  match tblFind x.c.cb.dram k with
  | some v => v
  | none => if x.c.cb.zeroRow ≤ k / 128 % 2 ^ 18 then 0 else Config.dramPowerUp x.n.val k
/-- The key a column command addresses; with no open row, one outside the array. -/
def dramCol (x : Cx) (b : Cmd) : Nat := dramKey (cbBank b) ((tblFind x.c.cb.rows (cbBank b)).getD (2 ^ 17)) (b.arg / 1024)

/-- The burst of an MRR: each device's byte on its symbols. -/
def mrrCode (x : Cx) (b : Cmd) : Code :=
  let a := b.arg / 512
  let k := b.sub * 8 + b.lr
  codeOf ((List.range 80).map (fun j =>
    match tblFind x.c.cb.mr (k * 256 + a) with
    | some v => v.toNat
    | none => (Config.mrByte x.n.val k a (j / 8)).toNat))

/-- What a command does in the DRAM. -/
def dramExec (x : Cx) (b : Cmd) : Cx :=
  if b.op = 1 then x.onB (fun c => { c with rows := tblPut c.rows (cbBank b) (b.arg % 2 ^ 17) })
  else if isRd b.op ∨ b.op = 12 then
    let code := if b.op = 12 then mrrCode x b else dramAt x (dramCol x b)
    let x := if x.cf 0x14 7 0 = 0 then x else x.onB (fun c => { c with reads := c.reads ++ [{ sub := b.sub, lr := b.lr, stamp := b.stamp, code := code }] })
    if b.op = 3 then x.onB (fun c => { c with rows := tblDel c.rows (cbBank b) }) else x
  else if isWrOp b.op then
    let tag := b.arg / 8 % 128
    let k := dramCol x b
    let x := match tblFind x.c.cb.wbuf tag with
      | some d => if x.cf 0x14 15 8 = 0 then x else x.onB (fun c => { c with dram := tblPut c.dram k d, wbuf := tblDel c.wbuf tag })
      | none => x
    if b.op = 5 then x.onB (fun c => { c with rows := tblDel c.rows (cbBank b) }) else x
  else if isPre b.op then (preKeys b).foldl (fun x k => x.onB (fun c => { c with rows := tblDel c.rows k })) x
  else if b.op = 11 then x.onB (fun c => { c with mr := tblPut c.mr ((b.sub * 8 + b.lr) * 256 + b.arg / 512) (BitVec.ofNat 8 (b.arg / 2)) })
  else if isPwr b 2 then x.onB (fun c => { c with inSr := (b.sub, cbPrank x b.lr) :: c.inSr.filter (fun p => p != (b.sub, cbPrank x b.lr)) })
  else if isPwr b 3 then
    x.onB (fun c => { c with inSr := c.inSr.filter (fun p => p != (b.sub, cbPrank x b.lr)), safe := false })
  else x

/-! ### Confirmation -/

/-- One command is confirmed (R224). -/
def cbConfirm (x : Cx) (b : Cmd) : Cx :=
  let k := b.sub * 4 + b.epoch
  x.onB (fun c => { c with
    conf := tblPut c.conf k (max b.stamp ((tblFind c.conf k).getD 0))
    advAt := if (tblFind c.advAt k).isSome then c.advAt else tblPut c.advAt k x.cyc })

/-- Commands whose parity window has ended by DCK `d` are confirmed (R224). -/
def cbConfirmTo (x : Cx) (s : Fin 2) (d : Nat) : Cx :=
  let win := x.cf 0x18 6 0
  let done (b : Cmd) : Bool := decide (b.stamp + win ≤ d)
  let l := (x.c.cb.unconf[s]).filter done
  l.foldl cbConfirm (x.onB (fun c => { c with unconf := modV c.unconf s (fun u => u.filter (fun b => !done b)) }))

/-- Both subchannels, up to the present DCK. -/
def cbConfirmNow (x : Cx) : Cx := (List.finRange 2).foldl (fun x s => cbConfirmTo x s (cbDck x x.cyc)) x

/-- Drive one held command on the CA bus (R219, R221). Feedback that the DRAM drives on DQ is sampled at the stamp + tfb_dck (R291). -/
def cbIssueCmd (x : Cx) (s : Fin 2) (b : Cmd) (fb : Option (BitVec 40)) : Cx :=
  let d := cbDck x (x.cyc + 1)
  let x := x.onB (fun c => { c with
    hold := modV c.hold s (fun h => removeFirst (fun k => k == b) h)
    iss := modV c.iss s (fun l => b :: l.filter (fun k => decide (d ≤ k.stamp + 8192)))
    pend := if b.op = 9 then modV c.pend s (fun p => if p.testBit (cbPrank x b.lr) then p ||| 2 ^ (cbPrank x b.lr + 4) else p) else c.pend })
  let x := dramExec x b
  let at_ := b.stamp + x.cf (0x12110 + 0x8000 * s.val) 7 0
  let x := match fb with | some v => (cbSample x).onB (fun c => { c with tfbq := c.tfbq ++ [(s.val, at_, v)] }) | none => x
  if cbOwn b then x
  else if x.cf 0x18 6 0 = 0 then cbConfirm x b
  else x.onB (fun c => { c with unconf := modV c.unconf s (fun l => l ++ [b]) })

/-- CORBEL_ISSUE: the held command whose stamp falls in this LCK cycle (R219), and the levels that the DRAM drives on DQ in answer, if any. -/
def cbIssue (x : Cx) (s : Fin 2) (fb : Option (BitVec 40)) : Cx :=
  let d := cbDck x (x.cyc + 1)
  match minBy (fun b => b.stamp) ((x.c.cb.hold[s]).filter (fun b => decide (b.stamp < d))) with
  | none => x
  | some b => cbIssueCmd x s b fb

/-- ISSUE_ACK_SEND (R224). -/
def issueAckSend (x : Cx) (s : Fin 2) : Cx :=
  let x := cbConfirmNow x
  let step := x.cf 0x18 14 7
  (List.range 4).foldl (fun x e =>
    let k := s.val * 4 + e
    match tblFind x.c.cb.conf k with
    | none => x
    | some v =>
        let due : Bool := match tblFind x.c.cb.acked k with
          | none => true
          | some a => decide (a < v ∧ (a + step ≤ v ∨ (match tblFind x.c.cb.advAt k with | some t => decide (t + 64 ≤ x.cyc) | none => false) = true))
        if due then
          (cbRec x 4 (s.val * 2 ^ 71 + e * 2 ^ 69 + v % 2 ^ 24 * 2 ^ 45)).onB (fun c => { c with acked := tblPut c.acked k v, advAt := tblDel c.advAt k })
        else x) x

/-- READ_BURST_CAPTURE: the oldest read of the subchannel whose burst has ended (R208, R221). -/
def burstCapture (x : Cx) (s : Fin 2) (errs : Code) : Cx :=
  let d := cbDck x x.cyc
  let tcl := x.cf 0x14 7 0
  match x.c.cb.reads.find? (fun r => r.sub == s.val) with
  | none => x
  | some r =>
      if d < r.stamp + tcl + 8 then x
      else
        let x := x.onB (fun c => { c with reads := removeFirst (fun q => q == r) c.reads })
        if rtnDepth x.n.val ≤ x.c.cb.retq.length then cbRec x 6 (s.val * 2 ^ 71 + r.stamp % 2 ^ 24 * 2 ^ 47)
        else
          let (tx, _, dat) := budget x.info.mode
          x.onB (fun c => { c with retq := c.retq ++ [{ r with code := r.code ^^^ errs, due := x.cyc + dat - tx }] })

/-- ALERT_N_SAMPLED at the present DCK (R231). -/
def alertSampled (x : Cx) (s : Fin 2) : Cx :=
  let a := cbDck x x.cyc
  if x.cf 0x18 6 0 = 0 ∨ x.c.cb.down then x
  else
    let x := cbConfirmTo x s (a - 1)
    let n := ((x.c.cb.hold[s]).filter (fun b => !cbOwn b)).length
    let un (st : Nat) : Bool := (x.c.cb.unconf[s]).any (fun b => b.stamp == st)
    let x := x.onB (fun c => { c with
      hold := modV c.hold s (fun _ => [])
      reads := c.reads.filter (fun r => !(r.sub == s.val && un r.stamp))
      retq := c.retq.filter (fun r => !(r.sub == s.val && un r.stamp)) })
    let (x, pa) := placePre x s (a + 4) (List.range (cbLranks x))
    let x := cbEpochUp (x.onB (fun c => { c with unconf := modV c.unconf s (fun _ => []) })) s
    let x := cbCnt (cbCnt x 0x48 n) 0x44 1
    cbRec x 2 (s.val * 2 ^ 71 + x.c.cb.epoch[s] * 2 ^ 69 + a % 2 ^ 24 * 2 ^ 45 + pa % 2 ^ 24 * 2 ^ 21)

/-! ### Temperature, status, safe actions -/

/-- CORBEL_TEMP_READ: a report each temp_per_ms, and at a change of 2 °C (R235). -/
def cbTempRead (x : Cx) (r : Fin 4) (temp : Option (BitVec 8)) : Cx :=
  let b := x.c.cb
  let v := temp.getD 0x7F
  let per := max 1 (x.cf 0x18 18 15)
  let last : Nat := b.tempAt[r]
  let moved : Bool := match b.temps[r] with | some o => decide (2 ≤ (v.toInt - o.toInt).natAbs) | none => true
  if b.down || b.asleep || decide (cbRanks x ≤ r.val) || (!moved && decide (x.now < last + per * tuPerMs)) then x
  else (cbRec x 3 (r.val * 2 ^ 70 + v.toNat * 2 ^ 62)).onB (fun b => { b with temps := modV b.temps r (fun _ => some v), tempAt := modV b.tempAt r (fun _ => x.now) })

/-- CORBEL_LINK_STATUS_SEND (R201). -/
def cbStatusSend (x : Cx) : Cx :=
  let b := x.c.cb
  if b.down = false ∧ b.asleep = false ∧ (b.statAt + 65536 ≤ x.cyc ∨ 32768 ≤ b.fec ∨ 32768 ≤ b.bad ∨ 128 ≤ b.naks ∨ 128 ≤ b.proto) then
    (cbRec x 7 (b.fec * 2 ^ 56 + b.bad * 2 ^ 40 + b.naks * 2 ^ 32 + b.proto * 2 ^ 24)).onB (fun b => { b with fec := 0, bad := 0, naks := 0, proto := 0, statAt := x.cyc })
  else x

/-- The safe actions on one subchannel (R212): PREab and SRE, after the held commands, for every rank not in self-refresh. -/
def safeSub (x : Cx) (s : Fin 2) : Cx :=
  let prs := (List.range (cbRanks x)).filter (fun r => !x.c.cb.inSr.contains (s.val, r))
  if prs = [] then x
  else
    let lrs := (List.range (cbLranks x)).filter (fun lr => prs.contains (cbPrank x lr))
    let last := (x.c.cb.hold[s]).foldl (fun m b => max m (b.stamp + 1)) 0
    let (x, pa) := placePre x s (max (cbDck x (x.cyc + 1) + 4) last) lrs
    let s0 := pa + max 1 (x.cf 0x20 31 25)
    let sre := (prs.zip (List.range 4)).map (fun p => ({ op := 14, sub := s.val, lr := p.1, arg := 2 * 2 ^ 15, stamp := s0 + p.2, ord := 1 } : Cmd))
    x.onB (fun b => { b with hold := modV b.hold s (fun h => h ++ sre) })

/-- The safe actions of R212. -/
def cbSafeAct (x : Cx) : Cx := ((List.finRange 2).foldl safeSub x).onB (fun b => { b with safe := true })

/-- CORBEL_SAFE_TIMEOUT: no good flit for 2 µs outside RATE, SLEEP_DRAIN and ASLEEP (R212). -/
def cbSafeTimeout (x : Cx) : Cx :=
  let b := x.c.cb
  if b.down ∨ b.asleep ∨ b.sleepRx ∨ b.safe ∨ x.c.lk.st = 4 ∨ x.now < b.goodAt + 2 * tuPerUs then x else cbSafeAct x

/-! ### Flits at the Corbel -/

/-- The Corbel's end of the link carries flits. -/
def cbLive (x : Cx) : Bool := !x.c.cb.down && (x.c.lk.st == 2 || x.c.lk.st == 5)

/-- Put a flit on the upstream lanes. -/
def sendUp (x : Cx) (seq : Nat) (b : Body) : Cx :=
  let e := x.c.cb.ends
  let u := b.ftype * 2 ^ 44 + seq * 2 ^ 36 + e.ack * 2 ^ 28 + (if e.nakDue then 2 ^ 27 else 0) + b.sc % 2 * 2 ^ 26 + b.rst % 2 ^ 24 * 2 ^ 2
  let f := upFlit (u * 2 ^ 640 + b.body.toNat)
  let (scr, v) := scramble 80 x.c.cb.scrTx f.toNat
  x.onC (fun c => { c with
    lk := { c.lk with up := c.lk.up ++ [pam (BitVec.ofNat 800 v)] }
    cb := { c.cb with
      scrTx := scr
      sentAt := some x.cyc
      naks := if e.nakDue then min 255 (c.cb.naks + 1) else c.cb.naks
      ends := e.sent x.cyc } })

/-- Send a new sequenced flit. -/
def sendNewUp (x : Cx) (b : Body) : Cx :=
  let (e, seq) := x.c.cb.ends.push b x.cyc
  sendUp (x.onB (fun k => { k with ends := e })) seq b

/-- The records that may leave now. -/
def recsNow (x : Cx) : List RecQ := x.c.cb.recs.takeWhile (fun r => decide (r.at_ < x.cyc))

/-- A REC flit of the eight oldest records (R201). -/
def sendRec (x : Cx) : Cx :=
  let l := (recsNow x).take 8
  let p := (l.zip (List.range 8)).foldl (fun a q => a + q.1.bits.toNat * 2 ^ (560 - 80 * q.2)) 0
  sendNewUp (x.onB (fun b => { b with recs := b.recs.drop l.length })) ⟨2, BitVec.ofNat 640 p, 0, 0⟩

/-- The burst that may be sent with the oldest stamp (R202). -/
def burstReady (x : Cx) : Option Burst :=
  minBy (fun r => r.stamp) (x.c.cb.retq.filter (fun r => decide (r.due ≤ x.cyc) && !(x.c.cb.unconf[toSub r.sub]).any (fun b => b.stamp == r.stamp)))

/-- The Corbel may answer SLEEP (R210). -/
def sleepReady (x : Cx) : Bool :=
  let b := x.c.cb
  b.sleepRx && b.retq.isEmpty && b.reads.isEmpty && b.recs.isEmpty && b.ends.buf.isEmpty

/-- SLEEP_ACK leaves. -/
def sendSleepAck (x : Cx) : Cx := sendNewUp (x.onB (fun b => { b with sleepRx := false, asleep := true })) ⟨3, 0, 0, 0⟩

/-- A record that goes before read data (R202). -/
def recUrgent (x : Cx) : Bool := (recsNow x).any (fun r => [1, 2, 6].contains (recTy r.bits) || decide (r.at_ + 256 ≤ x.cyc))

/-- In an exchange the Corbel answers the course's ALIGN flits with its own (R209, R210). -/
def cbAlignFlit (x : Cx) : Cx :=
  if (x.c.lk.st == 1 || x.c.lk.st == 3 || x.c.lk.st == 4) && x.c.cb.alGood != 0 then
    let f := alignUp x (x.c.lk.st == 1) 3 (decide (16 ≤ x.c.cb.alGood))
    x.onC (fun c => { c with cb := { c.cb with sentAt := some x.cyc }, lk := { c.lk with up := c.lk.up ++ [pam f] } })
  else x

/-- CORBEL_UPSTREAM_FLIT: one flit in an LCK cycle, by the first rule of R202 that applies. -/
def cbUpstream (x : Cx) : Cx :=
  let ready : Bool := match x.c.cb.sentAt with | some n => decide (n < x.cyc) | none => true
  if !ready then x
  else if !cbLive x then cbAlignFlit x
  else
    let x := cbConfirmNow x
    match x.c.cb.ends.replay x.cyc with
    | some (e, f) => sendUp (x.onB (fun b => { b with ends := e })) f.seq f.body
    | none =>
        let idle (x : Cx) : Cx := sendUp x x.c.cb.ends.next ⟨0, 0, 0, 0⟩
        if 128 ≤ x.c.cb.ends.buf.length then idle x
        else if recUrgent x then sendRec x
        else
          match burstReady x with
          | some r => sendNewUp (x.onB (fun b => { b with retq := removeFirst (fun q => q == r) b.retq })) ⟨1, BitVec.ofNat 640 (symVal (symsOf r.code)), r.sub, r.stamp⟩
          | none => if recsNow x ≠ [] then sendRec x else if sleepReady x then sendSleepAck x else idle x

/-- CORBEL_SLEEP_ACK_SEND (R210): in a cycle whose flit has not left. -/
def cbSleepAckSend (x : Cx) : Cx :=
  let ready : Bool := match x.c.cb.sentAt with | some n => decide (n < x.cyc) | none => true
  if cbLive x = true ∧ ready = true ∧ sleepReady x = true ∧ x.c.cb.ends.rep = 0 then sendSleepAck x else x

/-- The Corbel's checker sees a flit while a dwell runs (R287). -/
def cbCheck (x : Cx) (raw : Nat) (r : Rx) : Cx :=
  let len := x.cf 0x280 9 1 * 4096
  if x.cf 0x280 0 0 = 0 ∨ (len ≠ 0 ∧ len ≤ x.c.cb.dwell) then x
  else
    let x := x.onB (fun b => { b with dwell := b.dwell + 1 })
    match r with
    | .good _ _ b => (laneDiffs 60 x.dns raw b).foldl (fun x p => cbSat x (0x290 + 4 * p.1) p.2) x
    | _ => cbSat x 0x2B0 1

/-- Slots of an accepted body. -/
def cbSlots (x : Cx) (body n : Nat) : Cx := (List.range n).foldl (fun x i => cbSlot x (BitVec.ofNat 80 (body >>> (412 - 80 * i)))) x

/-- A sequenced downstream flit is accepted (Table 10-5, R197). -/
def acceptDn (x : Cx) (ftype body : Nat) : Cx :=
  let half := x.c.cb.half
  let x := x.onB (fun b => { b with half := none })
  let syms := valSyms 40 (slice body 331 12)
  let tag := slice body 11 5
  match ftype with
  | 1 => cbSlots x body 6
  | 2 => cbSlots (x.onB (fun b => { b with half := some (tag, codeOf syms) })) body 2
  | 3 =>
      let x := match half with
        | some (t, lo) => if t = tag then x.onB (fun b => { b with wbuf := tblPut b.wbuf tag (lo ||| (codeOf syms <<< 320)) }) else cbProto x
        | none => cbProto x
      cbSlots x body 2
  | 4 =>
      let m : MntReq := ⟨slice body 171 168, slice body 167 160, slice body 159 140, BitVec.ofNat 32 (slice body 139 108), slice body 107 104⟩
      cbSlots (x.onB (fun b => { b with maint := b.maint ++ [m] })) body 4
  | _ => x.onB (fun b => { b with sleepRx := true })

/-- A bad flit at the Corbel. -/
def cbBad (x : Cx) : Cx :=
  let g := x.cf 0x14 28 22
  x.onB (fun b => { b with ends := b.ends.bad x.cyc g })

/-- A good flit at the Corbel: header and body of 516 bits. -/
def cbGood (x : Cx) (h n : Nat) : Cx :=
  let hd := h >>> 492
  let ftype := slice hd 23 21
  if ftype = 7 then cbBad (cbProto x)
  else
    let x := x.onB (fun b => { b with fec := min 65535 (b.fec + n), goodAt := x.now })
    let (e, ok) := x.c.cb.ends.good (1 ≤ ftype && ftype ≤ 5) (slice hd 20 13)
    let x := x.onB (fun b => { b with ends := e })
    let x := if ok then acceptDn x ftype (h % 2 ^ 492) else x
    let (e, r) := x.c.cb.ends.apply (slice hd 12 5) (slice hd 4 4 == 1)
    let x := x.onB (fun b => { b with ends := e })
    if r = .stale then cbProto x else x

/-- In an ALIGN exchange an unscrambled good ALIGN flit counts towards the 16 in a row, and its ack and nak are applied (R204, R209). -/
def cbAlign (x : Cx) (f : DnBits) : Option Cx :=
  if !(x.c.lk.st == 1 || x.c.lk.st == 3 || x.c.lk.st == 4) then none
  else
    match rxDn f with
    | .good h n _ =>
        let hd := h >>> 492
        if slice hd 23 21 ≠ 6 then none
        else
          some (x.onB (fun b => { b with
            fec := min 65535 (b.fec + n)
            goodAt := x.now
            alGood := b.alGood + 1
            ends := (b.ends.apply (slice hd 12 5) (slice hd 4 4 == 1)).1 }))
    | _ => none

/-- CORBEL_FLIT_RECEIVE: the oldest flit of the downstream lanes arrives (R204). -/
def cbReceive (x : Cx) (errs : DnBits) : Cx :=
  match x.c.lk.dn with
  | [] => x
  | f :: l =>
    match cbAlign (x.onL (fun k => { k with dn := l })) (pam f ^^^ errs) with
    | some y => y
    | none =>
      let (scr, v) := scramble 60 x.c.cb.scrRx (pam f ^^^ errs).toNat
      let x := (x.onL (fun k => { k with dn := l })).onB (fun b => { b with scrRx := scr, alGood := 0 })
      let r := rxDn (BitVec.ofNat 600 v)
      let x := cbCheck x v r
      match r with
      | .good h n _ => cbGood x h n
      | _ => cbBad (x.onB (fun b => { b with bad := min 65535 (b.bad + 1) }))

/-- NAK_TIMER_EXPIRY at the Corbel: a fixed 64 LCK (R204). -/
def cbNakExpiry (x : Cx) : Cx :=
  if cbLive x = true ∧ x.c.cb.ends.nakExpired x.cyc 64 = true then x.onB (fun b => { b with ends := { b.ends with nakDue := true } }) else x

/-- ACK_TIMEOUT at the Corbel: a fixed 256 LCK (R204). -/
def cbAckTimeout (x : Cx) : Cx :=
  if cbLive x = true ∧ x.c.cb.ends.ackExpired x.cyc 256 = true then x.onB (fun b => { b with ends := { b.ends with rep := b.ends.buf.length } }) else x

/-- LCHK_DWELL_END at the Corbel (R287). -/
def cbDwellEnd (x : Cx) : Cx :=
  let len := x.cf 0x280 9 1 * 4096
  if x.cf 0x280 0 0 = 1 ∧ len ≠ 0 ∧ len ≤ x.c.cb.dwell then cbPut x 0x280 (setBits (cbWord x 0x280) 0 0 0) else x

/-! ### ALIGN exchanges (R209, R214, R222) -/

/-- Held commands reach the DRAM before the Corbel starts anew. -/
def cbFlush (x : Cx) : Cx := (List.finRange 2).foldl (fun x s => (byStamp x.c.cb.hold[s]).foldl (fun x b => cbIssueCmd x s b none) x) x

/-- The Corbel starts as from DOWN (R211): counts, buffers, epochs and registers reset, and Potrie restores the registers it keeps for the
restart (R286); the DRAM and its readings stay. -/
def cbFromDown (x : Cx) : Cx :=
  (cbFlush x).onB (fun b => { reg := x.c.tr.saved, dck := b.dck, safe := b.safe, rstn := b.rstn, rows := b.rows, inSr := b.inSr, mr := b.mr, dram := b.dram, zeroRow := b.zeroRow, goodAt := b.goodAt, statAt := x.cyc })

/-- Stamp of the last command of a subchannel that the Corbel has executed. -/
def lastIssued (x : Cx) (s : Fin 2) : Nat := ((x.c.cb.iss[s]).filter (fun b => !cbOwn b)).foldl (fun m b => max m b.stamp) (cbDck x x.cyc - 8448)

/-- Records of a REC payload. -/
def recsOf (p : Nat) : List (BitVec 80) := (List.range 8).map (fun i => BitVec.ofNat 80 ((p >>> (560 - 80 * i)) % 2 ^ 80))

/-- Issue acknowledgements of a subchannel that the course will see before a new one: accepted and not yet handled, or in flits that the
Corbel replays first. -/
def acksAhead (x : Cx) (s : Fin 2) : Nat :=
  let sent := (x.c.cb.ends.buf.filter (fun f => f.body.ftype == 2)).flatMap (fun f => recsOf f.body.body.toNat)
  ((x.c.lk.recs ++ sent).filter (fun r => recTy r == 4 && slice r.toNat 71 71 == s.val)).length

/-- After a safe return the Corbel first acknowledges what it executed, its epochs advance, and the course waits (R234). -/
def safeReturn (x : Cx) (confs : List Nat) : Cx :=
  let ack (s : Fin 2) : RecQ := ⟨BitVec.ofNat 80 (4 * 2 ^ 72 + s.val * 2 ^ 71 + x.c.cb.epoch[s] * 2 ^ 69 + confs.getD s.val 0 % 2 ^ 24 * 2 ^ 45), x.cyc⟩
  let x := x.onB (fun b => { b with recs := [ack 0, ack 1] ++ b.recs })
  (List.finRange 2).foldl (fun x s =>
    let n := acksAhead x s
    (cbEpochUp x s).onC (fun c => { c with rb := modV c.rb s (fun r => { r with on := true, wait := 1, skip := n }) })) x

/-- Both directions carry scrambled flits again from the first flit after the exchange (R192). -/
def linkSync (x : Cx) : Cx :=
  let dn := scrSeeds (x.dns.map (· + 16))
  let up := scrSeeds x.ups
  x.onC (fun c => { c with
    lk := { c.lk with
      st := 2
      scrTx := dn
      scrRx := up
      dn := []
      up := []
      lock := x.ups.foldl (fun a l => a + 2 ^ l) 0 }
    cb := { c.cb with
      scrTx := up
      scrRx := dn
      down := false
      asleep := false
      sleepRx := false
      lost := 0
      goodAt := x.now } })

/-- The exchange of a wake (R209, R211, R222, R288). From DOWN the DRAM is in self-refresh once RESET_n has been released (R333). -/
def alignWake (x : Cx) (oneWay : Nat) : Cx :=
  let fd := x.c.lk.fromDown
  let x := if fd = true ∧ x.c.cb.rstn = true ∧ x.c.cb.safe = false then cbSafeAct x else x
  let confs := (List.finRange 2).map (lastIssued x)
  let x := applyRatio x x.cyc
  let safe := x.c.cb.safe
  let x := if fd then (cbFromDown x).onC (fun c => { c with epoch := Vector.replicate 2 0 }) else x
  let ofs : Int := x.cf 0x14 21 16
  let x := x.onB (fun b => { b with dck := x.c.dck.move (ofs - oneWay) })
  let x := x.onL (fun l => { l with safe := safe, alDn := alignDn x fd 0 true, alUp := alignUp x true 0 true, tries := 0, rtt := 2 * oneWay + 1, rttMode := x.info.mode })
  let x := linkSync (x.onZ (fun z => putWord z (x.off 0x05C0) (BitVec.ofNat 32 ((2 * oneWay + 1) % 256))))
  let held := (List.finRange 2).any (fun s => x.c.retry[s] != [] || x.c.rb[s].on)
  if (safe || (fd && held)) && !(decide (3 ≤ x.c.sr.st) && !held) then safeReturn x confs else x

/-- The end of an exchange without a wake: the Corbel's holdover is compared (R214, R222), the acks of the last ALIGN flits are applied
(R204), and each end rewinds to its oldest unacknowledged flit (Table 10-11). -/
def alignKeep (x : Cx) (bit : Nat) : Cx :=
  let ok : Bool := x.c.cb.dck.at x.cyc == x.c.dck.at x.cyc
  let x := x.onL (fun l => { l with safe := x.c.cb.safe, alDn := alignDn x false 0 true, alUp := alignUp x ok 0 true })
  if !ok then
    let y := x.sts 0x0808 4
    if y.c.lk.st = 3 then recoverMiss y else recoverMiss ((y.onL (fun l => { l with st := 3, tries := 0 })).cnt 0x08B8)
  else
    let up := x.c.cb.ends.ack
    let dn := x.c.lk.ends.ack
    let x := (x.onL (fun l => { l with newAt := none, ends := l.ends.free up })).onB (fun b => { b with ends := b.ends.free dn })
    let n := x.c.lk.ends.buf.length
    let x := if n = 0 then x else x.cnt 0x08A0
    let x := x.onC (fun c => { c with
      lk := { c.lk with
        tries := 0
        ends := { c.lk.ends with rep := c.lk.ends.buf.length } }
      cb := { c.cb with ends := { c.cb.ends with rep := c.cb.ends.buf.length } } })
    let safe := x.c.cb.safe
    let x := (linkSync x).sts 0x0808 bit
    let held := (List.finRange 2).any (fun s => x.c.retry[s] != [] || x.c.rb[s].on)
    if safe && !(decide (3 ≤ x.c.sr.st) && !held) then safeReturn x ((List.finRange 2).map (lastIssued x)) else x

/-- ALIGN_COMPLETE: the exchange of a WAKE or RECOVER completes in time (R209). -/
def alignComplete (x : Cx) (oneWay : Nat) : Cx :=
  let l := x.c.lk
  if !powered x.z x.n then x
  else if l.st = 1 ∧ x.now ≤ l.since + (if l.fromDown then 100 * tuPerUs else 126000) then alignWake x oneWay
  else if l.st = 3 ∧ x.now ≤ l.since + 2 * tuPerUs then alignKeep x 0
  else x

/-- RATE_COMPLETE: the new mode's exchange completes within 2 µs; the mode came into force after 64 idle LCK (R151, R209). -/
def rateComplete (x : Cx) : Cx :=
  let y := rateEnter x
  if y.c.lk.st = 4 ∧ y.c.lk.newAt ≠ none ∧ y.now ≤ y.c.lk.since + 2 * tuPerUs then alignKeep y 3 else x

end Sys2Proof.Machine
end

