-- ==== Sys2Proof/Machine/Ecc.lean ====
section
/-! DEFINITION. What becomes of read data at the course: the line decoder's outcomes (R243 to R250), the Pointing engine (R251 to R255), the
repeat tracker (R256 to R259), and the bursts of training commands and probes (R292, R293, R297). -/

namespace Sys2Proof.Machine

/-- The device mark of a physical rank and subchannel (R242). -/
def markOf (x : Cx) (prank sub : Nat) : Option Nat :=
  let b := ((getWide x.z (x.off 0x1808)).toNat >>> (8 * (2 * prank + sub))) % 256
  if b.testBit 7 then some (b % 16) else none

/-- What is reported of a decoded line: outcome of CRS[n]_ECC_LAST_UE, devices and symbols. -/
structure Found where
  outcome : Nat
  devs    : List Nat
  /-- symbols corrected, erasures included, and without them -/
  syms    : Nat
  plain   : Nat
  used    : Bool

/-- The report of changed positions under a mark (R244). -/
def foundOf (mark : Option Nat) (outcome : Nat) (ch : List Nat) : Found :=
  let plain := match mark with | some d => ch.filter (fun p => p / 8 != d) | none => ch
  let devs := (List.range 10).filter (fun d => plain.any (fun p => p / 8 == d))
  let oc := if outcome ≠ 0 then outcome else if mark.isSome then 3 else if devs.length = 1 then 2 else 1
  ⟨oc, devs, ch.length, plain.length, mark.isSome⟩

/-- devmask of a report. -/
def devMask (f : Found) : Nat := f.devs.foldl (fun a d => a + 2 ^ d) 0

/-- Format A detail of a line (Table 18-2). -/
def fmtA (x : Cx) (line outcome mask syms : Nat) (pt : Bool) : List Word :=
  let a := coordOf x line
  [ BitVec.ofNat 32 line
  , BitVec.ofNat 32 (line / 2 ^ 32 % 2 + outcome * 2 + mask * 2 ^ 4 + syms * 2 ^ 14 + (if pt then 2 ^ 21 else 0) + a.sub * 2 ^ 22 + a.lr * 2 ^ 23)
  , BitVec.ofNat 32 (a.row + a.bg * 2 ^ 17 + a.bk * 2 ^ 20 + a.col * 2 ^ 22) ]

/-- CRS[n]_ECC_LAST_CE or _LAST_UE. -/
def eccLast (x : Cx) (off line : Nat) (f : Found) (pt : Bool) : Cx :=
  let dev := if f.outcome = 2 then f.devs.headD 0 else 0
  let syms := if f.outcome = 4 then 0 else f.syms
  x.onZ (fun z => putWide z (x.off off) (BitVec.ofNat 64 (line % 2 ^ 33 + f.outcome * 2 ^ 33 + dev * 2 ^ 36 + syms * 2 ^ 40 + (if pt then 2 ^ 47 else 0))))

/-- Counters of a corrected line, of any source (R244). -/
def noteCe (x : Cx) (line : Nat) (f : Found) (pt : Bool) : Cx :=
  let x := (x.cnt 0x1840).cntN 0x1848 f.plain
  let x := if f.used then x.cnt 0x1850 else x
  let s := line % 2
  let x := f.devs.foldl (fun x d => x.onZ (fun z => bumpN z x.now (x.off (0x1880 + 0x14 * s + 4 * (d / 2))) (16 * (d % 2)) 1)) x
  (eccLast x 0x1820 line f pt).sts 0x1818 0

/-! ### Repeat tracker -/

/-- A line enters HARD (R257, R259). -/
def rptHard (x : Cx) (e : Fin 64) (line : Nat) (f : Found) (pt : Bool) : Cx :=
  let d := fmtA x line f.outcome (devMask f) f.syms pt
  let x := modRpt x e (fun r => { r with st := 4, since := x.now, corr := x.now, evt := some d })
  ((x.cnt 0x1A50).sts 0x1A08 1).ev 0x0022 d

/-- A correction of a line that touched an unmarked device reaches the tracker (R256, R257). `pt`: found by a Pointing read. While rt_en is 0
no entry changes (DEDUCED, log entry 102). -/
def rptCorrect (x : Cx) (line : Nat) (f : Found) (pt : Bool) : Cx :=
  if f.devs = [] ∨ rptOn x = false then x
  else
    let note (x : Cx) (e : Fin 64) : Cx := modRpt x e (fun r => { r with devs := devMask f, syms := f.syms, corr := x.now })
    match rptFind x line with
    | none =>
        if pt then x
        else
          let y := rptAlloc x line 1 1
          match rptFind y line with
          | some e => note y e
          | none => y
    | some e =>
        let x := note x e
        let r := x.c.rpt[e]
        match r.st with
        | 1 =>
            if x.f 0x1A00 4 1 ≤ r.count + 1 then
              let o := x.c.ord
              let x := modRpt x e (fun r => { r with st := 2, count := min 15 (r.count + 1), since := x.now, qord := o })
              (x.onC (fun c => { c with ord := c.ord + 1 })).sts 0x1A08 0
            else modRpt x e (fun r => { r with count := min 15 (r.count + 1) })
        | 3 => rptHard x e line f pt
        | 4 => modRpt x e (fun r => { r with count := min 15 (r.count + 1) })
        | _ => x

/-- A QUEUED entry's line has been read by the Pointing engine without a rewrite to come (Table 12-5). -/
def rptQueuedFree (x : Cx) (line : Nat) (count : Bool) : Cx :=
  match rptFind x line with
  | some e =>
      if rptOn x && x.c.rpt[e].st == 2 then
        let x := modRpt x e (fun r => { r with st := 0, since := x.now })
        if count then x.cnt 0x1A58 else x
      else x
  | none => x

/-- RT_WATCH_EXPIRY (R257). -/
def rtExpiry (x : Cx) (e : Fin 64) : Cx :=
  let h := x.f 0x1A00 12 5
  let r := x.c.rpt[e]
  if rptOn x = true ∧ (r.st = 1 ∨ r.st = 3) ∧ h ≠ 0 ∧ r.corr + h * 3600 * tuPerS ≤ x.now then
    (modRpt x e (fun r => { r with st := 0, since := x.now })).cnt 0x1A58
  else x

/-! ### Decoding -/

/-- Decode with the mode and mark in force (R243). -/
def decodeNow (x : Cx) (line : Nat) (code : Code) : Dec × Option Nat :=
  let a := coordOf x line
  let mark := markOf x (prankOf x a.lr) a.sub
  (decodeLine (x.f 0x1800 0 0 == 1) mark code, mark)

/-- A demand, footing or train read's line (R244, R249, R250). -/
def demandData (x : Cx) (r : REnt) (code : Code) : Cx :=
  let (d, mark) := decodeNow x r.line code
  let fin (x : Cx) (line : Line) (poison uncor : Bool) : Cx :=
    let x := sendData x ⟨r.id, r.line, line, poison, uncor, false⟩
    let x := if r.srv then x else sendStat x (.served r.id)
    x.onC (fun c => { c with rdq := replaceFirst (fun e => e.ord == r.ord) (fun e => { e with ph := .back, srv := true }) c.rdq })
  match d with
  | .clean v => fin x v false false
  | .fixed c ch =>
      let f := foundOf mark 0 ch
      fin (rptCorrect (noteCe x r.line f false) r.line f false) (lineData c) false false
  | .poison ch => fin ((eccLast (x.cnt 0x1860) 0x1828 r.line (foundOf mark 5 ch) false).sts 0x1818 2) 0 true false
  | .bad =>
      let x := (eccLast (x.cnt 0x1858) 0x1828 r.line (foundOf mark 4 []) false).sts 0x1818 1
      fin (x.ev 0x0020 (fmtA x r.line 4 0 0 false)) 0 true true

/-- A Pointing read that is uncorrectable or poison (R254). -/
def ptBad (x : Cx) (line : Nat) (f : Found) : Cx :=
  let x := eccLast (x.cnt 0x1958) 0x1828 line f true
  let x := rptQueuedFree x line false
  if x.c.pt.evts < x.f 0x1900 21 17 then
    ((x.onC (fun c => { c with pt := { c.pt with evts := c.pt.evts + 1 } })).sts 0x1910 2).ev 0x0021 (fmtA x line f.outcome (devMask f) (if f.outcome = 4 then 0 else f.syms) true)
  else x

/-- A Pointing read's line (R253, R254). -/
def pointData (x : Cx) (line : Nat) (e : Option Nat) (code : Code) : Cx :=
  match x.c.pt.out.find? (fun p => p.1 == line && p.2.1 == e) with
  | none => x
  | some (_, _, drop) =>
      let x := x.onC (fun c => { c with pt := { c.pt with out := removeFirst (fun p => p.1 == line && p.2.1 == e) c.pt.out } })
      let (d, mark) := decodeNow x line code
      match d with
      | .clean _ => rptQueuedFree x line true
      | .fixed c ch =>
          let f := foundOf mark 0 ch
          let x := rptCorrect (noteCe x line f true) line f true
          if f.devs = [] then rptQueuedFree x line true
          else x.onC (fun k => { k with pt := { k.pt with rw := k.pt.rw ++ [⟨line, c, e, drop, k.ord⟩] }, ord := k.ord + 1 })
      | .poison ch => ptBad ((x.cnt 0x1860).sts 0x1818 2) line (foundOf mark 5 ch)
      | .bad => ptBad (x.cnt 0x1858) line (foundOf mark 4 [])

/-! ### Training bursts -/

/-- The level of beat `b` on DQ `q` of a burst. -/
def burstBit (c : Code) (b q : Nat) : Bool := c.getLsbD (dqBit b q)

/-- The DRAM checker compares a burst (R293). -/
def dramCheck (x : Cx) (sub : Nat) (code : Code) : Cx :=
  let n := x.f 0x2400 12 5
  if x.f 0x2400 0 0 = 0 ∨ x.f 0x2400 1 1 ≠ sub ∨ (n ≠ 0 ∧ n ≤ x.c.tr.left) then x
  else
    let mode := x.f 0x2400 4 3
    let (lf, bits) := lfsrBits 640 x.c.tr.lfsr []
    let rtp := x.f 0x240C 15 0
    let want (b q : Nat) : Bool := if mode = 0 then bits.getD (40 * b + q) false else if mode = 1 then rtp.testBit b else mode == 3
    let x := (List.range 40).foldl (fun x q => x.cntN (0x2500 + 4 * q) ((List.range 16).filter (fun b => burstBit code b q != want b q)).length) x
    x.onC (fun c => { c with tr := { c.tr with left := c.tr.left + 1, lfsr := if mode = 0 then lf else c.tr.lfsr } })

/-- The 80-bit result of an MRR: byte `d` from device `d` (R292). -/
def mrrBytes (code : Code) : List Nat := (List.range 10).map (fun d => (symsOf code).getD (8 * d) 0)

/-- The data of a training MRR goes to CRS[n]_MRR_DATA0 to 2. -/
def putMrr (x : Cx) (code : Code) : Cx :=
  let v := (mrrBytes code).foldr (fun b a => a * 256 + b) 0
  (List.range 3).foldl (fun x k => x.onZ (fun z => putWord z (x.off (0x2420 + 4 * k)) (BitVec.ofNat 32 (v >>> (32 * k))))) x

/-- The oscillator count of a probe: MR47 × 256 + MR46 per device (R297). -/
def putOsc (x : Cx) (hi : Bool) (code : Code) : Cx :=
  ((mrrBytes code).zip (List.range 10)).foldl (fun x p =>
    let o := x.off (0x2460 + 4 * p.2)
    x.onZ (fun z => if hi then setF z o 15 8 p.1 else setF z o 7 0 p.1)) x

/-- RDATA: the oldest accepted burst is matched to its read and decoded, or discarded (R200). -/
def rdata (x : Cx) : Cx :=
  match x.c.lk.rdata with
  | [] => x
  | (sc, rst, code) :: l =>
      let x := x.onL (fun k => { k with rdata := l })
      match x.c.outRd.find? (fun b => b.sub == sc && b.stamp % 2 ^ 24 == rst) with
      | none => x.cnt 0x08E0
      | some b =>
          let x := x.onC (fun c => { c with outRd := removeFirst (fun k => k == b) c.outRd })
          match b.src with
          | .rd o =>
              match x.c.rdq.find? (fun r => r.ord == o) with
              | some r => if r.ph = .back then x else demandData x r code
              | none => x
          | .ptRd line e => pointData x line e code
          | .tcmd chk => if chk then dramCheck x sc code else if b.op = 12 then putMrr x code else x
          | .probe _ k => if k = 0 then putOsc x false code else if k = 1 then putOsc x true code else x
          | _ => x

/-! ### The Pointing engine -/

/-- Lines of the course. -/
def lineCount (x : Cx) : Nat := capBytes x.info / 64

/-- Lap age in units (R255). -/
def lapAge (x : Cx) : Nat := x.c.pt.ran + (match x.c.pt.from_ with | some t => x.now - t | none => 0)

/-- The next offset at or above `o` of a rendering region whose bit is set. -/
def nextSet (g : Render) (o : Nat) : Option Nat := if o < g.pos then some o else g.bits.find? (fun b => decide (o ≤ b))

/-- The next line from `p` that the lap does not skip (R251), `n` regions at most; a line of a CLAIMED region is not skipped. -/
def ptNext (x : Cx) : Nat → Nat → Nat
  | 0, p => p
  | n + 1, p =>
      let r := p >>> 16
      if lineCount x ≤ p ∨ freshOn x = false then p
      else
        match regionOf x r with
        | .written => p
        | .rendering =>
            match engineOf x r with
            | some e =>
                match x.c.eng[e] with
                | some g => match nextSet g (p % 65536) with | some o => r * 65536 + o | none => ptNext x n ((r + 1) * 65536)
                | none => p
            | none => p
        | .claimed => p
        | .fresh => ptNext x n ((r + 1) * 65536)

/-- The lap ends (R255). -/
def lapEnd (x : Cx) : Cx :=
  let s := lapAge x / tuPerS
  let x := x.onC (fun c => { c with pt := { c.pt with pos := 0, ran := 0, from_ := c.pt.from_.map (fun _ => x.now), evts := 0, ovr := false, last := s } })
  (x.cnt 0x1960).sts 0x1910 0

/-- A Pointing read of a line forms a zero line (R264): its region is FRESH, or rendering with its bit clear. -/
def ptZero (x : Cx) (line : Nat) : Bool :=
  freshOn x && (match regionOf x (line >>> 16) with
    | .fresh => true
    | .rendering =>
        (match engineOf x (line >>> 16) with
         | some e => (match x.c.eng[e] with | some g => !bitSet g (line % 65536) | none => false)
         | none => false)
    | _ => false)

/-- A Pointing read of a line waits: its region is CLAIMED (R264). It takes no queue entry, so claim_hold_cnt does not count it (DESIGN CHOICE, log
entry 103). -/
def ptHeld (x : Cx) (line : Nat) : Bool := freshOn x && regionOf x (line >>> 16) == .claimed

/-- Commit a Pointing read of a line (R252): nothing of tiers 1 to 6 is a candidate on its subchannel, and no write of the line waits. -/
def ptRead (x : Cx) (line : Nat) (e : Option Nat) : Option Cx :=
  let a := coordOf x line
  let s := toSub a.sub
  let waits := x.c.wrq.any (fun w => w.line == line && (match w.ph with | .committed _ => false | _ => true))
  if upperBusy x s ∨ blocked x s.val a.lr ∨ bankHeld x a.key ∨ waits ∨ x.c.othAt[s] = some x.cyc then none
  else
    let (ap, _) := autoPre x (reqsOf x.c) a x.c.ord
    match tryCmds x s (openRow x a ++ [colCmd a true ap 0 (.ptRd line e) none 24]) 0 (some (x.f 0x1010 9 0)) with
    | none => none
    | some l =>
        some ((commitAll x l false).onC (fun c => { c with
          othAt := modV c.othAt s (fun _ => some x.cyc)
          pt := { c.pt with out := c.pt.out ++ [(line, e, false)] } }) |>.cnt 0x1940)

/-- QUEUED entries that the Pointing engine may serve now (R258). -/
def ptQueued (x : Cx) : List (Fin 64) :=
  let busy (line : Nat) : Bool := ptHeld x line || x.c.pt.out.any (fun p => p.1 == line) || x.c.pt.rw.any (fun p => p.line == line)
  (List.finRange 64).filter (fun e => rptOn x && x.c.rpt[e].st == 2 && !busy x.c.rpt[e].line)

/-- An out-of-lap read of a QUEUED entry (R258); a zero line is clean, and frees the entry (Table 12-5). -/
def ptOol (x : Cx) (e : Fin 64) : Cx :=
  let line := x.c.rpt[e].line
  if ptZero x line then rptQueuedFree ((x.cnt 0x1940).cnt 0x2080) line true else (ptRead x line (some e.val)).getD x

/-- The next lap read, pt_pace after the last (R251, R252). -/
def ptLap (x : Cx) : Cx :=
  let pace := x.f 0x1900 16 1 * 16 * tuPerNs
  let early : Bool := match x.c.pt.lastAt with | some t => decide (x.now < t + pace) | none => false
  let p := ptNext x (regionCount x + 1) x.c.pt.pos
  if early then x
  else if lineCount x ≤ p then lapEnd x
  else if ptHeld x p then x
  else
    match ptRead x p none with
    | none => x
    | some y =>
        let y := y.onC (fun c => { c with pt := { c.pt with pos := p + 1, lastAt := some x.now } })
        if lineCount x ≤ p + 1 then lapEnd y else y

/-- POINTING_READ: the oldest QUEUED entry, else the next line of the lap (R251, R252, R258). -/
def pointingRead (x : Cx) : Cx :=
  if commitOk x = false ∨ bgRuns x = false ∨ 4 ≤ x.c.pt.out.length ∨ x.f 0x1900 0 0 = 0 then x
  else
    match minBy (fun e => x.c.rpt[e].qord) (ptQueued x) with
    | some e => ptOol x e
    | none => ptLap x

/-- LAP_OVERDUE (R255). -/
def lapOverdue (x : Cx) : Cx :=
  let age := lapAge x / tuPerS
  let tgt := x.f 0x1908 31 0
  if tgt ≠ 0 ∧ tgt < age ∧ x.c.pt.ovr = false ∧ crsUp x = true then
    ((x.onC (fun c => { c with pt := { c.pt with ovr := true } })).sts 0x1910 1).ev 0x0023 (fmtC x.n.val 0 age 0)
  else x

end Sys2Proof.Machine
end

