-- ==== Sys2Proof/Machine/Train.lean ====
section
/-! DEFINITION. Training at run time (14_interface_training.md): the TCMD FIFO (R292), the checkers' ends (R287, R293), re-centring (R297, R298),
the lane rule (R299), Potrie's changes of link mode (R190, R213), and FRESH_INIT (R339). -/

namespace Sys2Proof.Machine

/-- A write to CRS[n]_TCMD enqueues a command, or is dropped when the FIFO is full (R292). -/
def tcmdWrite (x : Cx) (v : Word) : Cx :=
  let f (hi lo : Nat) : Nat := bitsOf v hi lo
  if f 3 0 = 0 then x
  else if 16 ≤ x.c.tr.fifo.length then x.sts 0x2408 1
  else
    let k : Tcmd := ⟨f 3 0, f 4 4, f 7 5, f 10 8, f 12 11, f 29 13, v.getLsbD 30, x.c.ord⟩
    x.onC (fun c => { c with ord := c.ord + 1, tr := { c.tr with fifo := c.tr.fifo ++ [k] } })

/-- run is set in CRS[n]_DCHK_CTL: the generator is loaded (R293). -/
def dchkStart (x : Cx) : Cx :=
  let s := BitVec.ofNat 16 (x.f 0x2400 28 13)
  x.onC (fun c => { c with tr := { c.tr with lfsr := s, left := 0 } })

/-- DCHK_DONE (R293). -/
def dchkDone (x : Cx) : Cx :=
  let n := x.f 0x2400 12 5
  if x.f 0x2400 0 0 = 1 ∧ n ≠ 0 ∧ n ≤ x.c.tr.left then (x.setf 0x2400 0 0 0).sts 0x2408 0 else x

/-- run is set in CRS[n]_LCHK_CTL: a dwell starts (R287). -/
def lchkStart (x : Cx) : Cx := x.onC (fun c => { c with tr := { c.tr with dwell := 0 } })

/-- LCHK_DWELL_END at the course (R287). -/
def lchkDwellEnd (x : Cx) : Cx :=
  let len := x.f 0x0580 9 1 * 4096
  if x.f 0x0580 0 0 = 1 ∧ len ≠ 0 ∧ len ≤ x.c.tr.dwell then x.setf 0x0580 0 0 0 else x

/-! ### Potrie's own changes of BUF fields -/

/-- Potrie puts a value into force by a SET: the active field, and the pending one where it is listed. -/
def Cx.potSet (x : Cx) (o hi lo v : Nat) : Cx := x.onZ (fun z => potField z (x.off o) hi lo v)

/-- Potrie writes a Corbel word and keeps it for a restart (R286). -/
def potCb (x : Cx) (off : Nat) (v : Word) : Cx := (cbPut x off v).onC (fun c => { c with tr := { c.tr with saved := tblPut c.tr.saved off v } })

/-- Potrie writes the Corbel's copies of the topology and the timing parameters (Table 11-7). -/
def cbTimRegs (x : Cx) : Cx :=
  let t := timOf x
  let i := x.info
  let ref := if x.f 0x1400 1 0 = 1 ∨ x.f 0x1400 1 0 = 2 then t.trfc2 else t.trfc1
  let x := potCb x 0x10 (BitVec.ofNat 32 (i.ranks % 8 + i.dies % 4 * 2 ^ 3 + (i.density / 8 - 1) % 8 * 2 ^ 5))
  let x := potCb x 0x14 (setBits (setBits (cbWord x 0x14) 7 0 t.tcl) 15 8 t.tcwl)
  let x := potCb x 0x18 (setBits (cbWord x 0x18) 6 0 (Config.parWin x.n.val).toNat)
  let x := potCb x 0x20 (BitVec.ofNat 32 ((t.tcwl + 8 + t.twr) % 2 ^ 9 + t.tras % 2 ^ 8 * 2 ^ 9 + t.trtp % 2 ^ 8 * 2 ^ 17 + t.trp % 2 ^ 7 * 2 ^ 25))
  potCb x 0x24 (BitVec.ofNat 32 (ref % 2 ^ 12 + t.trfcsb % 2 ^ 12 * 2 ^ 12 + t.tmrd % 2 ^ 8 * 2 ^ 24))

/-- Potrie writes both nak_gap_lck values (R288). -/
def nakGaps (x : Cx) (v : Nat) : Cx :=
  let x := x.potSet 0x0800 30 25 (min v 63)
  potCb x 0x14 (setBits (cbWord x 0x14) 28 22 (min v 127))

/-- nak_gap_lck in the mode in force: 2 × (TX + RX + flight) + 1, the flight of the last exchange rounded up to whole LCK (R288). -/
def nakGapOf (x : Cx) : Nat :=
  let l := x.c.lk
  let (tx0, rx0, _) := budget l.rttMode
  let (tx, rx, _) := budget x.info.mode
  let flight := ((l.rtt - 1) / 2 - (tx0 + rx0)) * lckOf l.rttMode
  2 * (tx + rx + (flight + x.lck - 1) / x.lck) + 1

/-- Potrie applies a link mode, its ratio and the cure window in one SET (R190, Table 8-2); the link takes it in RATE (R209). -/
def potrieMode (x : Cx) (m sel : Nat) : Cx :=
  let k := if m = 0 then 1 else if m = 3 then 4 else 2
  let x := ((x.potSet 0x0800 1 0 m).potSet 0x0800 2 2 sel).potSet 0x1020 7 0 (x.info.rate / 160 * k)
  let x := x.potSet 0x1020 15 8 14
  let x := if m ≠ 0 ∧ x.f 0x1018 6 0 < cureMin m then x.potSet 0x1018 6 0 (cureMin m) else x
  (x.onL (fun l => { l with rate := true, armed := true })).onZ needBond

/-! ### Wakes from DOWN and FAILED (R286, R288) -/

/-- The mode of a wake: half rate, and half width too when the target keeps to one lane group (R286 step 1). -/
def wakeMode (m sel : Nat) : Nat × Nat := if halfWidth m then (3, sel) else (2, 0)

/-- Potrie's steps 1 to 3 of R286, towards a target mode. -/
def wakeLink (x : Cx) (m sel : Nat) : Cx :=
  let w := wakeMode m sel
  (linkStart (potrieMode x w.1 w.2)).onL (fun l => { l with goal := if w = (m, sel) then none else some (m, sel) })

/-- The target of a wake: the one Potrie keeps, else the mode of the registers. -/
def wakeGoal (x : Cx) : Nat × Nat := x.c.lk.goal.getD (x.f 0x0800 1 0, x.f 0x0800 2 2)

/-- link_start: Potrie, where it has trained the course, wakes the link by the steps of R286. -/
def linkStartRow (x : Cx) : Cx :=
  if (x.c.lk.st = 0 ∨ x.c.lk.st = 7) ∧ powered x.z x.n = true ∧ potrieOn x.z = true ∧ x.info.trained = true then wakeLink x (wakeGoal x).1 (wakeGoal x).2
  else linkStart x

/-- Step 5 of R286: the target mode, its ratio and the cure window in one SET. -/
def wakeTarget (x : Cx) : Cx :=
  match x.c.lk.goal with
  | none => x
  | some (m, sel) => if x.c.lk.st = 2 ∧ potrieOn x.z = true then (potrieMode x m sel).onL (fun l => { l with goal := none }) else x

/-- After the exchange of a wake, Potrie writes dck_ofs_lck and both nak_gap_lck from the round trip (R288), and goes on with step 5 of R286. -/
def wakeDone (x : Cx) : Cx :=
  if potrieOn x.z = false then x
  else
    let v := setBits (cbWord x 0x14) 21 16 (x.c.lk.rtt / 2)
    let x := (cbWrite x 0x14 0x1FFFFFFF none v 15).onC (fun c => { c with tr := { c.tr with saved := tblPut c.tr.saved 0x14 v } })
    wakeTarget (nakGaps x x.c.lk.rtt)

/-- ALIGN_COMPLETE, and what Potrie does after a wake. -/
def linkAligned (x : Cx) (oneWay : Nat) : Cx :=
  let y := alignComplete x oneWay
  if x.c.lk.st = 1 ∧ y.c.lk.st = 2 then wakeDone y else y

/-- RATE_COMPLETE, after which Potrie writes nak_gap_lck again (R288). -/
def rateDone (x : Cx) : Cx :=
  let y := rateComplete x
  if x.c.lk.st = 4 ∧ y.c.lk.st = 2 ∧ potrieOn y.z = true ∧ y.info.trained = true then nakGaps y (nakGapOf y) else y

/-- A change of mode inside one of Potrie's own sequences: RATE from its start to mode_done (R209, R288). -/
def rateThrough (x : Cx) : Cx :=
  if x.c.lk.st = 2 ∧ x.c.lk.rate = true then
    let y := setMode x x.now
    let y := linkSync (applyRatio y y.cyc)
    nakGaps (y.sts 0x0808 3) (nakGapOf y)
  else x

/-- A whole wake from DOWN inside one of Potrie's own sequences: steps 1 to 5 of R286. -/
def wakeThrough (x : Cx) : Cx :=
  let (m, sel) := wakeGoal x
  let w := wakeMode m sel
  let x := potrieMode x w.1 w.2
  let x := linkWake (setMode x x.now) true
  let x := (alignWake x ((nakGapOf x - 1) / 2)).onL (fun l => { l with goal := if w = (m, sel) then none else some (m, sel) })
  rateThrough (wakeDone x)

/-- The lane group that holds no lane of the lists, group 0 first. -/
def goodGroup (up dn : List Nat) : Option Nat :=
  if up.all (fun l => 4 ≤ l) && dn.all (fun l => 3 ≤ l) then some 0
  else if up.all (fun l => l < 4) && dn.all (fun l => l < 3) then some 1
  else none

/-- The first mode of Table 14-3 in which every lane in use passes, given the lanes that fail and whether they fail at half rate too. -/
def laneMode (up dn : List Nat) (slow : Bool) : Option (Nat × Nat) :=
  if up = [] ∧ dn = [] then some (0, 0)
  else
    match goodGroup up dn, slow with
    | some g, false => some (1, g)
    | none, false => some (2, 0)
    | some g, true => some (3, g)
    | none, true => none

/-- LINK_FAILED_RESPONSE (R213, R286): Potrie restarts the link in a mode that avoids the failed lanes, the one before where none has failed, or
fences the course. -/
def linkFailedResponse (x : Cx) (badUp badDn : List Nat) : Cx :=
  if x.c.lk.st ≠ 7 ∨ potrieOn x.z = false ∨ x.info.fence ≠ 0 then x
  else if badUp = [] ∧ badDn = [] then wakeLink x (wakeGoal x).1 (wakeGoal x).2
  else
    match goodGroup badUp badDn with
    | some g => wakeLink (x.onInfo (fun i => { i with degraded := true })) (if 2 ≤ x.info.mode then 3 else 1) g
    | none => potFence x 3

/-- LANE_MONITOR (R299): errors on each lane in use in a dwell at both ends. -/
def laneMonitor (x : Cx) (up dn : List (Nat × Nat)) : Cx :=
  let x := wakeTarget x
  if potrieOn x.z = false ∨ x.c.lk.st ≠ 2 ∨ crsUp x = false then x
  else
    let all := up.map (fun p => (p.1, p.2)) ++ dn.map (fun p => (8 + p.1, p.2))
    let used (k : Nat) : Bool := if k < 8 then x.ups.contains k else x.dns.contains (k - 8)
    let bad := all.foldl (fun t p => if used p.1 then tblStore 0 t p.1 (if 65 < p.2 then tblGet 0 t p.1 + 1 else 0) else t) x.c.tr.badL
    let x := x.onC (fun c => { c with tr := { c.tr with badL := bad } })
    let fail := (bad.filter (fun p => decide (3 ≤ p.2))).map (fun p => p.1)
    if fail = [] then x
    else
      let x := x.onC (fun c => { c with tr := { c.tr with badL := [] } })
      let fu := fail.filter (fun l => decide (l < 8))
      let fd := (fail.filter (fun l => decide (8 ≤ l))).map (fun l => l - 8)
      match laneMode fu fd (decide (2 ≤ x.info.mode)) with
      | some (m, sel) => (potrieMode x m sel).onInfo (fun i => { i with degraded := true })
      | none => potFence x 2

/-! ### Re-centring -/

/-- A Corbel word of the edge samplers' counts. -/
def rctCnt (s q : Nat) : Nat := 0x12000 + 0x8000 * s + 4 * q

/-- RECENTRE_ARM: Potrie zeroes the counts, sets the samplers and arms a target (R297, R298), which it audits (R79). -/
def recentreArm (x : Cx) (i : Nat) : Cx :=
  if potrieOn x.z = false ∨ tgtUsed x i = false ∨ crsUp x = false ∨ x.c.lk.st ≠ 2 then x
  else
    let s := i / 8
    let o := 0x12100 + 0x8000 * s
    let old := [cbWord x o, wordAt x.z (x.off 0x2440)]
    let x := (List.range 40).foldl (fun x q => cbPut x (rctCnt s q) 0) x
    let x := cbPut x o (setBits (cbWord x o) 6 0 8)
    let x := x.onC (fun c => { c with tr := { c.tr with probes := c.tr.probes.filter (fun p => p.i != i) } })
    let x := noteArm (x.setf 0x2440 i i 1) [i]
    x.onZ (fun z => potAudit z x.now old [cbWord x o, wordAt x.z (x.off 0x2440)])

/-- Potrie writes a delay field of a Corbel word by a maintenance write (R290), keeps the value for a restart (R286) and audits it (R79). -/
def potrieDly (x : Cx) (off hi lo v : Nat) : Cx :=
  match cbReg off with
  | some (m, dly) =>
      let w := setBits (cbWord x off) hi lo v
      let old := cbWord x off
      ((cbWrite x off m dly w 15).onC (fun c => { c with tr := { c.tr with saved := tblPut c.tr.saved off w } })).onZ (fun z => potAudit z x.now [old] [w])
  | none => x

/-- HARD entries that satisfy `p` are released. -/
def rptRelease (x : Cx) (p : Rpt → Bool) : Cx :=
  x.onC (fun c => { c with rpt := c.rpt.map (fun r => if r.st = 4 ∧ p r then { r with st := 0, since := x.now, evt := none } else r) })

/-- Every HARD entry of a device of a (physical rank, subchannel) is released (R261). -/
def markRelease (x : Cx) (prank sub dev : Nat) : Cx :=
  rptRelease x (fun r => let q := coordOf x r.line; prankOf x q.lr == prank && q.sub == sub && r.devs.testBit dev)

/-- A device mark: a SET of CRS[n]_ECC_MARK, after which every HARD entry of the device is released (R243, R261). -/
def putMark (x : Cx) (prank sub dev : Nat) : Cx :=
  let b := 2 * prank + sub
  let o := 0x1808 + 4 * (b / 4)
  let k := 8 * (b % 4)
  markRelease (((x.potSet o (k + 3) k dev).potSet o (k + 7) (k + 7) 1).onZ needBond) prank sub dev

/-- A failing bit at run time: its device is marked online, or a replacement is recommended (R298, R243). -/
def failingBit (x : Cx) (sub prank q : Nat) : Cx :=
  match markOf x prank sub with
  | none => putMark x prank sub (q / 4)
  | some _ => x.pev 0x0009 (fmtC x.n.val (q / 4) 0 0)

/-- A value moved by some steps within 12 bits. -/
def moveDly (v : Nat) (k : Int) : Nat := min 4095 ((v : Int) + k).toNat

/-- One DQ after a probe (R298). -/
def adjustDq (x : Cx) (s r : Nat) (i : Nat) (k : ProbeCount) : Cx :=
  let q := k.q.val
  let x := cbPut x (rctCnt s q) (BitVec.ofNat 32 (min k.left 65535 + min k.right 65535 * 2 ^ 16))
  let off := 0x10800 + 0x8000 * s + 0x100 * r + 4 * q
  let rd := x.cf off 11 0
  let x := if k.right + 4 ≤ k.left then potrieDly x off 11 0 (moveDly rd 1) else if k.left + 4 ≤ k.right then potrieDly x off 11 0 (moveDly rd (-1)) else x
  let n := if 32 ≤ k.left ∧ 32 ≤ k.right then tblGet 0 x.c.tr.badQ (i * 40 + q) + 1 else 0
  let x := x.onC (fun c => { c with tr := { c.tr with badQ := tblStore 0 c.tr.badQ (i * 40 + q) (n % 3) } })
  if n = 3 then failingBit x s r q else x

/-- One device's write delays after a probe (R298). -/
def adjustOsc (x : Cx) (s r i d : Nat) : Cx :=
  let len := x.f 0x2440 26 16
  let new := x.f (0x2460 + 4 * d) 15 0
  if len = 0 then x
  else
    match tblFind x.c.tr.base (i * 16 + d) with
    | none => x.onC (fun c => { c with tr := { c.tr with base := tblPut c.tr.base (i * 16 + d) new } })
    | some old =>
        let k := max (-2) (min 2 (Config.oscSteps len old new))
        if k = 0 then x
        else
          let x := x.onC (fun c => { c with tr := { c.tr with base := tblPut c.tr.base (i * 16 + d) new } })
          (List.range 4).foldl (fun x j =>
            let off := 0x10800 + 0x8000 * s + 0x100 * r + 4 * (4 * d + j)
            potrieDly x off 23 12 (moveDly (x.cf off 23 12) k)) x

/-- RECENTRE_ADJUST (R298): after a probe whose reads are in; a probe with an alert in between is discarded. -/
def recentreAdjust (x : Cx) (i : Nat) (counts : List ProbeCount) : Cx :=
  match x.c.tr.probes.find? (fun p => p.i == i) with
  | none => x
  | some p =>
      if potrieOn x.z = false ∨ p.done = false ∨ x.c.outRd.any (fun b => match b.src with | .probe j _ => j == i | _ => false) then x
      else
        let x := x.onC (fun c => { c with tr := { c.tr with probes := c.tr.probes.filter (fun p => p.i != i) } })
        if p.bad then x
        else
          let s := i / 8
          let r := prankOf x (i % 8)
          let x := counts.foldl (fun x k => adjustDq x s r i k) x
          (List.range 10).foldl (fun x d => adjustOsc x s r i d) x

/-! ### FRESH_INIT -/

/-- The map of a FRESH_INIT write: regions below `n` FRESH, the others WRITTEN (R339). -/
def freshMapOf (n count : Nat) : FreshMap :=
  if count ≤ n then { dflt := .fresh, ex := [] } else { dflt := .written, ex := (List.range n).map (fun i => (i, RState.fresh)) }

/-- A write to CRS[n]_FRESH_INIT takes effect while the course is FENCED or before release (R339). -/
def freshInit (x : Cx) (v : Nat) : Cx :=
  if powered x.z x.n = true ∧ (x.info.fence ≠ 0 ∨ x.z.boot.ready = false) then
    let m := freshMapOf (min v 131072) (regionCount x)
    x.onC (fun c => c.mapTo m)
  else x

end Sys2Proof.Machine
end

