-- ==== Sys2Proof/Machine/View.lean ====
section
/-! DEFINITION. What configuration reads return: the words that hardware drives (RO fields, computed from the State), memories behind
register offsets, and the pending view (R25). Access rights are in Access.lean. -/

namespace Sys2Proof.Machine

/-- Run a course's part of a command on the whole block. -/
def onCrs (x : Sys) (n : CourseId) (f : Cx → Cx) : Sys :=
  let y := f { now := x.now, free := x.free, z := x.z, n := n, c := x.crs[n] }
  { x with free := y.free, z := y.z, crs := modV x.crs n (fun _ => y.c) }

/-- A course as its functions see it. -/
def cxOf (x : Sys) (n : CourseId) : Cx := { now := x.now, free := x.free, z := x.z, n := n, c := x.crs[n] }

/-- Change everything outside the courses. -/
def onZmc (x : Sys) (f : Zmc → Nat → Zmc) : Sys := { x with z := f x.z x.now }

/-- A field placed at bit `lo`. -/
def at_ (lo v : Nat) : Word := BitVec.ofNat 32 v <<< lo

/-- A Bool as a bit. -/
def bit (b : Bool) : Nat := if b then 1 else 0

/-- Word `i` (0 low, 1 high) of a 64-bit value. -/
def halfOf (v : Nat) (i : Nat) : Word := BitVec.ofNat 32 (v / 2 ^ (32 * i))

/-! ### Courses -/

/-- Power state of a course (Table 15-6): OFF while it is absent, in RETAIN, held or not yet released; FENCED; SR; IDLE; ACTIVE. -/
def crsPwr (z : Zmc) (c : CourseId) (s : CourseSt) : Nat :=
  if present z.boot.variant c.val = false ∨ z.pwr.st = 3 ∨ z.boot.hold ≠ 0 then 0
  else if z.cinfo[c].fence ≠ 0 then 4
  else if z.boot.phase < 7 then 0
  else if 2 ≤ s.sr.st then 3
  else if s.idle then 2
  else 1

/-- CRS[n]_FRESH_INFO fields: FRESH regions, engines rendering, CLAIMED regions (Table 13-3). -/
def freshNow (x : Cx) : Nat := (if x.c.fm.dflt == .fresh then regionCount x - x.c.fm.ex.length else 0) + (x.c.fm.ex.filter (fun p => p.2 == .fresh)).length
/-- Engines rendering. -/
def rndBusy (c : CourseSt) : Nat := ((List.finRange 4).filter (fun e => c.eng[e].isSome)).length
/-- Repeat-tracker entries in a state. -/
def rptCount (c : CourseSt) (p : Nat → Bool) : Nat := ((List.finRange 64).filter (fun e => p c.rpt[e].st)).length
/-- Banks in in-order mode. -/
def inorderNow (c : CourseSt) : Nat := (c.banks.filter (fun b => b.2.fence.isSome)).length

/-- A repeat-tracker entry as its words show it (Table 12-13). -/
def rptWord (p : Rpt) (pkg0 : Nat) (w : Nat) : Word :=
  if w = 0 then BitVec.ofNat 32 p.line
  else if w = 1 then at_ 0 (p.line / 2 ^ 32 % 2) ||| at_ 1 p.st ||| at_ 4 p.count ||| at_ 8 p.devs ||| at_ 18 (p.syms % 128)
  else if w = 2 then BitVec.ofNat 32 ((pkg0 + p.since / tuPerNs) % 2 ^ 64 / 1000000)
  else 0

/-- Words of a course block that hardware drives. -/
def crsView (x : Cx) (o : Nat) : Option Word :=
  let c := x.c
  let lk := c.lk
  let st := wordAt x.z (x.off o)
  if o = 0x05B8 then some (at_ 0 lk.lock)
  else if o = 0x0800 then some (st &&& 0x7FFFFFF7#32)
  else if o = 0x0810 then some (at_ 0 lk.st ||| at_ 3 x.info.mode ||| at_ 5 (lk.ends.buf.length % 256) ||| at_ 13 lk.ends.next ||| at_ 21 lk.ends.e ||| at_ 29 (bit lk.safe))
  else if o = 0x0C08 then some (at_ 0 c.epoch[0] ||| at_ 2 c.epoch[1] ||| at_ 4 (c.retry[0].length % 256) ||| at_ 12 (c.retry[1].length % 256)
    ||| at_ 20 (bit c.rb[0].on) ||| at_ 21 (bit c.rb[1].on))
  else if o = 0x1018 then some (setBits st 16 8 (cureDck x))
  else if o = 0x1020 then some (setBits st 16 16 (bit lk.armed))
  else if o = 0x1028 then some (halfOf (x.dck % 2 ^ 48) 0)
  else if o = 0x102C then some (halfOf (x.dck % 2 ^ 48) 1)
  else if o = 0x1040 then some (at_ 0 (c.rdq.length % 256) ||| at_ 8 (c.wrq.length % 256) ||| at_ 16 c.mode ||| at_ 18 (inorderNow c % 1024))
  else if o = 0x1420 then some (at_ 0 ((List.finRange 16).foldl (fun a i => a + bit c.tgts[i].catch_ * 2 ^ i.val) 0)
    ||| at_ 16 ((List.finRange 4).foldl (fun a r => a + bit c.ranks[r].hot * 2 ^ r.val) 0) ||| at_ 20 c.sr.st)
  else if o = 0x1428 ∨ o = 0x142C then
    let k := if o = 0x1428 then 0 else 8
    some (BitVec.ofNat 32 ((List.finRange 16).foldl (fun a i => if k ≤ i.val ∧ i.val < k + 8 then a + (c.tgts[i].owed % 16) * 16 ^ (i.val - k) else a) 0))
  else if o = 0x1430 then some (c.ranks[3].temp ++ c.ranks[2].temp ++ c.ranks[1].temp ++ c.ranks[0].temp)
  else if o = 0x1918 then some (halfOf c.pt.pos 0)
  else if o = 0x191C then some (halfOf c.pt.pos 1 &&& 1)
  else if o = 0x1920 then some (BitVec.ofNat 32 (lapAge x / tuPerS))
  else if o = 0x1928 then some (BitVec.ofNat 32 c.pt.last)
  else if o = 0x1A10 then some (at_ 0 (rptCount c (fun s => s != 0)) ||| at_ 7 (rptCount c (fun s => s == 4)))
  else if 0x1C00 ≤ o ∧ o < 0x2000 then some (rptWord c.rpt[toFin 64 (by decide) ((o - 0x1C00) / 16)] x.z.pkg0 ((o - 0x1C00) % 16 / 4))
  else if o = 0x2010 then some (at_ 0 (freshNow x) ||| at_ 18 (rndBusy c) ||| at_ 21 (c.claims.length % 128))
  else if o = 0x201C then
    let k := 32 * x.f 0x2018 11 0
    some (BitVec.ofNat 32 ((List.range 32).foldl (fun a i => if regionOf x (k + i) == .fresh then a + 2 ^ i else a) 0))
  else if 0x2040 ≤ o ∧ o < 0x2060 then
    some (match c.eng[toFin 4 (by decide) ((o - 0x2040) / 8)] with
      | some g => halfOf (g.region + 2 ^ 17 + g.pos % 65536 * 2 ^ 18) ((o - 0x2040) % 8 / 4)
      | none => 0)
  else if o = 0x2418 then some (at_ 0 c.tr.fifo.length)
  else none

/-! ### General counters -/

/-- Level events an island has (Table 17-1). -/
def levelOk (i sel : Nat) : Bool :=
  if i < 16 then decide (1 ≤ sel ∧ sel ≤ 12)
  else if i < 18 then decide (1 ≤ sel ∧ sel ≤ 6)
  else if i < 20 then decide (1 ≤ sel ∧ sel ≤ 2)
  else sel == 1

/-- The selection of a counter's control word names an event: sel_ok (R341, R342). -/
def selOk (i : Nat) (w : Word) : Bool :=
  let sel := bitsOf w 16 3
  let off := islBlock i + 4 * sel
  if bitsOf w 1 0 = 1 then (cntFld off (16 * bitsOf w 17 17)).isSome
  else if bitsOf w 1 0 = 2 then levelOk i sel
  else false

/-- The island and counter whose control word lies at an offset. -/
def ctlOf (off : Nat) : Option (Nat × Nat) :=
  let i := ownerOf off
  let b := ctrBase i
  if b ≤ off ∧ off < b + 16 * ctrNum i ∧ (off - b) % 16 = 0 then some (i, (off - b) / 16) else none

/-! ### Memories behind offsets -/

/-- Word of an entry of 8 words. -/
def entWord (m : Tbl (List Word)) (o : Nat) : Word := (tblGet [] m (o / 32)).getD (o % 32 / 4) 0

/-- Bond table byte, the generation at 0x0C included (R51, R52): bytes beyond the length that the header gives at 0x08 read zero. -/
def bondByte (z : Zmc) (i : Nat) : Byte :=
  let b (k : Nat) : Byte := z.bond.bytes.getD k 0
  if 0x0C ≤ i ∧ i < 0x10 then z.bond.gen.extractLsb' (8 * (i - 0x0C)) 8
  else if i < max 64 (b 11 ++ b 10 ++ b 9 ++ b 8).toNat then b i
  else 0

/-- Bond table word. -/
def bondWord (z : Zmc) (o : Nat) : Word := bytesWord (bondByte z o) (bondByte z (o + 1)) (bondByte z (o + 2)) (bondByte z (o + 3))

/-- MBX[m]_DOOR, the state field of MBX[m]_STS and the frames (Table 4-5, R69). -/
def mbxWord (m : Mbx) (o : Nat) : Word :=
  if o < 0x40 then m.req[toFin 16 (by decide) (o / 4)]
  else if o < 0x80 then (if m.ph == .done then m.rsp[toFin 16 (by decide) ((o - 0x40) / 4)] else 0)
  else if o = 0x80 then at_ 0 (bit (m.ph == .posted))
  else if o = 0x88 then at_ 0 (match m.ph with | .idle => 0 | .posted => 1 | .running => 2 | .done => 3)
  else 0

/-- Words of the mailbox block (Table 4-3). -/
def mbxView (z : Zmc) (o : Nat) : Option Word :=
  let m := z.mgt
  if o = 0x0018 then some m.evtNext
  else if o = 0x0020 then some m.audNext
  else if o = 0x0028 then some (if 1025 < m.audNext.toNat then m.audNext - 1025 else 0)
  else if o = 0x0030 then some m.gap
  else if 0x0100 ≤ o ∧ o < 0x0700 then some (mbxWord m.mbx[toMbx (o / 0x100 - 1)] (o % 0x100) ||| (if o % 0x100 = 0x88 then wordAt z (mbxBase + o) else 0))
  else if 0x1000 ≤ o ∧ o < 0x3000 then some (entWord m.evq (o - 0x1000))
  else if 0x10000 ≤ o ∧ o < 0x18000 then some (entWord m.aud (o - 0x10000))
  else none

/-! ### The other blocks -/

/-- words_per_lap of the part (R47). -/
def plumbWords (z : Zmc) : Nat := if z.boot.variant = 16 then 1984 else (Config.plumbWords z.boot.variant).toNat

/-- ZMC_PWR_STS (Table 15-9). -/
def pwrSts (x : Sys) : Nat :=
  x.z.pwr.st + x.z.pwr.wakeSrc * 8 + (List.finRange 16).foldl (fun a c => a + crsPwr x.z c x.crs[c] * 2 ^ (3 * c.val + 16)) 0

/-- Words of the ZMC global block that hardware drives. -/
def zmcView (x : Sys) (o : Nat) : Option Word :=
  let z := x.z
  let b := z.boot
  let st := wordAt z (zmcBase + o)
  if o = 0x0020 then some (setBits st 0 0 (bit z.setu.busy))
  else if o = 0x0040 then some (at_ 0 b.variant ||| at_ 8 1 ||| at_ 12 1)
  else if o = 0x0048 then some (b.uid.extractLsb' 0 32)
  else if o = 0x004C then some (b.uid.extractLsb' 32 32)
  else if o = 0x0220 then some (at_ 0 (plumbWords z))
  else if o = 0x0500 then some ((pkgTime z x.now).extractLsb' 0 32)
  else if o = 0x0504 then some ((pkgTime z x.now).extractLsb' 32 32)
  else if o = 0x0600 then some (st &&& 0xFFFFFFFC#32)
  else if o = 0x0608 then some (halfOf (pwrSts x) 0)
  else if o = 0x060C then some (halfOf (pwrSts x) 1)
  else if o = 0x0800 then some (at_ 0 b.phase ||| at_ 4 b.hold ||| at_ 7 b.failIsl ||| at_ 12 b.failLoc ||| at_ 15 b.failRes ||| at_ 18 (bit b.warm) ||| at_ 19 (bit b.hodOk))
  else if o = 0x0808 then some (at_ 0 (b.failWord % 2 ^ 18) ||| at_ 18 (b.failBit % 1024) ||| at_ 28 (bit b.failPass))
  else if o = 0x0810 then some b.releaseUs
  else if o = 0x0C10 then some (at_ 0 z.pair.st ||| at_ 8 z.pair.lvlRun ||| at_ 16 z.pair.peerMin ||| at_ 24 z.pair.peerMax)
  else if 0x0C40 ≤ o ∧ o < 0x0D40 ∧ o % 32 = 0x18 then
    let r := toFin 8 (by decide) ((o - 0x0C40) / 32)
    let m := z.pair.mirs[r]
    let size := (mirDesc (wordAt z) r.val).size
    let pct := if m.st = 4 ∧ size ≠ 0 then min 100 ((m.pos[0] + m.pos[1]) * 100 / (2 * size)) else 0
    some ((st &&& 3#32) ||| at_ 2 m.st ||| at_ 5 m.fo.toNat ||| at_ 21 pct)
  else if o = 0x0E08 then some (setBits st 13 13 (bit z.therm.hotOut))
  else none

/-- Words of a home block that hardware drives. -/
def homeView (z : Zmc) (h : HomeId) (o : Nat) : Option Word :=
  let s := z.homes[h]
  if 0x2000 ≤ o ∧ o < 0x3000 ∧ o % 0x200 = 0x28 then
    let g := s.gates[toFin 8 (by decide) ((o - 0x2000) / 0x200)]
    let n := match g.list with | some l => max l.ents.length 1 | none => 1
    some (at_ 0 (g.off % 2 ^ 24) ||| at_ 24 (if g.list.isSome then g.ent % n else 0) ||| at_ 29 (bit g.armed.isSome))
  else if o = 0x3010 then some (at_ 0 ((s.hrq.filter (fun r => r.ph == .look)).length % 4096) ||| at_ 12 (s.fwb.length % 128))
  else none

/-- Words of a bay block that hardware drives. -/
def bayView (z : Zmc) (now : Nat) (b : BayId) (o : Nat) : Option Word :=
  let y := z.bays[b]
  if o = 0x0020 then some (at_ 0 (fckCyc now % 64) ||| at_ 6 (bit y.armed.isSome) ||| at_ 16 y.patGen.toNat)
  else none

/-- Byte offset of an island's group in the snapshot (Table 17-4). -/
def snapOff (i : Nat) : Nat := if i < 16 then 0x040 + 0x80 * i else if i < 18 then 0x840 + 0x100 * (i - 16) else 0xA40 + 0x40 * (i - 18)

/-- The island and counter whose entry holds a snapshot byte offset. -/
def snapEnt (o : Nat) : Option (Nat × Nat) :=
  if 0x040 ≤ o ∧ o < 0x840 then some ((o - 0x040) / 0x80, (o - 0x040) % 0x80 / 8)
  else if 0x840 ≤ o ∧ o < 0xA40 then some (16 + (o - 0x840) / 0x100, (o - 0x840) % 0x100 / 8)
  else if 0xA40 ≤ o ∧ o < 0xC00 then some (18 + (o - 0xA40) / 0x40, (o - 0xA40) % 0x40 / 8)
  else none

/-- A counter's entry of the snapshot or user page: value, ovf, carry_lost and valid (Table 17-4). -/
def cntEntry (z : Zmc) (i k : Nat) : Nat :=
  let v := ctrBase i + 16 * k + 8
  let sts := wordAt z (ctrBase i + 16 * ctrNum i + 8 * (k / 16))
  (wordAt z v).toNat + (wordAt z (v + 4)).toNat % 2 ^ 16 * 2 ^ 32
    + bitsOf sts (k % 16) (k % 16) * 2 ^ 48 + (if k % 2 = 1 then bitsOf sts (16 + k / 2 % 8) (16 + k / 2 % 8) * 2 ^ 49 else 0) + 2 ^ 63

/-- A word of the user page: granted groups show live values (R350). -/
def userWord (z : Zmc) (o : Nat) : Word :=
  match snapEnt o with
  | some (i, k) => if getF z (hodBase + 0x30) i i = 1 then halfOf (cntEntry z i k) (o % 8 / 4) else 0
  | none => 0

/-- Words of the Hod block that hardware drives. -/
def hodView (z : Zmc) (o : Nat) : Option Word :=
  if o = 0x0010 then some (wordAt z (hodBase + o) &&& 5#32)
  else if o = 0x0020 then some (at_ 0 (bit z.hod.frozen) ||| at_ 1 (bit z.hod.busy))
  else if 0x2000 ≤ o ∧ o < 0x3000 then some (tblGet 0 z.hod.buf ((o - 0x2000) / 4))
  else if 0x10000 ≤ o ∧ o < 0x11000 then some (userWord z (o - 0x10000))
  else none

/-- Programmed words of a memory of Table 16-3. -/
def memWords (id : Nat) : Option Nat :=
  if id < 128 then ([192, 128, 2048, 2048, 128, 128, 2048] : List Nat)[id % 8]?
  else if id < 144 then ([65536, 2560, 1152, 64] : List Nat)[id % 8]?
  else if id = 144 then some 131072
  else if id = 152 then some 2048
  else if id = 153 then some 8192
  else if id = 168 then some 16384
  else if id = 192 then some 1024
  else none

/-- Spare rows of a memory (R327). -/
def memSpares (id : Nat) : Nat := if id = 144 then 16 else if id = 128 ∨ id = 136 then 8 else if (memWords id).isSome then 4 else 0

/-- Words of the Security, Debug and BIST block that hardware drives. -/
def secView (z : Zmc) (now o : Nat) : Option Word :=
  let sel := getF z (secBase + 0x3000) 7 0
  let r := tblGet {} z.boot.bist sel
  if o = 0x0010 then some (at_ 0 z.boot.lc ||| at_ 3 z.boot.lcPend)
  else if 0x1000 ≤ o ∧ o < 0x1080 then
    let k := (o - 0x1000) / 4
    some (BitVec.ofNat 32 ((List.range 32).foldl (fun a i => if (tblFind z.keys.slots (32 * k + i)).isSome then a + 2 ^ i else a) 0))
  else if o = 0x2008 ∨ o = 0x200C then some 0
  else if o = 0x2010 then
    some (setBits (setBits (wordAt z (secBase + o)) 1 0 z.dbg.level) 5 5 (match z.dbg.lockTo with | some t => bit (decide (now < t)) | none => 0))
  else if o = 0x2048 then some z.dbg.trcNext
  else if 0x4000 ≤ o ∧ o < 0x4800 then some ((tblGet [] z.dbg.trace ((o - 0x4000) / 16)).getD (o % 16 / 4) 0)
  else if o = 0x3008 then some (at_ 0 r.result ||| at_ 3 r.spares ||| at_ 8 (min r.fails 65535))
  else if o = 0x3010 then some (BitVec.ofNat 32 r.steps)
  else if o = 0x3014 then some (match memWords sel with | some w => BitVec.ofNat 32 (if r.len = 0 then 20 * w else r.len) | none => 0)
  else if o = 0x3018 then some r.sig
  else if o = 0x3028 then some (at_ 0 z.boot.rtCourse ||| at_ 4 z.boot.rtState)
  else if o = 0x3048 then
    let m := getF z (secBase + 0x3040) 7 0
    let k := getF z (secBase + 0x3040) 11 8
    some (if k < memSpares m then (match tblFind z.boot.spares (16 * m + k) with | some s => at_ 0 (s.row % 2 ^ 18) ||| at_ 18 1 ||| at_ 19 (bit s.hard) | none => 0) else 0)
  else if o = 0x3050 then some (at_ 0 z.boot.fuses)
  else none

/-- The word that hardware drives at a window offset, if any. -/
def drivenWord (x : Sys) (off : Nat) : Option Word :=
  match blockOf off with
  | none => if off < 0x10000 then some (bondWord x.z off) else none
  | some (k, i, b) =>
      if k = 1 then zmcView x (off - b)
      else if k = 2 then mbxView x.z (off - b)
      else if k = 3 then homeView x.z (toHome i) (off - b)
      else if k = 4 then bayView x.z x.now (toBay i) (off - b)
      else if k = 5 then crsView (cxOf x (toCrs i)) (off - b)
      else if k = 6 then hodView x.z (off - b)
      else secView x.z x.now (off - b)

/-- The word at a window offset as its owner holds it: driven or stored; sel_ok of a counter's control word is computed. -/
def curWord (x : Sys) (off : Nat) : Word :=
  match drivenWord x off with
  | some w => w
  | none =>
      let w := wordAt x.z off
      match ctlOf off with
      | some (i, _) => setBits w 18 18 (bit (selOk i w))
      | none => w

/-- A register or memory backs the offset in this part (R24, R404): a block of an absent or powered-off course and of a bay whose courses are
both fused off is not backed. -/
def backed (z : Zmc) (off : Nat) : Bool :=
  match blockOf off with
  | none => decide (off < 0x10000)
  | some (k, i, b) =>
      let o := off - b
      let here :=
        if k = 4 then present z.boot.variant (2 * i) || present z.boot.variant (2 * i + 1)
        else if k = 5 then powered z (toCrs i)
        else true
      let mem :=
        if k = 2 then (decide (0x0100 ≤ o ∧ o < 0x0700) && (decide (o % 0x100 < 0x84) || o % 0x100 == 0x88)) || decide (0x1000 ≤ o ∧ o < 0x3000) || decide (0x10000 ≤ o ∧ o < 0x18000)
        else if k = 6 then decide (0x2000 ≤ o ∧ o < 0x3000) || decide (0x10000 ≤ o ∧ o < 0x11000)
        else if k = 7 then decide (0x4000 ≤ o ∧ o < 0x4800)
        else false
      here && (mem || (regDef off).isSome)

/-- The pending view of an offset whose bit 15 is set (R25). -/
def pendView (z : Zmc) (off : Nat) : Word :=
  let o := off - 0x8000
  match regDef o with
  | some d => if backed z o then pendWord z o &&& bufMask d else 0
  | none => 0

/-- The low word of a 64-bit value lies at the offset (R34): of a register, of an entry of Hod's snapshot buffer (Table 17-4: t_trig, the counters,
t_island) or of the user page. The Bond table is read with 32-bit accesses (R51); the event queue and the audit log are read so too (DESIGN
CHOICE, log entry 11). -/
def wideLow (off : Nat) : Bool :=
  match regDef off with
  | some d => d.wide
  | none =>
      off % 8 == 0 && (decide (hodBase + 0x10000 ≤ off ∧ off < hodBase + 0x11000)
        || off == hodBase + 0x2008 || decide (hodBase + 0x2040 ≤ off ∧ off < hodBase + 0x2CC8))
/-- The high word of a 64-bit value lies at the offset. -/
def wideHigh (off : Nat) : Bool := decide (4 ≤ off) && wideLow (off - 4)

end Sys2Proof.Machine
end

