-- ==== Sys2Proof/Machine/Access.lean ====
section
/-! DEFINITION. Who may read and write what (R63 to R65, R305, R310, R331, Table 15-2), and a configuration read (R22 to R26, R34). -/

namespace Sys2Proof.Machine

/-- The class is secure for SEC fields (Table 4-1). -/
def secOrig (z : Zmc) (o : Nat) : Bool := o == 0 || o == 2 || o == 3 || o == 4 || (o == 5 && z.dbg.level == 2)

/-- The class may use mailbox `m` (Table 4-1). -/
def mbxClass (m : MbxId) (o : Nat) : Bool :=
  if m.val < 2 then o == 1 || o == 2 else o == m.val + 1

/-- The mailbox's role exists (Table 4-2), for MBX_DBG at the debug level, for MBX_PEER when paired (R65). -/
def mbxEnabled (z : Zmc) (m : MbxId) : Bool :=
  if z.boot.lc = 4 then false
  else if m = 3 then z.boot.lc == 0 || z.boot.lc == 3
  else if m = 4 then z.dbg.level != 0
  else if m = 5 then member z
  else true

/-- The originator is secure for the mailbox's registers (R65, R68). -/
def mbxOk (z : Zmc) (m : MbxId) (o : Nat) : Bool := mbxEnabled z m && mbxClass m o

/-- The mailbox whose registers hold a window offset. -/
def mbxAt (off : Nat) : Option MbxId :=
  if mbxBase + 0x0100 ≤ off ∧ off < mbxBase + 0x0700 then some (toMbx ((off - mbxBase) / 0x100 - 1)) else none

/-- The always-readable status set (R331). -/
def alwaysSet (off : Nat) : Bool := decide (zmcBase ≤ off ∧ off < zmcBase + 0x8000) && ownerOf off == 20 && (regDef off).isSome

/-- Only the always-readable status set answers: the ZMC is held, or its Register island has no power (R331, R316). -/
def closedUp (z : Zmc) : Bool := z.boot.hold != 0 || decide (3 ≤ z.pwr.st) || !z.boot.pwrGood

/-- The block identity or block status register of a block base (R405). -/
def headOf (off base : Nat) : Bool := off == base || off == base + 8

/-- The life-cycle state shows the BIST block (Table 16-9). -/
def bistOpen (z : Zmc) : Bool := z.boot.lc == 0 || z.boot.lc == 3

/-- A DBG_ register or the trace's controls (Table 22-9). -/
def dbgReg (off : Nat) : Bool := decide (secBase + 0x2000 ≤ off ∧ off < secBase + 0x3000)
/-- The BIST block. -/
def bistReg (off : Nat) : Bool := decide (secBase + 0x3000 ≤ off ∧ off < secBase + 0x4000)

/-- Reads of the offset by the class return its value (R64, R65, R305, R331, Table 16-9). -/
def mayRead (z : Zmc) (o off : Nat) : Bool :=
  if !z.boot.pwrGood then false
  else if closedUp z then alwaysSet off && decide (o < 6)
  else if off < 0x10000 then true
  else
    let plain := off - (if off % 0x10000 < 0x8000 then 0 else 0x8000)
    let mb := match mbxAt plain with | some m => mbxOk z m o | none => true
    if o = 6 then (mbxAt off == some 5 && mb) || headOf off mbxBase
    else if o = 7 then decide (hodBase + 0x10000 ≤ off ∧ off < hodBase + 0x11000) || headOf off hodBase
    else if o = 5 ∧ z.dbg.level = 0 then alwaysSet plain || dbgReg plain || headOf off zmcBase || headOf off secBase
    else mb && (!bistReg plain || bistOpen z)

/-- Writes of the offset by the class may take effect; otherwise they are dropped with reason 3 (R64, R65, R305, R310). -/
def mayWrite (z : Zmc) (o off : Nat) : Bool :=
  let mb := match mbxAt off with | some m => mbxOk z m o | none => true
  if o = 6 then mbxAt off == some 5 && mb
  else if o = 7 then false
  else if o = 5 ∧ z.dbg.level < 2 then
    off == secBase + 0x2000 || off == secBase + 0x2008 || off == secBase + 0x200C || (mbxAt off == some 4 && mb)
  else mb && (!dbgReg off || o == 5) && (!bistReg off || bistOpen z)

/-- The class may read and write a SEC field; the backgrounds of a re-test are the Maker's alone (Table 16-9). -/
def secField (z : Zmc) (o off : Nat) (f : Fld) : Bool :=
  if off = secBase + 0x3020 ∧ f.lo = 0 then o == 4
  else f.cls != .sec || secOrig z o

/-- The bits of a field. -/
def Fld.mask (f : Fld) : Word := setBits 0 f.hi f.lo (2 ^ (f.hi + 1 - f.lo) - 1)

/-- The bits of a word that the class may not see. -/
def hidden (z : Zmc) (o off : Nat) : Word :=
  match regDef off with
  | none => 0
  | some d => d.flds.foldl (fun a f => if secField z o off f then a else a ||| f.mask) 0

/-- STS and CNT bits of a word. -/
def eventBits (d : RegDef) : Word := d.flds.foldl (fun a f => if f.cls == .sts || f.cls == .cnt then a ||| f.mask else a) 0

/-- A word as a read in this cycle finds it: a hardware update of the same cycle does not show yet in STS and CNT fields (R44). -/
def seenWord (x : Sys) (off : Nat) : Word :=
  let w := curWord x off
  match x.z.rg.hw.find? (fun u => u.off == off && u.cyc == islCyc x.z (ownerOf off) x.now), regDef off with
  | some u, some d => (w &&& ~~~(eventBits d)) ||| (u.old &&& eventBits d)
  | _, _ => w

/-- The word at an offset as the class sees it. -/
def shownWord (x : Sys) (o off : Nat) : Word :=
  if mayRead x.z o off = false then 0
  else if 0x10000 ≤ off ∧ off % 0x10000 / 0x8000 = 1 then pendView x.z off &&& ~~~(hidden x.z o (off - 0x8000))
  else if backed x.z off then seenWord x off &&& ~~~(hidden x.z o off)
  else 0

/-- An offset without the pending-view bit. -/
def plainOff (off : Nat) : Nat := if 0x10000 ≤ off ∧ off % 0x10000 / 0x8000 = 1 then off - 0x8000 else off

/-- One 32-bit read: a low word of a 64-bit value latches the high word into the class's read shadow, a high word returns it (R34); an offset that
nothing backs reads zero and latches nothing (R24). -/
def readWord (x : Sys) (o : Orig) (off : Nat) : Sys × Word :=
  let p := plainOff off
  if backed x.z p = false then (x, 0)
  else if wideLow p then
    ({ x with z := { x.z with rg := { x.z.rg with rdSh := modV x.z.rg.rdSh o (fun _ => shownWord x o.val (off + 4)) } } }, shownWord x o.val off)
  else if wideHigh p then (x, if mayRead x.z o.val off then x.z.rg.rdSh[o] else 0)
  else (x, shownWord x o.val off)

/-- Bytes of an access. -/
def accBytes : AccSize → Nat
  | .b1 => 1
  | .b2 => 2
  | .b4 => 4
  | .b8 => 8

/-- A configuration read (R22): the data appear on the bus. -/
def busRead (x : Sys) (o : Orig) (off : Nat) (s : AccSize) : Sys :=
  let out (x : Sys) (v : BitVec 64) : Sys := { x with z := { x.z with bus := v } }
  if off % accBytes s ≠ 0 then out x 0
  else
    match s with
    | .b8 =>
        let (x, lo) := readWord x o off
        let (x, hi) := readWord x o (off + 4)
        out x (hi ++ lo)
    | _ =>
        let (x, w) := readWord x o (off / 4 * 4)
        out x ((w >>> (8 * (off % 4))).setWidth 64 &&& BitVec.ofNat 64 (2 ^ (8 * accBytes s) - 1))

end Sys2Proof.Machine
end

