-- ==== Sys2Proof/Machine/Set.lean ====
section
/-! DEFINITION. SET (R38 to R43), the Plumb check (R47 to R49) and what applying a SET does in each island. -/

namespace Sys2Proof.Machine

/-- Islands that a SET can reach: a course must be present and powered (R38). -/
def islPowered (z : Zmc) (i : Nat) : Bool := if i < 16 then powered z (toCrs i) else decide (i < 25)

/-- After release an interleave record changes only while every course that it names is FENCED: judged again at acceptance (R406; DEDUCED, log
entry 13). -/
def ilvAccept (z : Zmc) (i : Nat) : List (Nat × Nat) :=
  if 18 ≤ i ∨ z.boot.phase < 7 then []
  else
    (List.range 4).flatMap (fun r =>
      let b := homeBase (i - 16) + 0x0100 + 0x40 * r
      if ilvFenced z (ilvOf (wordAt z) (i - 16) r) (ilvOf (pendWord z) (i - 16) r) then []
      else ilvOffs.map (fun o => ((b + (if o = 0x0C then 0x08 else if o = 0x14 then 0x10 else o)) * 32, if pendWord z (b + o) = wordAt z (b + o) then 0 else 4)))

/-- Fields judged against the course's state at acceptance: cure_ns against the link mode in force (R190), MAP and ref_mode while ACTIVE or
IDLE (R167, R186), fresh_en after release unless FENCED (R272). -/
def acceptChecks (x : Sys) (i : Nat) : List (Nat × Nat) :=
  if 16 ≤ i then ilvAccept x.z i
  else
    let c := toCrs i
    let b := crsBase i
    let diff (o : Nat) (m : Word) : Bool := (pendWord x.z (b + o) ^^^ wordAt x.z (b + o)) &&& m != 0
    let p := crsPwr x.z c x.crs[c]
    let act := p == 1 || p == 2
    let m := x.z.cinfo[c].mode
    let cure := bitsOf (pendWord x.z (b + 0x1018)) 6 0
    [ ((b + 0x1018) * 32, if m ≠ 0 ∧ 24 ≤ cure ∧ cure < cureMin m then 4 else 0)
    , ((b + 0x1030) * 32, if act && diff 0x1030 0xF#32 then 4 else 0)
    , ((b + 0x1400) * 32, if act && diff 0x1400 3#32 then 4 else 0)
    , ((b + 0x2000) * 32, if diff 0x2000 1#32 && x.z.cinfo[c].fence == 0 && x.z.boot.phase == 7 then 4 else 0) ]

/-- Course words whose reset value fails its check and that no write has reached yet (R154, Tables 8-13, 9-7). -/
def resetFails (z : Zmc) (i : Nat) : List (Nat × Nat) :=
  if 16 ≤ i then []
  else
    let b := crsBase i
    let fresh (o : Nat) : Bool := (tblFind z.rg.pend (b + o)).isNone
    let tims := if (List.range 12).all (fun k => fresh (0x1100 + 4 * k)) then timChecks z i else []
    let one (o : Nat) : List (Nat × Nat × Nat) := if fresh o then (wordChecks z 5 i o (pendWord z (b + o))).map (fun p => (b + o, p.1, p.2)) else []
    (tims ++ one 0x1020 ++ one 0x1410).map (fun p => (p.1 * 32 + p.2.1, p.2.2))

/-- Failed checks of an island, keyed by offset × 32 + bit. -/
def islFails (x : Sys) (i : Nat) : List (Nat × Nat) :=
  (x.z.rg.fail.filter (fun p => ownerOf (p.1 / 32) == i) ++ resetFails x.z i ++ acceptChecks x i).filter (fun p => p.2 != 0)

/-- The first failure of the islands named: lowest island, then lowest offset (R39). Of several fields of one register that fail, the lowest field
is reported, and of several checks of one field the first that its table lists (DESIGN CHOICE, log entry 88). -/
def firstFail (x : Sys) (isl : List Nat) : Option (Nat × Nat × Nat) :=
  isl.findSome? (fun i => (minBy (fun p : Nat × Nat => p.1) (islFails x i)).map (fun p => (i, p.1 / 32, p.2)))

/-- Islands of a mask that a SET reaches, ascending. -/
def maskIsl (z : Zmc) (mask : Nat) : List Nat := (List.range 25).filter (fun i => mask.testBit i && islPowered z i)

/-- The word that applying `new` leaves active: BUF fields change, others stay. -/
def bufMerge (old new : Word) (off : Nat) : Word :=
  match regDef off with
  | some d => (old &&& ~~~(bufMask d)) ||| (new &&& bufMask d)
  | none => old

/-- Acceptance of a SET: set_mask, busy, the snapshot, the lap discarded (R38, R48), the audit entry of kind 2 (R79). -/
def setAccept (x : Sys) (orig src mask : Nat) (isl : List Nat) : Sys :=
  onZmc x (fun z now =>
    let snap := z.rg.pend.filter (fun p => isl.contains (ownerOf p.1))
    let old := wordsDg (snap.map (fun p => wordAt z p.1))
    let new := wordsDg (snap.map (fun p => bufMerge (wordAt z p.1) p.2 p.1))
    let z := putWord z (zmcBase + 0x10) (BitVec.ofNat 32 (mask % 2 ^ 25))
    let z := { z with setu := { busy := true, named := isl, snap := snap, accAt := now }, plumb := { z.plumb with lapStart := now } }
    audit z ⟨pkgNs z now, 0, orig, src, 0, mask, 2, old, new⟩)

/-- Rejection of a SET with its first failure (R39, Tables 2-4, 2-5). -/
def setReject (x : Sys) (orig src mask : Nat) (f : Nat × Nat × Nat) : Sys :=
  onZmc x (fun z now =>
    let z := putWord z (zmcBase + 0x20) (at_ 1 f.2.2 ||| at_ 4 f.1)
    let z := putWord z (zmcBase + 0x28) (at_ 0 f.2.1)
    let z := post z now (zmcBase + 0x18) 1
    audit z ⟨pkgNs z now, f.2.2, orig, src, 8, mask, 2, 0, 0⟩)

/-- A write of `v` to ZMC_SET by a permitted originator (R38, R39, R42): while busy any write is dropped, one of zero too. -/
def setWrite (x : Sys) (orig src : Nat) (v : Word) : Sys :=
  let mask := v.toNat % 2 ^ 25
  if x.z.setu.busy then onZmc x (fun z now => dropAcc (post z now (zmcBase + 0x18) 2) now (zmcBase + 0x10) 5 orig)
  else if mask = 0 then x
  else
    let isl := maskIsl x.z mask
    match firstFail x isl with
    | some f => setReject x orig src mask f
    | none => setAccept x orig src mask isl

/-! ### Applying -/

/-- A word of the snapshot, the active word where none was pending. -/
def snapWord (z : Zmc) (off : Nat) : Word := match tblFind z.setu.snap off with | some w => w | none => wordAt z off

/-- The Pattern table words of a bay. -/
def patWord (off : Nat) : Bool := decide (0x080000 ≤ off ∧ off < 0x088000 ∧ 0x40 ≤ off % 0x1000 ∧ off % 0x1000 < 0x80)

/-- What a home does besides taking its words: its bays are armed (R94), markers that pol_en switches on start full (R108) and its gate lists are
armed (R117), every list with gate_en = 1, whether or not a word of it has changed (DESIGN CHOICE, log entry 100: the rule says 'a SET that
applies a gate list', and a SET that names a home applies all its fields); `old` reads a word before the SET. -/
def homeApplied (old : Nat → Word) (z : Zmc) (now : Nat) (h : HomeId) : Zmc :=
  let z := (List.finRange 24).foldl (fun z p =>
    if bitsOf (old (polReg h p)) 0 0 = 0 ∧ getF z (polReg h p) 0 0 = 1 then modHome z h (fun s => { s with mark := tblPut s.mark p.val (mrkFill z h p.val (fckCyc now)) })
    else z) z
  let z := (List.range 4).foldl (fun z k =>
    let b := toBay (4 * h.val + k)
    armBay z now b ((List.range 16).map (fun j => snapWord z (bayBase b.val + 0x40 + 4 * j)))) z
  (List.range 8).foldl (fun z j => gateApply z (toCrs (8 * h.val + j)) now) z

/-- What a course does besides taking its words; `old` reads a word before the SET (R151, R170, R209, R243, R272). -/
def crsApplied (old : Nat → Word) (x : Cx) : Cx :=
  let was (o hi lo : Nat) : Nat := bitsOf (old (x.off o)) hi lo
  let moved (o hi lo : Nat) : Bool := was o hi lo != x.f o hi lo
  let x := if moved 0x0800 2 0 then x.onL (fun l => { l with rate := true }) else x
  let x := if moved 0x1020 15 0 then x.onL (fun l => { l with armed := true }) else x
  let x := if moved 0x2000 0 0 then (x.onC (fun c => c.mapTo {})).onZ needBond else x
  let x := if moved 0x1800 0 0 || moved 0x1808 31 0 || moved 0x180C 31 0 then x.onZ needBond else x
  let x := if (List.range 12).any (fun k => moved (0x1100 + 4 * k) 31 0) && x.info.trained && potrieOn x.z then cbTimRegs x else x
  let x := if moved 0x1018 6 0 then x.onZ needBond else x
  if was 0x1400 22 22 = 0 ∧ x.f 0x1400 22 22 = 1 then restartTgts x else x

/-- What the Register island does besides taking its words (R48, R56, R84, R366). -/
def regApplied (old : Nat → Word) (z : Zmc) (now : Nat) : Zmc :=
  let o := zmcBase + 0x0C00
  let z := if bitsOf (old o) 7 0 ≠ getF z o 7 0 then needBond z else z
  let z := if bitsOf (old o) 1 0 ≠ getF z o 1 0 then portPeer z now else z
  let z := if bitsOf (old (zmcBase + 0x0200)) 0 0 ≠ getF z (zmcBase + 0x0200) 0 0 then { z with plumb := { z.plumb with lapStart := now, lastLap := now } } else z
  (List.range 8).foldl (fun z r =>
    if (mirDesc (wordAt z) r).en then z else { z with pair := { z.pair with mirs := modV z.pair.mirs (toFin 8 (by decide) r) (fun _ => {}) } }) z

/-- An interleave word of a home. -/
def ilvWord (h : HomeId) (off : Nat) : Bool := decide (homeBase h.val + 0x0100 ≤ off ∧ off < homeBase h.val + 0x0200)

/-- Island `i` takes its words of the snapshot between two cycles of its clock (R40). -/
def applyIsl (x : Sys) (i : Nat) : Sys :=
  let z0 := x.z
  let mine := z0.setu.snap.filter (fun p => ownerOf p.1 == i && !patWord p.1)
  let z := mine.foldl (fun z p => putWord z p.1 (bufMerge (wordAt z p.1) p.2 p.1)) z0
  let z := { z with setu := { z.setu with named := z.setu.named.filter (fun k => k != i) } }
  let x := { x with z := z }
  if i < 16 then onCrs x (toCrs i) (crsApplied (wordAt z0))
  else if i < 18 then
    let h := toHome (i - 16)
    let x := if mine.any (fun p => ilvWord h p.1 && wordAt z0 p.1 != wordAt z p.1) then onZmc x (fun z _ => needBond z) else x
    onZmc x (fun z now => homeApplied (wordAt z0) z now h)
  else if i = 19 then onZmc x (fun z now => regApplied (wordAt z0) z now)
  else x

/-- Islands of the SET in progress that have not acknowledged. -/
def setLeft (z : Zmc) : List Nat := z.setu.named.filter (fun i => islPowered z i)

/-- Every named island has acknowledged: set_busy clears and set_done is posted (R40). -/
def setFinish (x : Sys) : Sys := onZmc x (fun z now => post { z with setu := { z.setu with busy := false, named := [], snap := [] } } now (zmcBase + 0x18) 0)

/-- SET_APPLY. -/
def setApplyAt (x : Sys) (i : Nat) : Sys := if x.z.setu.busy && (setLeft x.z).contains i then applyIsl x i else x

/-- SET_COMPLETE. -/
def setCompleteNow (x : Sys) : Sys := if x.z.setu.busy && (setLeft x.z).isEmpty then setFinish x else x

/-- The SET in progress runs to its end. -/
def setDrain (x : Sys) : Sys := if x.z.setu.busy then setFinish ((setLeft x.z).foldl applyIsl x) else x

/-- One SET that a mailbox command issues: it waits for the one in progress (R42) and is over before the command answers (R40, R75).
Answers whether it was accepted. -/
def potSetNow (x : Sys) (src mask : Nat) : Sys × Bool :=
  let x := setDrain x
  let y := setWrite x 0 src (BitVec.ofNat 32 mask)
  (setDrain y, y.z.setu.busy)

/-! ### The Plumb check -/

/-- The BUF bytes of every word of a lap, non-BUF fields as zero (R47); islands without power give zero words. -/
def plumbBytes (z : Zmc) : List Byte :=
  ((List.range 25).filter (fun i => decide (16 ≤ i) || present z.boot.variant i)).flatMap (fun i =>
    (bufWords i).flatMap (fun off =>
      if islPowered z i then wordBytes (bufMerge 0 (wordAt z off) off) else [0, 0, 0, 0]))

/-- CRC-32C of a lap (R47). -/
def plumbCrc (z : Zmc) : Word := crc32c (plumbBytes z)

/-- Length of a lap (R47). -/
def lapTu (z : Zmc) : Nat := 2 * plumbWords z * tuSck

/-- Commit a reference, or withdraw it with 0 (R49). -/
def plumbCommit (z : Zmc) (v : Word) : Zmc := putWord z (zmcBase + 0x0218) v

/-- PLUMB_LAP_END: the lap's result is kept and compared with the reference (R47, R49). -/
def plumbLapEnd (z : Zmc) (now : Nat) : Zmc :=
  if getF z (zmcBase + 0x0200) 0 0 = 0 ∨ now < z.plumb.lapStart + lapTu z then z
  else
    let v := plumbCrc z
    let z := bump (putWord z (zmcBase + 0x0210) v) now (zmcBase + 0x0228)
    let z := { z with plumb := { z.plumb with lapStart := now, lastLap := now } }
    let r := wordAt z (zmcBase + 0x0218)
    if r = 0 ∨ r = v then z else evPost (post z now (zmcBase + 0x0208) 0) now 0x40 19 255 (fmtC 255 0 0 0)

/-- PLUMB_STALL: no lap has completed for 1 ms (R48). The count starts again at each post, so stalled is posted again after every further 1 ms
without a lap (DESIGN CHOICE, log entry 87). -/
def plumbStall (z : Zmc) (now : Nat) : Zmc :=
  if getF z (zmcBase + 0x0200) 0 0 = 0 ∨ now < z.plumb.lastLap + tuPerMs then z
  else post { z with plumb := { z.plumb with lastLap := now } } now (zmcBase + 0x0208) 2

/-- Potrie commits the reference of the words now active, and audits it (R49). -/
def refCommit (z : Zmc) (now : Nat) : Zmc :=
  let v := plumbCrc z
  audit (plumbCommit z v) ⟨pkgNs z now, 0, 0, 7, 0, 0, 3, wordsDg [wordAt z (zmcBase + 0x0218)], wordsDg [v]⟩

/-- Potrie's own changes `own` are audited, and the reference that holds them is committed and audited (R49, R67). -/
def potCommit (own : List (Nat × Word)) (z : Zmc) (now : Nat) : Zmc :=
  let mask := (List.range 25).foldl (fun a i => if own.any (fun p => ownerOf p.1 == i) then a + 2 ^ i else a) 0
  let z := audit { z with plumb := { z.plumb with own := [], lapStart := now } }
    ⟨pkgNs z now, 0, 0, 7, 0, mask, 2, wordsDg (own.map (fun p => p.2)), wordsDg (own.map (fun p => wordAt z p.1))⟩
  refCommit z now

/-- Potrie has changed BUF values on its own initiative: the change and the new reference are audited, and the lap starts again
(R48, R49, R79). -/
def potFinish (x : Sys) : Sys :=
  if x.z.plumb.own.isEmpty ∨ potrieOn x.z = false then x else onZmc x (potCommit x.z.plumb.own)

end Sys2Proof.Machine
end

