-- ==== Sys2Proof/Machine/Bond.lean ====
section
/-! DEFINITION. The Bond table (R51 to R59): its records from the state, its header, and a regeneration. -/

namespace Sys2Proof.Machine

/-- Little-endian bytes of a number. -/
def leBytes (k v : Nat) : List Byte := natBytes k v

/-- A record: header word and body, padded with zeros to its length (Table 3-2). -/
def bondRec (ty len : Nat) (body : List Byte) : List Byte :=
  (leBytes 4 (ty + 256 + len * 65536) ++ body ++ List.replicate len 0).take len

/-- Islands of the fused variant. -/
def bondIslands (z : Zmc) : List Nat := (List.range 25).filter (fun i => decide (16 ≤ i) || present z.boot.variant i)

/-- Configured clock of an island in MHz. -/
def clkMhz (z : Zmc) (i : Nat) : Nat := 84000 / islTu z i

/-- Supply domain of an island (Table 1-1). -/
def domainOf (i : Nat) : Nat := if i < 16 then 0 else if i < 18 then 1 else if i = 20 ∨ i = 21 then 3 else 2

/-- Island record. -/
def islandRec (z : Zmc) (i : Nat) : List Byte :=
  let on := islPowered z i
  bondRec 1 16 (leBytes 4 (i + (if on then 1 else 4) * 256 + (if on then clkMhz z i else 0) * 65536) ++ leBytes 4 (domainOf i))

/-- Status of a course: 1 active, 2 degraded, 3 fenced (R58, R295). -/
def crsStatus (z : Zmc) (c : CourseId) : Nat :=
  let i := z.cinfo[c]
  if i.fence ≠ 0 then 3 else if i.degraded ∨ i.mode ≠ 0 then 2 else 1

/-- Capacity in MiB, zero until trained (R59). -/
def capMib (i : CInfo) : Nat := capBytes i / 2 ^ 20

/-- Course record. -/
def courseRec (z : Zmc) (c : CourseId) : List Byte :=
  let i := z.cinfo[c]
  let rate := if i.trained then i.rate else 0
  bondRec 2 32
    (leBytes 4 (c.val + crsStatus z c * 256 + i.mode * 65536 + i.fence * 16777216)
    ++ leBytes 4 (rate + c.val / 8 * 65536 + c.val / 2 * 16777216)
    ++ leBytes 4 (192 + 128 * 65536)
    ++ leBytes 4 (4 + 128 * 256 + getF z (crsBase c.val + 0x1018) 6 0 * 65536 + 22 * 16777216)
    ++ leBytes 4 (capMib i))

/-- Default base, stride, count and class map of a block kind (Table 22-1). -/
def blkRow (k : Nat) : Nat × Nat × Nat × Nat :=
  if k = 1 then (zmcBase, 0, 1, 0xBF)
  else if k = 2 then (mbxBase, 0, 1, 0x5E)
  else if k = 3 then (homeBase 0, 0x20000, 2, 0x1F)
  else if k = 4 then (bayBase 0, 0x1000, 8, 0x5F)
  else if k = 5 then (crsBase 0, 0x40000, 16, 0x5F)
  else if k = 6 then (hodBase, 0, 1, 0x1D)
  else (secBase, 0, 1, 0x5F)

/-- Instances of a kind that are backed (R404). -/
def instMask (z : Zmc) (k : Nat) : Nat :=
  (List.range (blkRow k).2.2.1).foldl (fun a i =>
    let on := if k = 4 then present z.boot.variant (2 * i) || present z.boot.variant (2 * i + 1) else if k = 5 then powered z (toCrs i) else true
    if on then a + 2 ^ i else a) 0

/-- Backed words of an instance: registers, and the memories behind offsets. -/
def blkWords (k : Nat) : Nat :=
  (blockRegs k 0).length + (if k = 2 then 6 * 33 + 2048 + 8192 else if k = 6 then 1024 + 1024 else if k = 7 then 512 else 0)

/-- Register block record. -/
def blockRec (z : Zmc) (k : Nat) : List Byte :=
  let r := blkRow k
  bondRec 3 32 (leBytes 4 (k + r.2.2.1 * 256 + r.2.2.2 * 65536) ++ leBytes 4 r.1 ++ leBytes 4 r.2.1 ++ leBytes 4 (instMask z k) ++ leBytes 4 (blkWords k))

/-- Counter groups that users may be granted (R350). -/
def userOk (i : Nat) : Bool := i != 21 && i != 22 && i != 23

/-- Counter group record. -/
def ctrRec (i : Nat) : List Byte :=
  bondRec 4 16 (leBytes 4 (i + ctrNum i * 256 + 48 * 65536 + (if userOk i then 16777216 else 0)) ++ leBytes 4 (ctrBase i) ++ leBytes 4 (snapOff i))

/-- The image that runs. -/
def actBank (z : Zmc) : Bank := z.mgt.banks[toHome z.mgt.active]
/-- The other image bank. -/
def inactBank (z : Zmc) : Bank := z.mgt.banks[toHome (1 - z.mgt.active)]

/-- Mailbox record. -/
def mbxRec (z : Zmc) (m : MbxId) : List Byte :=
  bondRec 5 16 (leBytes 4 (m.val + bit (mbxEnabled z m) * 256 + (actBank z).lvlMin * 65536 + (actBank z).lvlMax * 16777216)
    ++ leBytes 4 (mbxBase + 0x100 + 0x100 * m.val) ++ leBytes 4 64)

/-- Courses that are present and not fenced. -/
def liveList (z : Zmc) : List CourseId := (List.finRange 16).filter (fun c => liveCrs z c)

/-- Feature record. -/
def featRec (z : Zmc) : List Byte :=
  let fr := (liveList z).all (fun c => getF z (crsBase c.val + 0x2000) 0 0 == 1)
  let rs := (List.finRange 16).any (fun c => powered z c && getF z (crsBase c.val + 0x1800) 0 0 == 1)
  let pc := getF z (zmcBase + 0x0C00) 1 0
  bondRec 6 16 (leBytes 4 (bit fr + 2 + pc * 4 + bit rs * 16 + bit z.rg.sealed * 32) ++ leBytes 4 1024)

/-- Firmware record. -/
def fwRec (z : Zmc) : List Byte :=
  bondRec 7 32 (leBytes 4 (z.mgt.active + z.pair.lvlRun * 256) ++ leBytes 4 (actBank z).ver
    ++ leBytes 4 (if (inactBank z).valid then (inactBank z).ver else 0) ++ leBytes 4 (actBank z).build.toNat)

/-- DRAM topology record, every field zero until the course is trained (R59). -/
def dramRec (z : Zmc) (c : CourseId) : List Byte :=
  let i := z.cinfo[c]
  let mark (b : Nat) : Byte :=
    let w := wordAt z (crsBase c.val + 0x1808 + b / 4 * 4)
    if bitsOf w (8 * (b % 4) + 7) (8 * (b % 4) + 7) = 1 then BitVec.ofNat 8 (128 + bitsOf w (8 * (b % 4) + 3) (8 * (b % 4))) else 0
  bondRec 8 32 (if i.trained then
      leBytes 4 (c.val + i.ranks * 256 + i.dies * 65536 + i.density * 16777216)
      ++ leBytes 4 (i.rate + 10 * 65536 + getF z (crsBase c.val + 0x1800) 0 0 * 16777216) ++ (List.range 8).map mark
    else [])

/-- Interleave record. -/
def ilvRec (i : Ilv) : List Byte :=
  bondRec 9 48 (leBytes 4 (i.ways + i.gran * 256) ++ leBytes 8 i.base ++ leBytes 8 i.size ++ i.way.map (BitVec.ofNat 8))

/-- Limits record. -/
def limRec (z : Zmc) : List Byte :=
  let ctrs := (bondIslands z).foldl (fun a i => a + ctrNum i) 0
  let regs := (List.range 7).foldl (fun a k => a + blkWords (k + 1) * ((List.range 16).filter (fun i => (instMask z (k + 1)).testBit i)).length) 0
  bondRec 10 32 (leBytes 4 (plumbWords z + ctrs * 65536) ++ leBytes 4 (256 + 1024 * 65536) ++ leBytes 4 (64 + 32 * 256 + 64 * 65536 + 8 * 16777216)
    ++ leBytes 4 regs)

/-- Every record in order, the end record last (R57). -/
def bondRecs (z : Zmc) : List (List Byte) :=
  let crs := (List.finRange 16).filter (fun c => present z.boot.variant c.val)
  (bondIslands z).map (islandRec z) ++ crs.map (courseRec z) ++ (List.range 7).map (fun k => blockRec z (k + 1)) ++ (bondIslands z).map ctrRec
  ++ (List.finRange 6).map (mbxRec z) ++ [featRec z, fwRec z] ++ (liveList z).map (dramRec z)
  ++ (((List.range 4).map (fun r => ilvOf (wordAt z) 0 r)).filter (fun i => i.size != 0)).map ilvRec ++ [limRec z, bondRec 0xFF 16 []]

/-- The table's bytes with the generation as zero and its crc (R52, R53). -/
def bondBytes (z : Zmc) : List Byte :=
  let rs := bondRecs z
  let body := rs.flatten
  let hdr (crc : Word) : List Byte :=
    leBytes 4 0x444E425A ++ leBytes 4 (2 + 256 + 64 * 65536) ++ leBytes 4 (64 + body.length) ++ leBytes 4 0 ++ wordBytes crc
    ++ leBytes 4 rs.length ++ leBytes 4 0x11 ++ leBytes 4 z.boot.variant ++ List.replicate 32 0
  hdr (crc32c (hdr 0 ++ body)) ++ body

/-- Potrie rewrites the table: the generation passes through an odd value to the next even one, and the event is posted (R54, R56). -/
def bondRewrite (z : Zmc) (now : Nat) : Zmc :=
  let g := z.bond.gen + 2#32
  let z := { z with bond := { bytes := bondBytes z, gen := g, dirty := false } }
  potPost z now 2 18 255 [g]

/-- BOND_REGENERATE: a change of a value that a record holds makes Potrie regenerate the table, once it is published and outside an
activation window (R56). -/
def bondRegen (z : Zmc) (now : Nat) : Zmc :=
  if z.bond.dirty && z.bond.gen != 0 && potrieOn z && z.boot.hold == 0 then bondRewrite z now else z

end Sys2Proof.Machine
end

