-- ==== Sys2Proof/Machine/Keys.lean ====
section
/-! DEFINITION. The key store (R274 to R280, R303, R308). -/

namespace Sys2Proof.Machine

/-- The Security island invalidates a slot in all eight engine caches (R280). -/
def keyInval (z : Zmc) (slot : Nat) : Zmc := { z with keys := { z.keys with cache := z.keys.cache.map (fun l => l.filter (fun k => k != slot)) } }

/-- Erase a slot (R280). -/
def keyDrop (z : Zmc) (slot : Nat) : Zmc := keyInval { z with keys := { z.keys with slots := tblDel z.keys.slots slot } } slot

/-- Load a slot (R279, R280). -/
def keyPut (z : Zmc) (slot : Nat) (k : KeySlot) : Zmc := keyInval { z with keys := { z.keys with slots := tblPut z.keys.slots slot k } } slot

/-- Empty every slot (R308). -/
def keyZero (z : Zmc) : Zmc := { z with keys := { z.keys with slots := [], cache := Vector.replicate 8 [] } }

/-- Digest of a slot: the wrapped blob last loaded, zero when it is empty (R394). -/
def keyDg (z : Zmc) (slot : Nat) : Word := match tblFind z.keys.slots slot with | some k => digest32 k.blob | none => 0

/-- A secure write of SEC_KEY_VALIDk: every bit written as 1 erases its slot (Table 13-4, R280). -/
def keyValidWrite (z : Zmc) (k : Nat) (v : Word) : Zmc :=
  (List.range 32).foldl (fun z i => if v.getLsbD i then keyDrop z (32 * k + i) else z) z

end Sys2Proof.Machine
end

