-- ==== Sys2Proof/Machine/Pair.lean ====
section
/-! DEFINITION. Quoin pairs (19_quoin_pair_and_mixed_versions.md): range states, mirror messages, resync, parity faults and the hello
exchange. -/

namespace Sys2Proof.Machine

/-- A range descriptor number. -/
def toMir (r : Nat) : Fin 8 := toFin 8 (by decide) r

/-- Change one range. -/
def modMir (z : Zmc) (r : Nat) (f : Mir → Mir) : Zmc := { z with pair := { z.pair with mirs := modV z.pair.mirs (toMir r) f } }

/-- Descriptor `r` as it is active. -/
def mirOf (z : Zmc) (r : Nat) : MirDesc := mirDesc (wordAt z) r

/-- quoin_en. -/
def quoin (z : Zmc) : Bool := getF z (zmcBase + 0x0C00) 0 0 == 1

/-- ZMC_PAIR_STS events. -/
def pairSts (z : Zmc) (now b : Nat) : Zmc := post z now (zmcBase + 0x0C08) b

/-- The range goes to SOLO. A pull cut short loses every line not yet copied (R372). -/
def goSolo (z : Zmc) (r : Nat) : Zmc :=
  let m := z.pair.mirs[toMir r]
  let z := { z with pair := { z.pair with flight := z.pair.flight.filter (fun f => f.r != r) } }
  if m.st = 4 ∧ m.pull then modMir z r (fun m => { m with st := 2, fo := 0, pull := false, lose := true, lpos := m.pos, kept := [] })
  else modMir z r (fun m => { m with st := 2, fo := 0, pull := false })

/-- Ranges MIRRORED, FAILOVER or RESYNC, and copies MIRRORED, go to SOLO (Table 19-1). -/
def allSolo (z : Zmc) : Zmc :=
  (List.range 8).foldl (fun z r => let st := z.pair.mirs[toMir r].st; if st = 1 ∨ st = 3 ∨ st = 4 then goSolo z r else z) z

/-- The ranges of one role go to SOLO. -/
def roleSolo (z : Zmc) (role : Nat) : Zmc :=
  (List.range 8).foldl (fun z r =>
    let st := z.pair.mirs[toMir r].st
    if (mirOf z r).role = role ∧ (st = 1 ∨ st = 3 ∨ st = 4) then goSolo z r else z) z

/-- A range begins its resync. -/
def startResync (z : Zmc) (r : Nat) (pull : Bool) : Zmc :=
  modMir z r (fun m => { m with st := 4, fo := 0, pull := pull, pos := Vector.replicate 2 0, frs := [] })

/-- A message arrived at a level that the running image does not accept: it is dropped, counted and treated as a split (R378). -/
def lvlOk (z : Zmc) (lvl : Nat) : Bool := decide ((actBank z).lvlMin ≤ lvl ∧ lvl ≤ (actBank z).lvlMax)

/-- Split (R377). -/
def splitPair (z : Zmc) (now : Nat) : Zmc :=
  let z := allSolo { z with pair := { z.pair with st := 3 } }
  potPost (pairSts z now 1) now 0x51 18 255 [BitVec.ofNat 32 (z.pair.lvlRun + getF z (zmcBase + 0x0C00) 7 5 * 256)]

/-- Discard a message at a level not accepted (R378). -/
def dropLevel (z : Zmc) (now : Nat) : Zmc := splitPair (bump z now (zmcBase + 0x0D68)) now

/-! ### Hello -/

/-- CRC-32C of three 64-bit values and a byte (R401). -/
def mirCrc (a b c : Nat) (r : Nat) : Word := crc32c (leBytes 8 a ++ leBytes 8 b ++ leBytes 8 c ++ leBytes 1 r)

/-- The digest a hello carries for range `r` (R401). -/
def sentDg (z : Zmc) (r : Nat) : Word :=
  let d := mirOf z r
  if d.size = 0 ∨ !d.en then 0 else mirCrc d.peer d.base d.size (1 - d.role)

/-- The digest that a matching range of the partner sends. -/
def ownDg (z : Zmc) (r : Nat) : Word := let d := mirOf z r; mirCrc d.base d.peer d.size d.role

/-- Potrie sends a hello at its lowest level (R377, R402). -/
def sendHello (z : Zmc) : Zmc :=
  if member z then
    let b := actBank z
    let z := send z (.hello b.lvlMin (BitVec.ofNat 32 (b.lvlMin + b.lvlMax * 256 + getF z (zmcBase + 0x0C00) 4 2 * 65536) :: (List.range 8).map (sentDg z)))
    if z.pair.st = 0 ∨ z.pair.st = 3 then { z with pair := { z.pair with st := 1 } } else z
  else z

/-- Every region of a range is FRESH at this end since cold reset. -/
def rangeFresh (x : Sys) (d : MirDesc) : Bool :=
  match findIlv x.z 0 d.base with
  | none => false
  | some i =>
      i.courses.all (fun c =>
        let lo := (d.base - i.base) / (max i.ways 1 * 2 ^ 22)
        let hi := lo + d.size / (max i.ways 1 * 2 ^ 22)
        let fm := x.crs[toCrs c].fm
        let ex := fm.ex.filter (fun p => lo ≤ p.1 ∧ p.1 < hi)
        if fm.dflt = .fresh then ex.all (fun p => p.2 == .fresh) else decide ((ex.filter (fun p => p.2 == .fresh)).length = hi - lo))

/-- Outcome of a hello for one range in use (R366, Table 19-1). Whether every region of the partner's side is still FRESH is a free value:
no message says it. -/
def helloRange (x : Sys) (digs : List Word) (r : Nat) : Sys :=
  let z := x.z
  let d := mirOf z r
  let st := z.pair.mirs[toMir r].st
  if !d.en ∨ d.size = 0 then x
  else if !digs.contains (ownDg z r) then
    let z := if st = 0 then z else goSolo z r
    { x with z := potPost z x.now 0x54 18 255 [BitVec.ofNat 32 r] }
  else if d.role = 1 then (if st = 0 ∨ st = 2 then { x with z := modMir z r (fun m => { m with st := 1 }) } else x)
  else if st = 0 then
    let peer := (Config.freeWord x.free).getLsbD 0
    let x := { x with free := x.free + 1 }
    if rangeFresh x d ∧ peer then { x with z := modMir x.z r (fun m => { m with st := 1, fo := 0, pull := false }) }
    else { x with z := startResync x.z r false }
  else if st = 2 then { x with z := startResync z r false }
  else x

/-- Highest level of the pair, and the level below which there is none in common, over every package heard from (R377). -/
def pairLvl (z : Zmc) : Nat × Nat :=
  z.pair.heard.foldl (fun p h => (min p.1 h.2.2, max p.2 h.2.1)) ((actBank z).lvlMax, (actBank z).lvlMin)

/-- PAIR_HELLO's effect: levels, membership state and ranges (R377, R378, R366). -/
def takeHello (x : Sys) (lmin lmax pkg : Nat) (digs : List Word) : Sys :=
  let x := onZmc x (fun z _ => { z with pair := { z.pair with heard := tblPut z.pair.heard pkg (lmin, lmax), peerMin := lmin, peerMax := lmax } })
  let (hi, lo) := pairLvl x.z
  if hi < lo then onZmc x splitPair
  else
    let old := x.z.pair.lvlRun
    let x := onZmc x (fun z now =>
      let z := { z with pair := { z.pair with lvlRun := hi } }
      let z := if hi = old then z else needBond (pairSts z now 5)
      let z := if z.pair.st = 2 then z else pairSts z now 0
      let z := if z.pair.st = 2 ∧ hi = old then z else potPost z now 0x50 18 255 [BitVec.ofNat 32 (hi + pkg * 256)]
      if z.pair.st = 4 then z else { z with pair := { z.pair with st := 2 } })
    if quoin x.z ∧ pkg = getF x.z (zmcBase + 0x0C00) 7 5 then
      let x := { x with z := { x.z with pair := { x.z.pair with digs := digs } } }
      (List.range 8).foldl (fun x r => helloRange x digs r) x
    else x

/-- PEER_NOTICE's effect (R374, R376): 1 retain, 2 resync ready, 3 copy suspect. -/
def takeNotice (z : Zmc) (kind : Nat) : Zmc :=
  if kind = 2 then
    if z.pair.fault.isSome then { z with pair := { z.pair with ready := true } }
    else (List.range 8).foldl (fun z r =>
      if z.pair.mirs[toMir r].st = 2 then (if (mirOf z r).role = 0 then startResync z r false else modMir z r (fun m => { m with st := 1 })) else z) z
  else allSolo z

/-! ### Pair faults -/

/-- Live courses as a mask. -/
def liveMask (z : Zmc) : BitVec 16 := BitVec.ofNat 16 ((liveList z).foldl (fun a c => a + 2 ^ c.val) 0)

/-- A pair fault on this ZMC (R374). -/
def pairFault (z : Zmc) (now off : Nat) : Zmc :=
  let live := liveMask z
  let z := (List.range 8).foldl (fun z r =>
    if (mirOf z r).role = 0 ∧ z.pair.mirs[toMir r].st = 1 then modMir z r (fun m => { m with st := 3, fo := live }) else z) z
  let z := evPost (pairSts z now 2) now 0x43 19 255 (fmtC 255 0 off 0)
  let z := send z (.faultNotice (if 7 ≤ z.pair.lvlRun then off else 0) z.pair.lvlRun)
  { z with pair := { z.pair with st := 4, fault := some off } }

/-- One active BUF word with wrong parity (R50). -/
def parityBad (z : Zmc) (now i off : Nat) : Zmc :=
  if (bufWords i).contains off = false then z
  else
    let z := post z now (blkBase off + 8) 1
    let z := post (putWord z (zmcBase + 0x0230) (BitVec.ofNat 32 off)) now (zmcBase + 0x0208) 1
    let z := evPost z now 0x41 i (if i < 16 then i else 255) (fmtC 255 0 off 0)
    if quoin z then pairFault z now off else z

/-- PARITY_CHECK. -/
def parityCheck (z : Zmc) (now i : Nat) (bad : List Nat) : Zmc :=
  if islPowered z i ∧ z.boot.hold = 0 ∧ z.pwr.st < 3 then bad.foldl (fun z off => parityBad z now i off) z else z

/-- FAULT_NOTICE from the partner (R374, R375). -/
def faultNotice (z : Zmc) (now off lvl : Nat) : Zmc :=
  if !quoin z then z
  else if !lvlOk z lvl then dropLevel z now
  else
    let z := if 7 ≤ lvl then audit z ⟨pkgNs z now, 0, 6, 7, 0, off, 3, 0, 0⟩ else z
    let own := z.pair.fault.isSome && (List.range 8).any (fun r => (mirOf z r).role == 0 && z.pair.mirs[toMir r].st == 3)
    if own then evPost (pairSts (allSolo z) now 3) now 0x52 19 255 (fmtC 255 0 0 0)
    else roleSolo z 0

/-- The ranges begin their resync and the partner is told (R374). -/
def reapplyDone (z : Zmc) : Zmc :=
  let ready := z.pair.ready
  let z := needBond { z with pair := { z.pair with fault := none, ready := false, st := if z.pair.st = 4 then 2 else z.pair.st } }
  let z := (List.range 8).foldl (fun z r =>
    let st := z.pair.mirs[toMir r].st
    if (mirOf z r).role ≠ 0 then z
    else if st == 3 then startResync z r true
    else if st == 2 && ready then startResync z r false
    else z) z
  send z (.peerNotice 2)

/-- FAULTED_WORD_REAPPLY: Potrie applies the word again from its pending copy by a SET of the owning island, commits a new reference and begins to
resync (R374). A SET that a failed check rejects (R39) re-applies nothing, and the fault stays. -/
def reapply (x : Sys) : Sys :=
  match x.z.pair.fault with
  | none => x
  | some off =>
      if potrieOn x.z = false then x
      else
        let (y, ok) := potSetNow x 7 (2 ^ ownerOf off)
        if ok then onZmc y (fun z now => reapplyDone (refCommit z now)) else y

/-- The range of a mirror descriptor lies on course `c`. -/
def mirOnCourse (z : Zmc) (c : CourseId) (d : MirDesc) : Bool :=
  match findIlv z 0 d.base with
  | some i => i.courses.contains c.val
  | none => false

/-- Range `r` when course `c` is fenced: this ZMC's own range goes over to the partner's copies (Table 19-1). -/
def rangeFenced (z : Zmc) (c : CourseId) (r : Nat) : Zmc :=
  let d := mirOf z r
  let m := z.pair.mirs[toMir r]
  if d.role = 0 ∧ mirOnCourse z c d ∧ (m.st = 1 ∨ m.st = 3) then modMir z r (fun m => { m with st := 3, fo := m.fo ||| (1#16 <<< c.val) }) else z

/-- Range `r` holds the partner's copies on course `c`. -/
def copyOnCourse (z : Zmc) (c : CourseId) (r : Nat) : Bool :=
  let d := mirOf z r
  d.role == 1 && d.en && mirOnCourse z c d && z.pair.mirs[toMir r].st == 1

/-- A course is fenced: MIRRORED primary ranges with lines on it fail over, and a partner whose copy it holds is told (R372). -/
def pairFenced (z : Zmc) (c : CourseId) : Zmc :=
  let z := (List.range 8).foldl (fun z r => rangeFenced z c r) z
  if (List.range 8).any (fun r => copyOnCourse z c r) then send z (.peerNotice 3) else z

/-- A course is back in use: ranges in FAILOVER pull the partner's lines (Table 19-1). -/
def pairRestored (z : Zmc) (c : CourseId) : Zmc :=
  (List.range 8).foldl (fun z r => let m := z.pair.mirs[toMir r]; if m.st = 3 ∧ m.fo.getLsbD c.val then startResync z r true else z) z

/-! ### Mirror messages -/

/-- A mirror request becomes a request of P20 in class HI, stream 0, measured like any other (R106), without directory or encryption (R368,
R369). -/
def mirrorReq (z : Zmc) (now : Nat) (kind : ReqKind) (addr : BitVec 64) (d : Line) (poison : Bool) (lvl : Nat) : Zmc :=
  if !quoin z then z
  else if !lvlOk z lvl then dropLevel z now
  else
    match ([0, 1] : List HomeId).findSome? (fun h => (decodeAddr z h addr.toNat).map (fun p => (h, p))) with
    | none => bumpN z now (zmcBase + 0x0D60) 0 1
    | some (_, c, loc) =>
        if (mirFind z 1 addr.toNat).isNone then bumpN z now (zmcBase + 0x0D60) 0 1
        else
          let b := bayOf c
          let r : FabReq := { port := 20, kind, addr, lines := 1, cls := 1, colour := 0, stream := 0, key := 0, tag := 0, data := d, poison, bay := b }
          if !mayRequest z 20 b then z
          else
            let (z, cls) := police z now (bayHome b) b r
            bayEnqueue (wakeHomes z) now b r cls (some (c, loc)) 0 true

/-- MIRROR_WRITE. -/
def mirrorWrite (z : Zmc) (now : Nat) (addr : BitVec 64) (d : Line) (poison : Bool) (lvl : Nat) : Zmc := mirrorReq z now .wrFull addr d poison lvl
/-- MIRROR_READ. -/
def mirrorRead (z : Zmc) (now : Nat) (addr : BitVec 64) (lvl : Nat) : Zmc := mirrorReq z now .rdCur addr 0 false lvl

/-- The partner's address of a line, by the primary range that holds it. -/
def atPeer (z : Zmc) (a : BitVec 64) : Option (BitVec 64) := (mirFind z 0 a.toNat).map (fun r => peerAddr z r (a &&& ~~~0x3F#64))

/-- A line of a range has been copied: it leaves flight. -/
def landLine (z : Zmc) (a : Nat) : Zmc := { z with pair := { z.pair with flight := removeFirst (fun f => f.addr == a) z.pair.flight } }

/-- Lines of a range end where its size ends in both homes, with nothing in flight: MIRRORED, resync_done (R372). -/
def resyncEnd (z : Zmc) (now r : Nat) : Zmc :=
  let m := z.pair.mirs[toMir r]
  let size := (mirOf z r).size
  if m.st = 4 ∧ size ≤ m.pos[0] ∧ size ≤ m.pos[1] ∧ z.pair.flight.all (fun f => f.r != r) then
    potPost (pairSts (modMir z r (fun m => { m with st := 1, pull := false, frs := [] })) now 4) now 0x53 18 255 [BitVec.ofNat 32 r]
  else z

/-- MIRROR_ACK: the line is free, and a write that waits for the acknowledgement completes (R367). -/
def mirrorAck (z : Zmc) (now : Nat) (addr : BitVec 64) : Zmc :=
  match z.pair.acks.find? (fun a => atPeer z a == some addr) with
  | none => z
  | some a =>
      let z := { z with pair := { z.pair with acks := removeFirst (fun x => x == a) z.pair.acks } }
      let z := landLine z a.toNat
      let z := match mirFind z 0 a.toNat with | some r => resyncEnd z now r | none => z
      match ([0, 1] : List HomeId).findSome? (fun h => z.homes[h].hrq.find? (fun r => r.ph == .peer && isWr r.kind && r.addr.toNat / 64 == a.toNat / 64)) with
      | some r => respondWr z now r false
      | none => z

/-- The bytes of a fetch: the requester's answer, and the local line written again unless written since (R369). -/
def fetchDone (z : Zmc) (now : Nat) (r : HReq) (d : Option Line) (fetch : Bool) : Zmc :=
  let key := r.crs.val * 2 ^ 33 + r.line
  let wasStale := z.pair.stale.contains key
  let z := { z with pair := { z.pair with stale := z.pair.stale.filter (fun k => k != key) } }
  match d with
  | none => respondData (if fetch then bump z now (zmcBase + 0x0D50) else z) now r 0 true false
  | some d =>
      let z :=
        if fetch ∧ !wasStale then
          bump (memWrite z now r.crs { id := 0, write := true, line := r.line, data := d, poison := false, port := 24, wb := true, ftg := false }) now (zmcBase + 0x0D48)
        else z
      let (z, p, bad) := decryptLine z now r.crs r.key r.addr d
      respondData z now r p bad false

/-- MIRROR_READ_DATA: the answer to the oldest mirror read of that line, of a request (R369, R372) or of a pull (R373). -/
def mirrorData (z : Zmc) (now : Nat) (addr : BitVec 64) (d : Option Line) : Zmc :=
  match z.pair.reads.find? (fun p => atPeer z p.1 == some addr) with
  | none => z
  | some p =>
      let z := { z with pair := { z.pair with reads := removeFirst (fun q => q == p) z.pair.reads } }
      if p.2.1 = 0 then
        match ([0, 1] : List HomeId).findSome? (fun h => decodeAddr z h p.1.toNat) with
        | none => z
        | some (c, loc) =>
            if z.pair.flight.any (fun f => f.addr == p.1.toNat) then
              let w : JReq := { id := 0, write := true, line := loc / 64, data := d.getD 0, poison := d.isNone, port := 24, wb := true, ftg := false }
              let z := memWrite (landLine z p.1.toNat) now c w
              match mirFind z 0 p.1.toNat with | some r => resyncEnd z now r | none => z
            else z
      else
        match ([0, 1] : List HomeId).findSome? (fun h => z.homes[h].hrq.find? (fun r => r.rid == p.2.1 && r.ph == .peer && r.addr == p.1)) with
        | some r => fetchDone z now r d p.2.2
        | none => z

/-! ### Resync -/

/-- The first line of a range at or above an offset that home `h` serves. -/
def nextLine (z : Zmc) (h : HomeId) (d : MirDesc) : Nat → Nat → Option (Nat × CourseId × Nat)
  | 0, _ => none
  | k + 1, o =>
      if d.size ≤ o then none
      else match decodeAddr z h (d.base + o) with
        | some (c, loc) => some (o, c, loc)
        | none => nextLine z h d k (o + 64)

/-- The engine of home `h` takes the next line of range `r` (R373). -/
def resyncTake (x : Sys) (h : HomeId) (r : Nat) : Sys :=
  let z := x.z
  let d := mirOf z r
  let m := z.pair.mirs[toMir r]
  match nextLine z h d 2048 m.pos[h] with
  | none => onZmc x (fun z now => resyncEnd (modMir z r (fun m => { m with pos := modV m.pos h (fun p => if d.size ≤ p + 131072 then d.size else p + 131072) })) now r)
  | some (o, c, loc) =>
      if busyLine z h c (loc / 64) ∨ z.cinfo[c].fence ≠ 0 then x
      else
        let a := d.base + o
        let go (z : Zmc) : Zmc := modMir z r (fun m => { m with pos := modV m.pos h (fun _ => o + 64) })
        let fly (z : Zmc) : Zmc := { z with pair := { z.pair with flight := z.pair.flight ++ [⟨r, h.val, a, m.pull⟩] } }
        if m.pull then
          if m.frs.contains (c.val * 2 ^ 17 + loc / 2 ^ 22) then onZmc x (fun z now => resyncEnd (go z) now r)
          else onZmc x (fun z _ =>
            let z := send (go (fly z)) (.mirRead (peerAddr z r (BitVec.ofNat 64 a)) z.pair.lvlRun)
            { z with pair := { z.pair with reads := z.pair.reads ++ [(BitVec.ofNat 64 a, 0, false)] } })
        else
          let fresh := freshOn (cxOf x c) && regionOf (cxOf x c) (loc / 2 ^ 22) == .fresh
          if fresh ∧ 7 ≤ z.pair.lvlRun then
            onZmc x (fun z now =>
              let z := if loc % 2 ^ 22 = 0 then send z (.regionFresh (peerAddr z r (BitVec.ofNat 64 a)) z.pair.lvlRun) else z
              resyncEnd (go z) now r)
          else
            onZmc x (fun z now =>
              let rid := z.homes[h].ridNext
              let q : HReq :=
                { rid, port := 23, kind := .rdCur, crs := c, line := loc / 64, addr := BitVec.ofNat 64 a, cls := 1, key := 0, tag := 0, data := 0, poison := false
                  ph := .mem, dueAt := now, orphan := false, snps := [], snpData := none, byte := 0, grant := 0, mid := rid, ent := false, sent := true, need := false, spec := none
                  holdCnt := false, evCnt := false, pinCnt := false, mirror := true }
              let z := modHome z h (fun s => { s with ridNext := rid + 1, hrq := s.hrq ++ [q] })
              let z := takeEnt z c false 1
              go (fly (toCourse z now c { id := rid, write := false, line := loc / 64, data := 0, poison := false, port := 24, wb := false, ftg := false })))

/-- A line that a cut-short pull left without a good copy is stored as poison and counted (R372). -/
def loseLine (z : Zmc) (now : Nat) (h : HomeId) (r : Nat) : Zmc :=
  let d := mirOf z r
  let m := z.pair.mirs[toMir r]
  let step (o : Nat) (z : Zmc) : Zmc :=
    modMir z r (fun m =>
      let l := modV m.lpos h (fun _ => o)
      if d.size ≤ l[0] ∧ d.size ≤ l[1] then { m with lose := false, kept := [], lpos := l } else { m with lpos := l })
  match nextLine z h d 2048 m.lpos[h] with
  | none => step (if d.size ≤ m.lpos[h] + 131072 then d.size else m.lpos[h] + 131072) z
  | some (o, c, loc) =>
      if m.kept.contains (o / 64) then step (o + 64) z
      else
        let z := memWrite z now c { id := 0, write := true, line := loc / 64, data := 0, poison := true, port := 24, wb := true, ftg := false }
        step (o + 64) (bump z now (zmcBase + 0x0D58))

/-- Lines in flight per home (R373). -/
def inFlight (z : Zmc) (h : HomeId) : Nat := (z.pair.flight.filter (fun f => f.home == h.val)).length

/-- RESYNC_LINE: the home's engine takes its next line, lost lines first, ranges in descriptor order (R372, R373). -/
def resyncLine (x : Sys) (h : HomeId) : Sys :=
  let z := x.z
  if homesRun z = false then x
  else
    match (List.range 8).find? (fun r => z.pair.mirs[toMir r].lose && decide (z.pair.mirs[toMir r].lpos[h] < (mirOf z r).size)) with
    | some r => onZmc x (fun z now => loseLine z now h r)
    | none =>
        match (List.range 8).find? (fun r => z.pair.mirs[toMir r].st == 4 && decide (z.pair.mirs[toMir r].pos[h] < (mirOf z r).size)) with
        | some r => if inFlight z h < getF z (zmcBase + 0x0C00) 11 8 then resyncTake x h r else x
        | none => x

/-- REGION_FRESH from the partner: the region of the line becomes FRESH by the rule of R271, and a pull takes it as copied (R373). -/
def regionFresh (z : Zmc) (now : Nat) (addr : BitVec 64) (lvl : Nat) : Zmc :=
  if !quoin z ∨ lvl < 7 then z
  else if !lvlOk z lvl then dropLevel z now
  else
    match ([0, 1] : List HomeId).findSome? (fun h => decodeAddr z h addr.toNat) with
    | none => z
    | some (c, loc) =>
        let r := loc / 2 ^ 22
        let put (z : Zmc) : Zmc := { z with jclr := modV z.jclr c (fun l => l ++ [⟨0, r, r + 1⟩]) }
        match mirFind z 1 addr.toNat, mirFind z 0 addr.toNat with
        | some _, _ => put z
        | none, some k =>
            if z.pair.mirs[toMir k].st = 4 ∧ z.pair.mirs[toMir k].pull then put (modMir z k (fun m => { m with frs := (c.val * 2 ^ 17 + r) :: m.frs })) else z
        | none, none => z

/-! ### Port pins -/

/-- PORT_LIVE_RISE: the level of the pin; P20 is live only for a member of a pair or a board, and then says hello (Table 5-1, R377). The pins of P21
to P23 are ignored. While the ZMC is held or in RETAIN only the level is kept, and the ports follow it afterwards. -/
def portRise (z : Zmc) (now : Nat) (p : PortId) : Zmc :=
  if 21 ≤ p.val then z
  else
    let z := { z with pins := modV z.pins p (fun _ => true) }
    if closedUp z then z
    else if p.val < 20 then liveRise z now p
    else if member z then sendHello (liveRise z now p)
    else z

/-- PORT_LIVE_FALL: P20's loss takes every mirrored range to SOLO (R372). -/
def portFall (z : Zmc) (now : Nat) (p : PortId) : Zmc :=
  if 21 ≤ p.val then z
  else
    let z := { z with pins := modV z.pins p (fun _ => false) }
    if closedUp z then z
    else
      let z := liveFall z now p
      if p.val = 20 then allSolo z else z

end Sys2Proof.Machine
end

