-- ==== Sys2Proof/Machine/Debug.lean ====
section
/-! DEFINITION. The debug access port (R305 to R310): attach, consent tokens, lockout, the zeroing of the key store and the fall of the
level. -/

namespace Sys2Proof.Machine

/-- What Table 15-3 asks of an attach: 0 free, 1 a consent token, 2 never. -/
def attachNeed (lc lvl : Nat) : Nat :=
  if lc = 4 then 2 else if lc = 2 then 1 else if lc = 1 ∧ lvl = 2 then 1 else 0

/-- The level changes; a fall from INVASIVE ends P22's liveness, and the mailbox record follows (R65, R309). -/
def setLevel (z : Zmc) (now lvl : Nat) : Zmc :=
  let old := z.dbg.level
  let z := { z with dbg := { z.dbg with level := lvl } }
  let z := if (old = 0) ≠ (lvl = 0) then needBond z else z
  if old = 2 ∧ lvl < 2 then liveFall z now 22 else if lvl = 2 then liveRise z now 22 else z

/-- The event and the audit entry of an attach (R306, R308). -/
def attachLog (z : Zmc) (now lvl res : Nat) (granted zeroed : Bool) : Zmc :=
  let z := evPost z now 0x0060 22 255 [BitVec.ofNat 32 (lvl + bit granted * 4 + bit zeroed * 8)]
  audit z ⟨pkgNs z now, 0, 5, 6, res, 0, 6, 0, 0⟩

/-- A refused attach; the third within 60 s starts the lockout (R306). -/
def attachRefuse (z : Zmc) (now lvl res : Nat) (count : Bool) : Zmc :=
  let z := attachLog (post z now (secBase + 0x2010) 3) now lvl res false false
  if !count then z
  else
    let l := now :: z.dbg.refused.filter (fun t => decide (now < t + 60 * tuPerS))
    if 3 ≤ l.length then { z with dbg := { z.dbg with refused := [], lockTo := some (now + 60 * tuPerS) } }
    else { z with dbg := { z.dbg with refused := l } }

/-- Duration of the zeroing (R308). -/
def zeroTu : Nat := 2048 * tuSec

/-- A granted attach: OBSERVE at once, INVASIVE after the key store has been zeroed (R308). -/
def attachGrant (z : Zmc) (now lvl : Nat) : Zmc :=
  if lvl = 1 then attachLog (post (setLevel z now 1) now (secBase + 0x2010) 2) now 1 0 true false
  else let z := keyZero z; { z with dbg := { z.dbg with zero := some (now + zeroTu), cancel := false } }

/-- An attach with the token presented (R306, R307). -/
def attach (z : Zmc) (now lvl : Nat) (tok : BitVec 64) : Zmc :=
  let locked := match z.dbg.lockTo with | some t => decide (now < t) | none => false
  let need := attachNeed z.boot.lc lvl
  if locked then attachRefuse z now lvl 0x0B false
  else if need = 2 then attachRefuse z now lvl 0x06 true
  else if need = 0 then attachGrant z now lvl
  else
    match z.dbg.consent with
    | some k =>
        if k.tok = tok ∧ lvl ≤ k.lvl ∧ now < k.exp then attachGrant { z with dbg := { z.dbg with consent := none } } now lvl
        else attachRefuse z now lvl 0x0B true
    | none => attachRefuse z now lvl 0x0B true

/-- The token written in DBG_TOKEN, consumed by the attach (Table 15-9). -/
def attachNow (z : Zmc) (now lvl : Nat) : Zmc :=
  let tok := z.dbg.tokReg
  attach { z with dbg := { z.dbg with tokReg := 0 } } now lvl tok

/-- A write of level_req (R309): it raises by an attach, lowers at once, or cancels an attach that is zeroing the key store. -/
def levelReq (z : Zmc) (now lvl : Nat) : Zmc :=
  if lvl = 3 then z
  else if z.dbg.zero.isSome then
    if lvl = 2 then z
    else
      let z := { z with dbg := { z.dbg with cancel := true } }
      if lvl = 0 then setLevel z now 0 else z
  else if lvl ≤ z.dbg.level then (if lvl < z.dbg.level then setLevel z now lvl else z)
  else attachNow z now lvl

/-- KEY_ZERO_DONE: the zeroing runs to its end; the level rises unless the attach was cancelled (R308, R309). -/
def keyZeroDone (z : Zmc) (now : Nat) : Zmc :=
  match z.dbg.zero with
  | none => z
  | some t =>
      if now < t then z
      else
        let c := z.dbg.cancel
        let z := keyZero { z with dbg := { z.dbg with zero := none, cancel := false } }
        let z := post z now (secBase + 0x2010) 4
        if c then attachLog z now 2 0x0D false true
        else attachLog (post (setLevel z now 2) now (secBase + 0x2010) 2) now 2 0 true true

/-- DEBUG_CLOCK_LOSS: the level falls to CLOSED once the clock has been absent for 1 ms (R309). -/
def clockLoss (z : Zmc) (now ns : Nat) : Zmc :=
  if ns < 1000000 then z
  else
    let z := if z.dbg.zero.isSome then { z with dbg := { z.dbg with cancel := true } } else z
    if z.dbg.level = 0 then z else setLevel z now 0

/-- LOCKOUT_EXPIRY. -/
def lockoutEnd (z : Zmc) (now : Nat) : Zmc :=
  match z.dbg.lockTo with
  | some t => if t ≤ now then { z with dbg := { z.dbg with lockTo := none } } else z
  | none => z

/-- TOKEN_EXPIRY. -/
def tokenEnd (z : Zmc) (now : Nat) : Zmc :=
  match z.dbg.consent with
  | some k => if k.exp ≤ now then { z with dbg := { z.dbg with consent := none } } else z
  | none => z

end Sys2Proof.Machine
end

