-- ==== Sys2Proof/Machine/Hod.lean ====
section
/-! DEFINITION. General counters in level mode (R342), freeze (R346) and the Hod snapshot (R347 to R349). -/

namespace Sys2Proof.Machine

/-- Waiting buckets of a home. -/
def wheelCount (s : HomeSt) : Nat := (s.bkt.filter (fun b => b.2.wheel.isSome)).length

/-- The value of a level event (Table 17-1). -/
def levelVal (x : Sys) (i sel : Nat) : Nat :=
  let z := x.z
  if i < 16 then
    let c := x.crs[toCrs i]
    if sel = 1 then c.rdq.length
    else if sel = 2 then c.wrq.length
    else if sel = 3 then bit (c.mode == 2)
    else if sel = 4 then inorderNow c
    else if sel = 5 then c.retry[0].length + c.retry[1].length
    else if sel = 6 then c.lk.ends.buf.length
    else if sel = 7 then bit (c.rb[0].on || c.rb[1].on)
    else if sel = 8 then bit (c.sr.st != 0)
    else if sel = 9 then bit (c.lk.st != 2)
    else if sel = 10 then rndBusy c
    else if sel = 11 then c.claims.length
    else if sel = 12 then rptCount c (fun s => s != 0)
    else 0
  else if i < 18 then
    let h := toHome (i - 16)
    let s := z.homes[h]
    if sel = 1 then (s.hrq.filter (fun r => r.ph == .look)).length
    else if sel = 2 then s.fwb.length
    else if sel = 3 then (List.range 4).foldl (fun a k => a + z.bays[toBay (4 * h.val + k)].q.length) 0
    else if sel = 4 then (s.hrq.filter (fun r => r.ph == .look && r.pinCnt && (allocWay z h (dirIdx r.crs r.line).1).isNone)).length
    else if sel = 5 then wheelCount s
    else if sel = 6 then s.holds.length
    else 0
  else if i = 18 then
    if sel = 1 then ((List.finRange 6).filter (fun m => z.mgt.mbx[m].ph == .posted || z.mgt.mbx[m].ph == .running)).length
    else if sel = 2 then bit z.mgt.act.isSome
    else 0
  else if i = 19 then (if sel = 1 then bit z.setu.busy else if sel = 2 then z.mgt.fifo.length else 0)
  else if sel ≠ 1 then 0
  else if i = 20 then getF z (zmcBase + 0x0408) 7 0
  else if i = 22 then bit (z.dbg.level == 2)
  else if i = 23 then bit (z.boot.rtState == 2)
  else if i = 24 then bit z.hod.busy
  else 0

/-- The island's clock runs: a home that is gated (R312) and a course that is absent or powered off have none. -/
def clocked (z : Zmc) (i : Nat) : Bool := if i < 16 then powered z (toCrs i) else if i < 18 then !z.homes[toHome (i - 16)].gated else true

/-- Counters in mode 2 add their level for every cycle of their island between two instants (R342); nothing runs while only the always-readable
status set answers. -/
def settleLevels (x : Sys) (t : Nat) : Sys :=
  if x.z.hod.frozen ∨ closedUp x.z then x
  else
    { x with z := x.z.rg.lvl.foldl (fun z p =>
        let n := if !clocked z p.1 then 0 else levelVal x p.1 (getF z (ctrBase p.1 + 16 * p.2) 16 3) * (islCyc z p.1 t - islCyc z p.1 x.now)
        if n = 0 then z else ctrAdd z t p.1 p.2 n) x.z }

/-- A control word of a counter has been written: the list of counters in mode 2 follows. -/
def noteCtl (z : Zmc) (i k : Nat) : Zmc :=
  let l := z.rg.lvl.filter (fun p => p != (i, k))
  { z with rg := { z.rg with lvl := if getF z (ctrBase i + 16 * k) 1 0 = 2 then (i, k) :: l else l } }

/-- The island is sampled by a snapshot: present, not fenced, powered (R348). -/
def sampled (z : Zmc) (i : Nat) : Bool := if i < 16 then liveCrs z (toCrs i) else true

/-- Package time of island `i`'s sample. -/
def sampleNs (z : Zmc) (now i : Nat) : Nat := if i = 16 ∨ i = 17 then homeNs z (toHome (i - 16)) (fckCyc now) else pkgNs z now

/-- Two words of a 64-bit value at a byte offset of the buffer. -/
def bufWide (t : Tbl Word) (o v : Nat) : Tbl Word := tblStore 0 (tblStore 0 t (o / 4) (halfOf v 0)) (o / 4 + 1) (halfOf v 1)

/-- What a snapshot latches (Table 17-4), all but snap_seq. -/
def snapLatch (z : Zmc) (now : Nat) : Tbl Word :=
  let isl := (List.range 25).filter (sampled z)
  let n := ((List.range 25).filter (fun i => decide (16 ≤ i) || present z.boot.variant i)).foldl (fun a i => a + ctrNum i) 0
  let mask := isl.foldl (fun a i => a + 2 ^ i) 0
  let t : Tbl Word := tblStore 0 [] 1 (at_ 0 z.hod.trig ||| at_ 2 (bit z.hod.frozenAtTrig))
  let t := bufWide t 0x008 (pkgNs z now)
  let t := tblStore 0 (tblStore 0 t 4 (BitVec.ofNat 32 mask)) 5 (BitVec.ofNat 32 n)
  isl.foldl (fun t i =>
    let t := (List.range (ctrNum i)).foldl (fun t k => bufWide t (snapOff i + 8 * k) (cntEntry z i k)) t
    bufWide t (0xC00 + 8 * i) (sampleNs z now i)) t

/-- A trigger: 1 a snap write, 2 a freeze with snap_on_freeze (R347). -/
def snapTrig (z : Zmc) (now why : Nat) : Zmc :=
  if z.hod.busy ∨ z.boot.hodOk = false then bump (post z now (hodBase + 0x18) 1) now (hodBase + 0x28)
  else
    let z := { z with hod := { z.hod with busy := true, trig := why, trigAt := now, frozenAtTrig := z.hod.frozen } }
    { z with hod := { z.hod with latch := snapLatch z now, buf := tblStore 0 z.hod.buf 0 (z.hod.seq + 1) } }

/-- SNAP_DONE: the buffer is complete (R347, R349). -/
def snapDone (z : Zmc) (now : Nat) : Zmc :=
  if z.hod.busy then
    let s := z.hod.seq + 2
    post { z with hod := { z.hod with busy := false, seq := s, buf := tblStore 0 z.hod.latch 0 s, latch := [] } } now (hodBase + 0x18) 0
  else z

/-- A write of HOD_CTL: freeze, snap_on_freeze and snap take effect (R346, R347). -/
def hodCtl (z : Zmc) (now : Nat) (v : Word) : Zmc :=
  let was := z.hod.frozen
  let frz := v.getLsbD 0
  let z := putWord { z with hod := { z.hod with frozen := frz } } (hodBase + 0x10) (v &&& 5#32)
  let z := if frz && !was && v.getLsbD 2 then snapTrig z now 2 else z
  if v.getLsbD 1 then snapTrig z now 1 else z

end Sys2Proof.Machine
end

