-- ==== Sys2Proof/Machine/Boot.lean ====
section
/-! DEFINITION. Resets (R322), the phases of bring-up (R323), built-in self-test (R324 to R331), training's outcome (R294 to R296, R333, R334),
the fresh maps and release (R335, R336). -/

namespace Sys2Proof.Machine

/-! ### Resets -/

/-- A course island starts anew; its Corbel stays as it is, without a live link (R212, R322). -/
def resetCrs (x : Cx) : Cx :=
  let lo := x.lck
  let b := x.c.cb
  let d := b.dck.change x.now lo 75 b.dck.num b.dck.den
  { x with c := rebaseCyc { cb := { b with dck := d, down := true } } (shiftCyc (x.now / lo) (x.now / 75)) }

/-- Every course island starts anew. -/
def resetCourses (x : Sys) : Sys := (List.finRange 16).foldl (fun x c => onCrs x c resetCrs) x

/-- Spares that fuses use, by memory id × 16 + spare (R327). -/
def hardSpares (l : List (Nat × Nat × Nat)) : Tbl Spare := l.foldl (fun t p => tblPut t (16 * p.1 + p.2.1) ⟨p.2.2, true⟩) []

/-- Liveness after a reset: the ports whose pins say so; P20 needs a pair, P21 a running Mason, P22 a debugger (R84, Table 5-1). -/
def pinLive (pins : Vector Bool 24) : Vector Bool 24 := Vector.ofFn (fun i => if i.val < 20 then pins[i] else false)

/-- What a cold reset leaves of the block outside the courses (Table 16-1): fuses are read, everything else starts. -/
def coldZmc (z : Zmc) (now : Nat) (f : Fuse) (good : Bool) : Zmc :=
  { pkg0 := (2 ^ 64 - now / tuPerNs % 2 ^ 64) % 2 ^ 64
    pins := z.pins
    live := pinLive z.pins
    homes := Vector.replicate 2 { latAt := now, bwAt := now, sweepAt := now }
    plumb := { lapStart := now, lastLap := now }
    therm := { laneClk := z.therm.laneClk, alertOn := z.therm.alertOn, alertTo := z.therm.alertTo }
    boot := { pwrGood := good, startAt := now, uid := f.uid, variant := f.variant, lc := f.lc, lcPend := f.lc, fuses := f.hard.length, spares := hardSpares f.hard }
    mgt := { active := z.mgt.active, banks := z.mgt.banks, pol := z.mgt.pol } }

/-- Words that a warm reset keeps: those of the Timebase and Security islands, and W1 fields (Table 16-1). -/
def warmKeeps (off : Nat) : Bool := ownerOf off == 20 || ownerOf off == 21 || off == zmcBase + 0x0050

/-- A hold_fck of 0 that the Maker has set stays in force through a warm reset (R138). -/
def keepNoHold (old z : Zmc) : Zmc :=
  [0, 1].foldl (fun z h =>
    let o := homeBase h + 0x3000
    if getF old o 11 0 = 0 then { (setF z o 11 0 0) with rg := { (setF z o 11 0 0).rg with holdOk := h :: z.rg.holdOk } } else z) z

/-- What a warm reset leaves of the block outside the courses (Table 16-1): the Security island runs on, with consent, lockout and a zeroing of the
key store; the debug level is CLOSED, so an attach that waits for the zeroing is cancelled (R309). -/
def warmZmc (z : Zmc) (now : Nat) : Zmc :=
  let k (t : Tbl Word) : Tbl Word := t.filter (fun p => warmKeeps p.1)
  let m := z.mgt
  let b := z.boot
  let y : Zmc :=
  { pkg0 := z.pkg0
    pins := z.pins
    live := pinLive z.pins
    homes := Vector.replicate 2 { latAt := now, bwAt := now, sweepAt := now }
    rg := { reg := k z.rg.reg, pend := k z.rg.pend, fail := z.rg.fail.filter (fun p => warmKeeps (p.1 / 32)), w1 := z.rg.w1, sealed := z.rg.sealed }
    bond := { gen := z.bond.gen }
    keys := { z.keys with cache := Vector.replicate 8 [] }
    plumb := { lapStart := now, lastLap := now }
    dbg := { consent := z.dbg.consent, refused := z.dbg.refused, lockTo := z.dbg.lockTo, zero := z.dbg.zero, cancel := z.dbg.zero.isSome }
    therm := { z.therm with thr := [], okRun := 0, crit := [], was := [] }
    pwr := { wakeSrc := z.pwr.wakeSrc }
    boot := { startAt := now, uid := b.uid, variant := b.variant, lc := b.lc, lcPend := b.lcPend, fuses := b.fuses, warm := true
              spares := b.spares.filter (fun p => p.2.hard) }
    mgt := { active := m.active, banks := m.banks, pol := m.pol, evq := m.evq, evtNext := m.evtNext, aud := m.aud, audNext := m.audNext
             chain := m.chain, gap := m.gap, audQ := [⟨pkgNs z now, 0, 0, 7, 0, 0, 5, 0, 0⟩] } }
  keepNoHold z (setF y (zmcBase + 0x0408) 18 18 0)

/-- A cold reset (R322). -/
def coldReset (x : Sys) (f : Fuse) (good : Bool) : Sys := let y := resetCourses x; { y with z := coldZmc y.z y.now f good }

/-- A warm reset (R322). -/
def warmReset (x : Sys) : Sys := let y := resetCourses x; { y with z := warmZmc y.z y.now }

/-- Whether a reset pulse of `lowNs` ns is recognised: below the 1 µs of Table 20-4 the spec does not say. -/
def pulseSeen (x : Sys) (lowNs : Nat) : Sys × Bool :=
  if 1000 ≤ lowNs then (x, true) else ({ x with free := x.free + 1 }, (Config.freeWord x.free).getLsbD 0)

/-- COLD_RST_RELEASE. -/
def coldRelease (x : Sys) (f : Fuse) (lowNs : Nat) : Sys :=
  if x.z.boot.pwrGood = false then x
  else let (x, b) := pulseSeen x lowNs; if b then coldReset x f true else x

/-- WARM_RST_RELEASE: ignored in RETAIN and OFF (R322). -/
def warmRelease (x : Sys) (lowNs : Nat) : Sys :=
  if x.z.boot.pwrGood = false ∨ x.z.pwr.st = 3 then x
  else let (x, b) := pulseSeen x lowNs; if b then warmReset x else x

/-- POWER_GOOD_RISE: a cold reset begins (R322, R382). -/
def powerRise (x : Sys) (f : Fuse) : Sys := if x.z.boot.pwrGood then x else coldReset x f true

/-- POWER_GOOD_FALL: OFF, where the ZMC keeps nothing (R318, R382). Whether the modules keep their supplies is not this part's to say. -/
def powerFall (x : Sys) (f : Fuse) : Sys :=
  if x.z.boot.pwrGood = false then x
  else
    let gone := (Config.freeWord x.free).getLsbD 0
    let x := coldReset { x with free := x.free + 1 } f false
    if gone then { x with crs := x.crs.map (fun c => { c with cb := {} }) } else x

/-- The ZMC is held (R331). -/
def holdZmc (z : Zmc) (why : Nat) : Zmc :=
  { z with
    boot := { z.boot with hold := why, phase := 8, ready := false }
    mgt := { z.mgt with up := false } }

/-! ### Memory tests -/

/-- Programmed length of a test of `w` words with `bg` backgrounds (R324). -/
def bistLen (w bg : Nat) : Nat := 10 * w * bg

/-- Free spares of a memory, lowest first. -/
def freeSpares (z : Zmc) (id : Nat) : List Nat := (List.range (memSpares id)).filter (fun k => (tblFind z.boot.spares (16 * id + k)).isNone)
/-- Soft repairs of a memory in use. -/
def softSpares (z : Zmc) (id : Nat) : List (Nat × Spare) := z.boot.spares.filter (fun p => p.1 / 16 == id && !p.2.hard)

/-- The test of one memory with `bg` backgrounds (R325, R327, R328): an engine of which nothing was reported saw no wrong read. -/
def bistMem (obs : List BistObs) (bg len : Nat) (z : Zmc) (id : Nat) : Zmc :=
  let w := (memWords id).getD 0
  let o := (obs.find? (fun o => o.mem == id)).getD ⟨id, [], [], 0, 0, 0, bistLen w bg, Config.bistRef id bg⟩
  let fr := freeSpares z id
  let two := o.rows1 != [] && decide (o.rows1.length ≤ fr.length)
  let z := if two then { z with boot := { z.boot with spares := (o.rows1.zip fr).foldl (fun t p => tblPut t (16 * id + p.2) ⟨p.1, false⟩) z.boot.spares } } else z
  let used := (softSpares z id).length
  let bad := if two then o.rows2 != [] else o.rows1 != []
  let res := if bad then 4 else if o.steps ≠ bistLen w bg then 5 else if o.sig ≠ Config.bistRef id bg then 4 else if used ≠ 0 then 3 else 2
  let r : BistRec := { result := res, spares := used, fails := o.fails, word := o.word, bit := o.bit, pass2 := two && o.rows2 != [], steps := o.steps, sig := o.sig, len := len }
  { z with boot := { z.boot with bist := tblPut z.boot.bist id r } }

/-- Test several memories. -/
def bistAll (obs : List BistObs) (bg : Nat) (z : Zmc) (ids : List Nat) : Zmc := ids.foldl (bistMem obs bg 0) z

/-- A memory's result says FAIL or INCOMPLETE (R326). -/
def bistBad (z : Zmc) (id : Nat) : Bool := decide (4 ≤ (tblGet {} z.boot.bist id).result)

/-- A shared memory or test has failed: its record is copied and the ZMC is held for reason 1 (R328, Table 16-6). -/
def sharedFail (z : Zmc) (id : Nat) : Zmc :=
  let r := tblGet {} z.boot.bist id
  let z := { z with boot := { z.boot with
    failIsl := id / 8
    failLoc := id % 8
    failRes := r.result
    failWord := r.word
    failBit := r.bit
    failPass := r.pass2 } }
  holdZmc z 1

/-- MGT_BIST: phases 0 and 1 end (R304, R324). -/
def mgtBistEnd (z : Zmc) (obs : List BistObs) : Zmc :=
  if z.boot.pwrGood = false ∨ z.boot.phase ≠ 0 then z
  else if z.boot.lc = 4 then holdZmc z 3
  else
    let ids := if z.boot.warm then [144] else [144, 152, 153, 168]
    let z := bistAll obs 2 z ids
    match ids.find? (bistBad z) with
    | some id => sharedFail z id
    | none => { z with boot := { z.boot with phase := 2 } }

/-- IMAGE: phase 2 ends (R60). -/
def imageEnd (z : Zmc) (now : Nat) : Zmc :=
  let a := z.mgt.active
  if z.boot.phase ≠ 2 then z
  else if !z.mgt.banks[toHome a].valid && !z.mgt.banks[toHome (1 - a)].valid then holdZmc z 2
  else
    let b := if z.mgt.banks[toHome a].valid then a else 1 - a
    let z := { z with mgt := { z.mgt with active := b, up := true, wdogAt := now }, boot := { z.boot with phase := 3 } }
    let z := { z with pair := { z.pair with lvlRun := (actBank z).lvlMax } }
    let z := potResume (liveRise z now 21) now
    if b = a then z else potPost z now 5 18 255 [BitVec.ofNat 32 b]

/-- Memory ids of a course. -/
def crsMems (c : Nat) : List Nat := (List.range 7).map (fun k => 8 * c + k)

/-- A decoder or engine test's result (R329). -/
def testPut (z : Zmc) (id : Nat) (ok : Bool) : Zmc := { z with boot := { z.boot with bist := tblPut z.boot.bist id { result := if ok then 2 else 4 } } }

/-- Courses that phase 3 fences: a failed memory or decoder, or a failed bay of their home (Table 16-6). -/
def bistFences (z : Zmc) : List CourseId :=
  (List.finRange 16).filter (fun c =>
    let hid := 8 * (16 + c.val / 8) + 2
    present z.boot.variant c.val &&
    (bistBad z (8 * c.val + 7) || (crsMems c.val).any (bistBad z) || (bistBad z hid && (tblGet {} z.boot.bist hid).bit / 96 % 4 == c.val / 2 % 4)))

/-- ISLAND_BIST: phase 3 ends; Potrie fences or holds (R329, R330). -/
def islandBistEnd (x : Sys) (obs : List BistObs) (badDec : List CourseId) (badEng : List HomeId) : Sys :=
  if x.z.boot.phase ≠ 3 then x
  else
    let v := x.z.boot.variant
    let cs := (List.finRange 16).filter (fun c => present v c.val)
    let x := onZmc x (fun z _ =>
      let z := bistAll obs 2 z (cs.flatMap (fun c => crsMems c.val) ++ [128, 129, 130, 131, 136, 137, 138, 139, 192])
      let z := cs.foldl (fun z c => testPut z (8 * c.val + 7) (!badDec.contains c)) z
      let z := ([0, 1] : List HomeId).foldl (fun z h => testPut z (132 + 8 * h.val) (!badEng.contains h)) z
      { z with boot := { z.boot with hodOk := !bistBad z 192 } })
    match [128, 129, 131, 132, 136, 137, 139, 140].find? (bistBad x.z) with
    | some id => onZmc x (fun z _ => sharedFail z id)
    | none =>
        let x := (bistFences x.z).foldl (fun x c => onCrs x c (fun y => potFence y 1)) x
        if (liveList x.z).isEmpty then onZmc x (fun z _ => holdZmc z 5)
        else onZmc x (fun z _ => { z with boot := { z.boot with phase := 4 } })

/-- PUBLISH: phase 4 ends (R332). -/
def publishEnd (z : Zmc) (now : Nat) : Zmc :=
  if z.boot.phase ≠ 4 then z
  else if potrieOn z = false then z
  else bondRewrite { z with boot := { z.boot with phase := 5, trainAt := now } } now

/-! ### Training -/

/-- The training policy's three words, with its defaults (R395). -/
def trainPol (z : Zmc) : List Word := tblGet [0x19002260, 0x01F400C0, 0x00061420] z.mgt.pol 0x020A
/-- A field of the policy. -/
def trainF (z : Zmc) (w hi lo : Nat) : Nat := bitsOf ((trainPol z).getD w 0) hi lo

/-- Length of the run of consecutive values from `v`. -/
def runLen (l : List Int) (v : Int) : Nat → Nat
  | 0 => 0
  | n + 1 => if l.contains v then runLen l (v + 1) n + 1 else 0

/-- The longest run of passing values, the lower one of equals: its first value and its length (R294). -/
def longestRun (l : List Int) : Option (Int × Nat) :=
  l.foldl (fun b v =>
    let n := runLen l v l.length
    match b with
    | none => some (v, n)
    | some (w, k) => if k < n ∨ (k = n ∧ v < w) then some (v, n) else b) none

/-- floor((first + last) / 2) of a run. -/
def centre (r : Int × Nat) : Int := r.1 + ((r.2 : Int) - 1) / 2

/-- The longest delay run over the Vref steps, the lower step's of equals. -/
def gridRun (g : List (Nat × List Int)) : Option (Int × Nat) :=
  ((g.foldl (fun (b : Option (Nat × Int × Nat)) p =>
    match longestRun p.2, b with
    | some r, some (v, _, k) => if k < r.2 ∨ (k = r.2 ∧ p.1 < v) then some (p.1, r) else b
    | some r, none => some (p.1, r)
    | none, _ => b) none)).map (fun p => p.2)

/-- The run of Vref steps whose delay run meets the limit (which steps count as passing is DEDUCED, log entry 104). -/
def gridVref (g : List (Nat × List Int)) (lim : Nat) : Option (Int × Nat) :=
  longestRun ((g.filter (fun p => match longestRun p.2 with | some r => decide (lim ≤ r.2) | none => false)).map (fun p => (p.1 : Int)))

/-- A run is at least so long. -/
def runs (r : Option (Int × Nat)) (lim : Nat) : Bool := match r with | some (_, n) => decide (lim ≤ n) | none => decide (lim = 0)

/-- The limits of a sweep: its run, and that of its Vref; those of steps 8 to 13 are the policy's (Table 14-2, TRAIN_POLICY). -/
def sweepLim (z : Zmc) : SweepKind → Nat × Nat
  | .phase _ _ => (16, 0)
  | .vref _ _ _ => (17, 0)
  | .cs _ _ => (trainF z 2 7 0, 0)
  | .ca _ _ => (trainF z 2 7 0, trainF z 2 23 16)
  | .rd _ _ _ | .wr _ _ _ => (trainF z 2 15 8, trainF z 2 23 16)

/-- A sweep passes. -/
def sweepOk (z : Zmc) (w : Sweep) : Bool := let (a, b) := sweepLim z w.kind; runs (gridRun w.grid) a && runs (gridVref w.grid a) b

/-- What training finds, the failed sweeps among it: lanes at their rate, command and address steps, devices. -/
def obsSeen (z : Zmc) (o : TrainObs) : TrainObs :=
  let bad := o.sweeps.filter (fun w => !sweepOk z w)
  let lanes (far slow : Bool) : List Nat := bad.filterMap (fun w =>
    match w.kind with
    | .phase f l | .vref f l _ => if f = far ∧ w.slow = slow then some l else none
    | _ => none)
  { o with
    badUp := o.badUp ++ (lanes false false).map (toFin 8 (by decide))
    badDn := o.badDn ++ (lanes true false).map (toFin 6 (by decide))
    slowUp := o.slowUp ++ (lanes false true).map (toFin 8 (by decide))
    slowDn := o.slowDn ++ (lanes true true).map (toFin 6 (by decide))
    badCa := o.badCa ++ bad.filterMap (fun w => match w.kind with | .cs _ _ | .ca _ _ => some w.rate | _ => none)
    badDev := o.badDev ++ bad.filterMap (fun w => match w.kind with | .rd s r q | .wr s r q => some (w.rate, r.val, s.val, q.val / 4) | _ => none) }

/-- Write a field that a sweep has centred (R294). -/
def sweepPut (x : Cx) (w : Sweep) : Cx :=
  let (lim, _) := sweepLim x.z w.kind
  match gridRun w.grid with
  | none => x
  | some r =>
      let fld (n : Nat) (v : Int) : Nat := (v % (2 ^ n : Nat)).toNat
      let v := centre r
      let vr := match gridVref w.grid lim with | some r => fld 7 (centre r) | none => 0
      let lane (far : Bool) (l hi lo : Nat) : Cx :=
        if far then potCb x (0x104 + 16 * l) (setBits (cbWord x (0x104 + 16 * l)) hi lo (fld 7 v))
        else x.onZ (fun z => setF z (x.off (0x0404 + 16 * l)) hi lo (fld 7 v))
      let dly (o hi lo : Nat) (x : Cx) : Cx := potCb x o (setBits (cbWord x o) hi lo (fld 12 v))
      let b (s : SubId) : Nat := 0x10000 + 0x8000 * s.val
      match w.kind with
      | .phase far l => lane far l 6 0
      | .vref far l k => lane far l (13 + 7 * k.val) (7 + 7 * k.val)
      | .cs s k => dly (b s + 4 * k.val) 11 0 x
      | .ca s p => dly (b s + 0x40 + 4 * p.val) 11 0 x
      | .rd s k q => let o := b s + 0x800 + 0x100 * k.val + 4 * q.val; dly o 11 0 (potCb x o (setBits (cbWord x o) 30 24 vr))
      | .wr s k q => dly (b s + 0x800 + 0x100 * k.val + 4 * q.val) 23 12 x

/-- The policy's link mode, or the first of Table 14-3 in which every lane in use passes, with its lane group. -/
def trainMode (target : Nat) (o : TrainObs) : Option (Nat × Nat) :=
  (target :: [0, 1, 2, 3]).findSome? (fun m =>
    let slow := decide (2 ≤ m)
    let up := (if slow then o.slowUp else o.badUp ++ o.slowUp).map (fun l => l.val)
    let dn := (if slow then o.slowDn else o.badDn ++ o.slowDn).map (fun l => l.val)
    if halfWidth m then (goodGroup up dn).map (fun g => (m, g)) else if up.isEmpty && dn.isEmpty then some (m, 0) else none)

/-- Devices that fail at a rate on one rank and subchannel, with the one marked there besides. -/
def badAt (x : Cx) (o : TrainObs) (rate pr sub : Nat) : List Nat :=
  let l := ((o.badDev.filter (fun p => p.1 == rate && p.2.1 == pr && p.2.2.1 == sub)).map (fun p => p.2.2.2)).eraseDups
  match markOf x pr sub with
  | some d => d :: l.filter (fun k => k != d)
  | none => l

/-- Steps 8 to 13 pass at a rate, a single failing device being marked (Table 14-3). -/
def rateOk (x : Cx) (o : TrainObs) (rate : Nat) : Bool :=
  !o.badCa.contains rate && (List.range 4).all (fun pr => (List.range 2).all (fun s => decide ((badAt x o rate pr s).length ≤ 1)))

/-- Rates to try, from the target down to the floor (Table 8-2). -/
def ratesFrom (z : Zmc) : List Nat := [8800, 8000, 7200, 6400].filter (fun r => decide (trainF z 0 31 16 ≤ r ∧ r ≤ trainF z 0 15 0))

/-- A topology that Tables 11-7 and 8-1 can hold. -/
def topoOk (o : TrainObs) : Bool := (o.ranks == 1 || o.ranks == 2 || o.ranks == 4) && (o.dies == 1 || o.dies == 2) && (o.density == 16 || o.density == 24 || o.density == 32)

/-- The reference column of Table 8-4, for DDR5-8800 and single dies of 32 Gbit, by register. -/
def timRef : List Word :=
  [ 0x3E3E3C3E, 0x0221CB8D, 0x08201608, 0x84580816, 0x840E2C0B, 0x08100A0A, 0x3E000000, 0x21843E3E, 0x00002116
  , 0x03C8070C, 0x00000344, 0x07381130 ]

/-- Word `k` of CRS[n]_TIM that Potrie applies. -/
def timWord (rate density dies k : Nat) : Word :=
  if rate = 8800 ∧ density = 32 ∧ dies = 1 then timRef.getD k 0
  else if k = 8 then Config.timWord rate density dies 8 &&& 0xFFFF#32
  else Config.timWord rate density dies k

/-- tsr_res that Potrie applies. -/
def tsrRes (rate density dies : Nat) : Nat := if rate = 8800 ∧ density = 32 ∧ dies = 1 then 22 else (Config.timWord rate density dies 12).toNat % 256

/-- Potrie writes a whole BUF word by a SET of its own. -/
def Cx.potWord (x : Cx) (o : Nat) (v : Word) : Cx := x.potSet o 31 0 v.toNat

/-- Course-side words that sweeps set, and their bits (Table 14-5). -/
def sweptCrs : List (Nat × Word) :=
  (List.range 8).flatMap (fun l => [(0x0400 + 16 * l, 0x1FFFFF), (0x0404 + 16 * l, 0x0FFFFFFF)]) ++ (List.range 6).map (fun l => (0x0500 + 4 * l, 0xFFFFF))

/-- Corbel words that sweeps set (Table 14-1). -/
def sweptCb : List (Nat × Word) :=
  (List.range 6).flatMap (fun l => [(0x100 + 16 * l, 0x1FFFFF), (0x104 + 16 * l, 0x0FFFFFFF)]) ++ (List.range 8).map (fun l => (0x200 + 4 * l, 0xFFFFF))
  ++ (List.range 2).flatMap (fun s =>
      let b := 0x10000 + 0x8000 * s
      (List.range 4).map (fun r => (b + 4 * r, 0xFFF)) ++ (List.range 14).map (fun p => (b + 0x40 + 4 * p, 0xFFF))
      ++ (List.range 4).flatMap (fun r => (List.range 10).map (fun d => (b + 0x100 + 0x40 * r + 4 * d, 0xFFFFFF)))
      ++ (List.range 4).flatMap (fun r => (List.range 40).map (fun q => (b + 0x800 + 0x100 * r + 4 * q, 0x7FFFFFFF))))

/-- The settings that training finds: the centre of each sweep that is reported for the mode and rate, and for the others values the spec leaves
to the channel, drawn free (R294). -/
def putSwept (x : Cx) (o : TrainObs) (mode rate : Nat) : Cx :=
  let k := x.free
  let x := { x with free := x.free + 1 }
  let x := sweptCrs.foldl (fun x p => x.onZ (fun z => putWord z (x.off p.1) (Config.sweepWord x.n.val p.1 k &&& p.2))) x
  let x := sweptCb.foldl (fun x p => potCb x p.1 (Config.sweepWord x.n.val (p.1 + 2 ^ 20) k &&& p.2)) x
  let mine (w : Sweep) : Bool := match w.kind with | .phase _ _ | .vref _ _ _ => w.slow == decide (2 ≤ mode) | _ => w.rate == rate
  (o.sweeps.filter mine).foldl sweepPut x

/-- The oscillator baselines of step 14, free where none is reported (R294, R298). -/
def oscBase (x : Cx) (o : TrainObs) : Cx :=
  let k := x.free
  let v (i d : Nat) : Nat := match o.osc.find? (fun p => p.1 == i && p.2.1 == d) with | some p => p.2.2 % 65536 | none => (Config.sweepWord x.n.val (2 ^ 21 + 16 * i + d) k).toNat % 65536
  let keys := ((List.range 16).filter (tgtUsed x)).flatMap (fun i => (List.range 10).map (fun d => (i, d)))
  { (x.onC (fun c => { c with tr := { c.tr with base := keys.foldl (fun t p => tblPut t (16 * p.1 + p.2) (v p.1 p.2)) [] } })) with free := x.free + 1 }

/-- The link after steps 1 to 6: ACTIVE in the mode of the registers with counts, buffers and epochs anew (R211, R288), the DRAM out of
self-refresh. -/
def bringUp (x : Cx) (rtt : Nat) : Cx :=
  let x := setMode x x.now
  let x := applyRatio x x.cyc
  let x := x.onC (fun c => { c with
    epoch := Vector.replicate 2 0
    lk := { sel := c.lk.sel, since := x.now, rtt := rtt, rttMode := x.info.mode, mnt := c.lk.mnt }
    sr := { demand := x.now } })
  let x := x.onB (fun b => { dck := x.c.dck, rstn := true, mr := b.mr, dram := b.dram, zeroRow := b.zeroRow, goodAt := x.now, statAt := x.cyc, tempAt := Vector.replicate 4 x.now })
  let x := x.onL (fun l => { l with alDn := alignDn x true 0 true, alUp := alignUp x true 0 true })
  linkSync (x.onZ (fun z => putWord z (x.off 0x05C0) (BitVec.ofNat 32 (rtt % 256))))

/-- Training of a course succeeds in a mode and at a rate (R294 to R296, R334). -/
def trained (x : Cx) (o : TrainObs) (mode sel rate : Nat) : Cx :=
  let marks := (List.range 4).flatMap (fun pr => (List.range 2).flatMap (fun s => (badAt x o rate pr s).filterMap (fun d => if (markOf x pr s).isSome then none else some (pr, s, d))))
  let low := decide (rate < trainF x.z 0 15 0)
  let x := x.onInfo (fun i => { i with trained := true, rate := rate, ranks := o.ranks, dies := o.dies, density := o.density, failed := false, degraded := low || mode != 0 || marks != [] })
  let k := if mode = 0 then 1 else if mode = 3 then 4 else 2
  let x := ((x.potSet 0x0800 1 0 mode).potSet 0x0800 2 2 sel).potSet 0x1020 7 0 (rate / 160 * k)
  let x := (x.potSet 0x1020 15 8 14).potSet 0x1018 6 0 (max (trainF x.z 1 8 2) (cureMin mode))
  let x := (List.range 12).foldl (fun x j => x.potWord (0x1100 + 4 * j) (timWord rate o.density o.dies j)) x
  let x := (x.potSet 0x1410 9 2 (tsrRes rate o.density o.dies)).potSet 0x1030 3 2 (Nat.log2 (o.ranks * o.dies))
  let x := marks.foldl (fun x p => failingBit x p.2.1 p.1 (4 * p.2.2)) x
  let x := oscBase (putSwept (cbTimRegs (bringUp x o.rtt)) o mode rate) o
  let x := potCb x 0x14 (setBits (cbWord x 0x14) 21 16 (o.rtt / 2))
  let x := restartTgts ((nakGaps x o.rtt).potSet 0x1400 22 22 1)
  let x := x.onC (fun c => { c with ranks := c.ranks.map (fun k => { k with temp := 0x80, rep := none }) })
  (x.onL (fun l => { l with rate := false, armed := false })).onZ needBond

/-- The outcome of Table 14-2 on one course, none when Table 14-3 ends in a fence. -/
def trainTry (x : Cx) (obs : TrainObs) : Option Cx :=
  let o := obsSeen x.z obs
  if !o.linkUp || !topoOk o then none
  else
    match trainMode (trainF x.z 1 1 0) o, (ratesFrom x.z).find? (rateOk x o) with
    | some (m, sel), some r => some (trained x o m sel r)
    | _, _ => none

/-- A course starts to serve (R336): its timers run from here. -/
def crsServes (x : Cx) : Cx :=
  ptResume (x.onC (fun c => { c with
    sr := { c.sr with demand := x.now }
    idle := false
    emptyAt := x.now
    ranks := c.ranks.map (fun r => { r with repAt := x.now }) }))

/-- The job that restores a course, if any (COURSE_RESTORE). -/
def restoreJob (z : Zmc) (c : Nat) : Option Job := z.mgt.jobs.find? (fun j => j.op == 0x020E && j.arg == c)

/-- TRAIN at power-up: a course without a result yet (R294, R295). -/
def trainBoot (x : Sys) (c : CourseId) (o : TrainObs) : Sys :=
  if x.z.boot.phase ≠ 5 ∨ liveCrs x.z c = false ∨ x.z.cinfo[c].trained = true ∨ potrieOn x.z = false then x
  else onCrs x c (fun y => (trainTry y o).getD (potFence y 2))

/-- Every live course fenced during bring-up holds the ZMC (Table 16-6). -/
def allFenced (x : Sys) : Sys :=
  if 4 ≤ x.z.boot.phase ∧ x.z.boot.phase ≤ 6 ∧ (liveList x.z).isEmpty = true then onZmc x (fun z _ => holdZmc z 5) else x

/-- TRAIN_TIMEOUT (R334). -/
def trainTimeout (x : Sys) (c : CourseId) : Sys :=
  if x.z.boot.phase ≠ 5 ∨ liveCrs x.z c = false ∨ x.z.cinfo[c].trained = true ∨ x.now < x.z.boot.trainAt + trainF x.z 1 31 16 * tuPerMs then x
  else onCrs x c (fun y => potFence y 2)

/-- Rows of a bank that the footing table starts at: the last 64th of a course's lines (R127). -/
def ftgRow (x : Cx) : Nat := capBytes x.info / 64 / 2 ^ (13 + lrBits x) / 64 * 63

/-- Potrie zero-fills a course's footing table (R129, R335). -/
def zeroFill (x : Cx) : Cx :=
  let r := ftgRow x
  x.onB (fun b => { b with zeroRow := r, dram := b.dram.filter (fun p => decide (p.1 / 128 % 2 ^ 18 < r)) })

/-- Phase 6 on one course (R335). -/
def freshCrs (x : Cx) : Cx :=
  let n := capMib x.info / 4
  let put (x : Cx) (v : Nat) : Cx := (freshInit x v).setf 0x2020 17 0 v
  if x.f 0x2000 0 0 = 1 then put x n else put (zeroFill x) 0

/-- FRESH: every live course is trained, and the maps are set: phases 5 and 6 end (R335). -/
def freshEnd (x : Sys) : Sys :=
  if x.z.boot.phase ≠ 5 ∨ (liveList x.z).any (fun c => !x.z.cinfo[c].trained) = true then x
  else
    let x := (liveList x.z).foldl (fun x c => onCrs x c freshCrs) x
    onZmc x (fun z _ => { z with boot := { z.boot with phase := 6 } })

/-- RELEASED (R336). -/
def released (x : Sys) : Sys :=
  if x.z.boot.phase ≠ 6 then x
  else
    let x := (liveList x.z).foldl (fun x c => onCrs x c crsServes) x
    onZmc x (fun z now =>
      let us := BitVec.ofNat 32 ((now - z.boot.startAt) / tuPerUs)
      let z := send { z with boot := { z.boot with phase := 7, ready := true, releaseUs := us } } .credits
      sendHello (evPost z now 3 20 255 [us]))

end Sys2Proof.Machine
end

