-- ==== Sys2Proof/Machine/Power.lean ====
section
/-! DEFINITION. Power states of the ZMC (R311 to R317): DOZE, the steps of RETAIN_ENTRY, RETAIN and its exit, and debug attaches that meet
them (R314). -/

namespace Sys2Proof.Machine

/-! ### DOZE -/

/-- doze_req: every live course starts its self-refresh entry (R312). -/
def dozeStart (x : Sys) : Sys :=
  if x.z.boot.phase ≠ 7 ∨ x.z.boot.hold ≠ 0 ∨ x.z.pwr.st ≠ 0 then x
  else
    let x := (liveList x.z).foldl (fun x c => onCrs x c srStart) x
    onZmc x (fun z _ => { z with pwr := { z.pwr with doze := true } })

/-- Every live course is in IN_SR or ASLEEP. -/
def allAsleep (x : Sys) : Bool := (liveList x.z).all (fun c => x.crs[c].sr.st == 3 || x.crs[c].sr.st == 4)

/-- Nothing is queued at a home. -/
def homesEmpty (z : Zmc) : Bool :=
  (List.finRange 2).all (fun h => z.homes[h].hrq.isEmpty && z.homes[h].wbq.isEmpty && z.homes[h].wrPend.isEmpty && z.homes[h].ftgs.isEmpty)
  && (List.finRange 8).all (fun b => z.bays[b].q.isEmpty && z.bays[b].data.isEmpty)

/-- Both homes gate their clocks. -/
def gateHomes (z : Zmc) : Zmc := { z with homes := z.homes.map (fun h => { h with gated := true }) }

/-- DOZE_ENTERED (R312). -/
def dozeEntered (x : Sys) : Sys :=
  if x.z.pwr.st = 0 ∧ x.z.pwr.doze = true ∧ allAsleep x = true ∧ homesEmpty x.z = true then
    onZmc x (fun z _ => gateHomes { z with pwr := { z.pwr with st := 1 } })
  else x

/-! ### RETAIN -/

/-- Bits of a word that R315 saves: BUF, IMM, MSK and SEC fields, and W1 fields, which no rule lets a RETAIN clear. -/
def saveMask (d : RegDef) : Word :=
  d.flds.foldl (fun a f => if f.cls == .buf || f.cls == .imm || f.cls == .msk || f.cls == .sec || f.cls == .w1 then a ||| f.mask else a) 0

/-- The saved words of the islands that lose power. -/
def savedWords (z : Zmc) : Tbl Word :=
  z.rg.reg.filterMap (fun p =>
    match regDef p.1 with
    | none => none
    | some d =>
        let own := ownerOf p.1
        if own = 20 ∨ own = 21 ∨ saveMask d = 0 then none
        else some (p.1, (d.rstWord &&& ~~~(saveMask d)) ||| (p.2 &&& saveMask d)))

/-- Bytes of the save area that an entry now would need (R315). -/
def saveBytes (z : Zmc) : Nat := 4 * (savedWords z).length + 16384 * (liveList z).length + 8192 + 32768 + Config.retainExtra

/-- The ports that credit-park messages go to. -/
def parkPorts (z : Zmc) : List PortId := (List.finRange 24).filter (fun p => decide (p.val < 21) && liveFinal z p)

/-- Step 1 of R313 begins; a Quoin member first tells its partner (R376). -/
def retainBegin (x : Sys) (m : MbxId) (seq orig : Nat) : Sys :=
  onZmc x (fun z _ =>
    let z := if quoin z then allSolo (send z (.peerNotice 1)) else z
    let z := { z with pwr := { z.pwr with st := 2, ret := some ⟨m, seq, orig, 1, x.now, []⟩ } }
    (parkPorts z).foldl (fun z p => send z (.park p)) z)

/-- The RETAIN command ends: its event, and the second audit entry (R313, R316, R394). -/
def retainEnd (z : Zmc) (now : Nat) (r : RetainSt) (code status : Nat) (w5 : Word) : Zmc :=
  let z := potPost z now code 18 255 (complD r.mbx r.seq status w5)
  audit z ⟨pkgNs z now, 0x010A, r.orig, r.mbx.val, status, 0, 3, 0, 0⟩

/-- The entry is abandoned (R313, R314). -/
def retainAbandon (x : Sys) (status : Nat) : Sys :=
  match x.z.pwr.ret with
  | none => x
  | some r =>
      let doze := allAsleep x && homesEmpty x.z
      onZmc x (fun z now =>
        let z := send { z with pwr := { z.pwr with st := bit doze, ret := none } } .credits
        let z := if doze then gateHomes z else z
        retainEnd (post z now (zmcBase + 0x0610) 0) now r 0x61 status 0)

/-- RETAIN_TIMEOUT: step 5 has not begun within retain_to_ms (R313). -/
def retainTimeout (x : Sys) : Sys :=
  match x.z.pwr.ret with
  | some r => if x.z.pwr.st = 2 ∧ r.step < 5 ∧ r.t0 + getF x.z (zmcBase + 0x0600) 27 20 * tuPerMs ≤ x.now then retainAbandon x 0x84 else x
  | none => x

/-- The entry goes on with a step. -/
def retainTo (x : Sys) (k : Nat) : Sys :=
  onZmc x (fun z _ => { z with pwr := { z.pwr with ret := z.pwr.ret.map (fun r => { r with step := k }) } })

/-- A request withdrawn by hardware with a status (R74, R314); its seq is not kept. -/
def withdraw (z : Zmc) (now : Nat) (m : MbxId) (status : Nat) : Zmc :=
  let b := z.mgt.mbx[m]
  let back := some (now / tuSck, wordAt z (mbxSts m.val), z.mgt.ringQ)
  let w0 := b.req[(0 : Fin 16)]
  let w1 := b.req[(1 : Fin 16)]
  let rsp := ((Vector.replicate 16 0#32).set 0 (setBits (w0 &&& 0x00FFFFFF#32) 31 24 status)).set 1 (w1 &&& 0xFFFF#32)
  let z := post (modMbx z m (fun b => { b with ph := .done, rsp := rsp, undo := back })) now (mbxSts m.val) 4
  { z with mgt := { z.mgt with ringQ := z.mgt.ringQ.filter (fun k => k != m) } }

/-- Step 3 of R313 at a home: dirty directory entries, and the bytes of lines that merged WB_DIRTY messages have left uncached, leave for the
footing write buffer while it has room. -/
def writeBackDir (z : Zmc) (h : HomeId) : Zmc :=
  let z := z.homes[h].wbLate.foldl (fun z e =>
    let f := ftgLine z e.1 e.2.1
    if e.2.2.2 = .wbDirty ∧ fwbRoom z.homes[h] e.1 f then
      modHome (fwbAdd z h e.1 f (1#64 <<< (e.2.1 % 64)) 0) h (fun s => { s with wbLate := s.wbLate.erase e })
    else z) z
  z.homes[h].dir.foldl (fun z p => if p.2.dirty && !p.2.pend && victimRoom z h p.1 then evict z h p.1 else z) z

/-- Step 4 of R313 on one course. -/
def retainCrs (x : Cx) : Cx :=
  if x.c.sr.st = 0 then srStart x
  else if (x.c.sr.st = 3 ∨ x.c.sr.st = 4) ∧ x.c.lk.st ≠ 0 ∧ x.c.lk.stop = false then linkStop x
  else x

/-- Every live course is in self-refresh with its link DOWN. -/
def allDown (x : Sys) : Bool := allAsleep x && (liveList x.z).all (fun c => x.crs[c].lk.st == 0)

/-- What step 5 leaves of a course: its fresh map (in the save area) unless it is fenced (R319), its training values and its Corbel. -/
def retainedCrs (x : Cx) : Cx :=
  let c := x.c
  { x with c := { fm := if x.info.fence = 0 then c.fm else {}, tr := { saved := c.tr.saved }, lk := { rtt := c.lk.rtt, rttMode := c.lk.rttMode, sel := c.lk.sel, goal := c.lk.goal }, cb := c.cb, sr := { st := 3 } } }

/-- Step 5 of R313: the state is saved and every island but the Timebase and the Security island loses its power (R315). -/
def retainSave (x : Sys) : Sys :=
  let save : SaveArea := { reg := savedWords x.z, maps := (List.finRange 16).map (fun c => x.crs[c].fm) }
  let x := (List.finRange 16).foldl (fun x c => onCrs x c retainedCrs) x
  onZmc x (fun z now =>
    let k (t : Tbl Word) : Tbl Word := t.filter (fun p => ownerOf p.1 == 20 || ownerOf p.1 == 21 || p.1 == zmcBase + 0x0218)
    let g := z.rg
    let pw := z.pwr
    let z := { z with
      rg := { reg := k g.reg, pend := k g.pend, fail := g.fail.filter (fun p => ownerOf (p.1 / 32) == 20 || ownerOf (p.1 / 32) == 21), w1 := g.w1, holdOk := g.holdOk, sealed := g.sealed }
      setu := {}
      plumb := {}
      dbg := { consent := z.dbg.consent, refused := z.dbg.refused, lockTo := z.dbg.lockTo }
      keys := { z.keys with cache := Vector.replicate 8 [] }
      hod := {}
      pair := { lvlRun := z.pair.lvlRun, peerMin := z.pair.peerMin, peerMax := z.pair.peerMax, heard := z.pair.heard, mirs := z.pair.mirs }
      homes := Vector.replicate 2 {}
      bays := Vector.replicate 8 {}
      jreq := Vector.replicate 16 []
      jdat := Vector.replicate 16 []
      jsts := Vector.replicate 16 []
      jclr := Vector.replicate 16 []
      clrs := []
      pwr := { pw with st := 3, inAt := now, save := some save }
      boot := { z.boot with ready := false } }
    let z := { z with mgt := { z.mgt with up := false, mbx := Vector.replicate 6 {} } }
    bump z now (zmcBase + 0x0618))

/-- RETAIN is left for a wake source: 1 a wake write, 2 a debug attach, 3 the timer (R316). -/
def retainWake (x : Sys) (src : Nat) : Sys :=
  if x.z.pwr.st = 3 then onZmc x (fun z _ => { z with pwr := { z.pwr with st := 4, wakeSrc := src } }) else x

/-- RETAIN_ENTRY goes on with its next step once the present one is done (R313). -/
def retainStep (x : Sys) : Sys :=
  match x.z.pwr.ret with
  | none => x
  | some r =>
      if x.z.pwr.st ≠ 2 then x
      else
        match r.step with
        | 1 => if (parkPorts x.z).all (fun p => r.parked.contains p) then retainTo x 2 else x
        | 2 =>
            let busy := (liveList x.z).filter (fun c => rndBusy x.crs[c] != 0)
            if busy.isEmpty then retainTo x 3
            else busy.foldl (fun x c => onCrs x c (fun y => if y.c.sr.st = 1 then ptResume (srAbort y) else if 2 ≤ y.c.sr.st ∧ y.c.sr.st ≤ 4 then srLeave y else y)) x
        | 3 =>
            let y := onZmc x (fun z _ => ([0, 1] : List HomeId).foldl writeBackDir z)
            let done := (List.finRange 2).all (fun h => y.z.homes[h].fwb.isEmpty && y.z.homes[h].dir.all (fun p => !p.2.dirty) && y.z.homes[h].wbLate.all (fun e => e.2.2.2 != .wbDirty))
            if done && homesEmpty y.z then retainTo y 4 else y
        | 4 =>
            if allDown x then
              let x := retainTo x 5
              onZmc x (fun z now => (List.finRange 6).foldl (fun z m => if z.mgt.mbx[m].ph == .posted then withdraw z now m 0x0D else z) z)
            else (liveList x.z).foldl (fun x c => onCrs x c retainCrs) x
        | _ =>
            let y := retainSave x
            if y.z.pwr.latched.isSome then retainWake y 2 else y

/-- CREDIT_PARK_RETURN (R313). -/
def creditPark (z : Zmc) (p : PortId) : Zmc :=
  if z.pwr.st = 2 then { z with pwr := { z.pwr with ret := z.pwr.ret.map (fun r => if r.parked.contains p then r else { r with parked := p :: r.parked }) } } else z

/-- RETAIN_WAKE_TIMER (R316). -/
def wakeTimer (x : Sys) : Sys :=
  let ms := getF x.z (zmcBase + 0x0600) 19 4
  if x.z.pwr.st = 3 ∧ ms ≠ 0 ∧ x.z.pwr.inAt + ms * tuPerMs ≤ x.now then retainWake x 3 else x

/-- Phases 5 to 7 on one course: the link wakes from DOWN, the Corbel's registers are restored, and the course stays in IN_SR (R286, R317). -/
def exitCrs (dead : List CourseId) (x : Cx) : Cx :=
  let x := x.onC (fun c => { c with ranks := c.ranks.map (fun r => { r with hot := true, nat := true, repAt := x.now }), emptyAt := x.now })
  if dead.contains x.n then potFence x 3
  else wakeThrough x

/-- Phase 3: saved values are written and applied, and what follows from them (R316, R317). -/
def exitRegs (x : Sys) (s : SaveArea) : Sys :=
  onZmc x (fun z now =>
    let z := s.reg.foldl (fun z p => putWord z p.1 p.2) z
    let z := s.reg.foldl (fun z p => match ctlOf p.1 with | some (i, k) => noteCtl z i k | none => z) z
    let z := ([0, 1] : List HomeId).foldl (fun z h => homeApplied (fun _ => 0) z now h) z
    { z with plumb := { z.plumb with lapStart := now, lastLap := now } })

/-- RETAIN_EXIT: Table 15-5 runs and ends in DOZE (R316, R317). -/
def retainExit (x : Sys) (dead : List CourseId) : Sys :=
  match x.z.pwr.st, x.z.pwr.save, x.z.pwr.ret with
  | 4, some s, some r =>
      let lat := x.z.pwr.latched
      let x := exitRegs x s
      let x := onZmc x (fun z now =>
        let z := { z with pwr := { z.pwr with st := 1, ret := none, save := none, latched := none, doze := true }, mgt := { z.mgt with up := true, wdogAt := now }, boot := { z.boot with ready := z.boot.phase == 7 } }
        potResume (pinsLive z) now)
      let live := liveList x.z
      let x := live.foldl (fun x c => onCrs x c (exitCrs dead)) x
      let x := onZmc x (fun z now =>
        let z := send (gateHomes z) .credits
        let z := post z now (zmcBase + 0x0610) 1
        let z := retainEnd z now r 0x62 0 (BitVec.ofNat 32 z.pwr.wakeSrc)
        let z := sendHello (bondRewrite z now)
        match lat with
        | some (l, t) => attach z now l t
        | none => z)
      x
  | _, _, _ => x

/-! ### Debug attaches (R314, R316) -/

/-- A write of level_req, whatever the power state. -/
def dbgLevelWrite (x : Sys) (lvl : Nat) : Sys :=
  let st := x.z.pwr.st
  let late := match x.z.pwr.ret with | some r => decide (5 ≤ r.step) | none => false
  if 3 ≤ st ∨ (st = 2 ∧ late = true) then
    if lvl = 1 ∨ lvl = 2 then
      let x := onZmc x (fun z _ => { z with pwr := { z.pwr with latched := some (lvl, z.dbg.tokReg) }, dbg := { z.dbg with tokReg := 0 } })
      retainWake x 2
    else x
  else
    let y := onZmc x (fun z now => levelReq z now lvl)
    if st = 2 ∧ (x.z.dbg.level < y.z.dbg.level ∨ (x.z.dbg.zero = none ∧ y.z.dbg.zero ≠ none)) then retainAbandon y 0x06 else y

end Sys2Proof.Machine
end

