-- ==== Sys2Proof/Machine/Therm.lean ====
section
/-! DEFINITION. Junction sensors and neighbour gaps (R16, R387), throttling (R16), the platform's alert (R386), DRAM_CRIT (R177, R398) and the
loss of a lane reference (R383). -/

namespace Sys2Proof.Machine

/-- Neighbour pairs (Table 1-3): islands that a joint connects. -/
def neighbours : List (Nat × Nat) :=
  (List.range 16).map (fun c => (c, 16 + c / 8)) ++ [(16, 18), (17, 18), (16, 21), (17, 21)] ++ (List.range 16).map (fun c => (c, 19))
  ++ [(16, 19), (17, 19), (18, 19)] ++ (List.range 16).map (fun c => (c, 20)) ++ [(16, 20), (17, 20)] ++ (List.range 16).map (fun c => (c, 24))
  ++ (List.range 16).map (fun c => (c, 23)) ++ [(19, 22), (16, 22), (17, 22)]

/-- Islands whose sensors count: powered ones. -/
def sensed (z : Zmc) (i : Nat) : Bool := if closedUp z then i == 20 || i == 21 else islPowered z i

/-- The widest gap: its size, hotter and cooler island; the first pair of Table 1-3 wins a tie. -/
def widest (z : Zmc) (ts : List Int) : Nat × Nat × Nat :=
  (neighbours.filter (fun p => sensed z p.1 && sensed z p.2)).foldl (fun b p =>
    let s := ts.getD p.1 0
    let t := ts.getD p.2 0
    let g := (s - t).natAbs
    if b.1 < g then (if t ≤ s then (g, p.1, p.2) else (g, p.2, p.1)) else b) (0, 0, 0)

/-- The hottest island, the first on a tie. -/
def hottest (z : Zmc) (ts : List Int) : Int × Nat :=
  match (List.range 25).filter (sensed z) with
  | [] => (0, 0)
  | i :: l => l.foldl (fun b k => if b.1 < ts.getD k 0 then (ts.getD k 0, k) else b) (ts.getD i 0, i)

/-- The gap, its warning, and the run of samples at or below 25 °C (R16). -/
def gapSample (z : Zmc) (now : Nat) (ts : List Int) : Zmc :=
  let (g, hot, cool) := widest z ts
  let o := zmcBase + 0x0408
  let old := getF z o 7 0
  let warn := getF z (zmcBase + 0x0400) 7 0
  let z := setF (setF (setF z o 7 0 (min g 255)) o 12 8 hot) o 17 13 cool
  let z := { z with therm := { z.therm with okRun := if g ≤ 25 then z.therm.okRun + 1 else 0 } }
  if warn ≠ 0 ∧ old < warn ∧ warn ≤ g ∧ closedUp z = false then evPost z now 0x10 20 255 (fmtC hot (min g 255) 0 0) else z

/-- The hottest island and zmc_hot_n (Table 20-4). -/
def hotSample (z : Zmc) (now : Nat) (ts : List Int) : Zmc :=
  let (t, i) := hottest z ts
  let o := zmcBase + 0x0E08
  let lim : Int := getF z (zmcBase + 0x0E00) 7 0
  let z := setF (setF z o 7 0 (t % 256).toNat) o 12 8 i
  if !z.therm.hotOut && decide (lim ≤ t) then
    let z := post { z with therm := { z.therm with hotOut := true } } now o 15
    if closedUp z then z else evPost z now 0x13 20 255 (fmtC i (t % 256).toNat 0 0)
  else if decide (t ≤ lim - 3) then { z with therm := { z.therm with hotOut := false } }
  else z

/-- SENSOR_SAMPLE: the Timebase island samples in every state but OFF (R16, R387). -/
def sensorSample (z : Zmc) (now : Nat) (ts : List Int) : Zmc :=
  if z.boot.pwrGood = false then z
  else
    let z := { z with therm := { z.therm with temps := ts } }
    hotSample (gapSample z now ts) now ts

/-- The link mode of half rate that keeps the lanes in use. -/
def halfRate (mode : Nat) : Nat := if halfWidth mode then 3 else 2

/-- A course moves to a mode for its heat; what it had before is kept. -/
def heatMode (x : Cx) (m sel : Nat) : Cx :=
  let k := x.n.val
  let was := if (tblFind x.z.therm.was k).isSome then x.z.therm.was else tblPut x.z.therm.was k (x.info.mode * 2 + x.c.lk.sel)
  potrieMode (x.onZ (fun z => { z with therm := { z.therm with was := was } })) m sel

/-- R16's return to full rate in the width in use; a course that heat found at half rate stays there. -/
def heatBack (x : Cx) : Cx :=
  let k := x.n.val
  let m := if 2 ≤ tblGet 0 x.z.therm.was k / 2 then x.info.mode else x.info.mode % 2
  potrieMode (x.onZ (fun z => { z with therm := { z.therm with was := tblDel z.therm.was k } })) m x.c.lk.sel

/-- R398's return to mode 0; under R16 the course goes to mode 0 at half rate, which is mode 2, until R16 releases it. -/
def critBack (held : Bool) (x : Cx) : Cx :=
  let k := x.n.val
  let w (z : Zmc) := if held then tblPut z.therm.was k 0 else tblDel z.therm.was k
  potrieMode (x.onZ (fun z => { z with therm := { z.therm with was := w z } })) (if held then 2 else 0) 0

/-- GAP_THROTTLE (R16): the hotter course goes to half rate, beside any that is held so already. Potrie does so once the ZMC is released (DESIGN
CHOICE, log entry 89). -/
def gapThrottle (x : Sys) : Sys :=
  let z := x.z
  let o := zmcBase + 0x0408
  let hot := getF z o 12 8
  let c := toCrs hot
  if 28 < getF z o 7 0 ∧ getF z (zmcBase + 0x0400) 8 8 = 1 ∧ z.therm.thr.contains c = false ∧ hot < 16 ∧ liveCrs z c = true ∧ potrieOn z = true ∧ z.boot.phase = 7 then
    let x := onCrs x c (fun y => heatMode y (halfRate y.info.mode) y.c.lk.sel)
    onZmc x (fun z _ => setF { z with therm := { z.therm with thr := z.therm.thr ++ [c], okRun := 0 } } o 18 18 1)
  else x

/-- The return of a held course (R16); one that is too hot in its DRAM as well stays. -/
def gapReturn (x : Sys) (c : CourseId) : Sys :=
  if liveCrs x.z c && (tblFind x.z.therm.crit c.val).isNone then onCrs x c heatBack else x

/-- GAP_UNTHROTTLE (R16): after 10 samples at or below 25 °C every held course returns. -/
def gapUnthrottle (x : Sys) : Sys :=
  if x.z.therm.thr = [] ∨ x.z.therm.okRun < 10 ∨ potrieOn x.z = false then x
  else
    let x := x.z.therm.thr.foldl gapReturn x
    onZmc x (fun z _ => setF { z with therm := { z.therm with thr := [] } } (zmcBase + 0x0408) 18 18 0)

/-- THERM_ALERT_ASSERT: below 1 µs the spec does not say that it is seen (R386). -/
def alertAssert (x : Sys) (lowNs : Nat) : Sys :=
  if x.z.therm.alertOn ∨ x.z.boot.pwrGood = false then x
  else
    let (x, b) := pulseSeen x lowNs
    if b then
      onZmc x (fun z now =>
        let z := post { z with therm := { z.therm with alertOn := true } } now (zmcBase + 0x0E08) 14
        if closedUp z then z else evPost z now 0x12 20 255 (fmtC 255 0 0 0))
    else x

/-- THERM_ALERT_RELEASE: deasserted `highNs` ns ago; reports decide again 1 ms after that (R386). -/
def alertRelease (z : Zmc) (now highNs : Nat) : Zmc :=
  if z.therm.alertOn then { z with therm := { z.therm with alertOn := false, alertTo := now - highNs * tuPerNs + tuPerMs } } else z

/-- LANE_CLOCK_LOSS: the lane PLLs of the eight courses of a home lose lock; links that were ACTIVE go to RECOVER (R383, R206). -/
def laneClockLoss (x : Sys) (k : HomeId) : Sys :=
  let x := onZmc x (fun z _ => { z with therm := { z.therm with laneClk := modV z.therm.laneClk k (fun _ => false) } })
  (List.range 8).foldl (fun x j =>
    let c := toCrs (8 * k.val + j)
    if powered x.z c then onCrs x c (fun y => enterRecover (y.onL (fun l => { l with lock := 0, dn := [], up := [] }))) else x) x

/-! ### DRAM_CRIT (R177, R398) -/

/-- The thermal policy's word (R395). -/
def thermPol (z : Zmc) : Word := (tblGet [0x00005001] z.mgt.pol 0x020B).getD 0 0x00005001

/-- Some rank's last report is critical. -/
def isCrit (x : Cx) : Bool :=
  (List.finRange 4).any (fun r => decide (r.val < x.info.ranks) && x.c.ranks[r].temp != 0x80#8 && decide ((x.f 0x1408 15 8 : Int) ≤ tempInt x.c.ranks[r].temp))

/-- DRAM_CRIT_ACTION: Potrie moves the course to the crit_act mode. -/
def critAction (x : Sys) (c : CourseId) : Sys :=
  let act := bitsOf (thermPol x.z) 1 0
  if act = 0 ∨ liveCrs x.z c = false ∨ potrieOn x.z = false ∨ x.z.boot.phase ≠ 7 ∨ isCrit (cxOf x c) = false ∨ (tblFind x.z.therm.crit c.val).isSome = true then x
  else
    let x := onCrs x c (fun y => heatMode y (if act = 2 then 3 else halfRate y.info.mode) y.c.lk.sel)
    onZmc x (fun z _ => { z with therm := { z.therm with crit := tblPut z.therm.crit c.val 0 } })

/-- A report tells since when every rank is at or below release_c. -/
def critTrack (x : Cx) : Cx :=
  match tblFind x.z.therm.crit x.n.val with
  | none => x
  | some t =>
      let rel : Int := bitsOf (thermPol x.z) 15 8
      let ok := (List.finRange 4).all (fun r => decide (x.info.ranks ≤ r.val) || (x.c.ranks[r].temp != 0x80#8 && decide (tempInt x.c.ranks[r].temp ≤ rel)))
      let v := if ok then (if t = 0 then x.now else t) else 0
      x.onZ (fun z => { z with therm := { z.therm with crit := tblPut z.therm.crit x.n.val v } })

/-- CRIT_RELEASE (R398): every rank has reported at most release_c for 1 s. -/
def critRelease (x : Sys) (c : CourseId) : Sys :=
  match tblFind x.z.therm.crit c.val with
  | none => x
  | some t =>
      if t = 0 ∨ x.now < t + tuPerS ∨ potrieOn x.z = false then x
      else
        let x := onZmc x (fun z _ => { z with therm := { z.therm with crit := tblDel z.therm.crit c.val } })
        if liveCrs x.z c then onCrs x c (critBack (x.z.therm.thr.contains c)) else x

/-- TEMP_REPORT: the oldest temperature record accepted on the link (R176). -/
def tempRecord (x : Cx) : Cx :=
  match popRec x [3] 3 with
  | none => x
  | some (r, x) => critTrack (tempReport x (toFin 4 (by decide) (slice r 71 70)) (BitVec.ofNat 8 (slice r 69 62)))

end Sys2Proof.Machine
end

