-- ==== Sys2Proof/Machine/Jobs.lean ====
section
/-! DEFINITION. Mailbox requests and their answers (R69 to R75), work that completes by an event (R391 to R394), Mason's restarts (R62), live
activation (R81, R82) and the hold at run time (R359). -/

namespace Sys2Proof.Machine

/-! ### Frames (Table 4-6) -/

/-- Opcode of the request frame. -/
def Mbx.op (b : Mbx) : Nat := bitsOf b.req[(0 : Fin 16)] 15 0
/-- Level of the request. -/
def Mbx.lvl (b : Mbx) : Nat := bitsOf b.req[(0 : Fin 16)] 23 16
/-- Argument words used. -/
def Mbx.argc (b : Mbx) : Nat := bitsOf b.req[(0 : Fin 16)] 31 24
/-- Sequence number of the requester. -/
def Mbx.seq (b : Mbx) : Nat := bitsOf b.req[(1 : Fin 16)] 15 0
/-- Word `k` of the request frame. -/
def Mbx.wd (b : Mbx) (k : Nat) : Word := b.req[toFin 16 (by decide) k]
/-- Bits of a word of the request frame. -/
def Mbx.arg (b : Mbx) (k hi lo : Nat) : Nat := bitsOf (b.wd k) hi lo
/-- A 64-bit argument, low word first. -/
def Mbx.wide (b : Mbx) (k : Nat) : BitVec 64 := b.wd (k + 1) ++ b.wd k
/-- Words 2 to 1 + arg_words. -/
def Mbx.args (b : Mbx) : List Word := (b.req.toList.drop 2).take b.argc
/-- Digest of the argument words (R394). -/
def Mbx.argDg (b : Mbx) : Word := wordsDg b.args

/-- A response frame: opcode and level echoed, the status, seq, res_words and the results (Table 4-6). -/
def rspFrame (b : Mbx) (status : Nat) (res : List Word) : Vector Word 16 :=
  let w0 := setBits b.req[(0 : Fin 16)] 31 24 status
  let w1 := BitVec.ofNat 32 (b.seq + res.length * 2 ^ 16)
  Vector.ofFn (fun i : Fin 16 => if i.val = 0 then w0 else if i.val = 1 then w1 else res.getD (i.val - 2) 0)

/-- A response is written: DONE, with an event bit of MBX[m]_STS posted (R74, R33). -/
def mbxDone (z : Zmc) (now : Nat) (m : MbxId) (rsp : Vector Word 16) (bits : Word) : Zmc :=
  postBits (modMbx z m (fun b => { b with ph := .done, rsp := rsp })) now (mbxSts m.val) bits

/-- A response is written and kept for a repeat (R71). -/
def mbxAnswer (z : Zmc) (now : Nat) (m : MbxId) (status : Nat) (res : List Word) (tg : Nat) : Zmc :=
  let b := z.mgt.mbx[m]
  let rsp := rspFrame b status res
  modMbx (mbxDone z now m rsp 8) m (fun x => { x with last := some (b.op, b.seq), kept := rsp, keptTg := tg })

/-- A write that R69 drops is counted in frame_drop. -/
def frameDrop (z : Zmc) (now : Nat) (m : MbxId) : Zmc :=
  edgeCtrs (bumpN z now (mbxSts m.val) 16 1) now 18 (mbxSts m.val) 16 1

/-- A write of 1 to ring (R74); while POSTED or RUNNING it is dropped and counted (R69). -/
def mbxRing (z : Zmc) (now : Nat) (m : MbxId) (o : Nat) : Zmc :=
  let b := z.mgt.mbx[m]
  if b.ph = .posted ∨ b.ph = .running then frameDrop z now m
  else
    let z := modMbx z m (fun b => { b with ph := .posted, orig := o, rungAt := now, undo := none })
    { z with mgt := { z.mgt with ringQ := z.mgt.ringQ ++ [m] } }

/-- A write of 1 to cancel (R74): a POSTED request is withdrawn with ABORTED. -/
def mbxCancel (z : Zmc) (now : Nat) (m : MbxId) : Zmc := if z.mgt.mbx[m].ph = .posted then withdraw z now m 0x0D else z

/-- MBX_TIMEOUT (R74): a request POSTED for mbx_timeout_ms is withdrawn with TIMEOUT. -/
def mbxTimeout (z : Zmc) (now : Nat) (m : MbxId) : Zmc :=
  let b := z.mgt.mbx[m]
  if b.ph = .posted ∧ b.rungAt + getF z (mbxBase + 0x10) 7 0 * tuPerMs ≤ now then withdraw z now m 0x0C else z

/-! ### ACCEPTED work -/

/-- Audit kind of a command (Tables 21-2 to 21-5). -/
def kindOfOp (op : Nat) : Nat :=
  if op = 0x0107 ∨ op = 0x0202 then 5 else if op = 0x0201 ∨ op = 0x0204 ∨ op = 0x0303 then 4 else 3

/-- ACCEPTED work ends: its event and its second audit entry (R391, R394). -/
def jobEnd (z : Zmc) (now : Nat) (j : Job) (code status : Nat) (w5 : Word) : Zmc :=
  let z := { z with mgt := { z.mgt with jobs := removeFirst (fun k => k == j) z.mgt.jobs } }
  let z := potPost z now code 18 255 (complD j.mbx j.seq status w5)
  audit z ⟨pkgNs z now, j.op, j.orig, j.mbx.val, status, j.target, kindOfOp j.op, 0, if status = 0 then j.dg else 0⟩

/-- The outstanding work of an opcode. -/
def jobOf (z : Zmc) (op : Nat) : Option Job := z.mgt.jobs.find? (fun j => j.op == op)

/-! ### Region clears -/

/-- A course or the partner has reached the clear point of a clear; the command completes with the last of them (R271, R371). -/
def clearReached (z : Zmc) (now id : Nat) (upd : ClrJob → ClrJob) : Zmc :=
  let l : List ClrJob := z.clrs.map (fun k => if k.id = id then upd k else k)
  let z : Zmc := { z with clrs := l }
  match l.find? (fun k => k.id == id && k.left.isEmpty && !k.peer) with
  | none => z
  | some k =>
      let z : Zmc := { z with clrs := l.filter (fun q => q.id != id) }
      let b := z.mgt.mbx[k.mbx]
      if b.ph = .running ∧ (b.op = 0x0101 ∨ b.op = 0x0502) ∧ b.seq = k.seq ∧ b.tookAt = k.tookAt then
        let tg := k.base / 2 ^ 22 % 2 ^ 24
        let z := audit z ⟨pkgNs z now, b.op, b.orig, k.mbx.val, 0, tg, 3, 0, b.argDg⟩
        mbxAnswer z now k.mbx 0 [] tg
      else
        match z.mgt.jobs.find? (fun j => j.op == 0x0101 && j.arg == id) with
        | some j => jobEnd z now j 1 0 0
        | none => z

/-! ### Mason -/

/-- A RUNNING request that a Mason restart completes with ABORTED (R62): audited as a refusal is, and the last completed request of R71. -/
def mbxAbort (z : Zmc) (now : Nat) (m : MbxId) : Zmc :=
  let b := z.mgt.mbx[m]
  if b.ph = .running then
    mbxAnswer (audit z ⟨pkgNs z now, b.op, b.orig, m.val, 0x0D, 0, kindOfOp b.op, 0, 0⟩) now m 0x0D [] 0
  else z

/-- Mason's requests in flight: in a home, or with a header that has transferred (R87). -/
def masonReqs (z : Zmc) : List FabReq :=
  let one (k : ReqKind) (a : BitVec 64) (n : Nat) (cls : Fin 4) (key : BitVec 10) (tag : BitVec 16) (d : Line) (p : Bool) (b : BayId) : FabReq :=
    { port := 21, kind := k, addr := a, lines := n, cls, colour := 0, stream := 0, key, tag, data := d, poison := p, bay := b }
  (List.finRange 2).flatMap (fun h => (z.homes[h].hrq.filter (fun r => r.port.val == 21 && !r.orphan)).map (fun r =>
    one r.kind r.addr 1 r.cls r.key r.tag r.data r.poison (bayOf r.crs)))
  ++ (List.finRange 8).flatMap (fun b => z.bays[b].data.filterMap (fun d =>
    match d.req with
    | some r => if r.port.val = 21 ∧ !d.orph then some (one r.kind r.addr r.lines r.cls r.key r.tag r.data r.poison b) else none
    | none => none))

/-- P21 is live again, and Potrie reissues Mason's orphaned requests (R87). -/
def masonLive (z : Zmc) (now : Nat) : Zmc :=
  z.mgt.reissue.foldl (fun z r => fabricArrive z now r) { liveRise z now 21 with mgt := { z.mgt with reissue := [] } }

/-- Mason restarts (R62, R358, R393): cause 0 the watchdog, 1 a double-bit error. -/
def masonRestart (z : Zmc) (now cause : Nat) : Zmc :=
  let z := evPost { z with mgt := { z.mgt with up := false } } now 4 18 255 (fmtC 255 cause 0 0)
  let z := audit z ⟨pkgNs z now, 0, 0, 7, 0, 0, 5, 0, 0⟩
  let z := (List.finRange 6).foldl (fun z m => mbxAbort z now m) z
  let z : Zmc := (List.finRange 6).foldl (fun (z : Zmc) (m : MbxId) => modMbx z m (fun b => { b with staged := none })) z
  liveFall { z with mgt := { z.mgt with reissue := z.mgt.reissue ++ masonReqs z } } now 21

/-- Mason's own part runs: the ZMC is past phase 2, not held and not in RETAIN. -/
def masonMayRun (z : Zmc) : Bool := z.boot.pwrGood && z.boot.hold == 0 && decide (3 ≤ z.boot.phase) && decide (z.pwr.st < 3)

/-- WATCHDOG_EXPIRY: Potrie has not serviced the watchdog for 100 ms (R62). -/
def watchdog (z : Zmc) (now : Nat) : Zmc :=
  if z.mgt.up = true ∧ z.mgt.act = none ∧ z.mgt.wdogAt + 100 * tuPerMs ≤ now then masonRestart z now 0 else z

/-- MASON_RESTART_DONE: the new image runs; P21 is live again and what waited for Potrie is done (R77, R80, R87). -/
def masonBack (z : Zmc) (now : Nat) : Zmc :=
  if z.mgt.up = false ∧ masonMayRun z = true then
    let z := masonLive { z with mgt := { z.mgt with up := true, wdogAt := now } } now
    if z.mgt.act.isNone then potResume z now else z
  else z

/-! ### Live activation -/

/-- The activation window opens when the ACCEPTED response is written (R81). -/
def actOpen (z : Zmc) (now : Nat) (m : MbxId) : Zmc :=
  let b := z.mgt.mbx[m]
  { z with mgt := { z.mgt with act := some ⟨m, b.seq, b.orig, b.argDg, z.mgt.active, now, false⟩ } }

/-- The window closes: Potrie runs, what waited is done, and the event and audit entry of the command follow. -/
def actEnd (z : Zmc) (now : Nat) (a : Act) (ok : Bool) : Zmc :=
  let z := { z with mgt := { z.mgt with act := none, up := true, wdogAt := now } }
  let ver := BitVec.ofNat 32 (actBank z).ver
  let z := potPut z now (if ok then 6 else 7) 18 255 (complD a.mbx a.seq (if ok then 0 else 0x84) ver)
  let z := audit z ⟨pkgNs z now, 0x0107, a.orig, a.mbx.val, if ok then 0 else 0x84, 1 - a.oldBank, 5, 0, if ok then a.dg else 0⟩
  potResume z now

/-- ACTIVATION_DONE (R81): the new image runs, the banks are swapped, the Bond table is regenerated, and a pair says hello again (R377). -/
def activationDone (z : Zmc) (now : Nat) : Zmc :=
  match z.mgt.act with
  | none => z
  | some a =>
      if a.failed ∨ a.openAt + 20 * tuPerMs < now then z
      else
        let z := { z with mgt := { z.mgt with active := 1 - a.oldBank, imgEnd := none } }
        let z := if member z then z else { z with pair := { z.pair with lvlRun := (actBank z).lvlMax } }
        sendHello (bondRewrite (actEnd z now a true) now)

/-- ACTIVATION_TIMEOUT: 20 ms without activation-done, the watchdog restarts the old image; called again, that image is up and posts
activation-failed (R82). -/
def activationTimeout (z : Zmc) (now : Nat) : Zmc :=
  match z.mgt.act with
  | none => z
  | some a =>
      if a.failed then
        let z := masonLive z now
        let z := actEnd z now a false
        sendHello { z with bond := { z.bond with gen := z.bond.gen + 2#32 } }
      else if now < a.openAt + 20 * tuPerMs then z
      else masonRestart { z with mgt := { z.mgt with act := some { a with failed := true } } } now 0

/-! ### The hold at run time -/

/-- A memory without which no request can be tied to its data has failed: every island but Timebase and Security enters reset (R359). -/
def runHold (x : Sys) (mem word b : Nat) : Sys :=
  let x := resetCourses x
  onZmc x (fun z now =>
    let y := warmZmc z now
    let k (t : Tbl Word) : Tbl Word := t.filter (fun p => ownerOf p.1 == 20 || ownerOf p.1 == 21)
    { y with
      rg := { y.rg with reg := k y.rg.reg, pend := k y.rg.pend }
      mgt := { y.mgt with audQ := [] }
      boot := { z.boot with
        hold := 1
        phase := 8
        ready := false
        rtState := 0
        failIsl := mem / 8
        failLoc := mem % 8
        failRes := 4
        failWord := word
        failBit := b
        failPass := false } })

end Sys2Proof.Machine
end

