-- ==== Sys2Proof/Machine/Repair.lean ====
section
/-! DEFINITION. Failures of the ZMC's own memories at run time (R358), hard lines and their repair (R260, R261), re-tests (R337, R338), and the
ends of ACCEPTED work (R391). -/

namespace Sys2Proof.Machine

/-! ### On-die memories at run time (Table 18-3) -/

/-- The memory exists and its island runs. -/
def memRuns (z : Zmc) (mem : Nat) : Bool := (memWords mem).isSome && islPowered z (mem / 8) && !closedUp z

/-- The status register, the record of the last error and the event (R358, Table 18-5). -/
def memNote (z : Zmc) (now mem word b : Nat) (dbl : Bool) : Zmc :=
  let z := putWide z (zmcBase + 0x0A10) (BitVec.ofNat 64 (mem + word * 2 ^ 8 + b * 2 ^ 26 + bit dbl * 2 ^ 36))
  if dbl then evPost (post z now (zmcBase + 0x0A00) 1) now 0x42 (mem / 8) (if mem < 128 then mem / 8 else 255) (fmtC mem 0 word b)
  else bump (post z now (zmcBase + 0x0A00) 0) now (zmcBase + 0x0A08)

/-- MEM_SINGLE_BIT_ERROR: corrected and counted (R358). -/
def memSingleBit (z : Zmc) (now mem word b : Nat) : Zmc := if memRuns z mem then memNote z now mem word b false else z

/-- A damaged directory cache entry is handled as a poisoned footing line (R130). -/
def dirDamaged (z : Zmc) (now : Nat) (h : HomeId) (word b : Nat) : Zmc :=
  let k := 16 * word + b / 58
  match tblFind z.homes[h].dir k with
  | none => z
  | some e =>
      let (c, q) := entSector h k e
      let z := ftgPoison z now h c (ftgLine z c (4 * q))
      modHome z h (fun s => { s with dir := tblPut s.dir k { e with bytes := Vector.replicate 4 0xBF, dirty := true } })

/-- A damaged entry of the footing write buffer: its masked bytes are written as 0xBF (R130). -/
def fwbDamaged (z : Zmc) (h : HomeId) (word : Nat) : Zmc :=
  let l := z.homes[h].fwb
  modHome z h (fun s => { s with fwb := (l.zip (List.range l.length)).map (fun p => if p.2 = word then { p.1 with data := allBF } else p.1) })

/-- Mason RAM: a restart, and a hold for the second error within 1 s. -/
def ramDamaged (x : Sys) (word b : Nat) : Sys :=
  match x.z.mgt.ramUe with
  | some t => if x.now < t + tuPerS then runHold x 144 word b else onZmc x (fun z now => masonRestart { z with mgt := { z.mgt with ramUe := some now } } now 1)
  | none => onZmc x (fun z now => masonRestart { z with mgt := { z.mgt with ramUe := some now } } now 1)

/-- A snapshot in progress is dropped (R347). -/
def snapDamaged (z : Zmc) (now : Nat) : Zmc :=
  if z.hod.busy then post { z with hod := { z.hod with busy := false, latch := [] } } now (hodBase + 0x18) 1 else z

/-- The consequence of a double-bit error (Table 18-3). -/
def memConsequence (x : Sys) (mem word b : Nat) : Sys :=
  if mem < 128 then onCrs x (toCrs (mem / 8)) (fun y => potFence y 1)
  else if mem = 128 ∨ mem = 136 then onZmc x (fun z now => dirDamaged z now (toHome (mem / 8 - 16)) word b)
  else if mem = 131 ∨ mem = 139 then onZmc x (fun z _ => fwbDamaged z (toHome (mem / 8 - 16)) word)
  else if mem < 144 then runHold x mem word b
  else if mem = 144 then ramDamaged x word b
  else if mem = 152 then onZmc x (fun z _ => { z with mgt := { z.mgt with evq := tblDel z.mgt.evq (word / 8) } })
  else if mem = 153 then onZmc x (fun z _ => { z with mgt := { z.mgt with aud := tblDel z.mgt.aud (word / 8) } })
  else if mem = 168 then onZmc x (fun z _ => keyDrop z (word / 16))
  else onZmc x snapDamaged

/-- MEM_DOUBLE_BIT_ERROR (R358, R359). -/
def memDoubleBit (x : Sys) (mem word b : Nat) : Sys :=
  if memRuns x.z mem then memConsequence (onZmc x (fun z now => memNote z now mem word b true)) mem word b else x

/-! ### Hard lines -/

/-- The repair policy's word (R395): bit 0 carries hPPR out at once, bit 1 marks. -/
def repairPol (z : Zmc) : Word := (tblGet [0] z.mgt.pol 0x020C).getD 0 0

/-- Key of a device's hPPR resource: course, (rank, subchannel), device and bank group. -/
def hpprKey (x : Cx) (dev : Nat) (a : Coord) : Nat × Nat × Nat := (x.n.val, prankOf x a.lr * 2 + a.sub, dev * 8 + a.bg)

/-- A device mark for a line's (rank, subchannel) (R243, R261). -/
def doMark (x : Cx) (line dev : Nat) : Cx := let a := coordOf x line; putMark x (prankOf x a.lr) a.sub dev

/-- A line of a row is read, corrected, into Mason RAM; what cannot be corrected will be written back as poison (R261). -/
def hpprLine (x : Cx) (line : Nat) : Cx × (Nat × Line × Bool) :=
  let a := coordOf x line
  let (d, mark) := decodeNow x line (dramAt x (dramKey a.key a.row a.col))
  match d with
  | .clean v => (x, line, v, false)
  | .fixed c ch => (noteCe x line (foundOf mark 0 ch) false, line, lineData c, false)
  | .poison _ => (x.cnt 0x1860, line, 0, true)
  | .bad => (x.cnt 0x1858, line, 0, true)

/-- The 128 lines of a line's row on its subchannel. -/
def rowLines (line : Nat) : List Nat := (List.range 128).map (fun k => line - (line &&& 1934) + k % 8 * 2 + k / 8 * 128)

/-- No command or burst of a bank is outstanding. -/
def bankQuiet (x : Cx) (a : Coord) : Bool :=
  let of_ (b : Cmd) : Bool := bankKey b.sub b.lr b.bg b.bk == a.key
  !(x.c.retry.toList.any (fun l => l.any of_)) && !x.c.outRd.any of_ && !x.c.rb.toList.any (fun r => r.set.any of_)

/-- An hPPR begins: its bank is held (R261 step 2), and the sequence that will run on it is the one of JESD79-5 (step 3). -/
def pprStart (x : Cx) (o : Offer) (auto : Bool) : Cx :=
  let a := coordOf x o.line
  let cmds := (Config.hpprSeq o.dev a.bg a.bk a.row).map (fun p => (⟨p.1 % 15, a.sub, a.lr, a.bg, a.bk, p.2, true, x.c.ord⟩ : Tcmd))
  x.onC (fun c => { c with ppr := c.ppr ++ [{ id := o.id, line := o.line, dev := o.dev, auto, saved := none, cmds, last := 0 }] })

/-- Potrie reads the row of the held bank into Mason RAM once nothing is outstanding on it (R261 step 1). -/
def pprSave (x : Cx) : Cx :=
  match x.c.ppr with
  | p :: l =>
      if p.saved.isSome ∨ bankQuiet x (coordOf x p.line) = false ∨ potrieOn x.z = false then x
      else
        let (x, s) := (rowLines p.line).foldl (fun (r : Cx × List (Nat × Line × Bool)) k => let (x, v) := hpprLine r.1 k; (x, r.2 ++ [v])) (x, [])
        x.onC (fun c => { c with ppr := { p with saved := some s } :: l })
  | [] => x

/-- The sequence of the first hPPR has run. -/
def pprRan (x : Cx) (p : Ppr) : Bool :=
  x.c.ppr.head? == some p && p.saved.isSome && p.cmds.isEmpty && decide (p.last ≤ x.dck) && bankQuiet x (coordOf x p.line)

/-- An hPPR ends: the lines saved are written back and the bank is released; a repair that has succeeded releases the entry and changes the
Bond table (R261 steps 4 and 5). -/
def pprEnd (x : Cx) (p : Ppr) (ok : Bool) : Cx :=
  let put (x : Cx) (v : Nat × Line × Bool) : Cx :=
    let a := coordOf x v.1
    x.onB (fun b => { b with dram := tblPut b.dram (dramKey a.key a.row a.col) (lineCode v.2.1 v.2.2) })
  let x := ((p.saved.getD []).foldl put x).onC (fun c => { c with ppr := removeFirst (fun q => q == p) c.ppr })
  if ok then
    let key := hpprKey x p.dev (coordOf x p.line)
    rptRelease (x.onZ (fun z => needBond { z with mgt := { z.mgt with hppr := key :: z.mgt.hppr } })) (fun r => r.line == p.line)
  else x

/-- SELECT_COMMIT, with what Potrie reads for an hPPR beforehand. -/
def courseSelect (x : Cx) (s : Fin 2) : Cx := selectCommit (pprSave x) s

/-- Potrie posts and audits an offer (R260); a kind that the policy enables is carried out at once: a mark as a whole, an hPPR by starting it. -/
def makeOffer (x : Cx) (kind line dev : Nat) (ws : List Word) : Cx :=
  let id := x.z.mgt.offerNext
  let o : Offer := { id := id, crs := x.n.val, kind := kind, line := line, dev := dev, fmtA := ws }
  let x := x.onZ (fun z =>
    let z := potPost { z with mgt := { z.mgt with offerNext := id % 65535 + 1 } } x.now 8 18 x.n.val (BitVec.ofNat 32 (id + kind * 2 ^ 16) :: ws.drop 1)
    audit z ⟨pkgNs z x.now, 0, 0, 7, 0, 0, 3, 0, 0⟩)
  if (repairPol x.z).getLsbD (kind - 1) then
    if kind = 1 then pprStart x o true else (doMark x line dev).onZ (fun z => audit z ⟨pkgNs z x.now, 0, 0, 7, 0, 0, 3, 0, 0⟩)
  else x.onZ (fun z => { z with mgt := { z.mgt with offers := z.mgt.offers ++ [o] } })

/-- Rows in which lines of one device of a (physical rank, subchannel) went HARD within 24 hours. -/
def hardRows (x : Cx) (dev pr sub : Nat) : List (Nat × Nat × Nat) :=
  ((x.z.mgt.hist.filter (fun h => h.crs == x.n.val && h.dev == dev && h.sub == sub && prankOf x h.lrank == pr && decide (x.now ≤ h.t + 86400 * tuPerS))).map
    (fun h => (h.lrank, h.bank, h.row))).eraseDups

/-- One device's hard line (rows 3 and 4 of Table 12-6). -/
def hardOne (x : Cx) (line dev : Nat) (ws : List Word) : Cx :=
  let a := coordOf x line
  let pr := prankOf x a.lr
  let rec_ : HardRec := { t := x.now, crs := x.n.val, dev := dev, sub := a.sub, lrank := a.lr, row := a.row, bank := a.bg * 4 + a.bk }
  let x := x.onZ (fun z => { z with mgt := { z.mgt with hist := z.mgt.hist.filter (fun h => decide (x.now ≤ h.t + 86400 * tuPerS)) ++ [rec_] } })
  if 3 ≤ (hardRows x dev pr a.sub).length ∨ x.z.mgt.hppr.contains (hpprKey x dev a) = true then
    match markOf x pr a.sub with
    | some _ => x.pev 0x0009 (fmtC x.n.val dev 0 0)
    | none => makeOffer x 2 line dev ws
  else makeOffer x 1 line dev ws

/-- An automatic hPPR of an entry's line that has run ends, and is audited (R260, R261). -/
def hardRepaired (x : Cx) (line : Nat) : Cx :=
  match x.c.ppr.find? (fun p => p.auto && p.line == line) with
  | some p => if potrieOn x.z && pprRan x p then (pprEnd x p true).onZ (fun z => audit z ⟨pkgNs z x.now, 0, 0, 7, 0, 0, 3, 0, 0⟩) else x
  | none => x

/-- HARD_LINE_HANDLING: Potrie handles a HARD event by the first applicable row of Table 12-6 (R260); of an event handled before, it ends the
automatic repair that has run. -/
def hardLine (x : Cx) (e : Fin 64) : Cx :=
  let r := x.c.rpt[e]
  match r.evt with
  | none => hardRepaired x r.line
  | some ws =>
      if potrieOn x.z = false ∨ r.st ≠ 4 then x
      else
        let x := modRpt x e (fun r => { r with evt := none })
        let a := coordOf x r.line
        let mark := markOf x (prankOf x a.lr) a.sub
        let devs := (List.range 10).filter (fun d => r.devs.testBit d)
        match devs.filter (fun d => mark != some d) with
        | [] => modRpt x e (fun r => { r with st := 0, since := x.now })
        | [d] => hardOne x r.line d ws
        | _ => x

/-! ### Quieting a course (R337, COURSE_FENCE) -/

/-- Nothing granted to the course is unserved and no engine renders. -/
def crsDrained (x : Sys) (c : CourseId) : Bool :=
  let z := x.z
  let h := z.homes[homeOf c]
  let s := x.crs[c]
  let y := z.bays[bayOf c]
  s.rdq.isEmpty && s.wrq.isEmpty && rndBusy s == 0 && s.claims.isEmpty && z.jreq[c].isEmpty && z.jdat[c].isEmpty
    && h.hrq.all (fun r => r.crs != c) && h.ftgs.all (fun f => f.crs != c) && h.wrPend.all (fun p => p.1 != c)
    && (match y.next with | some g => g.crs != some c | none => true)
    && y.data.all (fun d => match d.req with | some r => r.dest.map Prod.fst != some c | none => true)

/-- In self-refresh with the link DOWN. -/
def crsQuiet (s : CourseSt) : Bool := (s.sr.st == 3 || s.sr.st == 4) && s.lk.st == 0

/-! ### Ends of ACCEPTED work -/

/-- COURSE_FENCE goes on (Table 21-3): once drained, self-refresh and link DOWN, then the fence. -/
def fenceStep (x : Sys) (j : Job) : Sys :=
  let c := toCrs j.arg
  if x.z.cinfo[c].fence ≠ 0 then onZmc x (fun z now => jobEnd z now j 1 0x84 0)
  else if crsQuiet x.crs[c] then onZmc (onCrs x c (fun y => fenceCrs y 5)) (fun z now => jobEnd z now j 1 0 0)
  else if crsDrained x c then onCrs x c retainCrs
  else x

/-- The fuses take the soft repairs of the memories named (R327); which entries a burn that fails leaves is not said. -/
def burn (x : Sys) (f : Fuse) (mem : Nat) (ok : Bool) : Sys × Fuse :=
  let soft := x.z.boot.spares.filter (fun p => !p.2.hard && (mem == 0xFF || p.1 / 16 == mem))
  let took := (soft.zip (List.range soft.length)).filter (fun p => ok || (Config.freeWord (x.free + p.2)).getLsbD 0)
  let l := took.map (fun p => (p.1.1 / 16, p.1.1 % 16, p.1.2.row))
  let spares := took.foldl (fun t p => tblPut t p.1.1 { p.1.2 with hard := true }) x.z.boot.spares
  let hard := f.hard ++ l
  ({ x with
      free := x.free + (if ok then 0 else soft.length)
      z := { x.z with boot := { x.z.boot with spares := spares, fuses := hard.length } } }, { f with hard := hard })

/-- The verified last part of an image (R60, IMAGE_WRITE). -/
def imageDone (z : Zmc) (now : Nat) (j : Job) : Zmc :=
  let i := toHome (1 - z.mgt.active)
  let by_ := z.mgt.banks[i].bytes
  if Config.imgValid by_ then
    let b : Bank := { bytes := by_, valid := true, ver := (Config.imgVer by_).toNat, build := Config.imgBuild by_, lvlMin := (Config.imgLvlMin by_).toNat, lvlMax := (Config.imgLvlMax by_).toNat }
    let z := { z with mgt := { z.mgt with banks := modV z.mgt.banks i (fun _ => b) } }
    jobEnd (bondRewrite z now) now j 1 0 0
  else jobEnd z now j 1 0x0B 0

/-- A life-cycle transition is complete: an entry of RETURNED or END-OF-LIFE has zeroed the key store and the key-encryption key, and refuses
key loads until the next cold reset (Table 15-1, R303). -/
def lcDone (z : Zmc) (now : Nat) (j : Job) : Zmc :=
  let z := if 3 ≤ j.arg then { z with keys := { slots := [], kek := none, blocked := true, cache := Vector.replicate 8 [] } } else z
  jobEnd { z with boot := { z.boot with lcPend := j.arg } } now j 0x0A 0 (BitVec.ofNat 32 j.arg)

/-- REPAIR goes on: its hPPR ends once it has run, or fails, as one whose course has been fenced does (R261, R391). -/
def repairStep (x : Sys) (j : Job) (o : Offer) (ok : Bool) : Sys :=
  let c := toCrs o.crs
  let fin (x : Sys) (status : Nat) : Sys :=
    onZmc x (fun z now => jobEnd { z with mgt := { z.mgt with offers := z.mgt.offers.filter (fun q => q.id != o.id) } } now j 1 status (BitVec.ofNat 32 o.id))
  match x.crs[c].ppr.find? (fun p => p.id == o.id) with
  | none => fin x 0x84
  | some p =>
      if ok = false then fin (onCrs x c (fun y => pprEnd y p false)) 0x84
      else if pprRan (cxOf x c) p then fin (onCrs x c (fun y => pprEnd y p true)) 0
      else x

/-- ACCEPTED_COMPLETE: the oldest outstanding ACCEPTED work of a mailbox ends, well or not, where it is for the work itself to end; the
other ends belong to TRAIN, the re-test rows, ACTIVATION_DONE and RETAIN's rows. -/
def acceptedComplete (x : Sys) (f : Fuse) (m : MbxId) (ok : Bool) : Sys × Fuse :=
  match x.z.mgt.jobs.find? (fun j => j.mbx == m && ([0x0101, 0x0108, 0x0202, 0x0204, 0x020D, 0x0303] : List Nat).contains j.op) with
  | none => (x, f)
  | some j =>
      if potrieOn x.z = false then (x, f)
      else if j.op = 0x0101 then (onZmc x (fun z now => clearReached z now j.arg (fun k => if k.left.isEmpty then { k with peer := false } else k)), f)
      else if j.op = 0x0108 then
        match x.z.mgt.offers.find? (fun o => o.id == j.arg) with
        | none => (x, f)
        | some o =>
            (repairStep x j o ok, f)
      else if j.op = 0x0202 then (onZmc x (fun z now => imageDone z now j), f)
      else if j.op = 0x0204 then
        if ok then (onZmc x (fun z now => lcDone z now j), { f with lc := j.arg })
        else (onZmc x (fun z now => jobEnd z now j 0x0A 0x84 (BitVec.ofNat 32 z.boot.lcPend)), f)
      else if j.op = 0x020D then
        if ok then (fenceStep x j, f)
        else (onZmc (onCrs x (toCrs j.arg) (fun y => y.onInfo (fun i => { i with draining := false }))) (fun z now => jobEnd z now j 1 0x84 0), f)
      else
        let (x, f) := burn x f j.arg ok
        (onZmc x (fun z now => jobEnd z now j 1 (if ok then 0 else 0x84) 0), f)

/-- A course's training ends COURSE_RESTORE: it serves again with every region WRITTEN, or stays fenced (Table 21-3, R319). -/
def restoreEnd (x : Sys) (j : Job) (c : CourseId) (o : TrainObs) : Sys :=
  let x0 := onCrs x c (fun y => y.onInfo (fun i => { i with fence := 0, failed := false, draining := false }))
  match trainTry (cxOf x0 c) o with
  | none => onZmc x (fun z now => jobEnd z now j 1 0x84 0)
  | some _ =>
      let x := onCrs x0 c (fun y => crsServes (((trainTry y o).getD y).onC (fun c => c.mapTo {})))
      onZmc x (fun z now => jobEnd (pairRestored z c) now j 1 0 0)

/-- TRAIN: at power-up, or for COURSE_RESTORE (R294, R295). -/
def trainRow (x : Sys) (c : CourseId) (o : TrainObs) : Sys :=
  match restoreJob x.z c.val with
  | some j => if potrieOn x.z then restoreEnd x j c o else x
  | none => trainBoot x c o

/-! ### Re-test -/

/-- RETEST_DRAIN_DONE: the course's queues are empty and its renders done; it enters self-refresh, its link goes DOWN, and TEST begins
(Table 16-7). -/
def retestDrain (x : Sys) : Sys :=
  let c := toCrs x.z.boot.rtCourse
  if x.z.boot.rtState ≠ 1 then x
  else if x.z.cinfo[c].fence ≠ 0 ∨ (crsDrained x c = true ∧ crsQuiet x.crs[c] = true) then
    onZmc x (fun z _ => needBond (modInfo { z with boot := { z.boot with rtState := 2 } } c (fun i => { i with fence := 4, draining := false })))
  else if crsDrained x c then onCrs x c retainCrs
  else x

/-- The re-test leaves for NONE and its command completes. -/
def retestEnd (x : Sys) (status : Nat) : Sys :=
  onZmc x (fun z now =>
    let z := { z with boot := { z.boot with rtState := 0 } }
    match jobOf z 0x0301 with
    | some j => jobEnd z now j 1 status 0
    | none => z)

/-- A re-test ends in a fence with a cause (Table 16-7, R213). -/
def retestFail (x : Sys) (cause : Nat) : Sys :=
  let c := toCrs x.z.boot.rtCourse
  retestEnd (onCrs x c (fun y => fenceCrs (y.onInfo (fun i => { i with fence := 0 })) cause)) 0x84

/-- Backgrounds of a re-test (Table 16-9). -/
def bistBg (z : Zmc) : Nat := getF z (secBase + 0x3020) 3 0

/-- RETEST_TEST_DONE: what the engines observed (R337); any FAIL or INCOMPLETE ends in a fence. -/
def retestTest (x : Sys) (obs : List BistObs) (decOk : Bool) : Sys :=
  if x.z.boot.rtState ≠ 2 then x
  else
    let c := x.z.boot.rtCourse
    let bg := bistBg x.z
    let x := onZmc x (fun z _ => testPut ((crsMems c).foldl (fun z id => bistMem obs bg (bistLen ((memWords id).getD 0) bg) z id) z) (8 * c + 7) decOk)
    if ((8 * c + 7) :: crsMems c).any (fun id => bistBad x.z id) then retestFail x 1
    else
      let x := onZmc x (fun z _ => { z with boot := { z.boot with rtState := 3 } })
      onCrs x (toCrs c) (fun y => if y.info.trained then linkStartRow y else y)

/-- BIST_ABORT's effect: the running tests end INCOMPLETE (R326). -/
def retestAbort (x : Sys) : Sys :=
  let c := x.z.boot.rtCourse
  let x := onZmc x (fun z _ => (crsMems c).foldl (fun z id =>
    { z with boot := { z.boot with bist := tblPut z.boot.bist id { result := 5, len := bistLen ((memWords id).getD 0) (bistBg z) } } }) z)
  retestFail x 1

/-- RETEST_RESTORE_DONE: the link is ACTIVE and the Corbel restored; every region is WRITTEN and the course is in IN_SR (Table 16-7, R286, R319).
A course that never trained has no link to wake and stays fenced. -/
def retestRestore (x : Sys) : Sys :=
  let c := toCrs x.z.boot.rtCourse
  if x.z.boot.rtState ≠ 3 then x
  else if x.z.cinfo[c].trained = false then retestFail x 2
  else
    let x := onCrs x c (fun y =>
      let y := if y.c.lk.st = 2 then rateThrough (wakeTarget y) else wakeThrough y
      let y := (y.onC (fun c => { (c.mapTo {}) with sr := { c.sr with st := 3 } })).onInfo (fun i => { i with fence := 0, draining := false, failed := false })
      y.onZ needBond)
    retestEnd (onZmc x (fun z _ => pairRestored z c)) 0

/-- When a waiting request of the course under re-test started to wait (R338). -/
def stallFrom (z : Zmc) (r : QReq) : Nat := match jobOf z 0x0301 with | some j => max r.arr j.startAt | none => r.arr

/-- RETEST_STALL_EXPIRY: the oldest request of the port at the bay that has waited retest_stall_us for the course under re-test is answered
with poison (R338). -/
def retestStall (z : Zmc) (now : Nat) (b : BayId) (p : PortId) : Zmc :=
  let lim := getF z (secBase + 0x3020) 19 4 * tuPerUs
  let hit (r : QReq) : Bool := r.port == p && (match r.dest with | some (c, _) => retesting z c | none => false) && decide (stallFrom z r + lim ≤ now)
  match z.bays[b].q.find? hit with
  | none => z
  | some r =>
      let vt := fun (y : BaySt) => if r.cls.val = 2 then modV y.vt r.port (fun _ => r.s) else y.vt
      let z := modBay z b (fun y => { y with q := removeFirst (fun x => x.rid == r.rid) y.q, vt := vt y })
      let z := bump z now (secBase + 0x3030)
      if liveFinal z p = false then (List.range r.lines).foldl (fun z _ => dropOrphan z now b p) z
      else if isWr r.kind then send z (.wrDone p r.tag true)
      else (List.range r.lines).foldl (fun z i => send z (.data p r.tag (r.addr + BitVec.ofNat 64 (64 * i)) 0 true 0 false false)) z

end Sys2Proof.Machine
end

