-- ==== Sys2Proof/Machine/Mailbox.lean ====
section
/-! DEFINITION. Potrie's service of the mailboxes: the take (R71, R74, R75), the checks every command shares (R389, R390), and the Operator's
commands (Table 21-2). The other roles' commands are in Roles.lean. -/

namespace Sys2Proof.Machine

/-! ### The take -/

/-- The mailbox whose request is next (R75): MBX_PEER first, but not twice in a row while another is POSTED; else in order of ringing. -/
def nextMbx (z : Zmc) : Option MbxId :=
  let others := z.mgt.ringQ.filter (fun k => k != 5)
  if z.mgt.ringQ.contains 5 && !(z.mgt.lastPeer && !others.isEmpty) then some 5 else others.head?

/-- Potrie serves mailboxes: it runs, no activation window is open and no RETAIN entry occupies it (R75, R81, R314). -/
def potServes (z : Zmc) : Bool := potrieOn z && masonMayRun z && z.pwr.st != 2

/-- Potrie may take mailbox `m`'s request now: one at a time, in turn (R75). -/
def mayTake (z : Zmc) (m : MbxId) : Bool :=
  potServes z && (List.finRange 6).all (fun k => z.mgt.mbx[k].ph != .running) && z.mgt.mbx[m].ph == .posted && nextMbx z == some m

/-- The take (R74). -/
def takeReq (z : Zmc) (now : Nat) (m : MbxId) : Zmc :=
  let z := modMbx z m (fun b => { b with ph := .running, tookAt := now })
  { z with mgt := { z.mgt with ringQ := z.mgt.ringQ.filter (fun k => k != m), lastPeer := m == 5, wdogAt := now } }

/-- Audit entry of a command (R394). -/
def cmdAudit (z : Zmc) (now : Nat) (m : MbxId) (op status tg : Nat) (old new : Word) : Zmc :=
  audit z ⟨pkgNs z now, op, z.mgt.mbx[m].orig, m.val, status, tg, kindOfOp op, old, new⟩

/-- A command's response with its audit entry. -/
def cmdDone (x : Sys) (m : MbxId) (status : Nat) (res : List Word) (tg : Nat) (old new : Word) : Sys :=
  onZmc x (fun z now => mbxAnswer (cmdAudit z now m z.mgt.mbx[m].op status tg old new) now m status res tg)

/-- A refusal: no results, both digests zero (R391, R394). -/
def cmdRefuse (x : Sys) (m : MbxId) (status tg : Nat) : Sys := cmdDone x m status [] tg 0 0

/-- A command that writes no registers, key slot or policy answers OK: its digest covers the arguments. -/
def cmdOk (x : Sys) (m : MbxId) (res : List Word) (tg : Nat) : Sys := cmdDone x m 0 res tg 0 x.z.mgt.mbx[m].argDg

/-- A repeat is answered from the kept response and audited as kind 3 (R71, R394). -/
def cmdRepeat (x : Sys) (m : MbxId) : Sys :=
  onZmc x (fun z now =>
    let b := z.mgt.mbx[m]
    let st := bitsOf b.kept[(0 : Fin 16)] 31 24
    mbxDone (audit z ⟨pkgNs z now, b.op, b.orig, m.val, st, b.keptTg, 3, 0, 0⟩) now m b.kept 8)

/-- The mailbox as it was before a withdrawal in the present SCK cycle: a take in that cycle wins (R74). -/
def unpull (z : Zmc) (now : Nat) (m : MbxId) : Zmc :=
  match z.mgt.mbx[m].undo with
  | some (cyc, sts, q) =>
      if cyc = now / tuSck then
        let z := modMbx (putWord z (mbxSts m.val) sts) m (fun b => { b with ph := .posted, undo := none })
        { z with mgt := { z.mgt with ringQ := q.filter (fun k => k == m || z.mgt.ringQ.contains k) ++ z.mgt.ringQ.filter (fun k => !q.contains k) } }
      else z
  | none => z

/-- Potrie takes the request of mailbox `m` when `hit` accepts its opcode, and executes it unless it is a repeat (R71, R75). -/
def takeCmd (x0 : Sys) (m : MbxId) (hit : Nat → Bool) (run : Sys → Mbx → Sys) : Sys :=
  let x := onZmc x0 (fun z now => unpull z now m)
  let b := x.z.mgt.mbx[m]
  if mayTake x.z m && hit b.op then
    let x := onZmc x (fun z now => takeReq z now m)
    if b.seq ≠ 0 ∧ b.last = some (b.op, b.seq) then cmdRepeat x m else run x x.z.mgt.mbx[m]
  else x0

/-! ### Shared checks -/

/-- Listed bits of a frame word in a layout of (word, bits). -/
def listed (l : List (Nat × Word)) (k : Nat) : Word := match l.find? (fun p => p.1 == k) with | some p => p.2 | none => 0

/-- The frame is as a layout requires (R70, R390): every listed word within arg_words, every other bit zero. -/
def frameOk (b : Mbx) (l : List (Nat × Word)) : Bool :=
  decide (b.argc ≤ 14) && b.arg 1 31 16 == 0 && l.all (fun p => decide (p.1 ≤ b.argc + 1))
    && (List.range 14).all (fun i => b.wd (i + 2) &&& ~~~(if i < b.argc then listed l (i + 2) else 0#32) == 0)

/-- A mask of `n` low bits. -/
def lowMask (n : Nat) : Word := BitVec.ofNat 32 (2 ^ n - 1)
/-- Words `a` to `a + n - 1`, every bit listed. -/
def fullWords (a n : Nat) : List (Nat × Word) := (List.range n).map (fun i => (a + i, 0xFFFFFFFF#32))

/-- What a command's table says of its use. -/
structure Rules where
  roles : List Nat
  lvl   : Nat
  life  : Bool
  seals : Bool
  args  : Bool

/-- Refusals 2 to 7 of R389, in order; 0 when none applies. -/
def shared (z : Zmc) (m : MbxId) (b : Mbx) (r : Rules) : Nat :=
  if b.lvl = 0 ∨ b.lvl < (actBank z).lvlMin ∨ (actBank z).lvlMax < b.lvl then 3
  else if !r.roles.contains m.val then 5
  else if b.lvl < r.lvl ∨ z.pair.lvlRun < r.lvl then 4
  else if !r.life then 6
  else if r.seals && z.rg.sealed then 7
  else if !r.args then 8
  else 0

/-- A command under the shared checks; when it is executed, the parts of another staged command are discarded (R393). -/
def command (x : Sys) (m : MbxId) (op : Nat) (tg : Mbx → Nat) (rules : Sys → Mbx → Rules) (run : Sys → Mbx → Sys) : Sys :=
  takeCmd x m (fun k => k == op) (fun x b =>
    match shared x.z m b (rules x b) with
    | 0 => run (onZmc x (fun z _ => modMbx z m (fun k => { k with staged := k.staged.filter (fun s => s.op == op) }))) b
    | s => cmdRefuse x m s (tg b))

/-- Rules of a command of some roles that nothing else limits. -/
def plainRules (roles : List Nat) (args : Bool) : Rules := ⟨roles, 6, true, false, args⟩

/-- Two resources have a part in common (R392). -/
def clash : Rsrc → Rsrc → Bool
  | .all, _ => true
  | _, .all => true
  | .course a, .course b => a == b
  | .course a, .bist b => a == b
  | .bist a, .course b => a == b
  | .bist _, .bist _ => true
  | .range a n, .range b k => rangesMeet a n b k
  | .banks, .banks => true
  | .banks, .inactiveBank => true
  | .inactiveBank, .banks => true
  | .inactiveBank, .inactiveBank => true
  | .fuses, .fuses => true
  | .lifeCycle, .lifeCycle => true
  | _, _ => false

/-- An ACCEPTED command holds a part of the resource. -/
def held (z : Zmc) (r : Rsrc) : Bool := z.mgt.jobs.any (fun j => clash j.rsrc r)

/-- ACCEPTED: the work begins and holds its resource (R391, R392, R394). -/
def cmdAccept (x : Sys) (m : MbxId) (r : Rsrc) (arg tg : Nat) : Sys :=
  let b := x.z.mgt.mbx[m]
  let x := onZmc x (fun z now =>
    { z with mgt := { z.mgt with jobs := z.mgt.jobs ++ [⟨m, b.op, b.seq, b.orig, r, arg, tg, b.argDg, now⟩] } })
  cmdDone x m 1 [] tg 0 b.argDg

/-- A command writes words and answers OK; its digests cover them (R394). -/
def cmdWrote (x : Sys) (m : MbxId) (offs : List Nat) (old : List Word) (tg : Nat) (res : List Word) : Sys :=
  cmdDone x m 0 res tg (wordsDg old) (wordsDg (offs.map (wordAt x.z)))

/-- Put a word's pending value back as it was. -/
def pendBack (z : Zmc) (p : Nat × Option Word) : Zmc :=
  match p.2 with
  | some v => pendPut z p.1 v
  | none => recheck { z with rg := { z.rg with pend := tblDel z.rg.pend p.1 } } p.1

/-- A command writes BUF words, in ascending offset, and applies them with one SET; a rejected SET leaves no pending value and refuses the
command (R398). Words of islands without power are left out. -/
def bufCmd (x : Sys) (m : MbxId) (tg : Nat) (ws : List (Nat × Word)) (isl : List Nat) (after : Sys → Sys) : Sys :=
  let ws := ws.filter (fun p => islPowered x.z (ownerOf p.1))
  let offs := ws.map (fun p => p.1)
  let old := offs.map (wordAt x.z)
  let prev := offs.map (fun o => (o, tblFind x.z.rg.pend o))
  let y := onZmc x (fun z _ => ws.foldl (fun z p => pendPut z p.1 p.2) z)
  let (y, ok) := potSetNow y m.val (isl.foldl (fun a i => a + 2 ^ i) 0)
  if ok then cmdWrote (after y) m offs old tg []
  else cmdRefuse (onZmc y (fun z _ => prev.foldl pendBack z)) m 8 tg

/-- The pending word of an offset with a field replaced. -/
def pendWith (z : Zmc) (off hi lo v : Nat) : Nat × Word := (off, setBits (pendWord z off) hi lo v)

/-! ### Staged commands -/

/-- A part of a staged command of an object is the next one (R393). -/
def partNext (b : Mbx) (op obj part : Nat) : Bool :=
  match b.staged with
  | some s => s.op == op && s.obj == obj && s.next == part
  | none => part == 0

/-- The parts received so far with a part's words added. -/
def partPut (x : Sys) (m : MbxId) (op obj part : Nat) (ws : List Word) : Sys :=
  onZmc x (fun z _ => modMbx z m (fun b =>
    { b with staged := some ⟨op, obj, part + 1, (match b.staged with | some s => s.words | none => []) ++ ws⟩ }))

/-- The words of the parts received. -/
def partWords (x : Sys) (m : MbxId) : List Word := match x.z.mgt.mbx[m].staged with | some s => s.words | none => []

/-- The parts are discarded. -/
def partDrop (x : Sys) (m : MbxId) : Sys := onZmc x (fun z _ => modMbx z m (fun b => { b with staged := none }))

/-! ### QUERY and unknown opcodes -/

/-- QUERY (R396). -/
def cmdQuery (x : Sys) (m : MbxId) : Sys :=
  command x m 0x0001 (fun _ => 0) (fun _ b => plainRules [0, 1, 2, 3, 4, 5] (frameOk b [])) (fun x _ =>
    let z := x.z
    cmdOk x m [ BitVec.ofNat 32 ((actBank z).lvlMin + (actBank z).lvlMax * 2 ^ 8 + z.pair.lvlRun * 2 ^ 16), BitVec.ofNat 32 (actBank z).ver
              , z.mgt.evtNext, z.mgt.audNext, z.bond.gen ] 0)

/-- Opcodes of chapter 21. -/
def knownOps : List Nat :=
  [ 0x0001, 0x0101, 0x0102, 0x0103, 0x0104, 0x0105, 0x0106, 0x0107, 0x0108, 0x0109, 0x010A, 0x010B, 0x0201, 0x0202, 0x0203, 0x0204
  , 0x0205, 0x0206, 0x0207, 0x0208, 0x0209, 0x020A, 0x020B, 0x020C, 0x020D, 0x020E, 0x0301, 0x0302, 0x0303, 0x0304, 0x0401, 0x0402
  , 0x0501, 0x0502, 0x0503 ]

/-- UNKNOWN_OPCODE: refused with BAD_OPCODE (R389). -/
def cmdUnknown (x : Sys) (m : MbxId) : Sys := takeCmd x m (fun k => !knownOps.contains k) (fun x _ => cmdRefuse x m 2 0)

/-! ### Region clears (R270, R271, R371) -/

/-- Base and size of a clear. -/
def clrRange (b : Mbx) : Nat × Nat := ((b.wide 2).toNat, (b.wide 4).toNat)
/-- Audit target of a clear: base bits [45:22]. -/
def clrTarget (b : Mbx) : Nat := (clrRange b).1 / 2 ^ 22 % 2 ^ 24

/-- The interleave record a clear lies in, when the range is as R270 requires. -/
def clrRec (z : Zmc) (base size : Nat) : Option Ilv :=
  match findIlv z 0 base with
  | none => none
  | some i =>
      let step := max i.ways 1 * 2 ^ 22
      if size ≠ 0 ∧ (base - i.base) % step = 0 ∧ size % step = 0 ∧ base + size ≤ i.base + i.size then some i else none

/-- Primary ranges that a clear overlaps. -/
def clrMirs (z : Zmc) (base size : Nat) : List Nat :=
  (List.range 8).filter (fun r => let d := mirOf z r; d.role == 0 && d.en && rangesMeet d.base d.size base size)

/-- Ranges that are in no state to pass clears on do not take part. -/
def clrPeers (z : Zmc) (base size : Nat) : List Nat :=
  (clrMirs z base size).filter (fun r => let st := z.pair.mirs[toMir r].st; st == 1 || st == 3 || st == 4)

/-- A clear begins: one request per powered course of the set, and the partner first where the range is mirrored. -/
def clrStart (x : Sys) (m : MbxId) (i : Ilv) (base size : Nat) : Sys :=
  onZmc x (fun z now =>
    let id := z.clrNext
    let step := max i.ways 1 * 2 ^ 22
    let lo := (base - i.base) / step
    let peers := clrPeers z base size
    let z := peers.foldl (fun z r =>
      let d := mirOf z r
      let a := max d.base base
      let e := min (d.base + d.size) (base + size)
      send z (.peerClear (a - d.base + d.peer) (e - a))) z
    let cs := (i.courses.eraseDups).filter (fun c => powered z (toCrs c))
    let k : ClrJob := { id := id, mbx := m, seq := z.mgt.mbx[m].seq, base := base, size := size, tookAt := now, left := cs, peer := !peers.isEmpty }
    let z : Zmc := { z with clrs := z.clrs ++ [k], clrNext := id + 1 }
    let z := cs.foldl (fun z c => { z with jclr := modV z.jclr (toCrs c) (fun l => l ++ [⟨id, lo, lo + size / step⟩]) }) z
    clearReached z now id (fun k => k))

/-- A clear in progress overlaps. -/
def clrBusy (z : Zmc) (base size : Nat) : Bool := z.clrs.any (fun k => rangesMeet k.base k.size base size)

/-- REGION_CLEAR: the take, and the ACCEPTED answer once 1.5 ms have passed without every clear point (Table 21-2). -/
def cmdRegionClear (x : Sys) (m : MbxId) : Sys :=
  let b := x.z.mgt.mbx[m]
  if b.ph = .running ∧ b.op = 0x0101 ∧ b.tookAt + 126000000 ≤ x.now ∧ potServes x.z = true then
    match x.z.clrs.find? (fun k => k.mbx == m && k.seq == b.seq && k.tookAt == b.tookAt) with
    | some k => cmdAccept x m (.range k.base k.size) k.id (clrTarget b)
    | none => x
  else
    command x m 0x0101 clrTarget
      (fun x b => let r := clrRange b; plainRules [0, 1] (frameOk b (fullWords 2 4) && (clrRec x.z r.1 r.2).isSome))
      (fun x b =>
        let (base, size) := clrRange b
        match clrRec x.z base size with
        | none => cmdRefuse x m 8 (clrTarget b)
        | some i =>
            if i.courses.any (fun c => getF x.z (crsBase c + 0x2000) 0 0 == 0) then cmdRefuse x m 0x80 (clrTarget b)
            else if x.z.pair.lvlRun < 7 ∧ (clrMirs x.z base size).isEmpty = false then cmdRefuse x m 4 (clrTarget b)
            else if clrBusy x.z base size then cmdRefuse x m 9 (clrTarget b)
            else clrStart x m i base size)

/-! ### Keys (R279, R280) -/

/-- Slot of a key command. -/
def keySlotOf (b : Mbx) : Nat := b.arg 2 9 0

/-- The two keys of an unwrapped pair. -/
def keyPair (l : List Byte) : BitVec 256 × BitVec 256 := (BitVec.ofNat 256 (bytesNat (l.take 32)), BitVec.ofNat 256 (bytesNat (l.drop 32)))

/-- The second part of a key load, whole. -/
def keyLoadEnd (x : Sys) (m : MbxId) (slot : Nat) : Sys :=
  let blob := (partWords x m).flatMap wordBytes
  let x := partDrop x m
  match x.z.keys.kek.bind (fun k => keyUnwrap k 8 blob) with
  | none => cmdRefuse x m 0x0B slot
  | some l =>
      let (k1, k2) := keyPair l
      if k1 = k2 then cmdRefuse x m 8 slot
      else
        let old := keyDg x.z slot
        let x := onZmc x (fun z _ => keyPut z slot ⟨blob, k1, k2⟩)
        cmdDone x m 0 [digest32 blob] slot old (digest32 blob)

/-- KEY_LOAD. -/
def cmdKeyLoad (x : Sys) (m : MbxId) : Sys :=
  command x m 0x0102 keySlotOf
    (fun x b => ⟨[0, 1], 6, x.z.dbg.level != 2 && !x.z.keys.blocked, false, frameOk b ((2, 0x000103FF#32) :: fullWords 3 9) && keySlotOf b != 0⟩)
    (fun x b =>
      let slot := keySlotOf b
      let part := b.arg 2 16 16
      if !partNext b 0x0102 slot part then cmdRefuse (partDrop x m) m 0x85 slot
      else
        let x := partPut x m 0x0102 slot part ((List.range 9).map (fun i => b.wd (3 + i)))
        if part = 0 then cmdDone x m 0 [] slot 0 0 else keyLoadEnd x m slot)

/-- KEY_ERASE. -/
def cmdKeyErase (x : Sys) (m : MbxId) : Sys :=
  command x m 0x0103 keySlotOf (fun _ b => plainRules [0, 1] (frameOk b [(2, 0x3FF)] && keySlotOf b != 0))
    (fun x b =>
      let slot := keySlotOf b
      let old := keyDg x.z slot
      cmdDone (onZmc x (fun z _ => keyDrop z slot)) m 0 [] slot old 0)

/-! ### Grants, consents, references -/

/-- COUNTER_GRANT (R350). -/
def cmdCounterGrant (x : Sys) (m : MbxId) : Sys :=
  command x m 0x0104 (fun _ => 0) (fun _ b => plainRules [0, 1] (frameOk b [(2, 0x01FFFFFF)]))
    (fun x b =>
      let mask := b.arg 2 24 0
      if (List.range 25).any (fun i => mask.testBit i && !((bondIslands x.z).contains i && userOk i)) then cmdRefuse x m 8 0
      else
        let o := hodBase + 0x30
        let old := wordAt x.z o
        cmdWrote (onZmc x (fun z _ => putWord z o (BitVec.ofNat 32 mask))) m [o] [old] 0 [])

/-- DEBUG_CONSENT (R307, Table 15-3). -/
def cmdDebugConsent (x : Sys) (m : MbxId) : Sys :=
  command x m 0x0105 (fun b => b.arg 2 1 0)
    (fun _ b => plainRules [0, 1, 2] (frameOk b [(2, 0x03FF0003)] && decide (1 ≤ b.arg 2 1 0 ∧ b.arg 2 1 0 ≤ 2 ∧ 1 ≤ b.arg 2 25 16 ∧ b.arg 2 25 16 ≤ 600)))
    (fun x b =>
      let lvl := b.arg 2 1 0
      let s := b.arg 2 25 16
      let lc := x.z.boot.lc
      let need := attachNeed lc lvl
      if need = 2 then cmdRefuse x m 6 lvl
      else if need = 0 then cmdOk x m [0, 0, 0, 0] lvl
      else if (m == 2) ≠ (lc == 1) then cmdRefuse x m 5 lvl
      else
        let tok := Config.freeToken x.free
        let k : Token := ⟨tok, lvl, x.now + s * tuPerS⟩
        let exp := BitVec.ofNat 64 (pkgNs x.z x.now + s * 1000000000)
        let x := onZmc { x with free := x.free + 1 } (fun z _ => { z with dbg := { z.dbg with consent := some k } })
        cmdOk x m [tok.extractLsb' 0 32, tok.extractLsb' 32 32, exp.extractLsb' 0 32, exp.extractLsb' 32 32] lvl)

/-- PLUMB_REF (R49): `lap` says that a complete lap ends within 1.5 ms. -/
def cmdPlumbRef (x : Sys) (m : MbxId) (lap : Bool) : Sys :=
  command x m 0x0106 (fun _ => 0) (fun _ b => plainRules [0, 1, 2] (frameOk b ((2, 1) :: fullWords 3 1)))
    (fun x b =>
      let o := zmcBase + 0x0218
      let adopt := b.arg 2 0 0 = 1
      if adopt ∧ (lap = false ∨ getF x.z (zmcBase + 0x0200) 0 0 = 0) then cmdRefuse x m 9 0
      else
        let v := if adopt then plumbCrc x.z else b.wd 3
        let old := wordAt x.z o
        cmdWrote (onZmc x (fun z _ => plumbCommit z v)) m [o] [old] 0 [v])

/-! ### Firmware, repair, power -/

/-- The lowest lvl_max heard in a hello. -/
def heardMax (z : Zmc) : Option Nat := z.pair.heard.foldl (fun a h => match a with | some k => some (min k h.2.2) | none => some h.2.2) none

/-- ACTIVATE (R81, R379). -/
def cmdActivate (x : Sys) (m : MbxId) : Sys :=
  let tg := 1 - x.z.mgt.active
  command x m 0x0107 (fun _ => tg) (fun _ b => plainRules [0, 1, 2] (frameOk b [(2, 1)]))
    (fun x b =>
      let bank := inactBank x.z
      let low := match heardMax x.z with | some k => decide (k < bank.lvlMin) | none => false
      if !bank.valid then cmdRefuse x m 0x0B tg
      else if held x.z .banks then cmdRefuse x m 9 tg
      else if low && b.arg 2 0 0 == 0 then cmdRefuse x m 0x81 tg
      else onZmc (cmdDone x m 1 [] tg 0 b.argDg) (fun z now => actOpen z now m))

/-- The course and words of a device mark (R243), and the release of its entries. -/
def markCmd (x : Sys) (m : MbxId) (o : Offer) : Sys :=
  let c := toCrs o.crs
  let y := cxOf x c
  let a := coordOf y o.line
  let b := 2 * prankOf y a.lr + a.sub
  let off := crsBase c.val + 0x1808 + 4 * (b / 4)
  let k := 8 * (b % 4)
  let w := setBits (setBits (pendWord x.z off) (k + 3) k o.dev) (k + 7) (k + 7) 1
  bufCmd x m o.id [(off, w)] [c.val] (fun x => onCrs x c (fun y => markRelease y (prankOf y a.lr) a.sub o.dev))

/-- REPAIR (R260, R261). -/
def cmdRepair (x : Sys) (m : MbxId) : Sys :=
  command x m 0x0108 (fun b => b.arg 2 15 0) (fun _ b => plainRules [0, 1] (frameOk b [(2, 0x0001FFFF)]))
    (fun x b =>
      let id := b.arg 2 15 0
      let drop (x : Sys) : Sys := onZmc x (fun z _ => { z with mgt := { z.mgt with offers := z.mgt.offers.filter (fun q => q.id != id) } })
      match x.z.mgt.offers.find? (fun o => o.id == id) with
      | none => cmdRefuse x m 0x83 id
      | some o =>
          if held x.z (.course o.crs) then cmdRefuse x m 9 id
          else if b.arg 2 16 16 = 0 then cmdOk (drop x) m [] id
          else if o.kind = 1 then onCrs (cmdAccept x m (.course o.crs) id id) (toCrs o.crs) (fun y => pprStart y o false)
          else drop (markCmd x m o))

/-- POWER_DOZE (R312). -/
def cmdPowerDoze (x : Sys) (m : MbxId) : Sys :=
  command x m 0x0109 (fun _ => 0) (fun _ b => plainRules [0, 1] (frameOk b [])) (fun x _ => cmdOk (dozeStart x) m [] 0)

/-- RETAIN: the take (R313), and afterwards each further step of the entry. -/
def cmdRetain (x : Sys) (m : MbxId) : Sys :=
  if x.z.pwr.ret.isSome then retainStep x
  else
    command x m 0x010A (fun _ => 0) (fun x b => ⟨[0, 1], 6, x.z.dbg.level == 0, false, frameOk b []⟩)
      (fun x b =>
        if held x.z .all then cmdRefuse x m 9 0
        else if 320 * 1024 < saveBytes x.z then cmdRefuse x m 0x0A 0
        else retainBegin (cmdDone x m 1 [] 0 0 b.argDg) m b.seq b.orig)

/-- The newest audit entry: aud_seq, chain and time. -/
def audNewest (z : Zmc) : Word × Word × BitVec 64 :=
  let m := z.mgt
  let l := tblGet [] m.aud ((m.audNext.toNat + 1022) % 1024)
  (m.audNext - 1, m.chain, l.getD 2 0 ++ l.getD 1 0)

/-- Words of a byte string. -/
def wordsOf : List Byte → List Word
  | a :: b :: c :: d :: l => bytesWord a b c d :: wordsOf l
  | _ => []

/-- AUDIT_HEAD (R397): the newest entry at part 0 is latched, and both parts report it with the halves of its signature. -/
def cmdAuditHead (x : Sys) (m : MbxId) : Sys :=
  command x m 0x010B (fun _ => 0) (fun _ b => ⟨[0, 1], 7, true, false, frameOk b (fullWords 2 1 ++ [(3, 1)])⟩)
    (fun x b =>
      let nonce := b.wd 2
      let part := b.arg 3 0 0
      if !partNext b 0x010B nonce.toNat part then cmdRefuse (partDrop x m) m 0x85 0
      else
        let h := if part = 0 then audNewest x.z else x.z.mgt.head.getD (0, 0, 0)
        let sig := wordsOf (Config.attest (wordBytes nonce ++ wordBytes h.1 ++ wordBytes h.2.1 ++ wideBytes h.2.2))
        if part = 0 then
          let x := partPut (onZmc x (fun z _ => { z with mgt := { z.mgt with head := some h } })) m 0x010B nonce.toNat 0 []
          cmdOk x m ([h.1, h.2.1, h.2.2.extractLsb' 0 32, h.2.2.extractLsb' 32 32] ++ sig.take 8) 0
        else cmdOk (partDrop x m) m (h.1 :: (sig.drop 8).take 8) 0)

end Sys2Proof.Machine
end

