-- ==== Sys2Proof/Machine/Roles.lean ====
section
/-! DEFINITION. The commands of the Installer, the Maker, the debugger and the partner (Tables 21-3 to 21-5). -/

namespace Sys2Proof.Machine

/-! ### SEAL, images, keys, life cycle -/

/-- Bits of a word that SEAL locks (Table 22-13). -/
def lockMask (off : Nat) : Word :=
  match regDef off with
  | some d => d.flds.foldl (fun a f => if f.cls == .buf && f.flag then a ||| f.mask else a) 0
  | none => 0

/-- A locked field's pending value differs from its active value (R67). -/
def sealPending (z : Zmc) : Bool := z.rg.pend.any (fun p => (p.2 ^^^ wordAt z p.1) &&& lockMask p.1 != 0#32)

/-- SEAL (R66, R67): it locks, adopts the next complete lap, regenerates the Bond table and is audited. The wait for the lap lies within the row,
and with plumb_en 0 there is no lap to adopt (log entry 66). -/
def cmdSeal (x : Sys) (m : MbxId) : Sys :=
  command x m 0x0201 (fun _ => 0) (fun _ b => plainRules [2] (frameOk b []))
    (fun x _ =>
      if x.z.rg.sealed then cmdOk x m [] 0
      else if sealPending x.z then cmdRefuse x m 0x0E 0
      else
        let x := onZmc x (fun z now =>
          let z : Zmc := { z with rg := { z.rg with sealed := true } }
          bondRewrite (if getF z (zmcBase + 0x0200) 0 0 = 1 then plumbCommit z (plumbCrc z) else z) now)
        cmdOk x m [] 0)

/-- Offset, count, last and bank of an IMAGE_WRITE. -/
def imgArgs (b : Mbx) : Nat × Nat × Bool × Nat := (b.arg 2 18 0, b.arg 3 5 0, b.arg 3 8 8 == 1, b.arg 3 12 12)

/-- IMAGE_WRITE (R60, R61). -/
def cmdImageWrite (x : Sys) (m : MbxId) : Sys :=
  command x m 0x0202 (fun b => (imgArgs b).2.2.2)
    (fun _ b =>
      let (off, n, _, _) := imgArgs b
      plainRules [2] (off % 4 == 0 && decide (4 ≤ n ∧ n ≤ 48) && n % 4 == 0 && frameOk b ([(2, 0x0007FFFF#32), (3, 0x0000113F#32)] ++ fullWords 4 (n / 4))))
    (fun x b =>
      let (off, n, lst, bank) := imgArgs b
      let bad := bank == x.z.mgt.active || (off != 0 && x.z.mgt.imgEnd != some off) || decide (160 * 1024 < off + n)
      if bad then cmdRefuse x m 8 bank
      else if held x.z .inactiveBank then cmdRefuse x m 9 bank
      else
        let data := ((List.range (n / 4)).map (fun i => b.wd (4 + i))).flatMap wordBytes
        let x := onZmc x (fun z _ =>
          let i := toHome bank
          let old := if off = 0 then [] else z.mgt.banks[i].bytes
          let z := { z with mgt := { z.mgt with banks := modV z.mgt.banks i (fun _ => { bytes := old ++ data }), imgEnd := if lst then none else some (off + n) } }
          if off = 0 then needBond z else z)
        if lst then cmdAccept x m .inactiveBank bank bank
        else if off = 0 then cmdOk x m [] bank
        else onZmc x (fun z now => mbxAnswer z now m 0 [] bank))

/-- KEK_SET (R279). -/
def cmdKekSet (x : Sys) (m : MbxId) : Sys :=
  command x m 0x0203 (fun _ => 0) (fun x b => ⟨[2], 6, !x.z.keys.blocked, true, frameOk b (fullWords 2 10)⟩)
    (fun x b =>
      match keyUnwrap Config.deviceKey 4 (((List.range 10).map (fun i => b.wd (2 + i))).flatMap wordBytes) with
      | none => cmdRefuse x m 0x0B 0
      | some l => cmdOk (onZmc x (fun z _ => { z with keys := { z.keys with kek := some (BitVec.ofNat 256 (bytesNat l)) } })) m [] 0)

/-- Who may issue a transition (Table 15-1): 2 the Installer, 3 the Maker, 0 nobody. -/
def lcIssuer (src dst : Nat) : Nat :=
  if src = 0 ∧ dst = 1 then 3
  else if src = 1 ∧ dst = 2 then 2
  else if (src = 1 ∨ src = 2) ∧ dst = 3 then 2
  else if (src = 0 ∨ src = 3) ∧ dst = 4 then 3
  else if (src = 1 ∨ src = 2) ∧ dst = 4 then 2
  else 0

/-- The token names this part and this transition, and its signature verifies (R302). -/
def lcToken (z : Zmc) (dst : Nat) (l : List Byte) : Bool :=
  l.take 12 == wideBytes z.boot.uid ++ [BitVec.ofNat 8 z.boot.lcPend, BitVec.ofNat 8 dst, 0, 0] && Config.ecdsaP384 (l.take 12) (l.drop 12)

/-- Layout of a part: the Maker's has no token; the Installer's carry 48, 48 and 12 bytes. -/
def lcFrame (b : Mbx) (m : MbxId) : Bool :=
  let part := b.arg 2 5 4
  let lst := b.arg 2 8 8
  let w2 : List (Nat × Word) := [(2, 0x00000137#32)]
  if m = 3 then frameOk b w2 && part == 0 && lst == 1
  else if part = 3 then false
  else frameOk b (w2 ++ fullWords 3 (if part = 2 then 3 else 12)) && (lst == 1) == (part == 2)

/-- LC_TRANSITION (R302, R303). -/
def cmdLcTransition (x : Sys) (m : MbxId) : Sys :=
  command x m 0x0204 (fun b => b.arg 2 2 0) (fun _ b => plainRules [2, 3] (lcFrame b m && decide (b.arg 2 2 0 ≤ 4)))
    (fun x b =>
      let dst := b.arg 2 2 0
      let part := b.arg 2 5 4
      let who := lcIssuer x.z.boot.lcPend dst
      if who = 0 then cmdRefuse x m 6 dst
      else if who ≠ m.val then cmdRefuse x m 5 dst
      else if held x.z .lifeCycle then cmdRefuse x m 9 dst
      else if m = 3 then cmdAccept x m .lifeCycle dst dst
      else if !partNext b 0x0204 dst part then cmdRefuse (partDrop x m) m 0x85 dst
      else
        let x := partPut x m 0x0204 dst part ((List.range (if part = 2 then 3 else 12)).map (fun i => b.wd (3 + i)))
        if part ≠ 2 then cmdOk x m [] dst
        else
          let l := (partWords x m).flatMap wordBytes
          let x := partDrop x m
          if lcToken x.z dst l then cmdAccept x m .lifeCycle dst dst else cmdRefuse x m 0x0B dst)

/-! ### The platform's build -/

/-- PAIR_SETUP (R363): ZMC_PAIR_CTL by a SET of island 19, and the hello at pairing (R377). -/
def cmdPairSetup (x : Sys) (m : MbxId) : Sys :=
  let o := zmcBase + 0x0C00
  command x m 0x0205 (fun _ => 0x0C00) (fun _ b => ⟨[2], 6, true, true, frameOk b [(2, lowMask 13)]⟩)
    (fun x b => bufCmd x m 0x0C00 [pendWith x.z o 12 0 (b.arg 2 12 0)] [19] (fun x => onZmc x (fun z now => sendHello (portPeer z now))))

/-- PAIR_RANGE (R366). -/
def cmdPairRange (x : Sys) (m : MbxId) : Sys :=
  command x m 0x0206 (fun b => b.arg 2 2 0) (fun _ b => ⟨[2], 6, true, true, frameOk b ((2, lowMask 5) :: fullWords 3 6)⟩)
    (fun x b =>
      let r := b.arg 2 2 0
      let o := zmcBase + 0x0C40 + 32 * r
      let ws := (List.range 6).map (fun i => (o + 4 * i, b.wd (3 + i))) ++ [pendWith x.z (o + 24) 1 0 (b.arg 2 3 3 + 2 * b.arg 2 4 4)]
      bufCmd x m r ws [19] (fun x => x))

/-- The words of an interleave record in one home. -/
def ilvWords (b : Mbx) (h : Nat) : List (Nat × Word) :=
  let o := homeBase h + 0x0100 + 0x40 * b.arg 2 1 0
  (o, BitVec.ofNat 32 (b.arg 2 6 2 + b.arg 2 11 8 * 2 ^ 8)) :: (List.range 4).map (fun i => (o + 8 + 4 * i, b.wd (3 + i)))
    ++ (List.range 4).map (fun i => (o + 0x18 + 4 * i, b.wd (7 + i)))

/-- The record that an INTERLEAVE command asks for. -/
def ilvAsked (b : Mbx) : Ilv := ilvOf (fun o => listed (ilvWords b 0) o) 0 (b.arg 2 1 0)

/-- The size exceeds what the ways hold below their footing tables; the capacity of a course that has not been trained is not known. -/
def ilvTooBig (z : Zmc) (i : Ilv) : Bool :=
  let cs := i.courses
  cs.all (fun c => z.cinfo[toCrs c].trained) && decide (cs.foldl (fun a c => a + ftgStart z.cinfo[toCrs c]) 0 < i.size)

/-- INTERLEAVE (R406). -/
def cmdInterleave (x : Sys) (m : MbxId) : Sys :=
  command x m 0x0207 (fun b => b.arg 2 1 0)
    (fun _ b => ⟨[2], 6, true, true, frameOk b ((2, 0x00000F7F#32) :: fullWords 3 8) && decide (1 ≤ b.arg 2 6 2 ∧ b.arg 2 6 2 ≤ 16 ∧ 8 ≤ b.arg 2 11 8 ∧ b.arg 2 11 8 ≤ 12)⟩)
    (fun x b =>
      let r := b.arg 2 1 0
      let i := ilvAsked b
      if 7 ≤ x.z.boot.phase ∧ ilvFenced x.z (ilvOf (wordAt x.z) 0 r) i = false then cmdRefuse x m 0x82 r
      else if ilvTooBig x.z i then cmdRefuse x m 8 r
      else bufCmd x m r (ilvWords b 0 ++ ilvWords b 1) [16, 17] (fun x => x))

/-- Courses of a mask, ascending. -/
def maskCrs (mask : Nat) : List Nat := (List.range 16).filter (fun c => mask.testBit c)
/-- A bit of the mask names a course with no course record. -/
def maskBad (z : Zmc) (mask : Nat) : Bool := (maskCrs mask).any (fun c => !present z.boot.variant c)

/-- A bit of the mask names a course that an ACCEPTED command holds. -/
def maskHeld (z : Zmc) (mask : Nat) : Bool := (maskCrs mask).any (fun c => held z (.course c))

/-- ECC_MODE (R243). -/
def cmdEccMode (x : Sys) (m : MbxId) : Sys :=
  command x m 0x0208 (fun b => b.arg 2 15 0) (fun _ b => ⟨[2], 6, true, true, frameOk b [(2, lowMask 17)]⟩)
    (fun x b =>
      let mask := b.arg 2 15 0
      if maskBad x.z mask then cmdRefuse x m 8 mask
      else if maskHeld x.z mask then cmdRefuse x m 9 mask
      else bufCmd x m mask ((maskCrs mask).map (fun c => pendWith x.z (crsBase c + 0x1800) 0 0 (b.arg 2 16 16))) (maskCrs mask) (fun x => x))

/-- FRESH_MODE (R272). -/
def cmdFreshMode (x : Sys) (m : MbxId) : Sys :=
  command x m 0x0209 (fun b => b.arg 2 15 0) (fun _ b => ⟨[2], 6, true, true, frameOk b [(2, lowMask 17)]⟩)
    (fun x b =>
      let mask := b.arg 2 15 0
      let v := b.arg 2 16 16
      if maskBad x.z mask then cmdRefuse x m 8 mask
      else if (maskCrs mask).any (fun c => getF x.z (crsBase c + 0x2000) 0 0 != v && x.z.cinfo[toCrs c].fence == 0 && x.z.boot.phase == 7) then cmdRefuse x m 0x82 mask
      else if maskHeld x.z mask then cmdRefuse x m 9 mask
      else bufCmd x m mask ((maskCrs mask).map (fun c => pendWith x.z (crsBase c + 0x2000) 0 0 v)) (maskCrs mask) (fun x => x))

/-! ### Policies (R395) -/

/-- A policy is stored; its digests cover its words. -/
def setPolicy (x : Sys) (m : MbxId) (op : Nat) (ws : List Word) : Sys :=
  let old := match tblFind x.z.mgt.pol op with | some l => wordsDg l | none => 0
  cmdDone (onZmc x (fun z _ => { z with mgt := { z.mgt with pol := tblPut z.mgt.pol op ws } })) m 0 [] 0 old (wordsDg ws)

/-- The training policy's fields lie in their ranges (Table 21-3). -/
def trainPolOk (b : Mbx) : Bool :=
  let rates : List Nat := [6400, 7200, 8000, 8800]
  let t := b.arg 2 15 0
  let f := b.arg 2 31 16
  let cure := b.arg 3 8 2
  rates.contains t && rates.contains f && decide (f ≤ t ∧ 24 ≤ cure ∧ cure ≤ 96 ∧ cureMin (b.arg 3 1 0) ≤ cure ∧ 10 ≤ b.arg 3 31 16 ∧ b.arg 3 31 16 ≤ 10000
    ∧ 32 ≤ b.arg 4 7 0 ∧ 20 ≤ b.arg 4 15 8 ∧ 6 ≤ b.arg 4 23 16)

/-- TRAIN_POLICY. -/
def cmdTrainPolicy (x : Sys) (m : MbxId) : Sys :=
  command x m 0x020A (fun _ => 0) (fun _ b => ⟨[2], 6, true, true, frameOk b [(2, 0xFFFFFFFF#32), (3, 0xFFFF01FF#32), (4, 0x00FFFFFF#32)] && trainPolOk b⟩)
    (fun x b => setPolicy x m 0x020A [b.wd 2, b.wd 3, b.wd 4])

/-- THERMAL_POLICY. -/
def cmdThermalPolicy (x : Sys) (m : MbxId) : Sys :=
  command x m 0x020B (fun _ => 0)
    (fun _ b => ⟨[2], 6, true, true, frameOk b [(2, 0x0000FF03#32)] && decide (b.arg 2 1 0 ≤ 2 ∧ 60 ≤ b.arg 2 15 8 ∧ b.arg 2 15 8 ≤ 85)⟩)
    (fun x b => setPolicy x m 0x020B [b.wd 2])

/-- REPAIR_POLICY. -/
def cmdRepairPolicy (x : Sys) (m : MbxId) : Sys :=
  command x m 0x020C (fun _ => 0) (fun _ b => ⟨[2], 6, true, true, frameOk b [(2, 3#32)]⟩) (fun x b => setPolicy x m 0x020C [b.wd 2])

/-! ### Courses -/

/-- COURSE_FENCE: the bay stops granting, and the fence follows by ACCEPTED_COMPLETE (Table 21-3). -/
def cmdCourseFence (x : Sys) (m : MbxId) : Sys :=
  command x m 0x020D (fun b => b.arg 2 3 0) (fun _ b => plainRules [2] (frameOk b [(2, 0xF#32)]))
    (fun x b =>
      let c := b.arg 2 3 0
      if liveCrs x.z (toCrs c) = false then cmdRefuse x m 0x82 c
      else if held x.z (.course c) then cmdRefuse x m 9 c
      else onCrs (cmdAccept x m (.course c) c c) (toCrs c) (fun y => y.onInfo (fun i => { i with draining := true })))

/-- COURSE_RESTORE: training decides (Table 21-3). -/
def cmdCourseRestore (x : Sys) (m : MbxId) : Sys :=
  command x m 0x020E (fun b => b.arg 2 3 0) (fun _ b => plainRules [2] (frameOk b [(2, 0xF#32)]))
    (fun x b =>
      let c := b.arg 2 3 0
      let f := x.z.cinfo[toCrs c].fence
      if present x.z.boot.variant c = false ∨ (f ≠ 2 ∧ f ≠ 3 ∧ f ≠ 5) then cmdRefuse x m 0x82 c
      else if held x.z (.course c) then cmdRefuse x m 9 c
      else cmdAccept x m (.course c) c c)

/-- COURSE_RETEST (R337). -/
def cmdCourseRetest (x : Sys) (m : MbxId) : Sys :=
  command x m 0x0301 (fun b => b.arg 2 3 0) (fun x b => ⟨[3], 6, x.z.boot.lc == 0 || x.z.boot.lc == 3, false, frameOk b [(2, 0xF#32)]⟩)
    (fun x b =>
      let c := b.arg 2 3 0
      if present x.z.boot.variant c = false ∨ x.z.cinfo[toCrs c].fence = 1 then cmdRefuse x m 0x82 c
      else if held x.z (.bist c) then cmdRefuse x m 9 c
      else onZmc (cmdAccept x m (.bist c) c c) (fun z _ => { z with boot := { z.boot with rtCourse := c, rtState := 1 } }))

/-- BIST_ABORT (R326). -/
def cmdBistAbort (x : Sys) (m : MbxId) : Sys :=
  command x m 0x0302 (fun _ => 0) (fun _ b => plainRules [3] (frameOk b []))
    (fun x _ => if x.z.boot.rtState = 2 then retestAbort (cmdOk x m [] 0) else cmdRefuse x m 0x82 0)

/-- HARD_REPAIR (R327). -/
def cmdHardRepair (x : Sys) (m : MbxId) : Sys :=
  command x m 0x0303 (fun b => b.arg 2 7 0) (fun _ b => plainRules [3] (frameOk b [(2, 0xFF#32)] && (b.arg 2 7 0 == 0xFF || (memWords (b.arg 2 7 0)).isSome)))
    (fun x b =>
      let id := b.arg 2 7 0
      let soft := x.z.boot.spares.filter (fun p => !p.2.hard && (id == 0xFF || p.1 / 16 == id))
      if soft.isEmpty then cmdRefuse x m 0x82 id
      else if 256 < x.z.boot.fuses + soft.length then cmdRefuse x m 0x0A id
      else if held x.z .fuses then cmdRefuse x m 9 id
      else cmdAccept x m .fuses id id)

/-- HOLD_SET (R138). -/
def cmdHoldSet (x : Sys) (m : MbxId) : Sys :=
  command x m 0x0304 (fun b => b.arg 2 1 0) (fun _ b => ⟨[3], 6, true, true, frameOk b [(2, lowMask 14)]⟩)
    (fun x b =>
      let mask := b.arg 2 1 0
      if mask = 0 then cmdRefuse x m 8 0
      else
        let hs := (List.range 2).filter (fun h => mask.testBit h)
        let was := x.z.rg.holdOk
        let y := onZmc x (fun z _ => { z with rg := { z.rg with holdOk := hs ++ z.rg.holdOk.filter (fun h => !hs.contains h) } })
        let y := bufCmd y m mask (hs.map (fun h => pendWith x.z (homeBase h + 0x3000) 11 0 (b.arg 2 13 2))) [16, 17] (fun x => x)
        if bitsOf y.z.mgt.mbx[m].rsp[(0 : Fin 16)] 31 24 = 0 then y else onZmc y (fun z _ => { z with rg := { z.rg with holdOk := was } }))

/-! ### Debug and peer commands -/

/-- DBG_TRACE: trc_mask is written on the debugger's behalf (R409). -/
def cmdDbgTrace (x : Sys) (m : MbxId) : Sys :=
  command x m 0x0401 (fun b => b.arg 2 15 0) (fun _ b => plainRules [4] (frameOk b [(2, lowMask 17)]))
    (fun x b =>
      let o := secBase + 0x2040
      let old := wordAt x.z o
      let k := b.wd 2 &&& 0xFFFF#32
      let v := if b.arg 2 16 16 = 1 then old ||| k else old &&& ~~~k
      cmdWrote (onZmc x (fun z _ => putWord z o v)) m [o] [old] (b.arg 2 15 0) [])

/-- Bays whose instance is backed (Table 22-1). -/
def baysBacked (z : Zmc) : List Nat := (List.range 8).filter (fun b => (instMask z 4).testBit b)

/-- DBG_PREEMPT (R99). -/
def cmdDbgPreempt (x : Sys) (m : MbxId) : Sys :=
  command x m 0x0402 (fun b => b.arg 2 7 0) (fun x b => ⟨[4], 6, x.z.dbg.level == 2, false, frameOk b [(2, 0xFF#32)]⟩)
    (fun x b =>
      let mask := b.arg 2 7 0
      let bs := baysBacked x.z
      if (List.range 8).any (fun k => mask.testBit k && !bs.contains k) then cmdRefuse x m 8 mask
      else
        let offs := bs.map (fun k => bayBase k + 0x10)
        let old := offs.map (wordAt x.z)
        let y := onZmc x (fun z _ => bs.foldl (fun z k => setF z (bayBase k + 0x10) 0 0 (bit (mask.testBit k))) z)
        cmdWrote y m offs old mask [])

/-- PAIR_HELLO (R377, R378, R401). -/
def cmdPairHello (x : Sys) (m : MbxId) : Sys :=
  command x m 0x0501 (fun b => b.arg 2 18 16) (fun _ b => plainRules [5] (frameOk b ((2, lowMask 19) :: fullWords 3 8)))
    (fun x b =>
      let z := x.z
      let me := BitVec.ofNat 32 ((actBank z).lvlMin + (actBank z).lvlMax * 2 ^ 8 + getF z (zmcBase + 0x0C00) 4 2 * 2 ^ 16)
      cmdOk (takeHello x (b.arg 2 7 0) (b.arg 2 15 8) (b.arg 2 18 16) ((List.range 8).map (fun i => b.wd (3 + i)))) m [me] (b.arg 2 18 16))

/-- The range lies within a copy range in use. -/
def inCopy (z : Zmc) (base size : Nat) : Bool :=
  (List.range 8).any (fun r => let d := mirOf z r; d.role == 1 && d.en && decide (d.size ≠ 0 ∧ d.base ≤ base ∧ base + size ≤ d.base + d.size))

/-- PEER_CLEAR: OK at the clear points (R371). -/
def cmdPeerClear (x : Sys) (m : MbxId) : Sys :=
  command x m 0x0502 clrTarget
    (fun x b => let r := clrRange b; ⟨[5], 7, true, false, frameOk b (fullWords 2 4) && (clrRec x.z r.1 r.2).isSome⟩)
    (fun x b =>
      let (base, size) := clrRange b
      match clrRec x.z base size with
      | none => cmdRefuse x m 8 (clrTarget b)
      | some i =>
          if inCopy x.z base size = false then cmdRefuse x m 0x82 (clrTarget b)
          else if clrBusy x.z base size then cmdRefuse x m 9 (clrTarget b)
          else clrStart x m i base size)

/-- PEER_NOTICE (R374, R376). -/
def cmdPeerNotice (x : Sys) (m : MbxId) : Sys :=
  command x m 0x0503 (fun b => b.arg 2 3 0) (fun _ b => plainRules [5] (frameOk b [(2, 0xF#32)] && decide (1 ≤ b.arg 2 3 0 ∧ b.arg 2 3 0 ≤ 3)))
    (fun x b => cmdOk (onZmc x (fun z _ => takeNotice z (b.arg 2 3 0))) m [] (b.arg 2 3 0))

end Sys2Proof.Machine
end

