-- ==== Sys2Proof/Machine/RegWrite.lean ====
section
/-! DEFINITION. A configuration write (R22 to R37, R44, R46): each word is refused whole, or applied field by field by class, and then does
what its own register's rules say. -/

namespace Sys2Proof.Machine

/-! ### Fields -/

/-- What a write does to one word: its active and pending words afterwards, the event bits it clears, the reasons of its drops (R46), and which
kinds of field took it. -/
structure WrRes where
  act  : Word
  pend : Word
  clr  : Word := 0
  why  : List Nat := []
  buf  : Bool := false
  w1   : Bool := false
  imm  : Bool := false
  deriving DecidableEq, Repr

/-- The bits `m` of a word replaced. -/
def mix (w v m : Word) : Word := (w &&& ~~~m) ||| (v &&& m)

/-- One field takes a write by its class (Table 2-1, R29); `clr` says that the written seq matches and no event came in the same cycle. -/
def wrField (z : Zmc) (o off : Nat) (v : Word) (clr : Bool) (a : WrRes) (f : Fld) : WrRes :=
  if f.cls = .ro then a
  else if secField z o off f = false then { a with why := 3 :: a.why }
  else
    match f.cls with
    | .buf => if f.flag && z.rg.sealed && o != 0 then { a with why := 4 :: a.why } else { a with pend := mix a.pend v f.mask, buf := true }
    | .sts => if f.lo ≠ 24 ∧ clr = true then { a with act := a.act &&& ~~~(v &&& f.mask), clr := a.clr ||| (a.act &&& v &&& f.mask) } else a
    | .w1 => if z.rg.w1.contains off then { a with why := 2 :: a.why } else { a with act := mix a.act v f.mask, w1 := true }
    | .msk =>
        let m := v >>> 16
        if m = 0 then a else { a with act := mix a.act v m, imm := true }
    | .cnt => { a with act := mix a.act v f.mask }
    | .ro => a
    | .imm | .sec => { a with act := mix a.act v f.mask, imm := true }

/-- A hardware update of the word in the owner's present cycle (R44). -/
def hwHit (z : Zmc) (now off : Nat) : Bool := z.rg.hw.any (fun u => u.off == off && u.cyc == islCyc z (ownerOf off) now)

/-- What a write of `v` does to the word at `off`. -/
def wrRes (z : Zmc) (now o off : Nat) (v : Word) : WrRes :=
  match regDef off with
  | none => { act := wordAt z off, pend := pendWord z off }
  | some d => d.flds.foldl (wrField z o off v (bitsOf v 31 24 == getF z off 31 24 && !hwHit z now off)) { act := wordAt z off, pend := pendWord z off }

/-- Bits that start an action and are not stored: doze_req, wake, link_start, link_stop, sr_req, sr_exit, clr,
snap and key_valid. -/
def actionBits (off : Nat) : Word :=
  match blockOf off with
  | none => 0
  | some (k, _, b) =>
      let p := off - b
      if k = 1 ∧ p = 0x0600 then 3
      else if k = 5 ∧ p = 0x0800 then 0x80000008
      else if k = 5 ∧ p = 0x1410 then 3
      else if k = 3 ∧ p = 0x1A08 then 0x100
      else if k = 6 ∧ p = 0x0010 then 2
      else if k = 7 ∧ 0x1000 ≤ p ∧ p < 0x1080 then 0xFFFFFFFF
      else 0

/-- The word takes what a write does to it. hold_fck remembers whether R138 permits its zero. -/
def putRes (z : Zmc) (now o off : Nat) (r : WrRes) : Zmc :=
  let lost : Bool := match regDef off with | some d => hwHit z now off && d.flds.any (fun f => f.cls == .cnt) | none => false
  let act := mix r.act (wordAt z off) (actionBits off)
  let z := if act = wordAt z off then z else putWord z off act
  let z := if r.w1 then { z with rg := { z.rg with w1 := off :: z.rg.w1 } } else z
  let z :=
    if r.buf then
      let h := (off - homeBase 0) / 0x20000
      let ok := z.rg.holdOk.filter (fun k => k != h)
      let z :=
        if off = homeBase h + 0x3000 ∧ homeBase 0 ≤ off ∧ h < 2 then { z with rg := { z.rg with holdOk := if o = 4 then h :: ok else ok } } else z
      pendPut z off r.pend
    else z
  let z := logSw z now off r.clr
  if lost then cntLost z now off else z

/-! ### What a register does when it is written -/

/-- DBG_TRC_CTL: trc_stop counts from the next entry (R408). -/
def traceCtl (z : Zmc) (old : Word) : Zmc :=
  let new := getF z (secBase + 0x2040) 16 16
  if new = 0 then { z with dbg := { z.dbg with trcStop := none } }
  else if old.getLsbD 16 then z
  else { z with dbg := { z.dbg with trcStop := some z.dbg.trcNext } }

/-- The registers of a course that start something. -/
def crsHook (p : Nat) (v : Word) (x : Cx) : Cx :=
  if p = 0x0800 then
    let x := if v.getLsbD 3 then linkStartRow x else x
    if v.getLsbD 31 then linkStop x else x
  else if p = 0x0840 then mntStart x
  else if p = 0x0580 then (if v.getLsbD 0 then lchkStart x else x)
  else if p = 0x2400 then (if v.getLsbD 0 then dchkStart x else x)
  else if p = 0x2410 then tcmdWrite x v
  else if p = 0x2440 then noteArm x ((List.range 16).filter (fun i => v.getLsbD i))
  else if p = 0x1410 then
    let x := if v.getLsbD 0 then srReqWr x else x
    if v.getLsbD 1 then srExitWr x else x
  else if p = 0x2020 then freshInit x (bitsOf v 17 0)
  else x

/-- What the register at `off` does once `v` has been written; `old` is the word before. -/
def regHook (x : Sys) (off : Nat) (old v : Word) : Sys :=
  let x := match ctlOf off with | some (i, k) => onZmc x (fun z _ => noteCtl z i k) | none => x
  match blockOf off with
  | none => x
  | some (k, i, b) =>
      let p := off - b
      if k = 1 then (if p = 0x0600 ∧ v.getLsbD 0 = true then dozeStart x else x)
      else if k = 3 then (if p = 0x1A08 then onZmc x (fun z now => latCopy z now (toHome i) v) else x)
      else if k = 5 then onCrs x (toCrs i) (crsHook p v)
      else if k = 6 then (if p = 0x0010 then onZmc x (fun z now => hodCtl z now v) else x)
      else if k = 7 then
        if 0x1000 ≤ p ∧ p < 0x1080 then onZmc x (fun z _ => keyValidWrite z ((p - 0x1000) / 4) v)
        else if p = 0x2000 then dbgLevelWrite x (bitsOf v 1 0)
        else if p = 0x2040 then onZmc x (fun z _ => traceCtl z old)
        else x
      else x

/-! ### Words -/

/-- A write refused with reason 1, unbacked (R24). -/
def unbacked (x : Sys) (o off : Nat) : Sys := onZmc x (fun z now => dropAcc z now off 1 o)

/-- A write of CRS[n]_MNT_REQ with mop 1 or 2 while a request is WAITING: it has no effect (R215). -/
def mntBusy (x : Sys) (off : Nat) (v : Word) : Bool :=
  match blockOf off with
  | some (5, i, b) => off == b + 0x0840 && (bitsOf v 1 0 == 1 || bitsOf v 1 0 == 2) && x.crs[toCrs i].lk.mnt.st == 1
  | _ => false

/-- One word takes its result, is captured for the audit log (R79) and acts. -/
def takeWord (x : Sys) (o off : Nat) (v : Word) : Sys :=
  if mntBusy x off v then x
  else
  let r := wrRes x.z x.now o off v
  let old := wordAt x.z off
  let was := curWord x off
  let y := onZmc x (fun z now => putRes z now o off r)
  if r.imm then
    let y := regHook y off old v
    onZmc y (fun z now => capture z now o off was (curWord y off))
  else y

/-- The reasons of a write's drops, the first that applies in R46's order. -/
def dropWhy (l : List Nat) : Option Nat := [3, 4, 2].find? (fun k => l.contains k)

/-- A write to words of one register, `off` the offset accessed: one count for all its drops (R46). -/
def takeWords (x : Sys) (o off : Nat) (ws : List (Nat × Word)) : Sys :=
  let why := dropWhy (ws.flatMap (fun p => (wrRes x.z x.now o p.1 p.2).why))
  let y := ws.foldl (fun y p => takeWord y o p.1 p.2) x
  match why with
  | some k => onZmc y (fun z now => dropAcc z now off k o)
  | none => y

/-- The low word of a 64-bit value goes to the class's write shadow (R35). -/
def shadowPut (x : Sys) (o : Orig) (off : Nat) (v : Word) : Sys :=
  onZmc x (fun z _ => { z with rg := { z.rg with wrSh := modV z.rg.wrSh o (fun _ => some (off, v)) } })

/-- A write of the low word of a 64-bit value (R35): a word dropped by R29 or R46 is counted by itself and does not reach the shadow. -/
def lowWrite (x : Sys) (o : Orig) (off : Nat) (v : Word) : Sys :=
  match (if off = secBase + 0x2008 then none else dropWhy (wrRes x.z x.now o.val off v).why) with
  | some k => onZmc x (fun z now => dropAcc z now off k o.val)
  | none => shadowPut x o off v

/-- The low word that waits in the class's write shadow for the value whose high word is at `off`. -/
def shadowLow (x : Sys) (o : Orig) (off : Nat) : Option Word :=
  match x.z.rg.wrSh[o] with
  | some (p, v) => if p + 4 = off then some v else none
  | none => none

/-- The shadow for a value is used up. -/
def shadowDrop (x : Sys) (o : Orig) : Sys := onZmc x (fun z _ => { z with rg := { z.rg with wrSh := modV z.rg.wrSh o (fun _ => none) } })

/-- The high word commits a 64-bit value, the low word with it where the shadow holds one (R35, R36). DBG_TOKEN is kept by the debug port. -/
def commitWide (x : Sys) (o : Orig) (off : Nat) (v : Word) : Sys :=
  let low := shadowLow x o off
  let ws := match low with | some l => [(off - 4, l), (off, v)] | none => [(off, v)]
  let x := if low.isSome then shadowDrop x o else x
  if off = secBase + 0x200C then
    let lo := match low with | some l => l | none => x.z.dbg.tokReg.extractLsb' 0 32
    onZmc x (fun z now => capture { z with dbg := { z.dbg with tokReg := v ++ lo } } now o.val off 0 0)
  else takeWords x o.val off ws

/-- Words of a Mason-owned memory of 8-word entries. -/
def entPut (t : Tbl (List Word)) (p : Nat) (v : Word) : Tbl (List Word) :=
  tblPut t (p / 32) ((tblGet (List.replicate 8 0) t (p / 32)).set (p % 32 / 4) v)

/-- Four bytes of the Bond table. -/
def bondPut (z : Zmc) (p : Nat) (v : Word) : Zmc :=
  if p = 0x0C then { z with bond := { z.bond with gen := v } }
  else
    let l := z.bond.bytes ++ List.replicate (p + 4 - z.bond.bytes.length) 0
    { z with bond := { z.bond with bytes := l.take p ++ wordBytes v ++ l.drop (p + 4) } }

/-- The registers of mailbox `m` at byte `p`, written by a class it serves (R69, R74, Table 4-5). -/
def mbxWrite (x : Sys) (o : Nat) (m : MbxId) (p off : Nat) (v : Word) : Sys :=
  let b := x.z.mgt.mbx[m]
  let busy := b.ph == .posted || b.ph == .running
  if p < 0x40 then
    if busy then onZmc x (fun z now => frameDrop z now m)
    else
      let i := toFin 16 (by decide) (p / 4)
      onZmc x (fun z now => capture (modMbx z m (fun b => { b with req := modV b.req i (fun _ => v), undo := none })) now o off b.req[i] v)
  else if p < 0x80 then onZmc x (fun z now => frameDrop z now m)
  else if p < 0x84 then
    let ring := v.getLsbD 0
    let pull := v.getLsbD 1 && b.ph == .posted
    let was := mbxWord b 0x80
    onZmc x (fun z now =>
      let z := if ring then mbxRing z now m o else z
      let z := if pull then mbxCancel z now m else z
      if (ring && !busy) || pull then capture z now o off was (mbxWord z.mgt.mbx[m] 0x80) else z)
  else takeWords x o off [(off, v)]

/-- A word write while only the always-readable set answers: in RETAIN, wake and a debug attach take effect, and nothing else does (R316, R331). -/
def closedWrite (x : Sys) (o : Orig) (off : Nat) (v : Word) : Sys :=
  if x.z.pwr.st < 3 ∨ x.z.boot.hold ≠ 0 ∨ x.z.boot.pwrGood = false then x
  else if off = zmcBase + 0x0600 then (if mayWrite x.z o.val off && v.getLsbD 1 then retainWake x 1 else x)
  else if o ≠ 5 then x
  else if off = secBase + 0x2000 then dbgLevelWrite x (bitsOf v 1 0)
  else if off = secBase + 0x2008 then shadowPut x o off v
  else if off = secBase + 0x200C then commitWide x o off v
  else x

/-- One 32-bit write at an aligned offset. -/
def wordWrite (x : Sys) (o : Orig) (off : Nat) (v : Word) : Sys :=
  let z := x.z
  let may := mayWrite z o.val off
  let narrow := o == 6 || o == 7 || (o == 5 && decide (z.dbg.level < 2))
  let refuse (x : Sys) : Sys := onZmc x (fun z now => dropAcc z now off 3 o.val)
  if closedUp z then closedWrite x o off v
  else if off < 0x10000 then (if o = 0 then onZmc x (fun z _ => bondPut z off v) else unbacked x o.val off)
  else if narrow && !may then refuse x
  else if off % 0x10000 / 0x8000 = 1 ∨ backed z off = false then unbacked x o.val off
  else if !may then refuse x
  else
    match mbxAt off with
    | some m => mbxWrite x o.val m ((off - mbxBase) % 0x100) off v
    | none =>
        if mbxBase + 0x1000 ≤ off ∧ off < mbxBase + 0x3000 then
          if o = 0 then onZmc x (fun z _ => { z with mgt := { z.mgt with evq := entPut z.mgt.evq (off - mbxBase - 0x1000) v } }) else unbacked x o.val off
        else if mbxBase + 0x10000 ≤ off ∧ off < mbxBase + 0x18000 then
          if o = 0 then onZmc x (fun z _ => { z with mgt := { z.mgt with aud := entPut z.mgt.aud (off - mbxBase - 0x10000) v } }) else unbacked x o.val off
        else if (regDef off).isNone then x
        else if off = zmcBase + 0x0010 then setWrite x o.val 6 v
        else if wideLow off then lowWrite x o off v
        else if wideHigh off then commitWide x o off v
        else takeWords x o.val off [(off, v)]

/-- A configuration write (R22): a 64-bit access is two word accesses, a narrower or misaligned one is unbacked. -/
def busWrite (x : Sys) (o : Orig) (off : Nat) (s : AccSize) (v : BitVec 64) : Sys :=
  let bad (x : Sys) : Sys := if closedUp x.z then x else unbacked x o.val off
  if off % accBytes s ≠ 0 then bad x
  else
    match s with
    | .b8 => wordWrite (wordWrite x o off (v.extractLsb' 0 32)) o (off + 4) (v.extractLsb' 32 32)
    | .b4 => wordWrite x o off (v.extractLsb' 0 32)
    | _ => bad x

/-- A write of some bits of a register that leaves its other fields with the values they have, pending ones included. -/
def bitsWrite (x : Sys) (o : Orig) (off : Nat) (m v : Word) : Sys :=
  let keep := match regDef off with | some d => mix (curWord x off &&& ~~~(actionBits off)) (pendWord x.z off) (bufMask d) | none => 0
  busWrite x o off .b4 ((mix keep v m).setWidth 64)

end Sys2Proof.Machine
end

