-- ==== Sys2Proof/Machine/Cmd.lean ====
section
/-! DEFINITION. What every command has in common: package time goes on, the effect, and what Potrie and a pair do about what it changed. -/

namespace Sys2Proof.Machine

/-- The outcome of a command. -/
abbrev Out := Host.Outcome State Fault Refusal

/-- A command begins: time goes on to `t`, never back, counters in level mode have counted up to it, and nothing has been sent yet. -/
def startAt (x : Sys) (t : Nat) : Sys :=
  let n := max x.now t
  let y := settleLevels x n
  { y with now := n, z := { y.z with out := [] } }

/-- Courses that a command has fenced. -/
def newFences (x y : Sys) : List CourseId := (List.finRange 16).filter (fun c => x.z.cinfo[c].fence == 0 && y.z.cinfo[c].fence != 0)

/-- A command ends: a pair learns of the courses it fenced (R372), and Potrie commits and audits what it changed itself (R49). -/
def closeCmd (x y : Sys) : Sys := potFinish ((newFences x y).foldl (fun y c => onZmc y (fun z _ => pairFenced z c)) y)

/-- A command at `t` with the effect `f`. -/
def cmd (s : State) (t : Nat) (f : Sys → Sys) : Out := .next { s with sys := closeCmd (startAt s.sys t) (f (startAt s.sys t)) }

/-- A command that may also blow fuses. -/
def cmdFuse (s : State) (t : Nat) (f : Sys → Fuse → Sys × Fuse) : Out :=
  let y := f (startAt s.sys t) s.fuse
  .next { s with fuse := y.2, sys := closeCmd (startAt s.sys t) y.1 }

/-- An effect of an island that a hold, RETAIN and OFF switch off (R316, R331). -/
def ifUp (f : Sys → Sys) (x : Sys) : Sys := if closedUp x.z then x else f x

/-- An effect of one course and its Corbel. -/
def ifCrs (c : CourseId) (f : Cx → Cx) (x : Sys) : Sys := ifUp (fun x => onCrs x c f) x

/-- An effect outside the courses. -/
def ifZ (f : Zmc → Nat → Zmc) (x : Sys) : Sys := ifUp (fun x => onZmc x f) x

/-- An effect of a home. -/
def ifHome (f : Zmc → Nat → Zmc) (x : Sys) : Sys := if homesRun x.z then onZmc x f else x

/-- CLEAR_POINT: the course is done with the clear, and the command hears of it (R270, R271). -/
def clearPointAt (x : Sys) (c : CourseId) : Sys :=
  let p := clearPoint (cxOf x c)
  let y : Sys := { x with free := p.1.free, z := p.1.z, crs := modV x.crs c (fun _ => p.1.c) }
  match p.2 with
  | none => y
  | some id => onZmc y (fun z now => clearReached z now id (fun j => { j with left := j.left.erase c.val }))

/-- The joints of a course hold their transfers while its clock changes (R14). -/
def jointHeld (x : Sys) (c : CourseId) : Bool := x.crs[c].lk.st == 4

/-- An effect of a home on what a joint of a course carries. -/
def ifJoint (c : CourseId) (f : Zmc → Nat → Zmc) (x : Sys) : Sys := if jointHeld x c then x else ifHome f x

/-- READ_DATA_RETURN: the home takes the line, and the read-queue entry is free (R134, R145). -/
def dataBack (x : Sys) (c : CourseId) : Sys :=
  let p := dataReturn x.z x.now c
  let y : Sys := { x with z := p.1 }
  match p.2 with
  | none => y
  | some id =>
      onCrs y c (fun v => v.onC (fun k =>
        let k := freeRead k id
        { k with emptyAt := if queuesEmpty k then v.now else k.emptyAt }))

/-- KEY_ZERO_DONE: an INVASIVE level granted during RETAIN_ENTRY abandons it (R308, R314). -/
def keysZeroed (x : Sys) : Sys :=
  let y := onZmc x keyZeroDone
  if x.z.pwr.st = 2 ∧ x.z.dbg.level < y.z.dbg.level then retainAbandon y 0x06 else y

/-- One FCK cycle of a bay that runs (R2, R91). -/
def bayTick (b : BayId) (z : Zmc) (now : Nat) : Zmc := if bayRuns z b then bayCycle z now b else z

end Sys2Proof.Machine
end

