-- ==== Sys2Proof/Machine/ExecBoot.lean ====
section
/-! DEFINITION. The commands of the table: bring-up and resets (16, 20) and errors of on-die memories (18). -/

namespace Sys2Proof.Machine

/-- A rising edge of pwr_good starts a cold reset and the power-up phase sequence (R322). -/
def execPowerGoodRise (t : Nat) (s : State) : Out :=
  cmd s t (fun x => powerRise x s.fuse)

/-- A fall of pwr_good puts the ZMC in OFF within 1 µs with every output inactive (R382). -/
def execPowerGoodFall (t : Nat) (s : State) : Out :=
  cmd s t (fun x => powerFall x s.fuse)

/-- Release of cold_rst_n after a pulse of at least 1 µs starts a cold reset (R322). -/
def execColdRstRelease (t lowNs : Nat) (s : State) : Out :=
  cmd s t (fun x => coldRelease x s.fuse lowNs)

/-- Release of warm_rst_n starts a warm reset that keeps what Table 16-1 keeps; it is ignored in RETAIN and OFF (R322). -/
def execWarmRstRelease (t lowNs : Nat) (s : State) : Out :=
  cmd s t (fun x => warmRelease x lowNs)

/-- Phase 1 tests and soft-repairs Mason RAM, and on a cold reset also the event queue, audit log and key store (R324). -/
def execMgtBist (t : Nat) (obs : List BistObs) (s : State) : Out :=
  cmd s t (ifUp (fun x => onZmc x (fun z _ => mgtBistEnd z obs)))

/-- Phase 2: Mason copies and verifies the active bank, falls back to the other bank or holds, and starts Potrie (R60). -/
def execImage (t : Nat) (s : State) : Out :=
  cmd s t (ifZ (fun z now => imageEnd z now))

/-- Phase 3 tests home, course and Hod memories and runs the decoder and encryption engine tests (R329). -/
def execIslandBist (t : Nat) (obs : List BistObs) (badDec : List CourseId) (badEng : List HomeId) (s : State) : Out :=
  cmd s t (ifUp (fun x => islandBistEnd x obs badDec badEng))

/-- Phase 4 applies fences or a hold under Table 16-6 and publishes the Bond table (R332). -/
def execPublish (t : Nat) (s : State) : Out :=
  cmd s t (ifZ (fun z now => publishEnd z now))

/-- Phase 5 brings up each live course's link, then initialises and trains its DRAM (R294). -/
def execTrain (t : Nat) (c : CourseId) (obs : TrainObs) (s : State) : Out :=
  cmd s t (ifUp (fun x => allFenced (trainRow x c obs)))

/-- A course not trained within train_to_ms of the start of phase 5 is fenced with fence_cause 2 (R334). -/
def execTrainTimeout (t : Nat) (c : CourseId) (s : State) : Out :=
  cmd s t (ifUp (fun x => allFenced (Sys2Proof.Machine.trainTimeout x c)))

/-- Phase 6 sets the fresh maps, or zero-fills the footing tables when fresh tracking is off (R335). -/
def execFresh (t : Nat) (s : State) : Out :=
  cmd s t (ifUp (fun x => freshEnd x))

/-- The ZMC offers its credits, asserts zmc_ready, latches release_us and posts the released event (R336). -/
def execReleased (t : Nat) (s : State) : Out :=
  cmd s t (ifUp (fun x => Sys2Proof.Machine.released x))

/-- A double-bit error in an on-die memory posts mem_ue and an event, with the consequence that Table 18-3 gives for that memory (R358).
-/
def execMemDoubleBitError (t mem word bit : Nat) (s : State) : Out :=
  cmd s t (fun x => memDoubleBit x mem word bit)

/-- A single-bit error in an on-die memory is corrected in the read that finds it and counted (R358). -/
def execMemSingleBitError (t mem word bit : Nat) (s : State) : Out :=
  cmd s t (fun x => onZmc x (fun z now => memSingleBit z now mem word bit))

end Sys2Proof.Machine
end

