-- ==== Sys2Proof/Machine/ExecCourse.lean ====
section
/-! DEFINITION. The commands of the table: A course: its queues, selector, refresh and self-refresh (08, 09). -/

namespace Sys2Proof.Machine

/-- A request enters a course queue, which checks the fresh map, renders and in-order mode (R145). -/
def execCourseEnqueue (t : Nat) (c : CourseId) (s : State) : Out :=
  cmd s t (ifCrs c (Sys2Proof.Machine.courseEnqueue))

/-- A subchannel's selector commits a chain from the highest tier with a candidate into the flit plan (R157). -/
def execSelectCommit (t : Nat) (c : CourseId) (sc : SubId) (s : State) : Out :=
  cmd s t (ifCrs c (fun x => Sys2Proof.Machine.courseSelect x sc))

/-- The course sends one downstream flit per LCK, chosen by replay, write data, command or idle (R158). -/
def execDownstreamFlit (t : Nat) (c : CourseId) (s : State) : Out :=
  cmd s t (ifCrs c (Sys2Proof.Machine.downstreamFlit))

/-- dck_now reaches a command's stamp, freeing a write's entry and reporting a request served (R145). -/
def execStampReached (t : Nat) (c : CourseId) (s : State) : Out :=
  cmd s t (ifCrs c (Sys2Proof.Machine.stampReached))

/-- The oldest write passing wr_age_us forces a drain and posts age_drain (R163). -/
def execWriteAgeDrain (t : Nat) (c : CourseId) (s : State) : Out :=
  cmd s t (ifCrs c (writeAge))

/-- An open bank idle for page_idle × 8 DCK receives a PRE from tier 8 (R161). -/
def execPageIdleTimeout (t : Nat) (c : CourseId) (bank : Fin 512) (s : State) : Out :=
  cmd s t (ifCrs c (fun x => pageIdle x bank.val))

/-- An idle rank enters power-down after pd_idle × 64 DCK (R166). -/
def execPdIdleEntry (t : Nat) (c : CourseId) (sc : SubId) (rank : Fin 4) (s : State) : Out :=
  cmd s t (ifCrs c (fun x => pdIdle x sc rank.val))

/-- A Timebase refresh tick updates hot state, accrual and excess emergencies for every target (R175). -/
def execRefreshTick (t : Nat) (c : CourseId) (seq : BitVec 16) (s : State) : Out :=
  cmd s t (ifCrs c (fun x => Sys2Proof.Machine.refreshTick x seq))

/-- A target's catch-up timer expires and raises one emergency refresh (R174). -/
def execCatchupTimerExpiry (t : Nat) (c : CourseId) (i : Fin 16) (s : State) : Out :=
  cmd s t (ifCrs c (fun x => catchupExpiry x i))

/-- A Corbel temperature report is stored and decides the rank's hot state at the next tick (R176). -/
def execTempReport (t : Nat) (c : CourseId) (s : State) : Out :=
  cmd s t (ifCrs c (tempRecord))

/-- A rank without a report for temp_to_ms is treated as hot and temp_stale is posted (R177). -/
def execTempStale (t : Nat) (c : CourseId) (rank : Fin 4) (s : State) : Out :=
  cmd s t (ifCrs c (fun x => Sys2Proof.Machine.tempStale x rank))

/-- A write of sr_req in AWAKE starts self-refresh entry (R181). -/
def execSrReq (t : Nat) (o : Orig) (c : CourseId) (s : State) : Out :=
  cmd s t (fun x => bitsWrite x o (crsBase c.val + 0x1410) 1 1)

/-- A write of sr_exit starts a self-refresh exit (R181). -/
def execSrExit (t : Nat) (o : Orig) (c : CourseId) (s : State) : Out :=
  cmd s t (fun x => bitsWrite x o (crsBase c.val + 0x1410) 2 2)

/-- No demand request for sr_idle_us starts self-refresh entry (R181). -/
def execSrIdleTimeout (t : Nat) (c : CourseId) (s : State) : Out :=
  cmd s t (ifCrs c (srIdle))

/-- Queues are empty and banks closed, so the SRE commands are committed and sent (R182). -/
def execSrQuiesceDone (t : Nat) (c : CourseId) (s : State) : Out :=
  cmd s t (ifCrs c (Sys2Proof.Machine.srQuiesceDone))

/-- dck_now reaches the last SRE stamp and the course is in IN_SR (R181). -/
def execSrEntered (t : Nat) (c : CourseId) (s : State) : Out :=
  cmd s t (ifCrs c (Sys2Proof.Machine.srEntered))

/-- The last SRX + txs is reached, and the course is AWAKE with pallets restarted (R184). -/
def execSrExitDone (t : Nat) (c : CourseId) (s : State) : Out :=
  cmd s t (ifCrs c (Sys2Proof.Machine.srExitDone))

/-- On dram_crit, Potrie moves the course to the thermal policy's crit_act mode and raises cure_ns (R398). -/
def execDramCritAction (t : Nat) (c : CourseId) (s : State) : Out :=
  cmd s t (ifUp (fun x => critAction x c))

/-- Once every rank has reported at most release_c for 1 s, Potrie returns the course to mode 0 (R398). -/
def execCritRelease (t : Nat) (c : CourseId) (s : State) : Out :=
  cmd s t (ifUp (fun x => Sys2Proof.Machine.critRelease x c))

/-- A course whose queues have been empty for 1 µs moves from ACTIVE to IDLE in crs_pwr (R319). -/
def execCourseIdle (t : Nat) (c : CourseId) (s : State) : Out :=
  cmd s t (ifCrs c (Sys2Proof.Machine.courseIdle))

end Sys2Proof.Machine
end

