-- ==== Sys2Proof/WellFormed.lean ====
section
/-! DEFINITION. Which commands can exist at the block's boundary: the operands that no environment can supply are refused. -/

namespace Sys2Proof

/-- A train has 1 to 4 lines (R105). -/
def FabReq.wf (r : FabReq) : Bool := decide (1 ≤ r.lines ∧ r.lines ≤ 4)

/-- Every island has one sensor (R16). -/
def tempsWf (l : List Int) : Bool := l.length == 25

/-- The operands of a command are ones its environment can supply. -/
def Instr.wf : Instr → Bool
  | .fabricRequest _ r => r.wf
  | .sensorSample _ temps => tempsWf temps
  | _ => true

end Sys2Proof
end

