-- ==== Sys2Proof/Machine/ExecHome.lean ====
section
/-! DEFINITION. The commands of the table: ports, bays, shaping, gates, homes and the directory (05 to 07). -/

namespace Sys2Proof.Machine

/-- A port becomes live and is a candidate from the third FCK after the change reaches the home (R85). -/
def execPortLiveRise (t : Nat) (p : PortId) (s : State) : Out :=
  cmd s t (fun x => onZmc x (fun z now => portRise z now p))

/-- A port stops being live: its accepted requests are orphaned and its slots fall to the ranking (R86). -/
def execPortLiveFall (t : Nat) (p : PortId) (s : State) : Out :=
  cmd s t (fun x => onZmc x (fun z now => portFall z now p))

/-- A fabric request arrives at the home, is decoded, policed and queued by port and class at its bay (R106). -/
def execFabricRequest (t : Nat) (r : FabReq) (s : State) : Out :=
  if r.wf then cmd s t (ifHome (fun z now => fabricArrive z now r)) else .fault .illFormed

/-- A bay decides the grant of its next cycle from pre-emption, the Pattern owner or the background ranking (R91). -/
def execBayGrant (t : Nat) (b : BayId) (s : State) : Out :=
  cmd s t (ifHome (fun z now => bayTick b z now))

/-- An armed Pattern table becomes active at the slot-0 wrap, incrementing pat_gen and posting swapped (R94). -/
def execPatternSwap (t : Nat) (b : BayId) (s : State) : Out :=
  cmd s t (ifHome (fun z now => patSwap z now b))

/-- The per-µs sweep refills every bucket of the home and removes non-negative buckets from the wheel (R110). -/
def execShaperSweep (t : Nat) (h : HomeId) (s : State) : Out :=
  cmd s t (ifHome (fun z now => sweep z now h))

/-- A timing-wheel slot expires, refilling its buckets and re-entering those still negative (R112). -/
def execWheelExpiry (t : Nat) (h : HomeId) (s : State) : Out :=
  cmd s t (ifHome (fun z now => wheelTurn z now h))

/-- An armed gate list starts at entry 0 at its start instant and posts started (R117). -/
def execGateListStart (t : Nat) (c : CourseId) (s : State) : Out :=
  cmd s t (ifHome (fun z now => Sys2Proof.Machine.gateListStart z c now))

/-- The next gate entry comes into force, opening the windows of its classes (R114). -/
def execGateEntryStart (t : Nat) (c : CourseId) (s : State) : Out :=
  cmd s t (ifHome (fun z now => entryStart z c now))

/-- A class's lintel begins before its close, and no further requests of the class are granted (R115). -/
def execLintelStart (t : Nat) (c : CourseId) (cls : Fin 4) (s : State) : Out :=
  cmd s t (ifHome (fun z now => lintelBegin z c cls now))

/-- At a close the home checks for late work and, if any, holds the entry in force (R118). -/
def execGateClose (t : Nat) (c : CourseId) (s : State) : Out :=
  cmd s t (ifHome (fun z now => gateCloseAt z c now))

/-- The last late request is served, the overrun is added to D, and the next entry starts (R118). -/
def execOverrunEnd (t : Nat) (c : CourseId) (s : State) : Out :=
  cmd s t (ifHome (fun z now => overrunDone z c now))

/-- When local package time jumps by more than 1 µs, the home re-anchors the gate list and posts resync (R120). -/
def execGateResync (t : Nat) (h : HomeId) (pkgNs : BitVec 64) (s : State) : Out :=
  cmd s t (ifHome (fun z now => resyncHome z h pkgNs.toNat now))

/-- Every lat_int_us the home samples depth and delay of every (port, class) into histograms (R121). -/
def execLatSample (t : Nat) (h : HomeId) (s : State) : Out :=
  cmd s t (ifHome (fun z now => latSampleAll z now h))

/-- A write to HOME_LAT_SEL copies a histogram and its maximum, clearing them when clr is 1 (R122). -/
def execLatSelCopy (t : Nat) (o : Orig) (h : HomeId) (v : Word) (s : State) : Out :=
  cmd s t (fun x => busWrite x o (homeBase h.val + 0x1A08) .b4 (v.setWidth 64))

/-- A granted request looks up the directory and acts on the line's state under Table 7-5 (R134). -/
def execRequestLookup (t : Nat) (h : HomeId) (s : State) : Out :=
  cmd s t (ifHome (fun z now => lookupOldest z now h))

/-- Footing bytes reach the home, deciding whether speculative data is used and the directory action (R133). -/
def execFootingDataReturn (t : Nat) (h : HomeId) (s : State) : Out :=
  cmd s t (ifHome (fun z now => ftgReturn z now h))

/-- A footing write buffer entry drains by read, merge and write of its footing line (R142). -/
def execFootingDrain (t : Nat) (h : HomeId) (s : State) : Out :=
  cmd s t (ifHome (fun z now => drainStep z now h))

/-- A writeback or eviction notice arrives on the writeback channel and waits for a reserved entry (R125). -/
def execWriteback (t : Nat) (p : PortId) (k : WbKind) (addr : BitVec 64) (d : Line) (key : BitVec 10) (poison : Bool) (s : State) : Out :=
  cmd s t (ifHome (fun z now => wbArrive z now p k addr d key poison))

/-- A writeback is applied to the directory, its data placed in the write path, and WB_ACK sent (R136). -/
def execWritebackMerge (t : Nat) (h : HomeId) (s : State) : Out :=
  cmd s t (ifHome (fun z now => wbMerge z now h))

/-- A snoop answer arrives and completes the waiting action when every snooped port has answered (R134). -/
def execSnoopResponse (t : Nat) (p : PortId) (a : SnpAns) (addr : BitVec 64) (d : Line) (s : State) : Out :=
  cmd s t (ifHome (fun z now => snoopAnswer z now p a addr d))

/-- A snoop not answered within snp_to_us returns poison and stores the line poisoned (R135). -/
def execSnoopTimeout (t : Nat) (h : HomeId) (s : State) : Out :=
  cmd s t (ifHome (fun z now => Sys2Proof.Machine.snoopTimeout z now h))

/-- A line's hold window ends, allowing snoops to its new owner (R137). -/
def execHoldWindowEnd (t : Nat) (h : HomeId) (s : State) : Out :=
  cmd s t (ifHome (fun z now => holdEnd z now h))

/-- A line crosses the read-data joint and the home sends the response to its port (R134). -/
def execReadDataReturn (t : Nat) (c : CourseId) (s : State) : Out :=
  cmd s t (fun x => if homesRun x.z && !jointHeld x c then dataBack x c else x)

/-- A freed queue entry returns to the home as a credit (R145). -/
def execCourseCredit (t : Nat) (c : CourseId) (s : State) : Out :=
  cmd s t (ifJoint c (fun z now => creditReturn z now c))

/-- At each bw_win_us boundary the home latches each port's line counts and advances bw_seq (R351). -/
def execBwWindowClose (t : Nat) (h : HomeId) (s : State) : Out :=
  cmd s t (ifHome (fun z now => bwClose z now h))

end Sys2Proof.Machine
end

