-- ==== Sys2Proof/Machine/ExecLink.lean ====
section
/-! DEFINITION. The commands of the table: The course link and the Corbel (10, 11). -/

namespace Sys2Proof.Machine

/-- The course receives an upstream flit, accepts or naks it, and applies its ack and nak (R204). -/
def execUpstreamFlit (t : Nat) (c : CourseId) (errs : UpBits) (s : State) : Out :=
  cmd s t (ifCrs c (fun x => Sys2Proof.Machine.upstreamFlit x errs))

/-- The Corbel receives a downstream flit, accepts or naks it, and enters its commands into the hold queue (R204). -/
def execCorbelFlitReceive (t : Nat) (c : CourseId) (errs : DnBits) (s : State) : Out :=
  cmd s t (ifCrs c (fun x => cbReceive x errs))

/-- The Corbel picks its next upstream flit from replay, records, RDATA, SLEEP_ACK or idle (R202). -/
def execCorbelUpstreamFlit (t : Nat) (c : CourseId) (s : State) : Out :=
  cmd s t (ifCrs c (cbUpstream))

/-- A receiver in NAK state with no flit of seq E for the timer sends another nak (R204). -/
def execNakTimerExpiry (t : Nat) (c : CourseId) (far : Bool) (s : State) : Out :=
  cmd s t (ifCrs c (if far then cbNakExpiry else courseNakExpiry))

/-- A sender rewinds to its oldest unacknowledged flit after ack_to × 4 LCK (R205). -/
def execAckTimeout (t : Nat) (c : CourseId) (far : Bool) (s : State) : Out :=
  cmd s t (ifCrs c (if far then cbAckTimeout else courseAckTimeout))

/-- An RDATA payload is matched to its outstanding read and decoded, or discarded (R200). -/
def execRdata (t : Nat) (c : CourseId) (s : State) : Out :=
  cmd s t (ifCrs c (Sys2Proof.Machine.rdata))

/-- A late alert record sets the epoch and starts a rebuild of the rebuild set (R228). -/
def execLateAlert (t : Nat) (c : CourseId) (s : State) : Out :=
  cmd s t (ifCrs c (Sys2Proof.Machine.lateAlert))

/-- A CA parity alert record starts a rebuild of every unretired entry (R232). -/
def execCaParityAlert (t : Nat) (c : CourseId) (s : State) : Out :=
  cmd s t (ifCrs c (Sys2Proof.Machine.caParityAlert))

/-- An issue acknowledgement retires retry entries up to its conf_stamp (R225). -/
def execIssueAcknowledgement (t : Nat) (c : CourseId) (s : State) : Out :=
  cmd s t (ifCrs c (issueAck))

/-- A maintenance response with matching mtag completes the maintenance request (R215). -/
def execMaintenanceResponse (t : Nat) (c : CourseId) (s : State) : Out :=
  cmd s t (ifCrs c (mntResponse))

/-- A return overflow record makes the course select the read again (R208). -/
def execReturnOverflow (t : Nat) (c : CourseId) (s : State) : Out :=
  cmd s t (ifCrs c (Sys2Proof.Machine.returnOverflow))

/-- A link status record adds the Corbel's counts into far_fec_cnt and far_bad_cnt (R201). -/
def execLinkStatus (t : Nat) (c : CourseId) (s : State) : Out :=
  cmd s t (ifCrs c (Sys2Proof.Machine.linkStatus))

/-- The Corbel sends a link status record every 65,536 LCK or when a count reaches half its maximum (R201). -/
def execCorbelLinkStatusSend (t : Nat) (c : CourseId) (s : State) : Out :=
  cmd s t (ifCrs c (cbStatusSend))

/-- A write of link_start in DOWN or FAILED starts WAKE (R209). -/
def execLinkStart (t : Nat) (o : Orig) (c : CourseId) (s : State) : Out :=
  cmd s t (fun x => bitsWrite x o (crsBase c.val + 0x0800) 8 8)

/-- A write of link_stop takes the link to DOWN, draining first from ACTIVE (R211). -/
def execLinkStop (t : Nat) (o : Orig) (c : CourseId) (s : State) : Out :=
  cmd s t (fun x => bitsWrite x o (crsBase c.val + 0x0800) 0x80000000 0x80000000)

/-- An ALIGN exchange completes and the link becomes ACTIVE, loading DCK and latching rtt_lck (R209). -/
def execAlignComplete (t : Nat) (c : CourseId) (oneWay : Nat) (s : State) : Out :=
  cmd s t (ifCrs c (fun x => Sys2Proof.Machine.linkAligned x oneWay))

/-- A link not ACTIVE in time after DOWN or ASLEEP goes to FAILED (R209). -/
def execWakeTimeout (t : Nat) (c : CourseId) (s : State) : Out :=
  cmd s t (ifCrs c (Sys2Proof.Machine.wakeTimeout))

/-- A RECOVER attempt not complete in 2 µs retries or fails after recov_max attempts (R209). -/
def execRecoverTimeout (t : Nat) (c : CourseId) (s : State) : Out :=
  cmd s t (ifCrs c (Sys2Proof.Machine.recoverTimeout))

/-- A SET of mode_req or lane_sel starts a rate change once every flit is acknowledged (R209). -/
def execRate (t : Nat) (c : CourseId) (s : State) : Out :=
  cmd s t (ifCrs c (rateStart))

/-- The new mode's ALIGN exchange completes, the armed ratio is applied, and mode_done is posted (R151). -/
def execRateComplete (t : Nat) (c : CourseId) (s : State) : Out :=
  cmd s t (ifCrs c (rateDone))

/-- A RATE change not complete within 2 µs takes the link to FAILED (R209). -/
def execRateTimeout (t : Nat) (c : CourseId) (s : State) : Out :=
  cmd s t (ifCrs c (Sys2Proof.Machine.rateTimeout))

/-- A course in IN_SR with every flit acknowledged sends SLEEP (R209). -/
def execSleepStart (t : Nat) (c : CourseId) (s : State) : Out :=
  cmd s t (ifCrs c (Sys2Proof.Machine.sleepStart))

/-- SLEEP_ACK accepted: the link goes to ASLEEP, or to DOWN when link_stop is pending (R209). -/
def execSleepAck (t : Nat) (c : CourseId) (s : State) : Out :=
  cmd s t (ifCrs c (Sys2Proof.Machine.sleepAck))

/-- The Corbel answers SLEEP once its return queue is empty and every flit is acknowledged (R210). -/
def execCorbelSleepAckSend (t : Nat) (c : CourseId) (s : State) : Out :=
  cmd s t (ifCrs c (cbSleepAckSend))

/-- With no good flit for 2 µs, the Corbel issues held commands, places PREab and SRE, and sets safe (R212). -/
def execCorbelSafeTimeout (t : Nat) (c : CourseId) (s : State) : Out :=
  cmd s t (ifCrs c (cbSafeTimeout))

/-- Potrie restarts a FAILED link degraded or fences the course within 10 ms (R213). -/
def execLinkFailedResponse (t : Nat) (c : CourseId) (badUp : List (Fin 8)) (badDn : List (Fin 6)) (s : State) : Out :=
  cmd s t (ifCrs c (fun x => Sys2Proof.Machine.linkFailedResponse x (badUp.map (fun l => l.val)) (badDn.map (fun l => l.val))))

/-- A write of mop 1 or 2 to CRS[n]_MNT_REQ sends a maintenance request to the Corbel (R215). -/
def execMntReq (t : Nat) (o : Orig) (c : CourseId) (v : Word) (s : State) : Out :=
  cmd s t (fun x => busWrite x o (crsBase c.val + 0x0840) .b4 (v.setWidth 64))

/-- No maintenance response within 20 µs ends the request with mres 3 (R215). -/
def execMntTimeout (t : Nat) (c : CourseId) (s : State) : Out :=
  cmd s t (ifCrs c (Sys2Proof.Machine.mntTimeout))

/-- The Corbel executes a MAINT request on its registers and responds (R237). -/
def execCorbelMaintRequest (t : Nat) (c : CourseId) (s : State) : Out :=
  cmd s t (ifCrs c (cbMaint))

/-- The Corbel drives a held command on the CA bus at its stamp (R219). -/
def execCorbelIssue (t : Nat) (c : CourseId) (sc : SubId) (fb : Option (BitVec 40)) (s : State) : Out :=
  cmd s t (ifCrs c (fun x => cbIssue x sc fb))

/-- The Corbel captures a read burst into its return queue, or discards it when the queue is full (R221). -/
def execReadBurstCapture (t : Nat) (c : CourseId) (sc : SubId) (errs : Code) (s : State) : Out :=
  cmd s t (ifCrs c (fun x => burstCapture x sc errs))

/-- ALERT_n asserted makes the Corbel stop, discard, place PREab, advance the epoch and send a CA parity alert (R231). -/
def execAlertNSampled (t : Nat) (c : CourseId) (sc : SubId) (s : State) : Out :=
  cmd s t (ifCrs c (fun x => alertSampled x sc))

/-- The Corbel sends an issue acknowledgement when conf_stamp advances enough or 64 LCK pass (R224). -/
def execIssueAckSend (t : Nat) (c : CourseId) (sc : SubId) (s : State) : Out :=
  cmd s t (ifCrs c (fun x => Sys2Proof.Machine.issueAckSend x sc))

/-- The Corbel reads its thermal sensors and sends a temperature report (R235). -/
def execCorbelTempRead (t : Nat) (c : CourseId) (rank : Fin 4) (temp : Option (BitVec 8)) (s : State) : Out :=
  cmd s t (ifCrs c (fun x => cbTempRead x rank temp))

/-- The Corbel applies the staged delays of a rank at the next safe REFab (R290). -/
def execCorbelStagedApply (t : Nat) (c : CourseId) (sc : SubId) (rank : Fin 4) (s : State) : Out :=
  cmd s t (ifCrs c (fun x => cbStagedApply x sc rank.val))

/-- Loss of lock on any lane in use moves the link to RECOVER (R206). -/
def execLaneLockLoss (t : Nat) (c : CourseId) (l : Fin 14) (s : State) : Out :=
  cmd s t (ifCrs c (fun x => Sys2Proof.Machine.laneLockLoss x l.val))

end Sys2Proof.Machine
end

