-- ==== Sys2Proof/Machine/ExecMbx.lean ====
section
/-! DEFINITION. The commands of the table: Mason, the mailboxes and their commands (04, 21). -/

namespace Sys2Proof.Machine

/-- The watchdog restarts Mason from the active bank, and RUNNING requests complete as ABORTED (R62). -/
def execWatchdogExpiry (t : Nat) (s : State) : Out :=
  cmd s t (ifZ (fun z now => watchdog z now))

/-- A write of 1 to ring posts the request frame and starts the mailbox timer (R74). -/
def execMbxRing (t : Nat) (o : Orig) (m : MbxId) (s : State) : Out :=
  cmd s t (fun x => busWrite x o (mbxBase + 0x0180 + 0x100 * m.val) .b4 (1))

/-- A write of cancel in POSTED withdraws the request with status ABORTED (R74). -/
def execMbxCancel (t : Nat) (o : Orig) (m : MbxId) (s : State) : Out :=
  cmd s t (fun x => busWrite x o (mbxBase + 0x0180 + 0x100 * m.val) .b4 (2))

/-- A request POSTED for mbx_timeout_ms is withdrawn by hardware with status TIMEOUT (R74). -/
def execMbxTimeout (t : Nat) (m : MbxId) (s : State) : Out :=
  cmd s t (ifZ (fun z now => Sys2Proof.Machine.mbxTimeout z now m))

/-- Work that returned ACCEPTED ends and posts its completion event with its final status (R391). -/
def execAcceptedComplete (t : Nat) (m : MbxId) (ok : Bool) (s : State) : Out :=
  cmdFuse s t (fun x f => if closedUp x.z then (x, f) else Sys2Proof.Machine.acceptedComplete x f m ok)

/-- When a 1 ms coalescing window closes, one audit entry is written for the register's writes (R79). -/
def execAuditCoalesceClose (t : Nat) (s : State) : Out :=
  cmd s t (ifZ (fun z now => coalClose z now))

/-- The new image reloads its state, regenerates the Bond table and posts activation-done, closing the window (R81). -/
def execActivationDone (t : Nat) (s : State) : Out :=
  cmd s t (ifZ (fun z now => Sys2Proof.Machine.activationDone z now))

/-- Without activation-done 20 ms after the window opened, the watchdog restarts the old image, which posts activation-failed (R82). -/
def execActivationTimeout (t : Nat) (s : State) : Out :=
  cmd s t (ifZ (fun z now => Sys2Proof.Machine.activationTimeout z now))

/-- Returns the protocol levels, versions, queue positions and Bond-table generation (R396). -/
def execQuery (t : Nat) (m : MbxId) (s : State) : Out :=
  cmd s t (ifUp (fun x => cmdQuery x m))

/-- Makes every region of an aligned system range fresh in each course of its set (R270). -/
def execRegionClear (t : Nat) (m : MbxId) (s : State) : Out :=
  cmd s t (ifUp (fun x => cmdRegionClear x m))

/-- Staged load of a wrapped AES-XTS key pair into a key slot (R279). -/
def execKeyLoad (t : Nat) (m : MbxId) (s : State) : Out :=
  cmd s t (ifUp (fun x => cmdKeyLoad x m))

/-- Erases a key slot (R280). -/
def execKeyErase (t : Nat) (m : MbxId) (s : State) : Out :=
  cmd s t (ifUp (fun x => cmdKeyErase x m))

/-- Replaces the user-mode grant of counter groups (R350). -/
def execCounterGrant (t : Nat) (m : MbxId) (s : State) : Out :=
  cmd s t (ifUp (fun x => cmdCounterGrant x m))

/-- Issues a single-use debug consent token for a level and a validity period (R307). -/
def execDebugConsent (t : Nat) (m : MbxId) (s : State) : Out :=
  cmd s t (ifUp (fun x => cmdDebugConsent x m))

/-- Commits a Plumb reference, either supplied or adopted from the next complete lap (R49). -/
def execPlumbRef (t : Nat) (m : MbxId) (lap : Bool) (s : State) : Out :=
  cmd s t (ifUp (fun x => cmdPlumbRef x m lap))

/-- Verifies the inactive bank and opens the live activation window (R81). -/
def execActivate (t : Nat) (m : MbxId) (s : State) : Out :=
  cmd s t (ifUp (fun x => cmdActivate x m))

/-- Accepts or declines a repair offer, carrying out an hPPR or a device mark (R260). -/
def execRepair (t : Nat) (m : MbxId) (s : State) : Out :=
  cmd s t (ifUp (fun x => cmdRepair x m))

/-- The Operator's power command starts DOZE entry (R312). -/
def execPowerDoze (t : Nat) (m : MbxId) (s : State) : Out :=
  cmd s t (ifUp (fun x => cmdPowerDoze x m))

/-- Starts RETAIN_ENTRY: park credits, finish renders, write back the directory, re-enter self-refresh and save state (R313). -/
def execRetain (t : Nat) (m : MbxId) (s : State) : Out :=
  cmd s t (ifUp (fun x => cmdRetain x m))

/-- When step 5 has not begun within retain_to_ms, the entry is abandoned and retain_abort is posted (R313). -/
def execRetainTimeout (t : Nat) (s : State) : Out :=
  cmd s t (ifUp (fun x => Sys2Proof.Machine.retainTimeout x))

/-- Staged command returning the newest audit entry's chain, signed with a nonce (R397). -/
def execAuditHead (t : Nat) (m : MbxId) (s : State) : Out :=
  cmd s t (ifUp (fun x => cmdAuditHead x m))

/-- Locks the lockable fields and Sealed commands, adopts a Plumb reference and regenerates the Bond table (R67). -/
def execSeal (t : Nat) (m : MbxId) (s : State) : Out :=
  cmd s t (ifUp (fun x => cmdSeal x m))

/-- Writes a part of an image into the inactive bank, verifying it after the last part (R61). -/
def execImageWrite (t : Nat) (m : MbxId) (s : State) : Out :=
  cmd s t (ifUp (fun x => cmdImageWrite x m))

/-- Replaces the key-encryption key from a blob wrapped under the device key (R279). -/
def execKekSet (t : Nat) (m : MbxId) (s : State) : Out :=
  cmd s t (ifUp (fun x => cmdKekSet x m))

/-- Staged life-cycle transition that blows a fuse and, where Table 15-1 says so, zeroes keys (R302). -/
def execLcTransition (t : Nat) (m : MbxId) (s : State) : Out :=
  cmd s t (ifUp (fun x => cmdLcTransition x m))

/-- Writes the Quoin and multi-package membership in ZMC_PAIR_CTL (R363). -/
def execPairSetup (t : Nat) (m : MbxId) (s : State) : Out :=
  cmd s t (ifUp (fun x => cmdPairSetup x m))

/-- Writes a mirrored range descriptor (R366). -/
def execPairRange (t : Nat) (m : MbxId) (s : State) : Out :=
  cmd s t (ifUp (fun x => cmdPairRange x m))

/-- Writes an interleave record into both homes (R406). -/
def execInterleave (t : Nat) (m : MbxId) (s : State) : Out :=
  cmd s t (ifUp (fun x => cmdInterleave x m))

/-- Sets ecc_mode on the courses named (R243). -/
def execEccMode (t : Nat) (m : MbxId) (s : State) : Out :=
  cmd s t (ifUp (fun x => cmdEccMode x m))

/-- Sets fresh_en on the courses named (R272). -/
def execFreshMode (t : Nat) (m : MbxId) (s : State) : Out :=
  cmd s t (ifUp (fun x => cmdFreshMode x m))

/-- Stores the training policy (R395). -/
def execTrainPolicy (t : Nat) (m : MbxId) (s : State) : Out :=
  cmd s t (ifUp (fun x => cmdTrainPolicy x m))

/-- Stores the thermal policy applied on dram_crit (R398). -/
def execThermalPolicy (t : Nat) (m : MbxId) (s : State) : Out :=
  cmd s t (ifUp (fun x => cmdThermalPolicy x m))

/-- Stores the automatic repair policy (R398). -/
def execRepairPolicy (t : Nat) (m : MbxId) (s : State) : Out :=
  cmd s t (ifUp (fun x => cmdRepairPolicy x m))

/-- Drains a course, puts it in self-refresh, takes its link down and fences it with fence_cause 5 (R398). -/
def execCourseFence (t : Nat) (m : MbxId) (s : State) : Out :=
  cmd s t (ifUp (fun x => cmdCourseFence x m))

/-- Retrains a fenced course from step 1 and restores it with every region WRITTEN (R398). -/
def execCourseRestore (t : Nat) (m : MbxId) (s : State) : Out :=
  cmd s t (ifUp (fun x => cmdCourseRestore x m))

/-- Starts a Maker re-test of one course's memories (R337). -/
def execCourseRetest (t : Nat) (m : MbxId) (s : State) : Out :=
  cmd s t (ifUp (fun x => cmdCourseRetest x m))

/-- Ends the running re-test as INCOMPLETE (R326). -/
def execBistAbort (t : Nat) (m : MbxId) (s : State) : Out :=
  cmd s t (ifUp (fun x => cmdBistAbort x m))

/-- Burns the current soft repairs of the named memories into fuses (R327). -/
def execHardRepair (t : Nat) (m : MbxId) (s : State) : Out :=
  cmd s t (ifUp (fun x => cmdHardRepair x m))

/-- The Maker sets hold_fck, 0 included, in the homes named (R138). -/
def execHoldSet (t : Nat) (m : MbxId) (s : State) : Out :=
  cmd s t (ifUp (fun x => cmdHoldSet x m))

/-- Starts or stops the command trace for the courses named (R409). -/
def execDbgTrace (t : Nat) (m : MbxId) (s : State) : Out :=
  cmd s t (ifUp (fun x => cmdDbgTrace x m))

/-- Sets dbg_preempt_en in each backed bay (R99). -/
def execDbgPreempt (t : Nat) (m : MbxId) (s : State) : Out :=
  cmd s t (ifUp (fun x => cmdDbgPreempt x m))

/-- A hello exchange agrees lvl_run and matches range descriptors, or splits the pair (R377). -/
def execPairHello (t : Nat) (m : MbxId) (s : State) : Out :=
  cmd s t (ifUp (fun x => cmdPairHello x m))

/-- The partner clears the copy regions of a mirrored region clear (R371). -/
def execPeerClear (t : Nat) (m : MbxId) (s : State) : Out :=
  cmd s t (ifUp (fun x => cmdPeerClear x m))

/-- A peer notice of retain, resync ready or copy suspect moves the receiver's ranges (R400). -/
def execPeerNotice (t : Nat) (m : MbxId) (s : State) : Out :=
  cmd s t (ifUp (fun x => cmdPeerNotice x m))

/-- After a watchdog or double-bit restart, the new image runs, P21 becomes live again and Potrie reissues its orphaned requests (R87).
-/
def execMasonRestartDone (t : Nat) (s : State) : Out :=
  cmd s t (ifZ (fun z now => masonBack z now))

/-- Potrie takes a mailbox request whose opcode is not listed and refuses it with BAD_OPCODE (R389). -/
def execUnknownOpcode (t : Nat) (m : MbxId) (s : State) : Out :=
  cmd s t (ifUp (fun x => cmdUnknown x m))

end Sys2Proof.Machine
end

