-- ==== Sys2Proof/Machine/ExecMisc.lean ====
section
/-! DEFINITION. The commands of the table: clears and fresh maps, keys, debug, power, re-test, Hod and pairs (13, 15 to 17, 19). -/

namespace Sys2Proof.Machine

/-- A region clear reaches a course, holding requests to the affected regions and pulling writes (R271). -/
def execClearRequest (t : Nat) (c : CourseId) (s : State) : Out :=
  cmd s t (ifCrs c (clearArrive))

/-- At the clear point the affected regions become FRESH and held requests are handled (R271). -/
def execClearPoint (t : Nat) (c : CourseId) (s : State) : Out :=
  cmd s t (ifUp (fun x => clearPointAt x c))

/-- A secure write of 1 to SEC_KEY_VALID erases the slot and invalidates the engine caches (R280). -/
def execKeyValidErase (t : Nat) (o : Orig) (k : Fin 32) (v : Word) (s : State) : Out :=
  cmd s t (fun x => busWrite x o (secBase + 0x1000 + 4 * k.val) .b4 (v.setWidth 64))

/-- A write to CRS[n]_FRESH_INIT makes regions FRESH below N and WRITTEN above it (R339). -/
def execFreshInit (t : Nat) (o : Orig) (c : CourseId) (v : Word) (s : State) : Out :=
  cmd s t (fun x => busWrite x o (crsBase c.val + 0x2020) .b4 (v.setWidth 64))

/-- A level_req write requesting OBSERVE or INVASIVE is granted or refused against the token and permissions (R306). -/
def execDebugAttach (t : Nat) (o : Orig) (lvl : Fin 4) (s : State) : Out :=
  cmd s t (fun x => busWrite x o (secBase + 0x2000) .b4 (BitVec.ofNat 64 lvl.val))

/-- An INVASIVE attach finishes zeroing the key store and the level is raised (R308). -/
def execKeyZeroDone (t : Nat) (s : State) : Out :=
  cmd s t (fun x => keysZeroed x)

/-- A write of level_req 0 or 1 lowers the level or cancels a zeroing attach (R309). -/
def execDebugLower (t : Nat) (o : Orig) (lvl : Fin 2) (s : State) : Out :=
  cmd s t (fun x => busWrite x o (secBase + 0x2000) .b4 (BitVec.ofNat 64 lvl.val))

/-- With the debug clock absent for 1 ms, the level falls to CLOSED (R309). -/
def execDebugClockLoss (t ns : Nat) (s : State) : Out :=
  cmd s t (fun x => onZmc x (fun z now => clockLoss z now ns))

/-- The 60 s attach lockout ends (R306). -/
def execLockoutExpiry (t : Nat) (s : State) : Out :=
  cmd s t (fun x => onZmc x (fun z now => lockoutEnd z now))

/-- An unused consent token expires at the end of its validity period (R307). -/
def execTokenExpiry (t : Nat) (s : State) : Out :=
  cmd s t (fun x => onZmc x (fun z now => tokenEnd z now))

/-- A write of doze_req starts self-refresh entry of every live course (R312). -/
def execDozeReq (t : Nat) (o : Orig) (s : State) : Out :=
  cmd s t (fun x => bitsWrite x o (zmcBase + 0x0600) 1 1)

/-- Every live course is in self-refresh and both home clocks are gated (R312). -/
def execDozeEntered (t : Nat) (s : State) : Out :=
  cmd s t (ifUp (fun x => Sys2Proof.Machine.dozeEntered x))

/-- A write of wake in RETAIN starts the RETAIN exit (R316). -/
def execWake (t : Nat) (o : Orig) (s : State) : Out :=
  cmd s t (fun x => bitsWrite x o (zmcBase + 0x0600) 2 2)

/-- The retain_wake_ms timer starts the RETAIN exit (R316). -/
def execRetainWakeTimer (t : Nat) (s : State) : Out :=
  cmd s t (fun x => wakeTimer x)

/-- The exit phases restore the saved state and links and end in DOZE, posting woke (R316). -/
def execRetainExit (t : Nat) (dead : List CourseId) (s : State) : Out :=
  cmd s t (fun x => Sys2Proof.Machine.retainExit x dead)

/-- A re-test course's queues empty and renders finish, so it enters self-refresh and TEST (R337). -/
def execRetestDrainDone (t : Nat) (s : State) : Out :=
  cmd s t (ifUp (fun x => retestDrain x))

/-- The re-test memories and decoder cases end, leading to RESTORE or a fence (R337). -/
def execRetestTestDone (t : Nat) (obs : List BistObs) (decOk : Bool) (s : State) : Out :=
  cmd s t (ifUp (fun x => retestTest x obs decOk))

/-- The link is ACTIVE and the Corbel restored, so the course returns with status 1 (R337). -/
def execRetestRestoreDone (t : Nat) (s : State) : Out :=
  cmd s t (ifUp (fun x => retestRestore x))

/-- A request waiting at the bay past retest_stall_us is answered with poison (R338). -/
def execRetestStallExpiry (t : Nat) (b : BayId) (p : PortId) (s : State) : Out :=
  cmd s t (ifHome (fun z now => retestStall z now b p))

/-- A write of freeze = 1 stops every counter, and triggers a snapshot when snap_on_freeze is 1 (R346). -/
def execHodFreeze (t : Nat) (o : Orig) (s : State) : Out :=
  cmd s t (fun x => bitsWrite x o (hodBase + 0x0010) 1 1)

/-- A write of freeze = 0 restarts the counters (R346). -/
def execHodUnfreeze (t : Nat) (o : Orig) (s : State) : Out :=
  cmd s t (fun x => bitsWrite x o (hodBase + 0x0010) 1 0)

/-- A write of snap triggers a snapshot of every island's counters, or a drop when busy (R347). -/
def execSnap (t : Nat) (o : Orig) (s : State) : Out :=
  cmd s t (fun x => bitsWrite x o (hodBase + 0x0010) 2 2)

/-- The snapshot buffer is complete and snap_done is posted (R347). -/
def execSnapDone (t : Nat) (s : State) : Out :=
  cmd s t (ifZ (fun z now => Sys2Proof.Machine.snapDone z now))

/-- The partner stores a mirror write with key ID 0 and acknowledges it (R368). -/
def execMirrorWrite (t : Nat) (addr : BitVec 64) (d : Line) (poison : Bool) (lvl : Byte) (s : State) : Out :=
  cmd s t (ifHome (fun z now => Sys2Proof.Machine.mirrorWrite z now addr d poison lvl.toNat))

/-- A mirror acknowledgement unbusies the line and releases a WR_FULL completion (R367). -/
def execMirrorAck (t : Nat) (addr : BitVec 64) (s : State) : Out :=
  cmd s t (ifHome (fun z now => Sys2Proof.Machine.mirrorAck z now addr))

/-- The partner reads and returns a copy line for an uncorrectable primary read (R369). -/
def execMirrorRead (t : Nat) (addr : BitVec 64) (lvl : Byte) (s : State) : Out :=
  cmd s t (ifHome (fun z now => Sys2Proof.Machine.mirrorRead z now addr lvl.toNat))

/-- Partner data is decrypted, returned and written back locally, or poison is returned (R369). -/
def execMirrorReadData (t : Nat) (addr : BitVec 64) (d : Option Line) (s : State) : Out :=
  cmd s t (ifHome (fun z now => mirrorData z now addr d))

/-- A fault notice moves the receiver's ranges to SOLO, or both to SOLO in a double fault (R374). -/
def execFaultNotice (t : Nat) (off : BitVec 24) (lvl : Byte) (s : State) : Out :=
  cmd s t (ifHome (fun z now => Sys2Proof.Machine.faultNotice z now off.toNat lvl.toNat))

/-- The resync engine pushes or pulls a line or a fresh region (R373). -/
def execResyncLine (t : Nat) (h : HomeId) (s : State) : Out :=
  cmd s t (ifUp (fun x => Sys2Proof.Machine.resyncLine x h))

/-- A region-fresh message sets the destination region FRESH by the clear-point rule (R373). -/
def execRegionFresh (t : Nat) (addr : BitVec 64) (lvl : Byte) (s : State) : Out :=
  cmd s t (ifHome (fun z now => Sys2Proof.Machine.regionFresh z now addr lvl.toNat))

/-- Every port has returned its request and writeback credits to the parked ZMC, so RETAIN_ENTRY can go on past step 1 (R313). -/
def execCreditParkReturn (t : Nat) (p : PortId) (s : State) : Out :=
  cmd s t (ifZ (fun z _ => creditPark z p))

/-- After a pair fault, Potrie re-applies the faulted word by SET, commits a new Plumb reference, moves its ranges to pull resync and
notifies the partner (R374). -/
def execFaultedWordReapply (t : Nat) (s : State) : Out :=
  cmd s t (ifUp (fun x => reapply x))

end Sys2Proof.Machine
end

