-- ==== Sys2Proof/Machine/ExecReg.lean ====
section
/-! DEFINITION. The commands of the table: registers, SET, the Plumb check, thermal sensors and the Bond table (02, 03, 20). -/

namespace Sys2Proof.Machine

/-- A write to a register without a row of its own is applied field by field by class, with drops counted under R46 (R28). -/
def execRegisterWrite (t : Nat) (o : Orig) (off : BitVec 24) (size : AccSize) (v : BitVec 64) (s : State) : Out :=
  cmd s t (fun x => busWrite x o off.toNat size v)

/-- A read of the low word of a 64-bit value latches its high word into the reader's read shadow (R34). -/
def execLowWordRead (t : Nat) (o : Orig) (off : BitVec 24) (size : AccSize) (s : State) : Out :=
  cmd s t (fun x => busRead x o off.toNat size)

/-- A non-zero write to ZMC_SET accepts the SET and snapshots pending values, or rejects it or drops it while busy (R38). -/
def execSetIssue (t : Nat) (o : Orig) (v : Word) (s : State) : Out :=
  cmd s t (fun x => busWrite x o (zmcBase + 0x0010) .b4 (v.setWidth 64))

/-- A named island applies an accepted SET atomically between two of its own cycles (R40). -/
def execSetApply (t : Nat) (i : IslandId) (s : State) : Out :=
  cmd s t (ifUp (fun x => setApplyAt x i.val))

/-- Once every named island has acknowledged, set_busy clears and set_done is posted (R40). -/
def execSetComplete (t : Nat) (s : State) : Out :=
  cmd s t (ifUp (fun x => setCompleteNow x))

/-- At the end of a Plumb lap the CRC is compared with the reference, and mismatch is posted when they differ (R49). -/
def execPlumbLapEnd (t : Nat) (s : State) : Out :=
  cmd s t (ifZ (fun z now => Sys2Proof.Machine.plumbLapEnd z now))

/-- When no lap has completed for 1 ms, stalled is posted (R48). -/
def execPlumbStall (t : Nat) (s : State) : Out :=
  cmd s t (ifZ (fun z now => Sys2Proof.Machine.plumbStall z now))

/-- An owning island checks its active BUF words, and a parity error is posted and recorded (R50). -/
def execParityCheck (t : Nat) (i : IslandId) (bad : List (BitVec 24)) (s : State) : Out :=
  cmd s t (ifZ (fun z now => Sys2Proof.Machine.parityCheck z now i.val (bad.map (fun o => o.toNat))))

/-- Every 10,000 TCK the Timebase island samples the island sensors, records the largest neighbour gap and posts warnings (R16). -/
def execSensorSample (t : Nat) (temps : List Int) (s : State) : Out :=
  if tempsWf temps then cmd s t (fun x => onZmc x (fun z now => Sys2Proof.Machine.sensorSample z now temps)) else .fault .illFormed

/-- Potrie moves a hot course to half rate, raising its cure window, when the gap exceeds 28 °C (R16). -/
def execGapThrottle (t : Nat) (s : State) : Out :=
  cmd s t (ifUp (fun x => Sys2Proof.Machine.gapThrottle x))

/-- Potrie returns a course to full rate after 10 samples with the gap at or below 25 °C (R16). -/
def execGapUnthrottle (t : Nat) (s : State) : Out :=
  cmd s t (ifUp (fun x => Sys2Proof.Machine.gapUnthrottle x))

/-- therm_alert_n asserted for at least 1 µs makes every rank hot and posts alert_in (R386). -/
def execThermAlertAssert (t lowNs : Nat) (s : State) : Out :=
  cmd s t (fun x => alertAssert x lowNs)

/-- 1 ms after therm_alert_n is deasserted, temperature reports decide the hot state again (R386). -/
def execThermAlertRelease (t highNs : Nat) (s : State) : Out :=
  cmd s t (fun x => onZmc x (fun z now => alertRelease z now highNs))

/-- A stopped ref_lane_clk makes the lane PLLs of its eight courses lose lock (R383). -/
def execLaneClockLoss (t : Nat) (k : HomeId) (s : State) : Out :=
  cmd s t (fun x => Sys2Proof.Machine.laneClockLoss x k)

/-- Potrie rewrites the Bond table under an odd generation and posts Bond-table-changed (R54). -/
def execBondRegenerate (t : Nat) (s : State) : Out :=
  cmd s t (ifZ (fun z now => bondRegen z now))

end Sys2Proof.Machine
end

