-- ==== Sys2Proof/Machine/ExecTrain.lean ====
section
/-! DEFINITION. The commands of the table: training at run time, Pointing and the repeat tracker (12, 14). -/

namespace Sys2Proof.Machine

/-- A write to CRS[n]_TCMD enqueues a training command, or is dropped when the FIFO is full (R292). -/
def execTcmd (t : Nat) (o : Orig) (c : CourseId) (v : Word) (s : State) : Out :=
  cmd s t (fun x => busWrite x o (crsBase c.val + 0x2410) .b4 (v.setWidth 64))

/-- After the programmed bursts, the DRAM checker stops and posts dchk_done (R293). -/
def execDchkDone (t : Nat) (c : CourseId) (s : State) : Out :=
  cmd s t (ifCrs c (Sys2Proof.Machine.dchkDone))

/-- A lane checker dwell ends after dwell × 4,096 flits and run clears (R287). -/
def execLchkDwellEnd (t : Nat) (c : CourseId) (far : Bool) (s : State) : Out :=
  cmd s t (ifCrs c (if far then cbDwellEnd else Sys2Proof.Machine.lchkDwellEnd))

/-- Every 100 ms Potrie arms each refresh target for a re-centring probe (R297). -/
def execRecentreArm (t : Nat) (c : CourseId) (i : Fin 16) (s : State) : Out :=
  cmd s t (ifCrs c (fun x => Sys2Proof.Machine.recentreArm x i.val))

/-- After a probe, Potrie stages read and write delay steps or treats a bit as failing (R298). -/
def execRecentreAdjust (t : Nat) (c : CourseId) (i : Fin 16) (counts : List ProbeCount) (s : State) : Out :=
  cmd s t (ifCrs c (fun x => Sys2Proof.Machine.recentreAdjust x i.val counts))

/-- Every 100 ms Potrie runs lane dwells and treats a lane over its error limit as failed (R299). -/
def execLaneMonitor (t : Nat) (c : CourseId) (up : List (Fin 8 × Nat)) (dn : List (Fin 6 × Nat)) (s : State) : Out :=
  cmd s t (ifCrs c (fun x => Sys2Proof.Machine.laneMonitor x (up.map (fun p => (p.1.val, p.2))) (dn.map (fun p => (p.1.val, p.2)))))

/-- The Pointing engine commits its next lap or out-of-lap read in tier 7 (R252). -/
def execPointingRead (t : Nat) (c : CourseId) (s : State) : Out :=
  cmd s t (ifCrs c (Sys2Proof.Machine.pointingRead))

/-- A lap age over lap_target_s posts lap_overdue and an event once per lap (R255). -/
def execLapOverdue (t : Nat) (c : CourseId) (s : State) : Out :=
  cmd s t (ifCrs c (Sys2Proof.Machine.lapOverdue))

/-- A COUNTING or WATCH entry with no correction for rt_watch_h returns to FREE (R257). -/
def execRtWatchExpiry (t : Nat) (c : CourseId) (e : Fin 64) (s : State) : Out :=
  cmd s t (ifCrs c (fun x => rtExpiry x e))

/-- Potrie handles a HARD event by Table 12-6, posting a repair offer or releasing the entry (R260). -/
def execHardLineHandling (t : Nat) (c : CourseId) (e : Fin 64) (s : State) : Out :=
  cmd s t (ifCrs c (fun x => hardLine x e))

end Sys2Proof.Machine
end

