-- ==== Sys2Proof/Machine/Dispatch.lean ====
section
/-! DEFINITION. One arm per command of the opcode table: the command's meaning, called directly. -/

namespace Sys2Proof.Machine

/-- The effect of a command on everything but the queue. -/
def exec (i : Instr) (s : State) : Host.Outcome State Fault Refusal :=
  match i with
  | .powerGoodRise t => Sys2Proof.Machine.execPowerGoodRise t s
  | .powerGoodFall t => Sys2Proof.Machine.execPowerGoodFall t s
  | .coldRstRelease t lowNs => Sys2Proof.Machine.execColdRstRelease t lowNs s
  | .warmRstRelease t lowNs => Sys2Proof.Machine.execWarmRstRelease t lowNs s
  | .mgtBist t obs => Sys2Proof.Machine.execMgtBist t obs s
  | .image t => Sys2Proof.Machine.execImage t s
  | .islandBist t obs badDec badEng => Sys2Proof.Machine.execIslandBist t obs badDec badEng s
  | .publish t => Sys2Proof.Machine.execPublish t s
  | .train t c obs => Sys2Proof.Machine.execTrain t c obs s
  | .trainTimeout t c => Sys2Proof.Machine.execTrainTimeout t c s
  | .fresh t => Sys2Proof.Machine.execFresh t s
  | .released t => Sys2Proof.Machine.execReleased t s
  | .memDoubleBitError t mem word bit => Sys2Proof.Machine.execMemDoubleBitError t mem word bit s
  | .memSingleBitError t mem word bit => Sys2Proof.Machine.execMemSingleBitError t mem word bit s
  | .registerWrite t o off size v => Sys2Proof.Machine.execRegisterWrite t o off size v s
  | .lowWordRead t o off size => Sys2Proof.Machine.execLowWordRead t o off size s
  | .setIssue t o v => Sys2Proof.Machine.execSetIssue t o v s
  | .setApply t j => Sys2Proof.Machine.execSetApply t j s
  | .setComplete t => Sys2Proof.Machine.execSetComplete t s
  | .plumbLapEnd t => Sys2Proof.Machine.execPlumbLapEnd t s
  | .plumbStall t => Sys2Proof.Machine.execPlumbStall t s
  | .parityCheck t j bad => Sys2Proof.Machine.execParityCheck t j bad s
  | .sensorSample t temps => Sys2Proof.Machine.execSensorSample t temps s
  | .gapThrottle t => Sys2Proof.Machine.execGapThrottle t s
  | .gapUnthrottle t => Sys2Proof.Machine.execGapUnthrottle t s
  | .thermAlertAssert t lowNs => Sys2Proof.Machine.execThermAlertAssert t lowNs s
  | .thermAlertRelease t highNs => Sys2Proof.Machine.execThermAlertRelease t highNs s
  | .laneClockLoss t k => Sys2Proof.Machine.execLaneClockLoss t k s
  | .bondRegenerate t => Sys2Proof.Machine.execBondRegenerate t s
  | .watchdogExpiry t => Sys2Proof.Machine.execWatchdogExpiry t s
  | .mbxRing t o m => Sys2Proof.Machine.execMbxRing t o m s
  | .mbxCancel t o m => Sys2Proof.Machine.execMbxCancel t o m s
  | .mbxTimeout t m => Sys2Proof.Machine.execMbxTimeout t m s
  | .acceptedComplete t m ok => Sys2Proof.Machine.execAcceptedComplete t m ok s
  | .auditCoalesceClose t => Sys2Proof.Machine.execAuditCoalesceClose t s
  | .activationDone t => Sys2Proof.Machine.execActivationDone t s
  | .activationTimeout t => Sys2Proof.Machine.execActivationTimeout t s
  | .query t m => Sys2Proof.Machine.execQuery t m s
  | .regionClear t m => Sys2Proof.Machine.execRegionClear t m s
  | .keyLoad t m => Sys2Proof.Machine.execKeyLoad t m s
  | .keyErase t m => Sys2Proof.Machine.execKeyErase t m s
  | .counterGrant t m => Sys2Proof.Machine.execCounterGrant t m s
  | .debugConsent t m => Sys2Proof.Machine.execDebugConsent t m s
  | .plumbRef t m lap => Sys2Proof.Machine.execPlumbRef t m lap s
  | .activate t m => Sys2Proof.Machine.execActivate t m s
  | .repair t m => Sys2Proof.Machine.execRepair t m s
  | .powerDoze t m => Sys2Proof.Machine.execPowerDoze t m s
  | .retain t m => Sys2Proof.Machine.execRetain t m s
  | .retainTimeout t => Sys2Proof.Machine.execRetainTimeout t s
  | .auditHead t m => Sys2Proof.Machine.execAuditHead t m s
  | .seal t m => Sys2Proof.Machine.execSeal t m s
  | .imageWrite t m => Sys2Proof.Machine.execImageWrite t m s
  | .kekSet t m => Sys2Proof.Machine.execKekSet t m s
  | .lcTransition t m => Sys2Proof.Machine.execLcTransition t m s
  | .pairSetup t m => Sys2Proof.Machine.execPairSetup t m s
  | .pairRange t m => Sys2Proof.Machine.execPairRange t m s
  | .interleave t m => Sys2Proof.Machine.execInterleave t m s
  | .eccMode t m => Sys2Proof.Machine.execEccMode t m s
  | .freshMode t m => Sys2Proof.Machine.execFreshMode t m s
  | .trainPolicy t m => Sys2Proof.Machine.execTrainPolicy t m s
  | .thermalPolicy t m => Sys2Proof.Machine.execThermalPolicy t m s
  | .repairPolicy t m => Sys2Proof.Machine.execRepairPolicy t m s
  | .courseFence t m => Sys2Proof.Machine.execCourseFence t m s
  | .courseRestore t m => Sys2Proof.Machine.execCourseRestore t m s
  | .courseRetest t m => Sys2Proof.Machine.execCourseRetest t m s
  | .bistAbort t m => Sys2Proof.Machine.execBistAbort t m s
  | .hardRepair t m => Sys2Proof.Machine.execHardRepair t m s
  | .holdSet t m => Sys2Proof.Machine.execHoldSet t m s
  | .dbgTrace t m => Sys2Proof.Machine.execDbgTrace t m s
  | .dbgPreempt t m => Sys2Proof.Machine.execDbgPreempt t m s
  | .pairHello t m => Sys2Proof.Machine.execPairHello t m s
  | .peerClear t m => Sys2Proof.Machine.execPeerClear t m s
  | .peerNotice t m => Sys2Proof.Machine.execPeerNotice t m s
  | .portLiveRise t p => Sys2Proof.Machine.execPortLiveRise t p s
  | .portLiveFall t p => Sys2Proof.Machine.execPortLiveFall t p s
  | .fabricRequest t r => Sys2Proof.Machine.execFabricRequest t r s
  | .bayGrant t b => Sys2Proof.Machine.execBayGrant t b s
  | .patternSwap t b => Sys2Proof.Machine.execPatternSwap t b s
  | .shaperSweep t h => Sys2Proof.Machine.execShaperSweep t h s
  | .wheelExpiry t h => Sys2Proof.Machine.execWheelExpiry t h s
  | .gateListStart t c => Sys2Proof.Machine.execGateListStart t c s
  | .gateEntryStart t c => Sys2Proof.Machine.execGateEntryStart t c s
  | .lintelStart t c cls => Sys2Proof.Machine.execLintelStart t c cls s
  | .gateClose t c => Sys2Proof.Machine.execGateClose t c s
  | .overrunEnd t c => Sys2Proof.Machine.execOverrunEnd t c s
  | .gateResync t h pkgNs => Sys2Proof.Machine.execGateResync t h pkgNs s
  | .latSample t h => Sys2Proof.Machine.execLatSample t h s
  | .latSelCopy t o h v => Sys2Proof.Machine.execLatSelCopy t o h v s
  | .requestLookup t h => Sys2Proof.Machine.execRequestLookup t h s
  | .footingDataReturn t h => Sys2Proof.Machine.execFootingDataReturn t h s
  | .footingDrain t h => Sys2Proof.Machine.execFootingDrain t h s
  | .writeback t p k addr d key poison => Sys2Proof.Machine.execWriteback t p k addr d key poison s
  | .writebackMerge t h => Sys2Proof.Machine.execWritebackMerge t h s
  | .snoopResponse t p a addr d => Sys2Proof.Machine.execSnoopResponse t p a addr d s
  | .snoopTimeout t h => Sys2Proof.Machine.execSnoopTimeout t h s
  | .holdWindowEnd t h => Sys2Proof.Machine.execHoldWindowEnd t h s
  | .readDataReturn t c => Sys2Proof.Machine.execReadDataReturn t c s
  | .courseCredit t c => Sys2Proof.Machine.execCourseCredit t c s
  | .courseEnqueue t c => Sys2Proof.Machine.execCourseEnqueue t c s
  | .selectCommit t c sc => Sys2Proof.Machine.execSelectCommit t c sc s
  | .downstreamFlit t c => Sys2Proof.Machine.execDownstreamFlit t c s
  | .stampReached t c => Sys2Proof.Machine.execStampReached t c s
  | .writeAgeDrain t c => Sys2Proof.Machine.execWriteAgeDrain t c s
  | .pageIdleTimeout t c bank => Sys2Proof.Machine.execPageIdleTimeout t c bank s
  | .pdIdleEntry t c sc rank => Sys2Proof.Machine.execPdIdleEntry t c sc rank s
  | .refreshTick t c seq => Sys2Proof.Machine.execRefreshTick t c seq s
  | .catchupTimerExpiry t c j => Sys2Proof.Machine.execCatchupTimerExpiry t c j s
  | .tempReport t c => Sys2Proof.Machine.execTempReport t c s
  | .tempStale t c rank => Sys2Proof.Machine.execTempStale t c rank s
  | .srReq t o c => Sys2Proof.Machine.execSrReq t o c s
  | .srExit t o c => Sys2Proof.Machine.execSrExit t o c s
  | .srIdleTimeout t c => Sys2Proof.Machine.execSrIdleTimeout t c s
  | .srQuiesceDone t c => Sys2Proof.Machine.execSrQuiesceDone t c s
  | .srEntered t c => Sys2Proof.Machine.execSrEntered t c s
  | .srExitDone t c => Sys2Proof.Machine.execSrExitDone t c s
  | .upstreamFlit t c errs => Sys2Proof.Machine.execUpstreamFlit t c errs s
  | .corbelFlitReceive t c errs => Sys2Proof.Machine.execCorbelFlitReceive t c errs s
  | .corbelUpstreamFlit t c => Sys2Proof.Machine.execCorbelUpstreamFlit t c s
  | .nakTimerExpiry t c far => Sys2Proof.Machine.execNakTimerExpiry t c far s
  | .ackTimeout t c far => Sys2Proof.Machine.execAckTimeout t c far s
  | .rdata t c => Sys2Proof.Machine.execRdata t c s
  | .lateAlert t c => Sys2Proof.Machine.execLateAlert t c s
  | .caParityAlert t c => Sys2Proof.Machine.execCaParityAlert t c s
  | .issueAcknowledgement t c => Sys2Proof.Machine.execIssueAcknowledgement t c s
  | .maintenanceResponse t c => Sys2Proof.Machine.execMaintenanceResponse t c s
  | .returnOverflow t c => Sys2Proof.Machine.execReturnOverflow t c s
  | .linkStatus t c => Sys2Proof.Machine.execLinkStatus t c s
  | .corbelLinkStatusSend t c => Sys2Proof.Machine.execCorbelLinkStatusSend t c s
  | .linkStart t o c => Sys2Proof.Machine.execLinkStart t o c s
  | .linkStop t o c => Sys2Proof.Machine.execLinkStop t o c s
  | .alignComplete t c oneWay => Sys2Proof.Machine.execAlignComplete t c oneWay s
  | .wakeTimeout t c => Sys2Proof.Machine.execWakeTimeout t c s
  | .recoverTimeout t c => Sys2Proof.Machine.execRecoverTimeout t c s
  | .rate t c => Sys2Proof.Machine.execRate t c s
  | .rateComplete t c => Sys2Proof.Machine.execRateComplete t c s
  | .rateTimeout t c => Sys2Proof.Machine.execRateTimeout t c s
  | .sleepStart t c => Sys2Proof.Machine.execSleepStart t c s
  | .sleepAck t c => Sys2Proof.Machine.execSleepAck t c s
  | .corbelSleepAckSend t c => Sys2Proof.Machine.execCorbelSleepAckSend t c s
  | .corbelSafeTimeout t c => Sys2Proof.Machine.execCorbelSafeTimeout t c s
  | .linkFailedResponse t c badUp badDn => Sys2Proof.Machine.execLinkFailedResponse t c badUp badDn s
  | .mntReq t o c v => Sys2Proof.Machine.execMntReq t o c v s
  | .mntTimeout t c => Sys2Proof.Machine.execMntTimeout t c s
  | .corbelMaintRequest t c => Sys2Proof.Machine.execCorbelMaintRequest t c s
  | .corbelIssue t c sc fb => Sys2Proof.Machine.execCorbelIssue t c sc fb s
  | .readBurstCapture t c sc errs => Sys2Proof.Machine.execReadBurstCapture t c sc errs s
  | .alertNSampled t c sc => Sys2Proof.Machine.execAlertNSampled t c sc s
  | .issueAckSend t c sc => Sys2Proof.Machine.execIssueAckSend t c sc s
  | .corbelTempRead t c rank temp => Sys2Proof.Machine.execCorbelTempRead t c rank temp s
  | .corbelStagedApply t c sc rank => Sys2Proof.Machine.execCorbelStagedApply t c sc rank s
  | .tcmd t o c v => Sys2Proof.Machine.execTcmd t o c v s
  | .dchkDone t c => Sys2Proof.Machine.execDchkDone t c s
  | .lchkDwellEnd t c far => Sys2Proof.Machine.execLchkDwellEnd t c far s
  | .recentreArm t c j => Sys2Proof.Machine.execRecentreArm t c j s
  | .recentreAdjust t c j counts => Sys2Proof.Machine.execRecentreAdjust t c j counts s
  | .laneMonitor t c up dn => Sys2Proof.Machine.execLaneMonitor t c up dn s
  | .pointingRead t c => Sys2Proof.Machine.execPointingRead t c s
  | .lapOverdue t c => Sys2Proof.Machine.execLapOverdue t c s
  | .rtWatchExpiry t c e => Sys2Proof.Machine.execRtWatchExpiry t c e s
  | .hardLineHandling t c e => Sys2Proof.Machine.execHardLineHandling t c e s
  | .clearRequest t c => Sys2Proof.Machine.execClearRequest t c s
  | .clearPoint t c => Sys2Proof.Machine.execClearPoint t c s
  | .keyValidErase t o k v => Sys2Proof.Machine.execKeyValidErase t o k v s
  | .freshInit t o c v => Sys2Proof.Machine.execFreshInit t o c v s
  | .debugAttach t o lvl => Sys2Proof.Machine.execDebugAttach t o lvl s
  | .keyZeroDone t => Sys2Proof.Machine.execKeyZeroDone t s
  | .debugLower t o lvl => Sys2Proof.Machine.execDebugLower t o lvl s
  | .debugClockLoss t ns => Sys2Proof.Machine.execDebugClockLoss t ns s
  | .lockoutExpiry t => Sys2Proof.Machine.execLockoutExpiry t s
  | .tokenExpiry t => Sys2Proof.Machine.execTokenExpiry t s
  | .dozeReq t o => Sys2Proof.Machine.execDozeReq t o s
  | .dozeEntered t => Sys2Proof.Machine.execDozeEntered t s
  | .wake t o => Sys2Proof.Machine.execWake t o s
  | .retainWakeTimer t => Sys2Proof.Machine.execRetainWakeTimer t s
  | .retainExit t dead => Sys2Proof.Machine.execRetainExit t dead s
  | .retestDrainDone t => Sys2Proof.Machine.execRetestDrainDone t s
  | .retestTestDone t obs decOk => Sys2Proof.Machine.execRetestTestDone t obs decOk s
  | .retestRestoreDone t => Sys2Proof.Machine.execRetestRestoreDone t s
  | .retestStallExpiry t b p => Sys2Proof.Machine.execRetestStallExpiry t b p s
  | .hodFreeze t o => Sys2Proof.Machine.execHodFreeze t o s
  | .hodUnfreeze t o => Sys2Proof.Machine.execHodUnfreeze t o s
  | .snap t o => Sys2Proof.Machine.execSnap t o s
  | .snapDone t => Sys2Proof.Machine.execSnapDone t s
  | .bwWindowClose t h => Sys2Proof.Machine.execBwWindowClose t h s
  | .mirrorWrite t addr d poison lvl => Sys2Proof.Machine.execMirrorWrite t addr d poison lvl s
  | .mirrorAck t addr => Sys2Proof.Machine.execMirrorAck t addr s
  | .mirrorRead t addr lvl => Sys2Proof.Machine.execMirrorRead t addr lvl s
  | .mirrorReadData t addr d => Sys2Proof.Machine.execMirrorReadData t addr d s
  | .faultNotice t off lvl => Sys2Proof.Machine.execFaultNotice t off lvl s
  | .resyncLine t h => Sys2Proof.Machine.execResyncLine t h s
  | .regionFresh t addr lvl => Sys2Proof.Machine.execRegionFresh t addr lvl s
  | .laneLockLoss t c l => Sys2Proof.Machine.execLaneLockLoss t c l s
  | .masonRestartDone t => Sys2Proof.Machine.execMasonRestartDone t s
  | .creditParkReturn t p => Sys2Proof.Machine.execCreditParkReturn t p s
  | .dramCritAction t c => Sys2Proof.Machine.execDramCritAction t c s
  | .critRelease t c => Sys2Proof.Machine.execCritRelease t c s
  | .faultedWordReapply t => Sys2Proof.Machine.execFaultedWordReapply t s
  | .courseIdle t c => Sys2Proof.Machine.execCourseIdle t c s
  | .unknownOpcode t m => Sys2Proof.Machine.execUnknownOpcode t m s

end Sys2Proof.Machine
end

