-- ==== Sys2Proof/Safety.lean ====
section
/-! DEFINITION. What counts as a safe step, and the terms statements use. -/

namespace Sys2Proof.Machine

/-- The outcome is a next state. -/
def Completes (o : Host.Outcome State Fault Refusal) : Prop := ∃ s, o = .next s

/-- The command `c` in the state `s` completes, in a next state that satisfies `P`. -/
def Gives (c : Instr) (s : State) (P : State → Prop) : Prop := ∃ t, exec c s = .next t ∧ P t

/-- The block at the instant `n` of a command, before the command has its effect: package time has gone on to `n`, counters in level mode
have counted up to it, and nothing has been sent yet. -/
def before (s : State) (n : Nat) : Sys := startAt s.sys n

/-- The same as course `c` and its Corbel see it. -/
def crsBefore (s : State) (n : Nat) (c : CourseId) : Cx := cxOf (startAt s.sys n) c

/-- Mailbox `m` holds a request of the opcode `op` that Potrie may take now, that nothing has withdrawn in this cycle, and that it has not completed
before (R71, R74, R75). -/
abbrev Taken (z : Zmc) (m : MbxId) (op : Nat) : Prop :=
  mayTake z m = true ∧ z.mgt.mbx[m].undo = none ∧ z.mgt.mbx[m].op = op ∧ (z.mgt.mbx[m].seq = 0 ∨ z.mgt.mbx[m].last ≠ some (op, z.mgt.mbx[m].seq))

/-- The level of mailbox `m`'s request is one that the running image accepts, and the command exists from level `lvl` on (R377, R389). -/
abbrev LevelOk (z : Zmc) (m : MbxId) (lvl : Nat) : Prop :=
  (actBank z).lvlMin ≤ z.mgt.mbx[m].lvl ∧ z.mgt.mbx[m].lvl ≤ (actBank z).lvlMax ∧ lvl ≤ z.mgt.mbx[m].lvl ∧ lvl ≤ z.pair.lvlRun

/-- Mailbox `m` is DONE with a response of that status (Table 4-6). -/
abbrev Answered (t : State) (m : MbxId) (status : Nat) : Prop :=
  t.sys.z.mgt.mbx[m].ph = .done ∧ bitsOf t.sys.z.mgt.mbx[m].rsp[(0 : Fin 16)] 31 24 = status

/-- A SET of the islands that holds the words is accepted at once: none is in progress, nothing else is pending for the words, every word's
island has power, and every check passes (R39, R42). -/
abbrev SetPasses (x : Sys) (ws : List (Nat × Word)) (isl : List Nat) : Prop :=
  x.z.setu.busy = false ∧ (∀ p ∈ ws, islPowered x.z (ownerOf p.1) = true ∧ isl.contains (ownerOf p.1) = true ∧ ∀ q ∈ x.z.rg.pend, q.1 ≠ p.1) ∧
  firstFail { x with z := ws.foldl (fun z p => pendPut z p.1 p.2) x.z } (maskIsl x.z (isl.foldl (fun a i => a + 2 ^ i) 0)) = none

/-- Every one of the words is in force, its BUF fields as given. -/
abbrev InForce (z : Zmc) (t : State) (ws : List (Nat × Word)) : Prop := ∀ p ∈ ws, wordAt t.sys.z p.1 = bufMerge (wordAt z p.1) p.2 p.1

/-- The course of a row whose effect is that of one course and its Corbel. -/
def courseOf : Instr → Option CourseId
  | .courseEnqueue _ c => some c
  | .selectCommit _ c _ => some c
  | .downstreamFlit _ c => some c
  | .stampReached _ c => some c
  | .writeAgeDrain _ c => some c
  | .pageIdleTimeout _ c _ => some c
  | .pdIdleEntry _ c _ _ => some c
  | .refreshTick _ c _ => some c
  | .catchupTimerExpiry _ c _ => some c
  | .tempReport _ c => some c
  | .tempStale _ c _ => some c
  | .srIdleTimeout _ c => some c
  | .srQuiesceDone _ c => some c
  | .srEntered _ c => some c
  | .srExitDone _ c => some c
  | .upstreamFlit _ c _ => some c
  | .corbelFlitReceive _ c _ => some c
  | .corbelUpstreamFlit _ c => some c
  | .nakTimerExpiry _ c _ => some c
  | .ackTimeout _ c _ => some c
  | .rdata _ c => some c
  | .lateAlert _ c => some c
  | .caParityAlert _ c => some c
  | .issueAcknowledgement _ c => some c
  | .maintenanceResponse _ c => some c
  | .returnOverflow _ c => some c
  | .linkStatus _ c => some c
  | .corbelLinkStatusSend _ c => some c
  | .alignComplete _ c _ => some c
  | .wakeTimeout _ c => some c
  | .recoverTimeout _ c => some c
  | .rate _ c => some c
  | .rateComplete _ c => some c
  | .rateTimeout _ c => some c
  | .sleepStart _ c => some c
  | .sleepAck _ c => some c
  | .corbelSleepAckSend _ c => some c
  | .corbelSafeTimeout _ c => some c
  | .linkFailedResponse _ c _ _ => some c
  | .mntTimeout _ c => some c
  | .corbelMaintRequest _ c => some c
  | .corbelIssue _ c _ _ => some c
  | .readBurstCapture _ c _ _ => some c
  | .alertNSampled _ c _ => some c
  | .issueAckSend _ c _ => some c
  | .corbelTempRead _ c _ _ => some c
  | .corbelStagedApply _ c _ _ => some c
  | .dchkDone _ c => some c
  | .lchkDwellEnd _ c _ => some c
  | .recentreArm _ c _ => some c
  | .recentreAdjust _ c _ _ => some c
  | .laneMonitor _ c _ _ => some c
  | .pointingRead _ c => some c
  | .lapOverdue _ c => some c
  | .rtWatchExpiry _ c _ => some c
  | .hardLineHandling _ c _ => some c
  | .clearRequest _ c => some c
  | .laneLockLoss _ c _ => some c
  | .courseIdle _ c => some c
  | _ => none

/-- Rows of the homes, the bays and the rest of the block outside the courses. -/
def outsideCourses : Instr → Bool
  | .bayGrant _ _ => true
  | .patternSwap _ _ => true
  | .shaperSweep _ _ => true
  | .wheelExpiry _ _ => true
  | .gateListStart _ _ => true
  | .gateEntryStart _ _ => true
  | .lintelStart _ _ _ => true
  | .gateClose _ _ => true
  | .overrunEnd _ _ => true
  | .gateResync _ _ _ => true
  | .latSample _ _ => true
  | .requestLookup _ _ => true
  | .footingDataReturn _ _ => true
  | .footingDrain _ _ => true
  | .writeback _ _ _ _ _ _ _ => true
  | .writebackMerge _ _ => true
  | .snoopResponse _ _ _ _ _ => true
  | .snoopTimeout _ _ => true
  | .holdWindowEnd _ _ => true
  | .courseCredit _ _ => true
  | .retestStallExpiry _ _ _ => true
  | .bwWindowClose _ _ => true
  | .mirrorWrite _ _ _ _ _ => true
  | .mirrorAck _ _ => true
  | .mirrorRead _ _ _ => true
  | .mirrorReadData _ _ _ => true
  | .faultNotice _ _ _ => true
  | .regionFresh _ _ _ => true
  | .image _ => true
  | .publish _ => true
  | .plumbLapEnd _ => true
  | .plumbStall _ => true
  | .parityCheck _ _ _ => true
  | .bondRegenerate _ => true
  | .watchdogExpiry _ => true
  | .mbxTimeout _ _ => true
  | .auditCoalesceClose _ => true
  | .activationDone _ => true
  | .activationTimeout _ => true
  | .portLiveRise _ _ => true
  | .portLiveFall _ _ => true
  | .snapDone _ => true
  | .masonRestartDone _ => true
  | .creditParkReturn _ _ => true
  | _ => false

/-- Rows of the supplies, the reset pins and the lane references: what a held ZMC still answers to besides status reads. -/
def resetRow : Instr → Bool
  | .powerGoodRise _ => true
  | .powerGoodFall _ => true
  | .coldRstRelease _ _ => true
  | .warmRstRelease _ _ => true
  | .laneClockLoss _ _ => true
  | _ => false

end Sys2Proof.Machine
end

