-- ==== Sys2Proof/Certificates/Slice0/Obligations.lean ====
section
/-! DEFINITION. The statements for the provers, from the spec's numbered rules: what each command does, under conditions on the state and the operands
alone. `before s n` is the block at the command's instant; `∃ t, exec c s = .next t ∧ …` says that the command completes, and in which state. -/

open Sys2Proof Sys2Proof.Machine

/-- For every command `c` and state `s`, step of `s` with `c` at the front of its queue is `exec c` on `s` with the queue's rest. -/
def Obligations.StepRunsFrontCommand : Prop :=
  ∀ (c : Instr) (s : State) (rest : List Instr), s.pending = c :: rest → step s = exec c { s with pending := rest }

/-- The queue is first in, first out, and package time never goes back: a step takes the front command and leaves the rest of the queue; on an empty
queue the block idles (the model's choice, log entry 1). -/
def Obligations.QueueAndTimeGoOn : Prop :=
  (∀ (s t : State) (c : Instr) (rest : List Instr), s.pending = c :: rest → step s = .next t → t.pending = rest ∧ s.sys.now ≤ t.sys.now) ∧
  (∀ s : State, s.pending = [] → step s = .next s)

/-- Right after reset: every register reads its reset word, phase 0 of bring-up, not released, nothing queued, an empty event queue and key store,
SEAL lifted and the debug port CLOSED. The readings of the model it rests on are log entry 4. -/
def Obligations.ResetLeaves : Prop :=
  (∀ off, wordAt State.reset.sys.z off = rstWord off) ∧ State.reset.pending = [] ∧ State.reset.sys.z.boot.phase = 0 ∧ State.reset.sys.z.boot.hold = 0 ∧
  State.reset.sys.z.boot.ready = false ∧ State.reset.sys.z.mgt.evq = [] ∧ State.reset.sys.z.mgt.evtNext = 1 ∧ State.reset.sys.z.keys.slots = [] ∧
  State.reset.sys.z.keys.kek = none ∧ State.reset.sys.z.rg.sealed = false ∧ State.reset.sys.z.dbg.level = 0 ∧ State.reset.sys.z.mgt.up = false

/-- Every command whose operands its environment can supply completes, whatever the state; one with operands that cannot exist is a fault. Nothing is
refused. The readings of the model it rests on are log entry 6. -/
def Obligations.StopsOnlyOnImpossibleOperands : Prop :=
  ∀ (c : Instr) (s : State), (c.wf = true → Completes (exec c s)) ∧ (c.wf = false → exec c s = .fault .illFormed)

/-- A row of one course leaves every other course as it was; a row of a home, a bay or the rest of the block leaves every course as it was. The
readings of the model it rests on are log entry 7. -/
def Obligations.RowsStayInTheirIslands : Prop :=
  ∀ (i : Instr) (s t : State) (c d : CourseId), exec i s = .next t →
    (courseOf i = some c → d ≠ c → t.sys.crs[d] = s.sys.crs[d]) ∧ (outsideCourses i = true → t.sys.crs[d] = s.sys.crs[d])

/-- The fuses: the variant and the identifier never change, a hard repair that is burned stays burned, and only ACCEPTED_COMPLETE changes anything.
Every step keeps this. The readings of the model it rests on are log entry 4. -/
def Obligations.FusesOnlyBlow : Prop :=
  ∀ (v : Nat) (u : BitVec 64) (l : List (Nat × Nat × Nat)),
    let inv (s : State) : Prop := s.fuse.variant = v ∧ s.fuse.uid = u ∧ ∃ k, s.fuse.hard = l ++ k
    ∀ (s t : State), inv s → step s = .next t → inv t ∧
      (t.fuse ≠ s.fuse → ∃ n m ok rest, s.pending = .acceptedComplete n m ok :: rest)

/-- A held ZMC stays held (R331): in every step but those of the supplies, the reset pins and a lost lane reference, its hold reason and its whole
bring-up state stay, no course does anything, no bay takes, decides or transfers a request, the Bond table's generation and the fuses stay. The
readings of the model it rests on are log entries 26, 62. -/
def Obligations.HeldZmcStaysHeld : Prop :=
  ∀ (k : Nat), k ≠ 0 →
    let inv (s : State) : Prop := s.sys.z.boot.hold = k ∧ s.sys.z.pwr.st < 3
    ∀ (s t : State), inv s → (∀ c ∈ s.pending.head?, resetRow c = false) → step s = .next t → inv t ∧
      t.sys.z.boot = s.sys.z.boot ∧ t.sys.crs = s.sys.crs ∧ (∀ b : BayId, t.sys.z.bays[b].q = s.sys.z.bays[b].q ∧ t.sys.z.bays[b].next = s.sys.z.bays[b].next) ∧
      t.sys.z.bond.gen = s.sys.z.bond.gen ∧ t.fuse = s.fuse

/-- A 32-bit write to a DBG_ register by a class other than 5 is dropped and counted in sec_cnt: the debug port, the register's value and its pending
value stay (R310). Another software write of the access counter in the same cycle is the business of R44. That exec answers a next state, under
conditions on the state and the operands alone, it says of REGISTER_WRITE. -/
def Obligations.DebugRegistersTakeClassFiveOnly : Prop :=
  ∀ (s : State) (n : Nat) (o : Orig) (off : BitVec 24) (v : BitVec 64), closedUp s.sys.z = false → o ≠ 5 → dbgReg off.toNat = true → off.toNat % 4 = 0 →
    (regDef off.toNat).isSome = true →
    let z := (before s n).z
    swHit z (before s n).now (zmcBase + 0x0100) = false →
    (∃ t, exec (.registerWrite n o off .b4 v) s = .next t ∧ t.sys.z.dbg = z.dbg ∧ wordAt t.sys.z off.toNat = wordAt z off.toNat ∧
      pendWord t.sys.z off.toNat = pendWord z off.toNat ∧ getF t.sys.z (zmcBase + 0x0100) 23 16 = min 255 (getF z (zmcBase + 0x0100) 23 16 + 1))

/-- A write to the MSK register whose mask bits [31:16] are all zero changes no word, pending value, course, home, bay or audit record, and no drop is
counted (R32). That exec answers a next state, under conditions on the state and the operands alone, it says of REGISTER_WRITE. -/
def Obligations.EmptyMaskChangesNothing : Prop :=
  ∀ (s : State) (n : Nat) (o : Orig) (v : BitVec 64), closedUp s.sys.z = false →
    let x := before s n
    mayWrite x.z o.val (zmcBase + 0x0058) = true → v.extractLsb' 16 16 = 0 → x.z.plumb.own = [] →
    (∃ t, exec (.registerWrite n o (BitVec.ofNat 24 (zmcBase + 0x0058)) .b4 v) s = .next t ∧ (∀ off, wordAt t.sys.z off = wordAt x.z off) ∧
      t.sys.z.rg.pend = x.z.rg.pend ∧ t.sys.z.mgt = x.z.mgt ∧ t.sys.z.homes = x.z.homes ∧ t.sys.z.bays = x.z.bays ∧ t.sys.crs = x.crs)

/-- POWER_GOOD_RISE and COLD_RST_RELEASE (R322, Table 16-1): a cold reset reads the fuses, puts every register at its reset word, empties the key
store, the event queue and the audit log, lifts SEAL and begins bring-up at phase 0. The readings of the model it rests on are log entries 4, 31. That
exec answers a next state, under conditions on the state and the operands alone, it says of POWER_GOOD_RISE and COLD_RST_RELEASE. -/
def Obligations.ColdResetStarts : Prop :=
  ∀ (s : State) (n lowNs : Nat),
    let cold (t : State) : Prop :=
      t.sys.z.boot.phase = 0 ∧ t.sys.z.boot.hold = 0 ∧ t.sys.z.boot.ready = false ∧ t.sys.z.boot.pwrGood = true ∧
      t.sys.z.boot.variant = s.fuse.variant ∧ t.sys.z.boot.uid = s.fuse.uid ∧ t.sys.z.boot.lc = s.fuse.lc ∧
      t.sys.z.boot.fuses = s.fuse.hard.length ∧ t.sys.z.keys.slots = [] ∧ t.sys.z.keys.kek = none ∧ t.sys.z.rg.sealed = false ∧
      t.sys.z.mgt.evq = [] ∧ t.sys.z.mgt.evtNext = 1 ∧ t.sys.z.mgt.aud = [] ∧ t.sys.z.dbg.level = 0 ∧
      (∀ off, wordAt t.sys.z off = rstWord off) ∧ t.fuse = s.fuse
    (s.sys.z.boot.pwrGood = false → (∃ t, exec (.powerGoodRise n) s = .next t ∧ cold t)) ∧
    (s.sys.z.boot.pwrGood = true → 1000 ≤ lowNs → (∃ t, exec (.coldRstRelease n lowNs) s = .next t ∧ cold t))

/-- WARM_RST_RELEASE (R322, Table 16-1): a warm reset keeps the key store, the event queue, the audit log, SEAL, the life-cycle state and the fuses,
and begins bring-up at phase 0 with the debug port CLOSED; it is ignored in RETAIN and in OFF. POWER_GOOD_FALL (R318, R382): the ZMC is OFF and keeps
none of its own state: no register, key, event or audit entry; only the fuses stay. The readings of the model it rests on are log entries 30, 31, 79.
That exec answers a next state, under conditions on the state and the operands alone, it says of WARM_RST_RELEASE and POWER_GOOD_FALL. -/
def Obligations.WarmResetAndOff : Prop :=
  (∀ (s : State) (n lowNs : Nat),
    (s.sys.z.boot.pwrGood = true → s.sys.z.pwr.st ≠ 3 → 1000 ≤ lowNs → (∃ t, exec (.warmRstRelease n lowNs) s = .next t ∧
      t.sys.z.boot.phase = 0 ∧ t.sys.z.boot.hold = 0 ∧ t.sys.z.boot.ready = false ∧ t.sys.z.boot.warm = true ∧
      t.sys.z.boot.lc = s.sys.z.boot.lc ∧ t.sys.z.boot.lcPend = s.sys.z.boot.lcPend ∧ t.sys.z.boot.variant = s.sys.z.boot.variant ∧
      t.sys.z.keys.slots = s.sys.z.keys.slots ∧ t.sys.z.keys.kek = s.sys.z.keys.kek ∧ t.sys.z.keys.blocked = s.sys.z.keys.blocked ∧
      t.sys.z.mgt.evq = s.sys.z.mgt.evq ∧ t.sys.z.mgt.evtNext = s.sys.z.mgt.evtNext ∧ t.sys.z.mgt.aud = s.sys.z.mgt.aud ∧
      t.sys.z.mgt.chain = s.sys.z.mgt.chain ∧ t.sys.z.rg.sealed = s.sys.z.rg.sealed ∧ t.sys.z.dbg.level = 0 ∧
      t.sys.z.mgt.up = false ∧ t.fuse = s.fuse)) ∧
    (s.sys.z.boot.pwrGood = false ∨ s.sys.z.pwr.st = 3 → (∃ t, exec (.warmRstRelease n lowNs) s = .next t ∧
      t.sys.z.boot = s.sys.z.boot ∧ t.sys.z.pwr = s.sys.z.pwr ∧ t.sys.z.keys = s.sys.z.keys ∧ t.sys.z.homes = s.sys.z.homes ∧
      t.sys.crs = s.sys.crs))) ∧
  (∀ (s : State) (n : Nat), s.sys.z.boot.pwrGood = true → (∃ t, exec (.powerGoodFall n) s = .next t ∧
    t.sys.z.boot.pwrGood = false ∧ t.sys.z.boot.ready = false ∧ t.sys.z.boot.phase = 0 ∧ t.sys.z.keys.slots = [] ∧ t.sys.z.keys.kek = none ∧
    t.sys.z.mgt.evq = [] ∧ t.sys.z.mgt.aud = [] ∧ t.sys.z.mgt.up = false ∧ t.sys.z.out = [] ∧ (∀ off, wordAt t.sys.z off = rstWord off) ∧
    t.fuse = s.fuse))

/-- MGT_BIST (R304, R324, R326): with every memory of the phase passing, phase 1 ends and phase 2 begins; a ZMC in SCRAPPED is held. ISLAND_BIST
(R329, R330, Table 16-6): with every memory and engine of phase 3 passing, the ZMC goes on to phase 4 and no further course is fenced; a course whose
decoder failed is fenced with cause 1; a failed engine of a home holds the ZMC. The readings of the model it rests on are log entries 5, 58. That exec
answers a next state, under conditions on the state and the operands alone, it says of MGT_BIST and ISLAND_BIST. -/
def Obligations.MemoryTestsDecide : Prop :=
  (∀ (s : State) (n : Nat) (obs : List BistObs), closedUp s.sys.z = false → s.sys.z.boot.phase = 0 →
    ((s.sys.z.boot.lc ≠ 4 ∧ ∀ o ∈ obs, o.rows1 = [] ∧ o.steps = 20 * (memWords o.mem).getD 0 ∧ o.sig = Config.bistRef o.mem 2) →
      (∃ t, exec (.mgtBist n obs) s = .next t ∧ (t.sys.z.boot.phase = 2 ∧ t.sys.z.boot.hold = 0 ∧
        (∀ id ∈ (if s.sys.z.boot.warm then [144] else [144, 152, 153, 168]),
          (tblGet {} t.sys.z.boot.bist id).result = 2 ∨ (tblGet {} t.sys.z.boot.bist id).result = 3) ∧
        t.sys.z.keys = s.sys.z.keys ∧ t.sys.z.homes = s.sys.z.homes ∧ t.sys.crs = s.sys.crs))) ∧
    (s.sys.z.boot.lc = 4 → (∃ t, exec (.mgtBist n obs) s = .next t ∧ t.sys.z.boot.hold = 3 ∧ t.sys.z.boot.phase = 8 ∧ t.sys.z.boot.ready = false))) ∧
  (∀ (s : State) (n : Nat) (obs : List BistObs) (bad : List CourseId) (eng : List HomeId) (c : CourseId), closedUp s.sys.z = false → s.sys.z.boot.phase = 3 →
    let z := (before s n).z
    (∀ o ∈ obs, o.rows1 = [] ∧ o.steps = bistLen ((memWords o.mem).getD 0) 2 ∧ o.sig = Config.bistRef o.mem 2) →
    (eng = [] → (∃ e : CourseId, liveCrs z e = true ∧ e ∉ bad) → (∃ t, exec (.islandBist n obs bad eng) s = .next t ∧ (t.sys.z.boot.phase = 4 ∧ t.sys.z.boot.hold = 0 ∧
      (c ∉ bad → t.sys.z.cinfo[c] = z.cinfo[c] ∧ t.sys.crs[c] = (before s n).crs[c]) ∧
      (c ∈ bad → liveCrs z c = true → t.sys.z.cinfo[c].fence = 1)))) ∧
    (eng ≠ [] → (∃ t, exec (.islandBist n obs bad eng) s = .next t ∧ t.sys.z.boot.hold = 1 ∧ t.sys.z.boot.phase = 8 ∧ t.sys.z.cinfo = z.cinfo)))

/-- IMAGE (R60): Mason runs the active bank when it is valid, else the other bank, which becomes active; with neither valid the ZMC is held. PUBLISH,
FRESH and RELEASED (R332, R335, R336): phase 4 ends in the published Bond table and phase 5, phases 5 and 6 in the fresh maps of the trained courses,
and the release asserts zmc_ready, latches release_us and sends the credits. The readings of the model it rests on are log entries 5, 81. That exec
answers a next state, under conditions on the state and the operands alone, it says of IMAGE, PUBLISH, FRESH and RELEASED. -/
def Obligations.BringUpGoesOn : Prop :=
  (∀ (s : State) (n : Nat), closedUp s.sys.z = false → s.sys.z.boot.phase = 2 →
    let m := s.sys.z.mgt
    let valid (b : Nat) : Bool := m.banks[toHome b].valid
    (valid m.active = true → (∃ t, exec (.image n) s = .next t ∧ t.sys.z.boot.phase = 3 ∧ t.sys.z.mgt.up = true ∧ t.sys.z.mgt.active = m.active)) ∧
    (valid m.active = false → valid (1 - m.active) = true → (∃ t, exec (.image n) s = .next t ∧
      t.sys.z.boot.phase = 3 ∧ t.sys.z.mgt.up = true ∧ t.sys.z.mgt.active = 1 - m.active)) ∧
    (valid m.active = false → valid (1 - m.active) = false → (∃ t, exec (.image n) s = .next t ∧
      t.sys.z.boot.hold = 2 ∧ t.sys.z.boot.phase = 8 ∧ t.sys.z.mgt.up = false ∧ t.sys.z.mgt.active = m.active))) ∧
  (∀ (s : State) (n : Nat), closedUp s.sys.z = false →
    (s.sys.z.boot.phase = 4 → potrieOn s.sys.z = true → (∃ t, exec (.publish n) s = .next t ∧
      t.sys.z.boot.phase = 5 ∧ t.sys.z.boot.trainAt = max s.sys.now n ∧ t.sys.z.bond.gen = s.sys.z.bond.gen + 2 ∧ t.sys.z.bond.dirty = false ∧
      t.sys.crs = s.sys.crs)) ∧
    (s.sys.z.boot.phase = 5 → (∀ c, liveCrs s.sys.z c = true → s.sys.z.cinfo[c].trained = true) → (∃ t, exec (.fresh n) s = .next t ∧
      (t.sys.z.boot.phase = 6 ∧ t.sys.z.cinfo = s.sys.z.cinfo ∧ ∀ c, liveCrs s.sys.z c = false → t.sys.crs[c] = s.sys.crs[c]))) ∧
    (s.sys.z.boot.phase = 6 → (∃ t, exec (.released n) s = .next t ∧
      (t.sys.z.boot.phase = 7 ∧ t.sys.z.boot.ready = true ∧
      t.sys.z.boot.releaseUs = BitVec.ofNat 32 ((max s.sys.now n - s.sys.z.boot.startAt) / tuPerUs) ∧
      t.sys.z.cinfo = s.sys.z.cinfo ∧ ∀ c, liveCrs s.sys.z c = false → t.sys.crs[c] = s.sys.crs[c]))))

/-- TRAIN and TRAIN_TIMEOUT (R294, R295, R334, Table 14-3): a course whose link, lanes and devices all pass is trained in the policy's link mode at
its target rate; one whose link does not come up, or that has no result at the limit, is fenced with cause 2. The readings of the model it rests on
are log entries 56, 57, 104. That exec answers a next state, under conditions on the state and the operands alone, it says of TRAIN and TRAIN_TIMEOUT.
-/
def Obligations.CoursesTrain : Prop :=
  ∀ (s : State) (n : Nat) (c d : CourseId) (o : TrainObs), closedUp s.sys.z = false → s.sys.z.boot.phase = 5 → liveCrs s.sys.z c = true →
    s.sys.z.cinfo[c].trained = false → potrieOn s.sys.z = true → restoreJob s.sys.z c.val = none →
    let z := (before s n).z
    let others (t : State) : Prop := ∀ e, e ≠ c → t.sys.crs[e] = (before s n).crs[e] ∧ t.sys.z.cinfo[e] = z.cinfo[e]
    (o.linkUp = true → topoOk o = true → o.badUp = [] → o.badDn = [] → o.slowUp = [] → o.slowDn = [] → o.badCa = [] → o.badDev = [] →
      (∀ w ∈ o.sweeps, sweepOk z w = true) → trainF z 0 15 0 = 8800 → trainF z 0 31 16 ≤ 8800 →
      (∀ (pr : Fin 4) (sub : Fin 2), markOf (crsBefore s n c) pr.val sub.val = none) → (∃ t, exec (.train n c o) s = .next t ∧
        t.sys.z.cinfo[c].trained = true ∧ t.sys.z.cinfo[c].rate = 8800 ∧ t.sys.z.cinfo[c].ranks = o.ranks ∧ t.sys.z.cinfo[c].dies = o.dies ∧
        t.sys.z.cinfo[c].density = o.density ∧ t.sys.z.cinfo[c].fence = 0 ∧ t.sys.crs[c].lk.st = 2 ∧ others t)) ∧
    (o.linkUp = false → d ≠ c → liveCrs z d = true → (∃ t, exec (.train n c o) s = .next t ∧ t.sys.z.cinfo[c].fence = 2 ∧ t.sys.z.boot.phase = 5 ∧ others t)) ∧
    (z.boot.trainAt + trainF z 1 31 16 * tuPerMs ≤ (before s n).now → d ≠ c → liveCrs z d = true → (∃ t, exec (.trainTimeout n c) s = .next t ∧
      t.sys.z.cinfo[c].fence = 2 ∧ t.sys.z.boot.phase = 5 ∧ others t))

/-- MEM_SINGLE_BIT_ERROR and MEM_DOUBLE_BIT_ERROR (R358, R359, Tables 18-3, 18-5): a corrected error is recorded and changes nothing else; an
uncorrectable one fences the course, drops the key slot or holds the ZMC, by the memory it is in. The readings of the model it rests on are log entry
60. That exec answers a next state, under conditions on the state and the operands alone, it says of MEM_SINGLE_BIT_ERROR and MEM_DOUBLE_BIT_ERROR. -/
def Obligations.MemoryErrors : Prop :=
  ∀ (s : State) (n mem word b : Nat) (c : CourseId),
    let x := before s n
    let z := x.z
    memRuns z mem = true →
    (∃ t, exec (.memSingleBitError n mem word b) s = .next t ∧ getWide t.sys.z (zmcBase + 0x0A10) = BitVec.ofNat 64 (mem + word * 2 ^ 8 + b * 2 ^ 26) ∧
      getF t.sys.z (zmcBase + 0x0A00) 0 0 = 1 ∧ t.sys.z.cinfo = z.cinfo ∧ t.sys.z.keys = z.keys ∧ t.sys.z.boot = z.boot ∧ t.sys.crs = x.crs) ∧
    (mem < 128 → mem / 8 = c.val → z.cinfo[c].fence = 0 → (∃ t, exec (.memDoubleBitError n mem word b) s = .next t ∧ (t.sys.z.cinfo[c].fence = 1 ∧
      ∀ e, e ≠ c → t.sys.crs[e] = x.crs[e]))) ∧
    (mem = 168 → (∃ t, exec (.memDoubleBitError n mem word b) s = .next t ∧ t.sys.z.keys.slots = tblDel z.keys.slots (word / 16) ∧ t.sys.crs = x.crs ∧
      getF t.sys.z (zmcBase + 0x0A00) 1 1 = 1)) ∧
    (mem = 129 → (∃ t, exec (.memDoubleBitError n mem word b) s = .next t ∧ t.sys.z.boot.hold = 1 ∧ t.sys.z.boot.ready = false ∧ t.sys.z.boot.phase = 8))

/-- REGISTER_WRITE and LOW_WORD_READ (R22, R34, R64): a write that the class may not make changes no register and no course; a write of a BUF field
waits in the pending copy until a SET; a read of the low word of a 64-bit value keeps the high word for the same class. The readings of the model it
rests on are log entries 8, 11, 19. That exec answers a next state, under conditions on the state and the operands alone, it says of REGISTER_WRITE
and LOW_WORD_READ. -/
def Obligations.BusAccesses : Prop :=
  ∀ (s : State) (n : Nat) (o : Orig) (off : BitVec 24) (v : BitVec 64) (c : CourseId), closedUp s.sys.z = false →
    let x := before s n
    (off.toNat % 4 = 0 → 0x10000 ≤ off.toNat → off.toNat % 0x10000 < 0x8000 → backed x.z off.toNat = true → mayWrite x.z o.val off.toNat = false →
      (∃ t, exec (.registerWrite n o off .b4 v) s = .next t ∧ t.sys.z.rg.pend = x.z.rg.pend ∧ t.sys.crs = x.crs ∧ t.sys.z.keys = x.z.keys ∧
        t.sys.z.setu = x.z.setu ∧ t.sys.z.dbg = x.z.dbg ∧
        wordAt t.sys.z (zmcBase + 0x0108) = BitVec.ofNat 32 (off.toNat % 2 ^ 24 + 3 * 2 ^ 24 + o.val * 2 ^ 27))) ∧
    (off.toNat = crsBase c.val + 0x1010 → powered x.z c = true → mayWrite x.z o.val off.toNat = true → (∃ t, exec (.registerWrite n o off .b4 v) s = .next t ∧
      pendWord t.sys.z off.toNat = mix (mix (pendWord x.z off.toNat) (v.extractLsb' 0 32) 0x000003FF#32) (v.extractLsb' 0 32) 0x03FF0000#32 ∧
      wordAt t.sys.z off.toNat = wordAt x.z off.toNat ∧ t.sys.crs = x.crs)) ∧
    (off.toNat % 4 = 0 → wideLow (plainOff off.toNat) = true → backed x.z (plainOff off.toNat) = true → (∃ t, exec (.lowWordRead n o off .b4) s = .next t ∧
      t.sys.z.bus = (shownWord x o.val off.toNat).setWidth 64 ∧ t.sys.z.rg.rdSh[o] = shownWord x o.val (off.toNat + 4) ∧ t.sys.crs = x.crs))

/-- SET_ISSUE, SET_APPLY and SET_COMPLETE (R38, R40): an accepted SET is busy over its islands and its snapshot; an island takes its words and
acknowledges; with the last one busy clears and set_done is posted. The readings of the model it rests on are log entries 13, 14, 88, 100. That exec
answers a next state, under conditions on the state and the operands alone, it says of SET_ISSUE, SET_APPLY and SET_COMPLETE. -/
def Obligations.SetsApply : Prop :=
  ∀ (s : State) (n : Nat) (o : Orig) (v : Word) (i : IslandId) (off : Nat) (w : Word), closedUp s.sys.z = false →
    let x := before s n
    let isl := maskIsl x.z (v.toNat % 2 ^ 25)
    (mayWrite x.z o.val (zmcBase + 0x0010) = true → v.toNat % 2 ^ 25 ≠ 0 → x.z.setu.busy = false → firstFail x isl = none →
      (∃ t, exec (.setIssue n o v) s = .next t ∧
        t.sys.z.setu = { busy := true, named := isl, snap := x.z.rg.pend.filter (fun p => isl.contains (ownerOf p.1)), accAt := x.now } ∧
        t.sys.z.rg.pend = x.z.rg.pend ∧ t.sys.crs = x.crs)) ∧
    (mayWrite x.z o.val (zmcBase + 0x0010) = true → x.z.setu.busy = true → (∃ t, exec (.setIssue n o v) s = .next t ∧
      t.sys.z.setu = x.z.setu ∧ getF t.sys.z (zmcBase + 0x0018) 2 2 = 1 ∧ t.sys.crs = x.crs)) ∧
    (x.z.setu.busy = true → (setLeft x.z).contains i.val = true → x.z.setu.snap = [(off, w)] → ownerOf off = i.val → patWord off = false →
      off ≠ zmcBase + 0x0218 → (∃ t, exec (.setApply n i) s = .next t ∧ wordAt t.sys.z off = bufMerge (wordAt x.z off) w off ∧
        t.sys.z.setu.named = x.z.setu.named.filter (fun k => k != i.val) ∧ t.sys.z.setu.busy = true)) ∧
    (x.z.setu.busy = true → setLeft x.z = [] → (∃ t, exec (.setComplete n) s = .next t ∧
      t.sys.z.setu.busy = false ∧ t.sys.z.setu.named = [] ∧ t.sys.z.setu.snap = [] ∧ getF t.sys.z (zmcBase + 0x0018) 0 0 = 1 ∧ t.sys.crs = x.crs))

/-- PLUMB_LAP_END, PLUMB_STALL, PARITY_CHECK, FAULTED_WORD_REAPPLY and BOND_REGENERATE (R47 to R50, R56, R374): a lap's CRC is kept and a mismatch
with the reference reported; a late lap is reported; a bad word is recorded; Potrie applies the pair's faulted word again by a SET; a changed table
gets the next even generation. The readings of the model it rests on are log entries 16, 17, 87. That exec answers a next state, under conditions on
the state and the operands alone, it says of PLUMB_LAP_END, PLUMB_STALL, PARITY_CHECK, FAULTED_WORD_REAPPLY and BOND_REGENERATE. -/
def Obligations.ConfigurationIsChecked : Prop :=
  ∀ (s : State) (n : Nat) (i : IslandId) (off : BitVec 24) (a : Nat) (w : Word), closedUp s.sys.z = false →
    let z := (before s n).z
    let now := (before s n).now
    (getF z (zmcBase + 0x0200) 0 0 = 1 → z.plumb.lapStart + lapTu z ≤ now → (∃ t, exec (.plumbLapEnd n) s = .next t ∧
      (wordAt t.sys.z (zmcBase + 0x0210) = plumbCrc z ∧ t.sys.z.plumb.lastLap = now ∧
      (wordAt z (zmcBase + 0x0218) ≠ 0 → wordAt z (zmcBase + 0x0218) ≠ plumbCrc z → getF t.sys.z (zmcBase + 0x0208) 0 0 = 1) ∧ t.sys.crs = (before s n).crs))) ∧
    (getF z (zmcBase + 0x0200) 0 0 = 1 → z.plumb.lastLap + tuPerMs ≤ now → (∃ t, exec (.plumbStall n) s = .next t ∧
      getF t.sys.z (zmcBase + 0x0208) 2 2 = 1 ∧ t.sys.z.plumb.lastLap = now)) ∧
    (islPowered z i.val = true → quoin z = false → (bufWords i.val).contains off.toNat = true → (∃ t, exec (.parityCheck n i [off]) s = .next t ∧
      wordAt t.sys.z (zmcBase + 0x0230) = BitVec.ofNat 32 off.toNat ∧ getF t.sys.z (zmcBase + 0x0208) 1 1 = 1 ∧ t.sys.z.pair = z.pair)) ∧
    (z.pair.fault = some a → (bufWords (ownerOf a)).contains a = true → potrieOn z = true → z.setu.busy = false → islPowered z (ownerOf a) = true →
      z.rg.pend.filter (fun p => p.1 == a) = [(a, w)] → firstFail (before s n) (maskIsl z (2 ^ ownerOf a)) = none →
      (∃ t, exec (.faultedWordReapply n) s = .next t ∧ (t.sys.z.pair.fault = none ∧ t.sys.z.pair.ready = false ∧ OutMsg.peerNotice 2 ∈ t.sys.z.out ∧
        t.sys.z.setu.busy = false ∧ (a ≠ zmcBase + 0x0218 → patWord a = false → wordAt t.sys.z a = bufMerge (wordAt z a) w a)))) ∧
    (z.bond.dirty = true → z.bond.gen ≠ 0 → potrieOn z = true → z.boot.hold = 0 → (∃ t, exec (.bondRegenerate n) s = .next t ∧
      t.sys.z.bond = { bytes := bondBytes z, gen := z.bond.gen + 2#32, dirty := false }))

/-- SENSOR_SAMPLE, GAP_THROTTLE, GAP_UNTHROTTLE, THERM_ALERT_ASSERT, THERM_ALERT_RELEASE and LANE_CLOCK_LOSS (R16, R386, R387, R383): what the block
does about heat and about a lost lane reference. The readings of the model it rests on are log entries 31, 81, 83, 89. That exec answers a next state,
under conditions on the state and the operands alone, it says of SENSOR_SAMPLE, GAP_THROTTLE, GAP_UNTHROTTLE, THERM_ALERT_ASSERT, THERM_ALERT_RELEASE
and LANE_CLOCK_LOSS. -/
def Obligations.HeatIsHandled : Prop :=
  ∀ (s : State) (n lowNs highNs : Nat) (ts : List Int) (k : HomeId) (c : CourseId) (d : CourseId),
    let x := before s n
    let z := x.z
    (z.boot.pwrGood = true → tempsWf ts = true → (∃ t, exec (.sensorSample n ts) s = .next t ∧ t.sys.z.therm.temps = ts ∧ t.sys.crs = x.crs ∧
      getF t.sys.z (zmcBase + 0x0408) 7 0 = min (widest z ts).1 255 ∧ getF t.sys.z (zmcBase + 0x0E08) 12 8 = (hottest z ts).2)) ∧
    (closedUp z = false → 28 < getF z (zmcBase + 0x0408) 7 0 → getF z (zmcBase + 0x0400) 8 8 = 1 → z.therm.thr.contains c = false →
      getF z (zmcBase + 0x0408) 12 8 = c.val → liveCrs z c = true → potrieOn z = true → z.boot.phase = 7 → (∃ t, exec (.gapThrottle n) s = .next t ∧
        (t.sys.z.therm.thr = z.therm.thr ++ [c] ∧ t.sys.crs[c].lk.rate = true ∧ getF t.sys.z (zmcBase + 0x0408) 18 18 = 1 ∧ (∀ e, e ≠ c → t.sys.crs[e] = x.crs[e])))) ∧
    (closedUp z = false → z.therm.thr = [c] → 10 ≤ z.therm.okRun → potrieOn z = true → (∃ t, exec (.gapUnthrottle n) s = .next t ∧
      (t.sys.z.therm.thr = [] ∧ getF t.sys.z (zmcBase + 0x0408) 18 18 = 0 ∧ (∀ e, e ≠ c → t.sys.crs[e] = x.crs[e])))) ∧
    (z.boot.pwrGood = true → 1000 ≤ lowNs → (∃ t, exec (.thermAlertAssert n lowNs) s = .next t ∧ t.sys.z.therm.alertOn = true ∧ t.sys.crs = x.crs)) ∧
    (z.therm.alertOn = true → (∃ t, exec (.thermAlertRelease n highNs) s = .next t ∧
      t.sys.z.therm.alertOn = false ∧ t.sys.z.therm.alertTo = x.now - highNs * tuPerNs + tuPerMs ∧ t.sys.crs = x.crs)) ∧
    (∃ t, exec (.laneClockLoss n k) s = .next t ∧ (t.sys.z.therm.laneClk[k] = false ∧
      (homeOf d = k → powered z d = true → x.crs[d].lk.st = 2 → t.sys.crs[d].lk.st = 3 ∧ t.sys.crs[d].lk.dn = [] ∧ t.sys.crs[d].lk.up = []) ∧
      (homeOf d ≠ k → t.sys.crs[d] = x.crs[d])))

/-- MBX_RING, MBX_CANCEL and MBX_TIMEOUT (R69, R74): a ring posts the request frame of an idle or done mailbox and is dropped and counted otherwise; a
posted request that is cancelled or has waited mbx_timeout_ms is withdrawn, and the answer is not kept for a repeat. The readings of the model it
rests on are log entry 21. That exec answers a next state, under conditions on the state and the operands alone, it says of MBX_RING, MBX_CANCEL and
MBX_TIMEOUT. -/
def Obligations.MailboxesRingAndWithdraw : Prop :=
  ∀ (s : State) (n : Nat) (o : Orig) (m : MbxId), closedUp s.sys.z = false →
    let z := (before s n).z
    let now := (before s n).now
    let b := z.mgt.mbx[m]
    let may : Prop := mayWrite z o.val (mbxBase + 0x0180 + 0x100 * m.val) = true
    let others (t : State) : Prop := ∀ k, k ≠ m → t.sys.z.mgt.mbx[k] = z.mgt.mbx[k]
    (may → b.ph ≠ .posted → b.ph ≠ .running → (∃ t, exec (.mbxRing n o m) s = .next t ∧
      t.sys.z.mgt.mbx[m] = { b with ph := .posted, orig := o.val, rungAt := now, undo := none } ∧ t.sys.z.mgt.ringQ = z.mgt.ringQ ++ [m] ∧ others t)) ∧
    (may → b.ph = .posted ∨ b.ph = .running → (∃ t, exec (.mbxRing n o m) s = .next t ∧
      (t.sys.z.mgt.mbx[m] = b ∧ (swHit z now (mbxSts m.val) = false → getF t.sys.z (mbxSts m.val) 23 16 = min 255 (getF z (mbxSts m.val) 23 16 + 1)) ∧ t.sys.z.mgt.ringQ = z.mgt.ringQ ∧ others t))) ∧
    (may → b.ph = .posted → (∃ t, exec (.mbxCancel n o m) s = .next t ∧
      Answered t m 0x0D ∧ t.sys.z.mgt.mbx[m].last = b.last ∧ m ∉ t.sys.z.mgt.ringQ ∧ others t)) ∧
    (b.ph = .posted → b.rungAt + getF z (mbxBase + 0x10) 7 0 * tuPerMs ≤ now → (∃ t, exec (.mbxTimeout n m) s = .next t ∧
      Answered t m 0x0C ∧ t.sys.z.mgt.mbx[m].last = b.last ∧ m ∉ t.sys.z.mgt.ringQ ∧ others t))

/-- UNKNOWN_OPCODE and QUERY (R71, R389, R396): a request of an opcode that is not listed is refused with BAD_OPCODE; QUERY reports the queue
positions and the generation of the Bond table; the request is kept as the mailbox's last. COUNTER_GRANT, DEBUG_CONSENT and PLUMB_REF (R350, R307,
R49): the grant replaces the user-mode mask; a consent holds a level and an expiry; a supplied reference is committed. The readings of the model it
rests on are log entry 64. That exec answers a next state, under conditions on the state and the operands alone, it says of UNKNOWN_OPCODE, QUERY,
COUNTER_GRANT, DEBUG_CONSENT and PLUMB_REF. -/
def Obligations.RequestsAreAnswered : Prop :=
  (∀ (s : State) (n : Nat) (m : MbxId) (op : Nat), closedUp s.sys.z = false →
    let z := (before s n).z
    let b := z.mgt.mbx[m]
    let kept (t : State) : Prop := t.sys.z.mgt.mbx[m].last = some (b.op, b.seq) ∧ t.sys.z.mgt.mbx[m].kept = t.sys.z.mgt.mbx[m].rsp ∧ t.sys.crs = (before s n).crs
    (Taken z m op → op ∉ knownOps → (∃ t, exec (.unknownOpcode n m) s = .next t ∧ Answered t m 2 ∧ kept t)) ∧
    (Taken z m 0x0001 → LevelOk z m 6 → frameOk b [] = true → (∃ t, exec (.query n m) s = .next t ∧ Answered t m 0 ∧ kept t ∧
      t.sys.z.mgt.mbx[m].rsp[(4 : Fin 16)] = z.mgt.evtNext ∧ t.sys.z.mgt.mbx[m].rsp[(5 : Fin 16)] = z.mgt.audNext ∧
      t.sys.z.mgt.mbx[m].rsp[(6 : Fin 16)] = z.bond.gen))) ∧
  (∀ (s : State) (n : Nat) (m : MbxId) (lap : Bool), closedUp s.sys.z = false →
    let z := (before s n).z
    let b := z.mgt.mbx[m]
    let lvl := b.arg 2 1 0
    let secs := b.arg 2 25 16
    (Taken z m 0x0104 → LevelOk z m 6 → m.val < 2 → frameOk b [(2, 0x01FFFFFF)] = true →
      (∀ i, i < 25 → (b.arg 2 24 0).testBit i = true → i ∈ bondIslands z ∧ userOk i = true) → (∃ t, exec (.counterGrant n m) s = .next t ∧
        Answered t m 0 ∧ wordAt t.sys.z (hodBase + 0x30) = BitVec.ofNat 32 (b.arg 2 24 0))) ∧
    (Taken z m 0x0105 → LevelOk z m 6 → m.val < 3 → frameOk b [(2, 0x03FF0003)] = true → 1 ≤ lvl → lvl ≤ 2 → 1 ≤ secs → secs ≤ 600 → attachNeed z.boot.lc lvl = 1 →
      (m.val = 2 ↔ z.boot.lc = 1) → (∃ t, exec (.debugConsent n m) s = .next t ∧ (Answered t m 0 ∧ t.sys.z.dbg.level = z.dbg.level ∧
        ∃ tok, t.sys.z.dbg.consent = some ⟨tok, lvl, (before s n).now + secs * tuPerS⟩))) ∧
    (Taken z m 0x0106 → LevelOk z m 6 → m.val < 3 → frameOk b ((2, 1) :: fullWords 3 1) = true → b.arg 2 0 0 = 0 → z.plumb.own = [] → (∃ t, exec (.plumbRef n m lap) s = .next t ∧
      Answered t m 0 ∧ wordAt t.sys.z (zmcBase + 0x0218) = b.wd 3)))

/-- KEY_LOAD, KEY_ERASE and KEK_SET (R279, R280, R393): the first part of a key load waits for the second; the second unwraps the pair into its slot
when the two keys differ, and is refused otherwise; an erase empties the slot; a new key-encryption key replaces the old one. The readings of the
model it rests on are log entries 63, 67, 73. That exec answers a next state, under conditions on the state and the operands alone, it says of
KEY_LOAD, KEY_ERASE and KEK_SET. -/
def Obligations.KeysAreLoaded : Prop :=
  ∀ (s : State) (n : Nat) (m : MbxId) (st : Staged), closedUp s.sys.z = false →
    let z := (before s n).z
    let b := z.mgt.mbx[m]
    let part2 := (List.range 9).map (fun i => b.wd (3 + i))
    let blob := (st.words ++ part2).flatMap wordBytes
    let load : Prop := Taken z m 0x0102 ∧ LevelOk z m 6 ∧ m.val < 2 ∧ z.dbg.level ≠ 2 ∧ z.keys.blocked = false ∧
      frameOk b ((2, 0x000103FF#32) :: fullWords 3 9) = true ∧ keySlotOf b ≠ 0
    (load → b.arg 2 16 16 = 0 → b.staged = none → (∃ t, exec (.keyLoad n m) s = .next t ∧ Answered t m 0 ∧ t.sys.z.keys = z.keys ∧
      t.sys.z.mgt.mbx[m].staged = some ⟨0x0102, keySlotOf b, 1, part2⟩)) ∧
    (load → b.arg 2 16 16 = 1 → b.staged = some st → st.op = 0x0102 → st.obj = keySlotOf b → st.next = 1 → (∃ t, exec (.keyLoad n m) s = .next t ∧
      (t.sys.z.mgt.mbx[m].staged = none ∧
      match z.keys.kek.bind (fun k => keyUnwrap k 8 blob) with
      | none => Answered t m 0x0B ∧ t.sys.z.keys = z.keys
      | some l =>
          if (keyPair l).1 = (keyPair l).2 then Answered t m 8 ∧ t.sys.z.keys = z.keys
          else Answered t m 0 ∧ t.sys.z.keys.slots = tblPut z.keys.slots (keySlotOf b) ⟨blob, (keyPair l).1, (keyPair l).2⟩ ∧
            t.sys.z.keys.kek = z.keys.kek ∧ ∀ i : BayId, keySlotOf b ∉ t.sys.z.keys.cache[i]))) ∧
    (Taken z m 0x0103 → LevelOk z m 6 → m.val < 2 → frameOk b [(2, 0x3FF)] = true → keySlotOf b ≠ 0 → (∃ t, exec (.keyErase n m) s = .next t ∧
      Answered t m 0 ∧ t.sys.z.keys.slots = tblDel z.keys.slots (keySlotOf b) ∧ ∀ i : BayId, keySlotOf b ∉ t.sys.z.keys.cache[i])) ∧
    (Taken z m 0x0203 → LevelOk z m 6 → m.val = 2 → z.rg.sealed = false → z.keys.blocked = false → frameOk b (fullWords 2 10) = true → (∃ t, exec (.kekSet n m) s = .next t ∧
      (match keyUnwrap Config.deviceKey 4 (((List.range 10).map (fun i => b.wd (2 + i))).flatMap wordBytes) with
      | none => Answered t m 0x0B ∧ t.sys.z.keys = z.keys
      | some l => Answered t m 0 ∧ t.sys.z.keys = { z.keys with kek := some (BitVec.ofNat 256 (bytesNat l)) })))

/-- ACTIVATE, ACTIVATION_DONE, ACTIVATION_TIMEOUT, MASON_RESTART_DONE, WATCHDOG_EXPIRY and AUDIT_COALESCE_CLOSE (R62, R79, R81, R82): a valid bank
opens a window; the window ends in the new image or, after 20 ms, in the old one; a watchdog restart aborts running requests; the coalescing windows
older than 1 ms close. The readings of the model it rests on are log entries 25, 71, 72. That exec answers a next state, under conditions on the state
and the operands alone, it says of ACTIVATE, ACTIVATION_DONE, ACTIVATION_TIMEOUT, MASON_RESTART_DONE, WATCHDOG_EXPIRY and AUDIT_COALESCE_CLOSE. -/
def Obligations.MasonRestartsAndActivates : Prop :=
  ∀ (s : State) (n : Nat) (m : MbxId) (a : Act), closedUp s.sys.z = false →
    let z := (before s n).z
    let now := (before s n).now
    let b := z.mgt.mbx[m]
    (Taken z m 0x0107 → LevelOk z m 6 → m.val < 3 → frameOk b [(2, 1)] = true → (inactBank z).valid = true → held z .banks = false → z.pair.heard = [] →
      (∃ t, exec (.activate n m) s = .next t ∧ Answered t m 1 ∧ t.sys.z.mgt.act = some ⟨m, b.seq, b.orig, b.argDg, z.mgt.active, now, false⟩ ∧
        t.sys.z.mgt.active = z.mgt.active)) ∧
    (z.mgt.act = some a → a.failed = false → now ≤ a.openAt + 20 * tuPerMs → (∃ t, exec (.activationDone n) s = .next t ∧
      t.sys.z.mgt.active = 1 - a.oldBank ∧ t.sys.z.mgt.act = none ∧ t.sys.z.mgt.up = true ∧ t.sys.z.bond.gen = z.bond.gen + 2#32)) ∧
    (z.mgt.act = some a → a.failed = false → a.openAt + 20 * tuPerMs ≤ now → (∃ t, exec (.activationTimeout n) s = .next t ∧
      t.sys.z.mgt.act = some { a with failed := true } ∧ t.sys.z.mgt.up = false ∧ t.sys.z.mgt.active = z.mgt.active)) ∧
    (z.mgt.act = some a → a.failed = true → (∃ t, exec (.activationTimeout n) s = .next t ∧
      t.sys.z.mgt.act = none ∧ t.sys.z.mgt.up = true ∧ t.sys.z.mgt.active = z.mgt.active ∧ liveFinal t.sys.z 21 = true)) ∧
    (z.mgt.up = false → masonMayRun z = true → (∃ t, exec (.masonRestartDone n) s = .next t ∧ t.sys.z.mgt.up = true ∧ liveFinal t.sys.z 21 = true ∧
      t.sys.z.mgt.mbx = z.mgt.mbx)) ∧
    (z.mgt.up = true → z.mgt.act = none → z.mgt.wdogAt + 100 * tuPerMs ≤ now → (∃ t, exec (.watchdogExpiry n) s = .next t ∧ (t.sys.z.mgt.up = false ∧
      liveFinal t.sys.z 21 = false ∧ (b.ph = .running → Answered t m 0x0D) ∧ (b.ph ≠ .running → t.sys.z.mgt.mbx[m] = { b with staged := none })))) ∧
    (∃ t, exec (.auditCoalesceClose n) s = .next t ∧ t.sys.z.mgt.coal = z.mgt.coal.filter (fun c => decide (now < c.t0 + tuPerMs)) ∧ t.sys.z.mgt.evq = z.mgt.evq)

/-- REPAIR, ACCEPTED_COMPLETE and HARD_REPAIR (R260, R261, R391, R327): an offer that is declined is withdrawn; an accepted hPPR and the burning of
soft repairs become work that holds its resource; work that ends is no longer outstanding, and a burn that succeeds adds its repairs to the fuses. The
readings of the model it rests on are log entries 59, 60, 68. That exec answers a next state, under conditions on the state and the operands alone, it
says of REPAIR, HARD_REPAIR and ACCEPTED_COMPLETE. -/
def Obligations.AcceptedWorkEnds : Prop :=
  ∀ (s : State) (n : Nat) (m : MbxId) (ok : Bool) (o : Offer) (j : Job), closedUp s.sys.z = false →
    let z := (before s n).z
    let now := (before s n).now
    let b := z.mgt.mbx[m]
    let id := b.arg 2 15 0
    let repair : Prop := Taken z m 0x0108 ∧ LevelOk z m 6 ∧ m.val < 2 ∧ frameOk b [(2, 0x0001FFFF)] = true ∧
      z.mgt.offers.find? (fun o => o.id == id) = some o ∧ held z (.course o.crs) = false
    let soft (mem : Nat) := z.boot.spares.filter (fun p => !p.2.hard && (mem == 0xFF || p.1 / 16 == mem))
    (repair → b.arg 2 16 16 = 0 → (∃ t, exec (.repair n m) s = .next t ∧ Answered t m 0 ∧ t.sys.z.mgt.offers = z.mgt.offers.filter (fun q => q.id != id) ∧
      t.sys.z.mgt.jobs = z.mgt.jobs ∧ t.sys.crs = (before s n).crs)) ∧
    (repair → b.arg 2 16 16 = 1 → o.kind = 1 → (∃ t, exec (.repair n m) s = .next t ∧ Answered t m 1 ∧
      t.sys.z.mgt.jobs = z.mgt.jobs ++ [⟨m, 0x0108, b.seq, b.orig, .course o.crs, id, id, b.argDg, now⟩] ∧ t.sys.z.mgt.offers = z.mgt.offers ∧
      t.sys.crs[toCrs o.crs].ppr.length = (before s n).crs[toCrs o.crs].ppr.length + 1)) ∧
    (Taken z m 0x0303 → LevelOk z m 6 → m.val = 3 → frameOk b [(2, 0xFF#32)] = true → (b.arg 2 7 0 = 0xFF ∨ (memWords (b.arg 2 7 0)).isSome = true) →
      soft (b.arg 2 7 0) ≠ [] → z.boot.fuses + (soft (b.arg 2 7 0)).length ≤ 256 → held z .fuses = false → (∃ t, exec (.hardRepair n m) s = .next t ∧ Answered t m 1 ∧
        t.sys.z.mgt.jobs = z.mgt.jobs ++ [⟨m, 0x0303, b.seq, b.orig, .fuses, b.arg 2 7 0, b.arg 2 7 0, b.argDg, now⟩] ∧ t.fuse = s.fuse)) ∧
    (z.mgt.jobs = [j] → j.mbx = m → j.op = 0x0303 → potrieOn z = true → (∃ t, exec (.acceptedComplete n m true) s = .next t ∧ t.sys.z.mgt.jobs = [] ∧
      t.fuse = { s.fuse with hard := s.fuse.hard ++ (soft j.arg).map (fun p => (p.1 / 16, p.1 % 16, p.2.row)) })) ∧
    (z.mgt.jobs = [j] → j.mbx = m → j.op = 0x0204 → potrieOn z = true → (∃ t, exec (.acceptedComplete n m true) s = .next t ∧ (t.sys.z.mgt.jobs = [] ∧
      t.fuse = { s.fuse with lc := j.arg } ∧ t.sys.z.boot.lcPend = j.arg ∧ t.sys.z.boot.lc = z.boot.lc ∧ (3 ≤ j.arg → t.sys.z.keys.slots = [] ∧ t.sys.z.keys.kek = none)))) ∧
    (z.mgt.jobs = [] → (∃ t, exec (.acceptedComplete n m ok) s = .next t ∧ t.fuse = s.fuse ∧ t.sys.z.mgt.jobs = [] ∧ t.sys.crs = (before s n).crs))

/-- POWER_DOZE, RETAIN, RETAIN_TIMEOUT, AUDIT_HEAD and SEAL (R312, R313, R397, R67): a doze begins the self-refresh entries; a RETAIN that is accepted
begins its entry, and an entry that has not reached step 5 in time is abandoned; part 0 latches the newest audit entry; SEAL locks, and adopts the
lap's CRC as reference. The readings of the model it rests on are log entries 65, 66, 78. That exec answers a next state, under conditions on the
state and the operands alone, it says of POWER_DOZE, RETAIN, RETAIN_TIMEOUT, AUDIT_HEAD and SEAL. -/
def Obligations.OperatorAndInstallerCommands : Prop :=
  ∀ (s : State) (n : Nat) (m : MbxId) (r : RetainSt), closedUp s.sys.z = false →
    let z := (before s n).z
    let now := (before s n).now
    let b := z.mgt.mbx[m]
    (Taken z m 0x0109 → LevelOk z m 6 → m.val < 2 → frameOk b [] = true → z.boot.phase = 7 → z.pwr.st = 0 → (∃ t, exec (.powerDoze n m) s = .next t ∧
      Answered t m 0 ∧ t.sys.z.pwr.doze = true)) ∧
    (Taken z m 0x010A → LevelOk z m 6 → m.val < 2 → frameOk b [] = true → z.pwr.ret = none → z.dbg.level = 0 → held z .all = false →
      (∃ t, exec (.retain n m) s = .next t ∧ (if 320 * 1024 < saveBytes z then Answered t m 0x0A ∧ t.sys.z.pwr = z.pwr
        else Answered t m 1 ∧ t.sys.z.pwr.st = 2 ∧ t.sys.z.pwr.ret = some ⟨m, b.seq, b.orig, 1, now, []⟩))) ∧
    (z.pwr.ret = some r → z.pwr.st = 2 → r.step < 5 → r.t0 + getF z (zmcBase + 0x0600) 27 20 * tuPerMs ≤ now → (∃ t, exec (.retainTimeout n) s = .next t ∧
      t.sys.z.pwr.ret = none ∧ t.sys.z.pwr.st < 2 ∧ OutMsg.credits ∈ t.sys.z.out ∧ t.sys.crs = (before s n).crs)) ∧
    (Taken z m 0x010B → LevelOk z m 7 → m.val < 2 → frameOk b (fullWords 2 1 ++ [(3, 1)]) = true → b.arg 3 0 0 = 0 → b.staged = none → (∃ t, exec (.auditHead n m) s = .next t ∧
      Answered t m 0 ∧ t.sys.z.mgt.head = some (audNewest z) ∧ t.sys.z.mgt.mbx[m].rsp[(2 : Fin 16)] = z.mgt.audNext - 1 ∧
      t.sys.z.mgt.mbx[m].rsp[(3 : Fin 16)] = z.mgt.chain)) ∧
    (Taken z m 0x0201 → LevelOk z m 6 → m.val = 2 → frameOk b [] = true → z.rg.sealed = false → sealPending z = false → (∃ t, exec (.seal n m) s = .next t ∧
      (Answered t m 0 ∧ t.sys.z.rg.sealed = true ∧ t.sys.z.bond.gen = z.bond.gen + 2#32 ∧ (z.plumb.own = [] →
        wordAt t.sys.z (zmcBase + 0x0218) = if getF z (zmcBase + 0x0200) 0 0 = 1 then plumbCrc z else wordAt z (zmcBase + 0x0218)))))

/-- IMAGE_WRITE, LC_TRANSITION, TRAIN_POLICY, THERMAL_POLICY and REPAIR_POLICY (R60, R302, R395, R398): the first part of an image replaces what the
inactive bank held; the Maker's first transition is accepted; a policy is stored under its opcode. The readings of the model it rests on are log
entries 68, 73. That exec answers a next state, under conditions on the state and the operands alone, it says of IMAGE_WRITE, LC_TRANSITION,
TRAIN_POLICY, THERMAL_POLICY and REPAIR_POLICY. -/
def Obligations.InstallerStoresAndTransitions : Prop :=
  ∀ (s : State) (n : Nat) (m : MbxId), closedUp s.sys.z = false →
    let z := (before s n).z
    let now := (before s n).now
    let b := z.mgt.mbx[m]
    let k := b.arg 3 5 0
    let bank := b.arg 3 12 12
    let policy (op : Nat) : Prop := Taken z m op ∧ LevelOk z m 6 ∧ m.val = 2 ∧ z.rg.sealed = false
    let stored (t : State) (op : Nat) (ws : List Word) : Prop := Answered t m 0 ∧ t.sys.z.mgt.pol = tblPut z.mgt.pol op ws ∧ t.sys.z.rg.pend = z.rg.pend
    (Taken z m 0x0202 → LevelOk z m 6 → m.val = 2 → 4 ≤ k → k ≤ 48 → k % 4 = 0 →
      frameOk b ([(2, 0x0007FFFF#32), (3, 0x0000113F#32)] ++ fullWords 4 (k / 4)) = true → b.arg 2 18 0 = 0 → b.arg 3 8 8 = 0 → bank ≠ z.mgt.active → held z .inactiveBank = false →
      (∃ t, exec (.imageWrite n m) s = .next t ∧ Answered t m 0 ∧ t.sys.z.mgt.imgEnd = some k ∧ t.sys.z.mgt.active = z.mgt.active ∧
        t.sys.z.mgt.banks[toHome bank] = { bytes := ((List.range (k / 4)).map (fun i => b.wd (4 + i))).flatMap wordBytes } ∧
        t.sys.z.mgt.banks[toHome (1 - bank)] = z.mgt.banks[toHome (1 - bank)])) ∧
    (Taken z m 0x0204 → LevelOk z m 6 → m.val = 3 → lcFrame b m = true → b.arg 2 2 0 = 1 → z.boot.lcPend = 0 → held z .lifeCycle = false → (∃ t, exec (.lcTransition n m) s = .next t ∧
      Answered t m 1 ∧ t.sys.z.mgt.jobs = z.mgt.jobs ++ [⟨m, 0x0204, b.seq, b.orig, .lifeCycle, 1, 1, b.argDg, now⟩] ∧ t.sys.z.boot = z.boot ∧ t.fuse = s.fuse)) ∧
    (policy 0x020A → frameOk b [(2, 0xFFFFFFFF#32), (3, 0xFFFF01FF#32), (4, 0x00FFFFFF#32)] = true → trainPolOk b = true → (∃ t, exec (.trainPolicy n m) s = .next t ∧
      stored t 0x020A [b.wd 2, b.wd 3, b.wd 4])) ∧
    (policy 0x020B → frameOk b [(2, 0x0000FF03#32)] = true → b.arg 2 1 0 ≤ 2 → 60 ≤ b.arg 2 15 8 → b.arg 2 15 8 ≤ 85 → (∃ t, exec (.thermalPolicy n m) s = .next t ∧
      stored t 0x020B [b.wd 2])) ∧
    (policy 0x020C → frameOk b [(2, 3#32)] = true → (∃ t, exec (.repairPolicy n m) s = .next t ∧ stored t 0x020C [b.wd 2]))

/-- PAIR_SETUP, PAIR_RANGE, INTERLEAVE, ECC_MODE, FRESH_MODE and HOLD_SET (R363, R366, R406, R243, R272, R138, R398): with no other pending value for
its words and no failed check, each command puts its words into force by one SET and answers OK. The readings of the model it rests on are log entries
15, 69, 85. That exec answers a next state, under conditions on the state and the operands alone, it says of PAIR_SETUP, PAIR_RANGE, INTERLEAVE,
ECC_MODE, FRESH_MODE and HOLD_SET. -/
def Obligations.BuildCommandsApplyTheirWords : Prop :=
  ∀ (s : State) (n : Nat) (m : MbxId), closedUp s.sys.z = false →
    let x := before s n
    let z := x.z
    let b := z.mgt.mbx[m]
    let by_ (op who : Nat) : Prop := Taken z m op ∧ LevelOk z m 6 ∧ m.val = who ∧ z.rg.sealed = false
    let does (t : State) (ws : List (Nat × Word)) : Prop := Answered t m 0 ∧ InForce z t ws ∧ t.sys.z.setu.busy = false
    let r := b.arg 2 2 0
    let setup := [pendWith z (zmcBase + 0x0C00) 12 0 (b.arg 2 12 0)]
    let range := (List.range 6).map (fun i => (zmcBase + 0x0C40 + 32 * r + 4 * i, b.wd (3 + i))) ++ [pendWith z (zmcBase + 0x0C40 + 32 * r + 24) 1 0 (b.arg 2 3 3 + 2 * b.arg 2 4 4)]
    let ilv := ilvWords b 0 ++ ilvWords b 1
    let ecc := (maskCrs (b.arg 2 15 0)).map (fun c => pendWith z (crsBase c + 0x1800) 0 0 (b.arg 2 16 16))
    let fresh := (maskCrs (b.arg 2 15 0)).map (fun c => pendWith z (crsBase c + 0x2000) 0 0 (b.arg 2 16 16))
    let hold := ((List.range 2).filter (fun h => (b.arg 2 1 0).testBit h)).map (fun h => pendWith z (homeBase h + 0x3000) 11 0 (b.arg 2 13 2))
    (by_ 0x0205 2 → frameOk b [(2, lowMask 13)] = true → SetPasses x setup [19] → (∃ t, exec (.pairSetup n m) s = .next t ∧ does t setup)) ∧
    (by_ 0x0206 2 → frameOk b ((2, lowMask 5) :: fullWords 3 6) = true → SetPasses x range [19] → (∃ t, exec (.pairRange n m) s = .next t ∧ does t range)) ∧
    (by_ 0x0207 2 → frameOk b ((2, 0x00000F7F#32) :: fullWords 3 8) = true → 1 ≤ b.arg 2 6 2 → b.arg 2 6 2 ≤ 16 → 8 ≤ b.arg 2 11 8 → b.arg 2 11 8 ≤ 12 → z.boot.phase < 7 →
      ilvTooBig z (ilvAsked b) = false → SetPasses x ilv [16, 17] → (∃ t, exec (.interleave n m) s = .next t ∧ does t ilv)) ∧
    (by_ 0x0208 2 → frameOk b [(2, lowMask 17)] = true → maskBad z (b.arg 2 15 0) = false → maskHeld z (b.arg 2 15 0) = false → SetPasses x ecc (maskCrs (b.arg 2 15 0)) →
      ecc ≠ [] → (∃ t, exec (.eccMode n m) s = .next t ∧ does t ecc)) ∧
    (by_ 0x0209 2 → frameOk b [(2, lowMask 17)] = true → maskBad z (b.arg 2 15 0) = false → maskHeld z (b.arg 2 15 0) = false → z.boot.phase < 7 →
      SetPasses x fresh (maskCrs (b.arg 2 15 0)) → fresh ≠ [] → (∃ t, exec (.freshMode n m) s = .next t ∧ does t fresh)) ∧
    (by_ 0x0304 3 → frameOk b [(2, lowMask 14)] = true → b.arg 2 1 0 ≠ 0 → SetPasses { x with z := { z with rg := { z.rg with holdOk := [0, 1] } } } hold [16, 17] →
      (∃ t, exec (.holdSet n m) s = .next t ∧ does t hold))

/-- COURSE_FENCE, COURSE_RESTORE, COURSE_RETEST and BIST_ABORT (R337, R326, R398): the first two are accepted and hold the course, the fence letting
it drain; a re-test begins to drain its course; an abort in TEST fences the course and ends the re-test. The readings of the model it rests on are log
entry 61. That exec answers a next state, under conditions on the state and the operands alone, it says of COURSE_FENCE, COURSE_RESTORE, COURSE_RETEST
and BIST_ABORT. -/
def Obligations.CourseCommands : Prop :=
  ∀ (s : State) (n : Nat) (m : MbxId) (c : CourseId), closedUp s.sys.z = false →
    let z := (before s n).z
    let now := (before s n).now
    let b := z.mgt.mbx[m]
    let job (op : Nat) (r : Rsrc) : Job := ⟨m, op, b.seq, b.orig, r, c.val, c.val, b.argDg, now⟩
    let named (op who : Nat) : Prop := Taken z m op ∧ LevelOk z m 6 ∧ m.val = who ∧ frameOk b [(2, 0xF#32)] = true ∧ b.arg 2 3 0 = c.val
    (named 0x020D 2 → liveCrs z c = true → held z (.course c.val) = false → (∃ t, exec (.courseFence n m) s = .next t ∧ Answered t m 1 ∧
      t.sys.z.mgt.jobs = z.mgt.jobs ++ [job 0x020D (.course c.val)] ∧ t.sys.z.cinfo[c] = { z.cinfo[c] with draining := true })) ∧
    (named 0x020E 2 → present z.boot.variant c.val = true → z.cinfo[c].fence = 2 ∨ z.cinfo[c].fence = 3 ∨ z.cinfo[c].fence = 5 → held z (.course c.val) = false →
      (∃ t, exec (.courseRestore n m) s = .next t ∧ Answered t m 1 ∧ t.sys.z.mgt.jobs = z.mgt.jobs ++ [job 0x020E (.course c.val)] ∧ t.sys.z.cinfo = z.cinfo)) ∧
    (named 0x0301 3 → z.boot.lc = 0 ∨ z.boot.lc = 3 → present z.boot.variant c.val = true → z.cinfo[c].fence ≠ 1 → held z (.bist c.val) = false →
      (∃ t, exec (.courseRetest n m) s = .next t ∧ Answered t m 1 ∧ t.sys.z.mgt.jobs = z.mgt.jobs ++ [job 0x0301 (.bist c.val)] ∧ t.sys.z.boot.rtState = 1 ∧ t.sys.z.boot.rtCourse = c.val)) ∧
    (Taken z m 0x0302 → LevelOk z m 6 → m.val = 3 → frameOk b [] = true → z.boot.rtState = 2 → z.boot.rtCourse = c.val → (∃ t, exec (.bistAbort n m) s = .next t ∧
      Answered t m 0 ∧ t.sys.z.boot.rtState = 0 ∧ t.sys.z.cinfo[c].fence = 1 ∧ ∀ id ∈ crsMems c.val, (tblGet {} t.sys.z.boot.bist id).result = 5))

/-- DBG_TRACE, DBG_PREEMPT, PAIR_HELLO, PEER_CLEAR, PEER_NOTICE and REGION_CLEAR (R409, R99, R377, R371, R374, R270): the debugger's two commands set
their bits; a hello agrees the highest common level; a clear gives every powered course of its set one request; a notice of resync ready lets the
ranges of a partner in SOLO go on. The readings of the model it rests on are log entries 70, 72, 74. That exec answers a next state, under conditions
on the state and the operands alone, it says of DBG_TRACE, DBG_PREEMPT, PAIR_HELLO, PEER_CLEAR, PEER_NOTICE and REGION_CLEAR. -/
def Obligations.DebuggerPeerAndClearCommands : Prop :=
  ∀ (s : State) (n : Nat) (m : MbxId) (i : Ilv), closedUp s.sys.z = false →
    let x := before s n
    let z := x.z
    let b := z.mgt.mbx[m]
    let lo := (clrRange b).1
    let sz := (clrRange b).2
    let step := max i.ways 1 * 2 ^ 22
    let first := (lo - i.base) / step
    (Taken z m 0x0401 → LevelOk z m 6 → m.val = 4 → frameOk b [(2, lowMask 17)] = true → (∃ t, exec (.dbgTrace n m) s = .next t ∧ (Answered t m 0 ∧
      wordAt t.sys.z (secBase + 0x2040) = if b.arg 2 16 16 = 1 then wordAt z (secBase + 0x2040) ||| (b.wd 2 &&& 0xFFFF#32)
        else wordAt z (secBase + 0x2040) &&& ~~~(b.wd 2 &&& 0xFFFF#32)))) ∧
    (Taken z m 0x0402 → LevelOk z m 6 → m.val = 4 → z.dbg.level = 2 → frameOk b [(2, 0xFF#32)] = true →
      (∀ k, k < 8 → (b.arg 2 7 0).testBit k = true → k ∈ baysBacked z) → (∃ t, exec (.dbgPreempt n m) s = .next t ∧ Answered t m 0 ∧
        ∀ k ∈ baysBacked z, getF t.sys.z (bayBase k + 0x10) 0 0 = bit ((b.arg 2 7 0).testBit k))) ∧
    (Taken z m 0x0501 → LevelOk z m 6 → m.val = 5 → frameOk b ((2, lowMask 19) :: fullWords 3 8) = true → z.pair.heard = [] →
      max (b.arg 2 7 0) (actBank z).lvlMin ≤ min (b.arg 2 15 8) (actBank z).lvlMax → (∃ t, exec (.pairHello n m) s = .next t ∧ (Answered t m 0 ∧
        t.sys.z.pair.lvlRun = min (b.arg 2 15 8) (actBank z).lvlMax ∧ (z.pair.st ≠ 4 → t.sys.z.pair.st = 2)))) ∧
    (Taken z m 0x0502 → LevelOk z m 7 → m.val = 5 → frameOk b (fullWords 2 4) = true → clrRec z lo sz = some i → inCopy z lo sz = true → clrBusy z lo sz = false →
      (∀ c ∈ i.courses, c < 16 ∧ powered z (toCrs c) = true) → i.courses ≠ [] → (∀ k ∈ z.clrs, k.id ≠ z.clrNext) → clrPeers z lo sz = [] → (∃ t, exec (.peerClear n m) s = .next t ∧ (t.sys.z.mgt.mbx[m].ph = .running ∧
        (∀ c : CourseId, c.val ∈ i.courses → t.sys.z.jclr[c] = z.jclr[c] ++ [⟨z.clrNext, first, first + sz / step⟩]) ∧ t.sys.crs = x.crs))) ∧
    (Taken z m 0x0503 → LevelOk z m 6 → m.val = 5 → frameOk b [(2, 0xF#32)] = true → b.arg 2 3 0 = 2 → z.pair.fault = none → (∃ t, exec (.peerNotice n m) s = .next t ∧
      (Answered t m 0 ∧ ∀ r, r < 8 → z.pair.mirs[toMir r].st = 2 → t.sys.z.pair.mirs[toMir r].st = if (mirOf z r).role = 0 then 4 else 1))) ∧
    (Taken z m 0x0101 → LevelOk z m 6 → m.val < 2 → frameOk b (fullWords 2 4) = true → clrRec z lo sz = some i → clrMirs z lo sz = [] → clrBusy z lo sz = false →
      (∀ c ∈ i.courses, c < 16 ∧ powered z (toCrs c) = true ∧ getF z (crsBase c + 0x2000) 0 0 = 1) → i.courses ≠ [] → (∀ k ∈ z.clrs, k.id ≠ z.clrNext) → (∃ t, exec (.regionClear n m) s = .next t ∧
        (t.sys.z.mgt.mbx[m].ph = .running ∧ (∀ c : CourseId, c.val ∈ i.courses → t.sys.z.jclr[c] = z.jclr[c] ++ [⟨z.clrNext, first, first + sz / step⟩]) ∧ t.sys.crs = x.crs)))

/-- PORT_LIVE_RISE and PORT_LIVE_FALL (R84 to R86): a port comes and goes as its pin says; when it goes, its accepted requests are orphaned at both
homes and in the bays, and its hold windows end; the pins of P21 to P23 change nothing. The readings of the model it rests on are log entry 27. That
exec answers a next state, under conditions on the state and the operands alone, it says of PORT_LIVE_RISE and PORT_LIVE_FALL. -/
def Obligations.PortsComeAndGo : Prop :=
  ∀ (s : State) (n : Nat) (p : PortId), closedUp s.sys.z = false →
    let z := (before s n).z
    (p.val < 20 → (∃ t, exec (.portLiveRise n p) s = .next t ∧ liveFinal t.sys.z p = true ∧ t.sys.z.pins[p] = true ∧ t.sys.z.bays = z.bays ∧ t.sys.z.homes = z.homes)) ∧
    (p.val < 20 → (∃ t, exec (.portLiveFall n p) s = .next t ∧ (liveFinal t.sys.z p = false ∧ t.sys.z.pins[p] = false ∧
      (∀ b : BayId, t.sys.z.bays[b] = { z.bays[b] with data := z.bays[b].data.map (fun d => if liveFinal z p && d.port == p then { d with orph := true } else d) }) ∧
      (∀ (h : HomeId), t.sys.z.homes[h].hrq = z.homes[h].hrq.map (fun r => if liveFinal z p && r.port == p then { r with orphan := true } else r)) ∧
      (liveFinal z p = true → ∀ (h : HomeId), ∀ w ∈ t.sys.z.homes[h].holds, w.port ≠ p)))) ∧
    (21 ≤ p.val → (∃ t, exec (.portLiveRise n p) s = .next t ∧ t.sys.z.pins = z.pins ∧ t.sys.z.live = z.live ∧ t.sys.z.liveAt = z.liveAt) ∧
      (∃ t, exec (.portLiveFall n p) s = .next t ∧ t.sys.z.pins = z.pins ∧ t.sys.z.live = z.live ∧ t.sys.z.liveAt = z.liveAt))

/-- FABRIC_REQUEST (R102, R103, R407): a request of an unpoliced port joins the queue of its bay with its decoded target; a full queue takes nothing.
The readings of the model it rests on are log entry 27. That exec answers a next state, under conditions on the state and the operands alone, it says
of FABRIC_REQUEST. -/
def Obligations.RequestsAreQueued : Prop :=
  ∀ (s : State) (n : Nat) (r : FabReq), r.wf = true → homesRun s.sys.z = true →
    let z := (before s n).z
    let now := (before s n).now
    let h := bayHome r.bay
    let ctl := wordAt z (homeBase h.val + 0x1400 + 0x20 * r.port.val)
    let dest := if trainCrosses r then none else decodeAddr z h r.addr.toNat
    let b := match dest with | some (c, _) => bayOf c | none => r.bay
    r.port.val < 20 → mirFind z 1 r.addr.toNat = none →
    (mayRequest z r.port b = true → bitsOf ctl 0 0 = 0 → bitsOf ctl 4 4 = 0 → (∃ t, exec (.fabricRequest n r) s = .next t ∧
      ((∃ q, t.sys.z.bays[b].q = z.bays[b].q ++ [q] ∧ q.port = r.port ∧ q.kind = r.kind ∧ q.addr = r.addr ∧ q.tag = r.tag ∧ q.data = r.data ∧
        q.lines = r.lines ∧ q.cls = r.cls ∧ q.dest = dest ∧ q.arr = now ∧ q.ent = true) ∧
      (∀ d, d ≠ b → t.sys.z.bays[d] = z.bays[d])))) ∧
    (mayRequest z r.port b = false → (∃ t, exec (.fabricRequest n r) s = .next t ∧ t.sys.z.bays = z.bays ∧ t.sys.z.homes = z.homes))

/-- BAY_GRANT (R88 to R91): a lone eligible read of a live port is decided for the next FCK cycle; a cycle that the bay has run does not run again.
PATTERN_SWAP (R94, R95): at slot 0 a table armed in time becomes active as a whole; one armed later waits, and a bay whose clock is gated swaps
nothing (R2). The readings of the model it rests on are log entries 26, 93. That exec answers a next state, under conditions on the state and the
operands alone, it says of BAY_GRANT and PATTERN_SWAP. -/
def Obligations.BaysDecide : Prop :=
  (∀ (s : State) (n : Nat) (b : BayId) (r : QReq), homesRun s.sys.z = true →
    let z := (before s n).z
    let k := fckCyc (before s n).now
    bayRuns z b = true →
    (z.bays[b].ran = none → z.bays[b].next = none → z.bays[b].data = [] → z.bays[b].q = [r] → fckCyc r.arr < k → liveAtCyc z k r.port = true →
      r.port.val ≠ 22 → r.lines = 1 → isWr r.kind = false → headOk z (bayHome b) k (k + 1) r = true → crsRoom z r.dest false 1 = true →
      (∃ t, exec (.bayGrant n b) s = .next t ∧ ((∃ g, t.sys.z.bays[b].next = some g ∧ g.port = r.port ∧ g.rid = r.rid ∧ g.write = false ∧ g.cyc = k + 1) ∧
        t.sys.z.bays[b].q = [r] ∧ t.sys.z.bays[b].ran = some k ∧ (∀ d, d ≠ b → t.sys.z.bays[d] = z.bays[d])))) ∧
    (z.bays[b].ran = some k → (∃ t, exec (.bayGrant n b) s = .next t ∧ t.sys.z.bays = z.bays ∧ t.sys.z.homes = z.homes ∧ t.sys.z.jreq = z.jreq))) ∧
  (∀ (s : State) (n : Nat) (b : BayId) (ws : List Word) (at_ : Nat), homesRun s.sys.z = true →
    let z := (before s n).z
    let k := fckCyc (before s n).now
    z.bays[b].armed = some (ws, at_) →
    (bayThere z b = true → at_ + 2 ≤ k / 64 * 64 → (∃ t, exec (.patternSwap n b) s = .next t ∧
      ((∀ i, i < 16 → wordAt t.sys.z (bayBase b.val + 0x40 + 4 * i) = ws.getD i 0x1F1F1F1F) ∧ t.sys.z.bays[b].armed = z.bays[b].armed2 ∧
      t.sys.z.bays[b].q = z.bays[b].q ∧ t.sys.z.bays[b].next = z.bays[b].next))) ∧
    (bayThere z b = false ∨ k / 64 * 64 < at_ + 2 → (∃ t, exec (.patternSwap n b) s = .next t ∧
      ((∀ i, i < 16 → wordAt t.sys.z (bayBase b.val + 0x40 + 4 * i) = wordAt z (bayBase b.val + 0x40 + 4 * i)) ∧ t.sys.z.bays = z.bays))))

/-- SHAPER_SWEEP and WHEEL_EXPIRY (R110, R112): once a µs every bucket in use, and every bucket whose wheel slot is reached, is refilled up to the
present FCK cycle. GATE_RESYNC, LAT_SAMPLE and BW_WINDOW_CLOSE (R120, R121, R351): a home takes the package time; at a multiple of its interval a
sample of every queue's depth and delay is taken, and the one before enters the histograms; a bandwidth window shows its counts and starts again. The
readings of the model it rests on are log entries 91, 93, 105. That exec answers a next state, under conditions on the state and the operands alone,
it says of SHAPER_SWEEP, WHEEL_EXPIRY, GATE_RESYNC, LAT_SAMPLE and BW_WINDOW_CLOSE. -/
def Obligations.HomeTimersRun : Prop :=
  (∀ (s : State) (n : Nat) (h : HomeId), homesRun s.sys.z = true →
    let z := (before s n).z
    let k := fckCyc (before s n).now
    (z.homes[h].sweepAt + tuPerUs ≤ (before s n).now → (∃ t, exec (.shaperSweep n h) s = .next t ∧ (t.sys.z.homes[h].sweepAt = (before s n).now ∧
      (∀ i, i < 96 → bktUsed z h i = true → (bktOf t.sys.z.homes[h] i).at_ = k ∧ (bktOf t.sys.z.homes[h] i).tok = (refill z h (bktOf z.homes[h] i) i k).tok ∧
        (0 ≤ (refill z h (bktOf z.homes[h] i) i k).tok → (bktOf t.sys.z.homes[h] i).wheel = none)) ∧
      (∀ d, d ≠ h → t.sys.z.homes[d] = z.homes[d]) ∧ t.sys.z.bays = z.bays))) ∧
    (∃ t, exec (.wheelExpiry n h) s = .next t ∧
      ((∀ i, i < 96 → ∀ w, (bktOf z.homes[h] i).wheel = some w → w ≤ wheelSlot k → (bktOf t.sys.z.homes[h] i).at_ = k ∧ (bktOf t.sys.z.homes[h] i).tok = (refill z h (bktOf z.homes[h] i) i k).tok ∧
        (∀ v, (bktOf t.sys.z.homes[h] i).wheel = some v → wheelSlot k ≤ v)) ∧
      (∀ d, d ≠ h → t.sys.z.homes[d] = z.homes[d]) ∧ t.sys.z.bays = z.bays))) ∧
  (∀ (s : State) (n : Nat) (h : HomeId) (ns : BitVec 64), homesRun s.sys.z = true →
    let z := (before s n).z
    let now := (before s n).now
    (∃ t, exec (.gateResync n h ns) s = .next t ∧ (homeNs t.sys.z h (fckCyc now) = ns.toNat ∧ (∀ d, d ≠ h → t.sys.z.homes[d] = z.homes[d]))) ∧
    (stepDue z h now z.homes[h].latAt (getF z (homeBase h.val + 0x1A00) 9 0) = true → (∃ t, exec (.latSample n h) s = .next t ∧ (t.sys.z.homes[h].latAt = now ∧
      (∀ i, i < 96 → let q := queuedOf z h (toPort (i / 4)) (i % 4)
        (2 * i, q.length) ∈ t.sys.z.homes[h].latNew ∧
        (2 * i + 1, q.foldl (fun a r => max a (now - r.arr)) 0 / tuPerNs / (4 * 2 ^ getF z (homeBase h.val + 0x1A00) 13 10)) ∈ t.sys.z.homes[h].latNew) ∧
      t.sys.z.homes[h].hist = (z.homes[h].latNew.foldl (fun h p => latPut h p.1 p.2) z.homes[h]).hist ∧ (∀ d, d ≠ h → t.sys.z.homes[d] = z.homes[d])))) ∧
    (z.hod.frozen = false → stepDue z h now z.homes[h].bwAt (getF z (homeBase h.val + 0x3C00) 15 0) = true → (∃ t, exec (.bwWindowClose n h) s = .next t ∧ (t.sys.z.homes[h].bw = [] ∧ t.sys.z.homes[h].bwAt = now ∧
      (∀ p k, p < 24 → k < 3 → wordAt t.sys.z (homeBase h.val + 0x3C40 + 16 * p + 4 * k) = tblGet 0 z.homes[h].bw (4 * p + k)) ∧
      (∀ d, d ≠ h → t.sys.z.homes[d] = z.homes[d])))))

/-- GATE_LIST_START, GATE_ENTRY_START, LINTEL_START, GATE_CLOSE and OVERRUN_END (R114 to R120): a gate list runs entry by entry; a close with late
work holds the entry until the late work is served. The readings of the model it rests on are log entries 93, 97. That exec answers a next state,
under conditions on the state and the operands alone, it says of GATE_LIST_START, GATE_ENTRY_START, LINTEL_START, GATE_CLOSE and OVERRUN_END. -/
def Obligations.GateListsRun : Prop :=
  ∀ (s : State) (n : Nat) (c : CourseId) (cls : Fin 4) (g : GList) (x : Nat) (cl : List (Fin 4)), homesRun s.sys.z = true →
    let z := (before s n).z
    let ns := locNs z c (before s n).now
    let gt := z.homes[homeOf c].gates[crsIdx c]
    let new (t : State) : Gate := t.sys.z.homes[homeOf c].gates[crsIdx c]
    let others (t : State) : Prop := ∀ j, j ≠ crsIdx c → t.sys.z.homes[homeOf c].gates[j] = z.homes[homeOf c].gates[j]
    (gt.armed = some g → g.start ≤ ns → (∃ t, exec (.gateListStart n c) s = .next t ∧
      (new t).list = some g ∧ (new t).armed = none ∧ (new t).ent = 0 ∧ (new t).endAt = g.start + g.dur 0 ∧ (new t).off = 0 ∧ (new t).late = gt.late ∧ others t)) ∧
    (gt.armed = none → gt.again = some g → g.start ≤ ns → (∃ t, exec (.gateListStart n c) s = .next t ∧
      (new t).list = some g ∧ (new t).again = none ∧ (new t).rsync = false ∧ (new t).ent = 0 ∧ (new t).endAt = g.start + g.dur 0 ∧ (new t).off = 0 ∧ others t)) ∧
    (gt.list = some g → gt.endAt ≤ ns → gt.ovr = none → gt.rsync = false → gt.late = [] → gt.anchor = false → (∃ t, exec (.gateEntryStart n c) s = .next t ∧
      (new t).ent = (gt.ent + 1) % max g.ents.length 1 ∧ gt.endAt ≤ (new t).endAt ∧ (new t).list = some g ∧ others t)) ∧
    (gt.list = some g → gt.endAt ≤ ns → gt.ovr = none → gt.rsync = false → gt.late = [] → gt.anchor = true → (∃ t, exec (.gateEntryStart n c) s = .next t ∧
      (new t).rsync = true ∧ (new t).off = 0 ∧ others t)) ∧
    (gt.list = some g → g.opens gt.ent cls = true → lintelAt gt cls = some x → x ≤ ns → cls ∉ gt.lint → (∃ t, exec (.lintelStart n c cls) s = .next t ∧
      (new t) = { gt with lint := gt.lint ++ [cls] } ∧ others t)) ∧
    (gt.list = some g → gt.endAt ≤ ns → gt.ovr = none → gt.rsync = false → gt.late.any (fun l => (closing gt g).contains l.cls) = true →
      (∃ t, exec (.gateClose n c) s = .next t ∧ (new t) = { gt with ovr := some (closing gt g, gt.endAt) } ∧ others t)) ∧
    (gt.ovr = some (cl, x) → gt.late.any (fun l => cl.contains l.cls) = false → (∃ t, exec (.overrunEnd n c) s = .next t ∧
      (new t).ovr = none ∧ (new t).endAt = x + (ns - x + 3) / 4 * 4 ∧ (new t).off = min (gt.off + (ns - x + 3) / 4 * 4) (2 ^ 24 - 1) ∧ (new t).late = gt.late ∧ others t))

/-- REQUEST_LOOKUP (R131, R132, Table 7-5): a read of an UNCACHED line whose sector is cached goes to its course; a fenced course's read is answered
with poison (R213). FOOTING_DATA_RETURN and FOOTING_DRAIN (R142): a drain's footing line that has come back waits to be merged; a merged line goes to
its course while a write entry is free; the oldest startable drain reads its footing line. The readings of the model it rests on are log entries 98,
101. That exec answers a next state, under conditions on the state and the operands alone, it says of REQUEST_LOOKUP, FOOTING_DATA_RETURN and
FOOTING_DRAIN. -/
def Obligations.LookupsAndFootings : Prop :=
  (∀ (s : State) (n : Nat) (h : HomeId) (r : HReq) (k : Nat) (e : DirEnt), homesRun s.sys.z = true →
    let z := (before s n).z
    z.homes[h].hrq = [r] → homeOf r.crs = h → z.homes[h].holds = [] → mayLook z (before s n).now r = true → r.mirror = false → r.orphan = false →
    r.port.val < 21 →
    (z.cinfo[r.crs].fence = 0 → powered z r.crs = true → mirFind z 0 r.addr.toNat = none → r.kind = .rdCur → r.sent = false → r.spec = none →
      (r.ent = true ∨ z.homes[h].rdFree[crsIdx r.crs] ≠ 0) →
      dirEntry z.homes[h] r.crs r.line = some (k, e) → e.pend = false → e.bytes[toFin 4 (by decide) (r.line % 4)] = 0 →
      (∃ t, exec (.requestLookup n h) s = .next t ∧ t.sys.z.homes[h].hrq.map (fun q => (q.rid, q.ph, q.grant)) = [(r.rid, HPh.mem, 0)] ∧
        t.sys.z.jreq[r.crs] = z.jreq[r.crs] ++ [⟨r.mid, false, r.line, 0, false, r.port.val, false, false⟩] ∧ t.sys.z.homes[h].dir = z.homes[h].dir)) ∧
    (z.cinfo[r.crs].fence ≠ 0 → mirFind z 0 r.addr.toNat = none → isWr r.kind = false → (∃ t, exec (.requestLookup n h) s = .next t ∧
      t.sys.z.homes[h].hrq = [] ∧ OutMsg.data r.port r.tag r.addr 0 true 0 false false ∈ t.sys.z.out ∧ t.sys.z.jreq = z.jreq))) ∧
  (∀ (s : State) (n : Nat) (h : HomeId) (f : FtgRd) (d : Line) (w : Fwb), homesRun s.sys.z = true →
    let z := (before s n).z
    let m := z.homes[h]
    let running := m.fwb.filter (fun x => x.drain != 0)
    (m.ftgs.find? (fun f => f.got.isSome) = some f → f.got = some (d, false) → f.rid = 0 → (∃ t, exec (.footingDataReturn n h) s = .next t ∧
      t.sys.z.homes[h].ftgs = removeFirst (fun x => x.id == f.id) m.ftgs ∧
      t.sys.z.homes[h].fwb = replaceFirst (fun x => x.crs == f.crs && x.ftg == f.ftg && x.drain == 1) (fun x => { x with drain := 2, rd := (drainLine z h f.crs f.ftg d false).1 }) m.fwb)) ∧
    (m.fwb.find? (fun x => x.drain == 2 && decide (0 < m.wrFree[crsIdx x.crs])) = some w → homeOf w.crs = h → powered z w.crs = true → (∃ t, exec (.footingDrain n h) s = .next t ∧
      t.sys.z.homes[h].fwb = removeFirst (fun y => y.crs == w.crs && y.ftg == w.ftg && y.drain == 2) m.fwb ∧
      t.sys.z.jreq[w.crs] = z.jreq[w.crs] ++ [⟨0, true, w.ftg, mergeBytes w.rd w.data w.mask, z.cinfo[w.crs].fence != 0, 24, false, true⟩])) ∧
    (m.fwb.find? (fun x => x.drain == 2 && decide (0 < m.wrFree[crsIdx x.crs])) = none → running.length < 4 →
      m.fwb.find? (fun x => x.drain == 0 && !running.any (fun y => y.crs == x.crs && y.ftg == x.ftg) && z.cinfo[x.crs].fence == 0 && decide (0 < m.rdFree[crsIdx x.crs])) = some w →
      homeOf w.crs = h → (∃ t, exec (.footingDrain n h) s = .next t ∧
        t.sys.z.homes[h].ftgs = m.ftgs ++ [⟨m.ridNext, w.crs, w.ftg, 0, none⟩] ∧ t.sys.z.homes[h].fwb.length = m.fwb.length ∧
        t.sys.z.homes[h].rdFree[crsIdx w.crs] + 1 = m.rdFree[crsIdx w.crs])))

/-- WRITEBACK and WRITEBACK_MERGE (R125, R136, Table 7-5): a writeback takes a credit of its port and waits; when a clean one of the line's owner is
merged the line is UNCACHED, the credit is back and the port is acknowledged. SNOOP_RESPONSE, SNOOP_TIMEOUT and HOLD_WINDOW_END (R134, R135, R137): an
answer is noted while others are outstanding; a snoop not answered in time ends a read with poison; a window that has run out ends. The readings of
the model it rests on are log entries 99, 106. That exec answers a next state, under conditions on the state and the operands alone, it says of
WRITEBACK, WRITEBACK_MERGE, SNOOP_RESPONSE, SNOOP_TIMEOUT and HOLD_WINDOW_END. -/
def Obligations.WritebacksAndSnoops : Prop :=
  (∀ (s : State) (n : Nat) (p : PortId) (k : WbKind) (addr : BitVec 64) (d : Line) (key : BitVec 10) (poison : Bool) (h : HomeId) (w : WbMsg)
      (c : CourseId) (loc : Nat) (b : Byte), homesRun s.sys.z = true →
    let z := (before s n).z
    let now := (before s n).now
    ((([0, 1] : List (Fin 2)).find? (fun h => (decodeAddr z h addr.toNat).isSome)).getD 0 = h → liveFinal z p = true → z.homes[h].wbCred[p] ≠ 0 →
      z.boot.phase = 7 → (∃ t, exec (.writeback n p k addr d key poison) s = .next t ∧
        t.sys.z.homes[h].wbq = z.homes[h].wbq ++ [⟨none, p, k, addr, d, key, poison, now⟩] ∧ t.sys.z.homes[h].wbCred[p] + 1 = z.homes[h].wbCred[p])) ∧
    (z.homes[h].wbq = [w] → w.ans = none → w.kind = .wbClean → w.at_ + 6 * tuFck ≤ now → decodeAddr z h w.addr.toNat = some (c, loc) → z.cinfo[c].fence = 0 →
      dirByte z.homes[h] c (loc / 64) = some b → (dirDec b).1 = .owned w.port → liveFinal z w.port = true → (∃ t, exec (.writebackMerge n h) s = .next t ∧
        t.sys.z.homes[h].wbq = [] ∧ t.sys.z.homes[h].wbCred[w.port] = z.homes[h].wbCred[w.port] + 1 ∧
        dirByte t.sys.z.homes[h] c (loc / 64) = some 0 ∧ OutMsg.wbAck w.port w.addr ∈ t.sys.z.out))) ∧
  (∀ (s : State) (n : Nat) (h : HomeId) (r : HReq) (p : PortId) (w : HoldW) (line : Line), homesRun s.sys.z = true →
    let z := (before s n).z
    let now := (before s n).now
    let lim := getF z (homeBase h.val + 0x3000) 21 14 * tuPerUs
    (z.homes[(0 : Fin 2)].hrq.find? (fun q => q.ph == .snoop && q.addr.toNat / 64 == r.addr.toNat / 64 && q.snps.any (fun x => x.1 == p)) = some r →
      homeOf r.crs = 0 → r.snps.any (fun x => x.1 != p) = true → z.homes[(0 : Fin 2)].wbCred[p] ≠ 0 → wbHeld z 0 p r.addr = false → (∃ t, exec (.snoopResponse n p .dataInv r.addr line) s = .next t ∧
        t.sys.z.homes[(0 : Fin 2)].hrq = replaceFirst (fun q => q.rid == r.rid) (fun _ => { r with snps := r.snps.filter (fun x => x.1 != p), snpData := some line }) z.homes[(0 : Fin 2)].hrq ∧
        t.sys.z.homes[(1 : Fin 2)] = z.homes[(1 : Fin 2)])) ∧
    (z.homes[h].hrq.find? (fun q => q.ph == .snoop && q.snps.any (fun x => decide (x.2 + lim ≤ now))) = some r → homeOf r.crs = h → isWr r.kind = false →
      r.mirror = false → r.orphan = false → mirFind z 0 r.addr.toNat = none → (∃ t, exec (.snoopTimeout n h) s = .next t ∧
        t.sys.z.homes[h].hrq = removeFirst (fun q => q.rid == r.rid) z.homes[h].hrq ∧ OutMsg.data r.port r.tag r.addr 0 true 0 false false ∈ t.sys.z.out)) ∧
    (z.homes[h].holds.find? (fun q => decide (q.endAt ≤ now)) = some w → homeOf w.crs = h → (∃ t, exec (.holdWindowEnd n h) s = .next t ∧
      t.sys.z.homes[h].holds = z.homes[h].holds.filter (fun q => !(q.crs == w.crs && q.line == w.line && q.port == w.port)) ∧ t.sys.z.homes[h].hrq = z.homes[h].hrq)))

/-- READ_DATA_RETURN and COURSE_CREDIT (R118, R134, R145): a returned line leaves its joint and frees its read-queue entry, and a line of zeros ends
the request that waited for it; a credit comes back to the home's count, or goes at once to a read that waits for an entry. The readings of the model
it rests on are log entries 7, 45, 98. That exec answers a next state, under conditions on the state and the operands alone, it says of
READ_DATA_RETURN and COURSE_CREDIT. -/
def Obligations.LinesAndCreditsReturn : Prop :=
  ∀ (s : State) (n : Nat) (c : CourseId) (j : JData) (l : List JData) (m : JStat) (k : List JStat) (r : HReq), homesRun s.sys.z = true →
    let z := (before s n).z
    let hs := z.homes[homeOf c]
    jointHeld (before s n) c = false →
    (z.jdat[c] = j :: l → (∃ t, exec (.readDataReturn n c) s = .next t ∧ (t.sys.z.jdat[c] = l ∧ t.sys.z.jsts[c] = z.jsts[c] ++ [.rd] ∧
      t.sys.crs[c].rdq = removeFirst (fun q => q.id == j.id && q.ph == .back) s.sys.crs[c].rdq ∧
      (hs.ftgs = [] → hs.hrq.find? (fun q => q.mid == j.id && q.crs == c) = some r → r.ph = .mem → j.fresh = true → r.mirror = false → r.orphan = false →
        r.grant = 1 → OutMsg.data r.port r.tag r.addr 0 false 1 false true ∈ t.sys.z.out ∧
          t.sys.z.homes[homeOf c].hrq = removeFirst (fun q => q.rid == r.rid) hs.hrq)))) ∧
    (z.jsts[c] = m :: k → (∃ t, exec (.courseCredit n c) s = .next t ∧ ((powered z c = true → t.sys.z.jsts[c] = k) ∧
      (m = .rd → (hs.hrq.find? (fun q => q.need && q.crs == c) = none → t.sys.z.homes[homeOf c].rdFree[crsIdx c] = min 192 (hs.rdFree[crsIdx c] + 1)) ∧
        (hs.hrq.find? (fun q => q.need && q.crs == c) = some r → powered z c = true →
          t.sys.z.jreq[c] = z.jreq[c] ++ [⟨r.mid, false, r.line, 0, false, r.port.val, false, false⟩])) ∧
      (m = .wr → t.sys.z.homes[homeOf c].wrFree[crsIdx c] = min 112 (hs.wrFree[crsIdx c] + 1)) ∧
      (∀ id, m = .served id → t.sys.z.homes[homeOf c].gates[crsIdx c].late = hs.gates[crsIdx c].late.filter (fun q => q.rid != id)))))

/-- COURSE_ENQUEUE (R145, R144): a request at the head of its joint takes the lowest free entry of its queue and leaves the joint; the other entries
keep their request. The readings of the model it rests on are log entry 107. That exec answers a next state, under conditions on the state and the
operands alone, it says of COURSE_ENQUEUE. -/
def Obligations.RequestsEnterTheQueue : Prop :=
  ∀ (s : State) (n : Nat) (c : CourseId) (j : JReq) (l : List JReq) (e : Nat), closedUp s.sys.z = false →
    let x := crsBefore s n c
    crsUp x = true → x.c.lk.st ≠ 4 → x.z.jreq[c] = j :: l →
    (j.write = false → lowFree 192 (x.c.rdq.map (fun r => r.ent)) = some e → (∃ t, exec (.courseEnqueue n c) s = .next t ∧
      t.sys.crs[c].rdq.map (fun r => (r.ent, r.id, r.line)) = x.c.rdq.map (fun r => (r.ent, r.id, r.line)) ++ [(e, j.id, j.line)] ∧
      t.sys.crs[c].wrq.map (fun w => (w.ent, w.id, w.line)) = x.c.wrq.map (fun w => (w.ent, w.id, w.line)) ∧ t.sys.z.jreq[c] = l)) ∧
    (j.write = true → lowFree 128 (x.c.wrq.map (fun w => w.ent)) = some e → (∃ t, exec (.courseEnqueue n c) s = .next t ∧
      t.sys.crs[c].wrq.map (fun w => (w.ent, w.id, w.line)) = x.c.wrq.map (fun w => (w.ent, w.id, w.line)) ++ [(e, j.id, j.line)] ∧
      t.sys.crs[c].rdq.map (fun r => (r.ent, r.id, r.line)) = x.c.rdq.map (fun r => (r.ent, r.id, r.line)) ∧ t.sys.z.jreq[c] = l))

/-- COURSE_ENQUEUE of a read of a FRESH region (R264, R146): it is answered with a line of zeros, no DRAM command is planned, and the request is
served at once. STAMP_REACHED (R145, R146): every write whose WR has reached its stamp leaves its entry; a read keeps its entry and is reported
served. That exec answers a next state, under conditions on the state and the operands alone, it says of COURSE_ENQUEUE and STAMP_REACHED. -/
def Obligations.ServedAtTheStamp : Prop :=
  (∀ (s : State) (n : Nat) (c : CourseId) (j : JReq) (l : List JReq) (e : Nat), closedUp s.sys.z = false →
    let x := crsBefore s n c
    crsUp x = true → x.c.lk.st ≠ 4 → x.z.jreq[c] = j :: l → j.write = false → lowFree 192 (x.c.rdq.map (fun r => r.ent)) = some e →
    freshOn x = true → clearing x (j.line >>> 16) = false → regionOf x (j.line >>> 16) = .fresh → x.c.sr.st = 0 →
    (∃ t, exec (.courseEnqueue n c) s = .next t ∧
      t.sys.z.jdat[c] = x.z.jdat[c] ++ [⟨j.id, j.line, 0, false, false, true⟩] ∧ t.sys.z.jsts[c] = x.z.jsts[c] ++ [.served j.id] ∧
      t.sys.crs[c].plan = x.c.plan ∧ t.sys.crs[c].cal = x.c.cal ∧ t.sys.crs[c].fm = x.c.fm)) ∧
  (∀ (s : State) (n : Nat) (c : CourseId), closedUp s.sys.z = false →
    let x := crsBefore s n c
    (∃ t, exec (.stampReached n c) s = .next t ∧
      (t.sys.crs[c].wrq = x.c.wrq.filter (fun w => match w.ph with | .committed d => !decide (d ≤ x.dck) | _ => true) ∧
      t.sys.crs[c].rdq.map (fun r => (r.ent, r.id, r.ph)) = x.c.rdq.map (fun r => (r.ent, r.id, r.ph)) ∧
      (∀ r ∈ t.sys.crs[c].rdq, ∀ d, r.ph = .committed d → d ≤ x.dck → r.srv = true) ∧
      (∀ r ∈ x.c.rdq, ∀ d, r.ph = .committed d → d ≤ x.dck → r.srv = false → JStat.served r.id ∈ t.sys.z.jsts[c]) ∧
      (∀ id, JStat.served id ∈ t.sys.z.jsts[c] → JStat.served id ∈ x.z.jsts[c] ∨ (∃ w ∈ x.c.wrq, w.id = id ∧ ∃ d, w.ph = .committed d ∧ d ≤ x.dck) ∨
        (∃ r ∈ x.c.rdq, r.id = id ∧ r.srv = false ∧ ∃ d, r.ph = .committed d ∧ d ≤ x.dck)) ∧
      (∀ w ∈ x.c.wrq, ∀ d, w.ph = .committed d → d ≤ x.dck → JStat.served w.id ∈ t.sys.z.jsts[c]) ∧
      t.sys.crs[c].retry = x.c.retry ∧ t.sys.crs[c].cal = x.c.cal)))

/-- CLEAR_REQUEST and CLEAR_POINT (R271): a clear that reaches a course marks the queued writes of its regions to be served first; at its clear point,
with no write held or claimed, its regions are FRESH and the other regions keep their state. That exec answers a next state, under conditions on the
state and the operands alone, it says of CLEAR_REQUEST and CLEAR_POINT. -/
def Obligations.ClearsMakeRegionsFresh : Prop :=
  ∀ (s : State) (n : Nat) (c : CourseId) (k : ClrReq) (l : List ClrReq) (q : ClrSt), closedUp s.sys.z = false →
    let x := crsBefore s n c
    (x.z.jclr[c] = k :: l → x.c.lk.st ≠ 4 → (∃ t, exec (.clearRequest n c) s = .next t ∧
      (t.sys.z.jclr[c] = l ∧ t.sys.crs[c].clrs = x.c.clrs ++ [⟨k.job, k.lo, k.hi, x.c.ord⟩] ∧ t.sys.crs[c].fm = x.c.fm ∧
      (∀ w ∈ t.sys.crs[c].wrq, w.ph = .queued → k.lo ≤ w.line >>> 16 → w.line >>> 16 < k.hi → w.clr = true)))) ∧
    (x.c.clrs = [q] → clearReady x q = true → x.c.claims = [] → (∀ w ∈ x.c.wrq, w.ph ≠ .held) → (∀ r ∈ x.c.rdq, r.ph ≠ .held) →
      (∃ t, exec (.clearPoint n c) s = .next t ∧ (t.sys.crs[c].clrs = [] ∧
        t.sys.crs[c].fm.dflt = x.c.fm.dflt ∧
        t.sys.crs[c].fm.ex = (List.range (q.hi - q.lo)).foldl
          (fun m i => if regionCount x ≤ q.lo + i then m else tblStore x.c.fm.dflt m (q.lo + i) .fresh) x.c.fm.ex ∧
        t.sys.crs[c].wrq = x.c.wrq ∧ t.sys.crs[c].rdq = x.c.rdq)))

/-- SELECT_COMMIT (R157, R156): the one candidate read of a subchannel whose chain can be placed is committed at the stamp of its column command; the
other reads and all writes keep their place. Every command of a placed chain takes a stamp at or above the base of the cycle its flit is planned for,
and none above dck_now + 2,047 (R152, R156). The readings of the model it rests on are log entries 39, 40, 41. That exec answers a next state, under
conditions on the state and the operands alone, it says of SELECT_COMMIT. -/
def Obligations.SelectorCommits : Prop :=
  (∀ (s : State) (n : Nat) (c : CourseId) (sc : SubId) (q : Req) (p : List (Cmd × Nat)), closedUp s.sys.z = false →
    let x := crsBefore s n c
    let y := bgTidy (sendLater (modeStep (probesDone (pruneCal (classify x sc)))) sc)
    let ap := autoPre y (reqsOf y.c) q.at_ q.ord
    powered x.z c = true → commitOk (probesDone (pruneCal (classify x sc))) = true → x.c.retry[sc].length < 128 → x.c.rb[sc].on = false →
    x.c.sr.st = 0 → x.c.reqAt[sc] ≠ some x.cyc → x.c.othAt[sc] = some x.cyc → x.c.claims = [] → x.c.redo = [] → x.c.ppr = [] → q.rd = true →
    (reqsOf y.c).filter (mayServe y sc (reqsOf y.c)) = [q] →
    tryCmds y sc (openRow y q.at_ ++ [colCmd q.at_ true ap.1 0 (.rd q.ord) none q.port]) 0 (some (y.f 0x1010 9 0)) = some p →
    (∃ t, exec (.selectCommit n c sc) s = .next t ∧
      t.sys.crs[c].rdq = replaceFirst (fun r => r.ord == q.ord) (fun r => { r with ph := .committed (lastStamp p) }) x.c.rdq ∧
      t.sys.crs[c].wrq = x.c.wrq ∧ t.sys.crs[c].reqAt[sc] = some x.cyc ∧
      t.sys.crs[c].retry[(0 : Fin 2)].length + t.sys.crs[c].retry[(1 : Fin 2)].length =
        y.c.retry[(0 : Fin 2)].length + y.c.retry[(1 : Fin 2)].length + p.length)) ∧
  (∀ (x : Cx) (sc : Fin 2) (bs : List Cmd) (cys : List Nat) (floor : Nat) (hz : Option Nat) (l : List (Cmd × Nat)),
    tryChain x sc bs cys floor hz = some l → ∀ p ∈ l, baseOf x p.2 ≤ p.1.stamp ∧ p.1.stamp ≤ x.dck + 2047 ∧ floor ≤ p.1.stamp)

/-- PAGE_IDLE_TIMEOUT and PD_IDLE_ENTRY (R157, R161, R166): when no higher tier has another chain, an idle open bank is closed, and an idle rank is
put into power-down. WRITE_AGE_DRAIN and COURSE_IDLE (R163, R319): in read mode a write older than wr_age_us forces a drain; a course whose queues
have been empty for 1 µs is IDLE. That exec answers a next state, under conditions on the state and the operands alone, it says of PAGE_IDLE_TIMEOUT,
PD_IDLE_ENTRY, WRITE_AGE_DRAIN and COURSE_IDLE. -/
def Obligations.IdleTimers : Prop :=
  (∀ (s : State) (n : Nat) (c : CourseId) (bank : Fin 512) (sc : SubId) (rank : Fin 4) (p : List (Cmd × Nat)), closedUp s.sys.z = false →
    let x := crsBefore s n c
    let b := bankAt x.c bank.val
    let sb := toSub (bank.val / 256)
    let lr := bank.val / 32 % 8
    (commitOk x = true → x.f 0x1000 19 10 ≠ 0 → b.open_.isSome = true → x.c.rb[sb].on = false → x.c.sr.st < 2 → x.c.othAt[sb] ≠ some x.cyc →
      b.lastCol + x.f 0x1000 19 10 * 8 ≤ x.dck → onBank (reqsOf x.c) bank.val = [] → blocked x sb.val lr = false → othChain x sb = none →
      tryCmds x sb (pdxFor x sb.val lr ++ [{ op := 6, sub := sb.val, lr := lr, bg := bank.val / 4 % 8, bk := bank.val % 4 }]) 0 (some (x.f 0x1010 9 0)) = some p →
      (∃ t, exec (.pageIdleTimeout n c bank) s = .next t ∧ ((bankAt t.sys.crs[c] bank.val).open_ = none ∧
        (∀ k, k ≠ bank.val → bankAt t.sys.crs[c] k = bankAt x.c k) ∧ t.sys.crs[c].othAt[sb] = some x.cyc ∧
        t.sys.crs[c].rdq = x.c.rdq ∧ t.sys.crs[c].wrq = x.c.wrq))) ∧
    (commitOk x = true → x.f 0x1000 20 20 = 1 → rank.val < pranks x → x.c.pd.contains (sc.val, rank.val) = false → x.c.rb[sc].on = false →
      x.c.sr.st = 0 → x.c.othAt[sc] ≠ some x.cyc →
      (reqsOf x.c).any (fun q => q.at_.sub == sc.val && prankOf x q.at_.lr == rank.val) = false →
      (∀ e ∈ x.c.cal[sc], prankOf x e.lr = rank.val → (isRd e.op || isWrOp e.op) = true → e.stamp ≤ x.dck) →
      (∀ i ∈ tgtsOf x sc, prankOf x (i % 8) = rank.val → x.c.tgts[toFin 16 (by decide) i].owed = 0) →
      (tblFind x.c.lastCmd (4 * sc.val + rank.val)).getD 0 + x.f 0x1010 25 16 * 64 ≤ x.dck → othChain x sc = none →
      tryCmds x sc [{ op := 14, sub := sc.val, lr := rank.val, arg := 0 }] 0 (some (x.f 0x1010 9 0)) = some p →
      (∃ t, exec (.pdIdleEntry n c sc rank) s = .next t ∧ t.sys.crs[c].pd = (sc.val, rank.val) :: x.c.pd ∧ t.sys.crs[c].othAt[sc] = some x.cyc ∧
        t.sys.crs[c].banks = x.c.banks))) ∧
  (∀ (s : State) (n : Nat) (c : CourseId), closedUp s.sys.z = false →
    let x := crsBefore s n c
    (crsUp x = true → x.c.mode = 0 → x.f 0x1008 21 14 ≠ 0 → (∃ w ∈ x.c.wrq, (w.ph = .queued ∨ w.ph = .held) ∧ w.born + x.f 0x1008 21 14 * tuPerUs < x.now) →
      (∃ t, exec (.writeAgeDrain n c) s = .next t ∧ t.sys.crs[c] = { x.c with mode := 2 })) ∧
    (crsUp x = true → x.c.sr.st = 0 → x.c.rdq = [] → x.c.wrq = [] → x.c.emptyAt + tuPerUs ≤ x.now → x.c.sr.demand + tuPerUs ≤ x.now →
      (∃ t, exec (.courseIdle n c) s = .next t ∧ t.sys.crs[c] = { x.c with idle := true })))

/-- REFRESH_TICK and CATCHUP_TIMER_EXPIRY (R169, R174, R175): a tick accrues the ticks that have passed for every target in use and owes whole
intervals, where no rank's hot state changes; a catch-up timer raises one emergency and starts again. TEMP_REPORT and TEMP_STALE (R176, R177): a
report is kept for its rank and ends its staleness, and one above 85 °C asks for the hot state at the next tick; a rank without a report for
temp_to_ms is treated as hot from then on, until a report arrives. The readings of the model it rests on are log entry 44. That exec answers a next
state, under conditions on the state and the operands alone, it says of REFRESH_TICK, CATCHUP_TIMER_EXPIRY, TEMP_REPORT and TEMP_STALE. -/
def Obligations.RefreshAndTemperature : Prop :=
  (∀ (s : State) (n : Nat) (c : CourseId) (seq p : BitVec 16) (i : Fin 16), closedUp s.sys.z = false →
    let x := crsBefore s n c
    let d := (seq - p).toNat
    let iv := refInterval x x.c.ranks[tgtRank x i.val].hot
    let hot (r : Fin 4) : Bool := (if x.c.ranks[r].stale then true else x.c.ranks[r].rep.getD x.c.ranks[r].nat) ||
      x.f 0x1408 24 24 == 1 || x.z.therm.alertOn || decide (x.now < x.z.therm.alertTo)
    (powered x.z c = true → x.c.tickSeq = some p → (∃ t, exec (.refreshTick n c seq) s = .next t ∧
      (t.sys.crs[c].tickSeq = some seq ∧ t.sys.crs[c].ticks = x.c.ticks + d ∧
      (crsUp x = true → refOn x = true → tgtAsleep x i.val = false → iv ≠ 0 → tgtUsed x i.val = true →
        (∀ r : Fin 4, r.val < x.info.ranks → hot r = x.c.ranks[r].hot) →
        t.sys.crs[c].tgts[i].e = (x.c.tgts[i].e + 200 * d) % iv ∧ t.sys.crs[c].tgts[i].owed = x.c.tgts[i].owed + (x.c.tgts[i].e + 200 * d) / iv)))) ∧
    (x.c.tgts[i].catch_ = true → x.c.tgts[i].timer ≤ x.c.ticks → 1 ≤ x.c.tgts[i].owed → refOn x = true → crsUp x = true → tgtUsed x i.val = true →
      (∃ t, exec (.catchupTimerExpiry n c i) s = .next t ∧ (t.sys.crs[c].tgts[i].em = x.c.tgts[i].em ++ [x.cyc] ∧
        t.sys.crs[c].tgts[i].timer = x.c.ticks + catchTicks x x.c.ranks[tgtRank x i.val].hot ∧ t.sys.crs[c].tgts[i].owed = x.c.tgts[i].owed ∧
        (∀ k, k ≠ i → t.sys.crs[c].tgts[k] = x.c.tgts[k]))))) ∧
  (∀ (s : State) (n : Nat) (c : CourseId) (r : Nat) (v : Cx) (rank : Fin 4), closedUp s.sys.z = false →
    let x := crsBefore s n c
    let k := toFin 4 (by decide) (slice r 71 70)
    (popRec x [3] 3 = some (r, v) → (∃ t, exec (.tempReport n c) s = .next t ∧
      (t.sys.crs[c].ranks[k].temp = BitVec.ofNat 8 (slice r 69 62) ∧ t.sys.crs[c].ranks[k].stale = false ∧ t.sys.crs[c].ranks[k].repAt = x.now ∧
      (85 < (BitVec.ofNat 8 (slice r 69 62)).toInt → t.sys.crs[c].ranks[k].rep = some true) ∧
      (∀ j, j ≠ k → t.sys.crs[c].ranks[j] = x.c.ranks[j])))) ∧
    (crsUp x = true → rank.val < x.info.ranks → x.c.sr.st < 3 → x.c.ranks[rank].stale = false → x.c.ranks[rank].repAt + x.f 0x1408 23 16 * tuPerMs ≤ x.now →
      (∃ t, exec (.tempStale n c rank) s = .next t ∧ (t.sys.crs[c].ranks[rank] = { x.c.ranks[rank] with stale := true } ∧
        (∀ j, j ≠ rank → t.sys.crs[c].ranks[j] = x.c.ranks[j]) ∧ t.sys.crs[c].tgts = x.c.tgts))))

/-- SR_IDLE_TIMEOUT, SR_QUIESCE_DONE, SR_ENTERED and SR_EXIT_DONE (R181 to R184, Table 9-4): AWAKE to QUIESCE, to SRE_SENT, to IN_SR, and from EXITING
back to AWAKE at the last SRX + txs, with every pallet at owed = 0. DRAM_CRIT_ACTION and CRIT_RELEASE (R398, R177): Potrie takes the policy's action
for a critical course and remembers it, and forgets it once every rank has reported at most release_c for 1 s. The readings of the model it rests on
are log entries 46, 82. That exec answers a next state, under conditions on the state and the operands alone, it says of SR_IDLE_TIMEOUT,
SR_QUIESCE_DONE, SR_ENTERED, SR_EXIT_DONE, DRAM_CRIT_ACTION and CRIT_RELEASE. -/
def Obligations.SelfRefreshAndCritical : Prop :=
  (∀ (s : State) (n : Nat) (c : CourseId) (a b : List (Cmd × Nat)) (e : Nat), closedUp s.sys.z = false →
    let x := crsBefore s n c
    let sre (k : Nat) : List Cmd := (List.range (pranks x)).map (fun r => { op := 14, sub := k, lr := r, arg := 2 * 2 ^ 15 })
    let cys := (List.range (pranks x)).map (fun r => if r < 3 then x.cyc else x.cyc + 1)
    (x.f 0x1410 19 10 ≠ 0 → x.c.sr.demand + x.f 0x1410 19 10 * tuPerUs ≤ x.now → crsUp x = true → x.c.sr.st = 0 →
      (∃ t, exec (.srIdleTimeout n c) s = .next t ∧ t.sys.crs[c].sr = { x.c.sr with st := 1 } ∧ t.sys.crs[c].pt.from_ = none)) ∧
    (commitOk x = true → quiesced x = true → nextFlit x = x.cyc → min 6 (2 * pranks x) ≤ planRoom x x.cyc → 2 * pranks x - 6 ≤ planRoom x (x.cyc + 1) →
      tryChain x 0 (sre 0) cys 0 none = some a → tryChain x 1 (sre 1) cys 0 none = some b →
      (∃ t, exec (.srQuiesceDone n c) s = .next t ∧ t.sys.crs[c].sr = { x.c.sr with st := 2, sre := max (topStamp a) (topStamp b) } ∧
        t.sys.crs[c].tgts = x.c.tgts)) ∧
    (x.c.sr.st = 2 → x.c.sr.sre ≤ x.dck → (∃ t, exec (.srEntered n c) s = .next t ∧ t.sys.crs[c] = { x.c with sr := { x.c.sr with st := 3 } })) ∧
    (x.c.sr.st = 5 → lastSrx x.c = some e → e + (timOf x).txs ≤ x.dck → (∃ t, exec (.srExitDone n c) s = .next t ∧
      t.sys.crs[c].sr.st = 0 ∧ (∀ i : Fin 16, t.sys.crs[c].tgts[i].owed = 0 ∧ t.sys.crs[c].tgts[i].em = []) ∧
      (∀ i : Fin 16, t.sys.crs[c].tgts[i].e = startAccr x i.val) ∧ (∀ k : Fin 4, t.sys.crs[c].ranks[k].hot = x.c.ranks[k].hot) ∧
      t.sys.crs[c].pt.from_ = some x.now))) ∧
  (∀ (s : State) (n : Nat) (c : CourseId) (since : Nat), closedUp s.sys.z = false →
    let x := before s n
    (bitsOf (thermPol x.z) 1 0 ≠ 0 → liveCrs x.z c = true → potrieOn x.z = true → x.z.boot.phase = 7 → isCrit (crsBefore s n c) = true →
      tblFind x.z.therm.crit c.val = none → (∃ t, exec (.dramCritAction n c) s = .next t ∧
        (t.sys.z.therm.crit = tblPut x.z.therm.crit c.val 0 ∧ t.sys.crs[c].lk.rate = true ∧ (∀ d, d ≠ c → t.sys.crs[d] = x.crs[d]) ∧ t.sys.z.keys = x.z.keys))) ∧
    (tblFind x.z.therm.crit c.val = some since → since ≠ 0 → since + tuPerS ≤ x.now → potrieOn x.z = true → liveCrs x.z c = true →
      (∃ t, exec (.critRelease n c) s = .next t ∧ (t.sys.z.therm.crit = tblDel x.z.therm.crit c.val ∧
        t.sys.crs[c].lk.rate = true ∧ getF t.sys.z (crsBase c.val + 0x0800) 1 0 = (if x.z.therm.thr.contains c then 2 else 0) ∧
        (∀ d, d ≠ c → t.sys.crs[d] = x.crs[d])))))

/-- WAKE_TIMEOUT, RECOVER_TIMEOUT and RATE_TIMEOUT (R209, Table 10-11, R213): a wake not complete in 100 µs from DOWN or 1.5 µs from ASLEEP, a RECOVER
with its last attempt missed and a RATE not complete in 2 µs take the link to FAILED; an earlier missed attempt starts the next. NAK_TIMER_EXPIRY and
ACK_TIMEOUT at either end (R204, R205): a receiver still in NAK state asks again, and a sender rewinds to its oldest unacknowledged flit. The readings
of the model it rests on are log entry 49. That exec answers a next state, under conditions on the state and the operands alone, it says of
WAKE_TIMEOUT, RECOVER_TIMEOUT, RATE_TIMEOUT, NAK_TIMER_EXPIRY and ACK_TIMEOUT. -/
def Obligations.LinkTimers : Prop :=
  (∀ (s : State) (n : Nat) (c : CourseId), closedUp s.sys.z = false →
    let x := crsBefore s n c
    let failed (t : State) : Prop := t.sys.crs[c].lk.st = 7 ∧ t.sys.crs[c].lk.since = x.now ∧ t.sys.z.cinfo[c].failed = true
    (x.c.lk.st = 1 → x.c.lk.since + (if x.c.lk.fromDown then 100000 else 1500) * tuPerNs < x.now → (∃ t, exec (.wakeTimeout n c) s = .next t ∧ failed t)) ∧
    (x.c.lk.st = 3 → x.c.lk.since + 2 * tuPerUs < x.now → x.f 0x0800 24 23 ≤ x.c.lk.tries + 1 → (∃ t, exec (.recoverTimeout n c) s = .next t ∧ failed t)) ∧
    (x.c.lk.st = 3 → x.c.lk.since + 2 * tuPerUs < x.now → x.c.lk.tries + 1 < x.f 0x0800 24 23 → (∃ t, exec (.recoverTimeout n c) s = .next t ∧
      t.sys.crs[c].lk.st = 3 ∧ t.sys.crs[c].lk.tries = x.c.lk.tries + 1 ∧ t.sys.crs[c].lk.since = x.now ∧ t.sys.z.cinfo = s.sys.z.cinfo)) ∧
    (x.c.lk.st = 4 → x.c.lk.since + 2 * tuPerUs < x.now → (∃ t, exec (.rateTimeout n c) s = .next t ∧ failed t))) ∧
  (∀ (s : State) (n : Nat) (c : CourseId), closedUp s.sys.z = false →
    let x := crsBefore s n c
    let due (e : LEnd) (lim : Nat) : Prop := e.nak = true ∧ e.nakDue = false ∧ e.nakAt + lim ≤ x.cyc
    let late (e : LEnd) (lim : Nat) : Prop := ∃ f l, e.buf = f :: l ∧ f.at_ + lim ≤ x.cyc ∧ e.rep ≠ e.buf.length
    (x.c.lk.st = 2 ∨ x.c.lk.st = 5 → due x.c.lk.ends (x.f 0x0800 10 4) → (∃ t, exec (.nakTimerExpiry n c false) s = .next t ∧
      t.sys.crs[c].lk.ends = { x.c.lk.ends with nakDue := true })) ∧
    (cbLive x = true → due x.c.cb.ends 64 → (∃ t, exec (.nakTimerExpiry n c true) s = .next t ∧ t.sys.crs[c].cb.ends = { x.c.cb.ends with nakDue := true })) ∧
    (x.c.lk.st = 2 ∨ x.c.lk.st = 5 → late x.c.lk.ends (x.f 0x0800 18 11 * 4) → (∃ t, exec (.ackTimeout n c false) s = .next t ∧
      t.sys.crs[c].lk.ends = { x.c.lk.ends with rep := x.c.lk.ends.buf.length })) ∧
    (cbLive x = true → late x.c.cb.ends 256 → (∃ t, exec (.ackTimeout n c true) s = .next t ∧
      t.sys.crs[c].cb.ends = { x.c.cb.ends with rep := x.c.cb.ends.buf.length } ∧ t.sys.crs[c].lk = x.c.lk)))

/-- RATE, SLEEP_START, SLEEP_ACK and LANE_LOCK_LOSS (R206, R209, Table 10-11): the moves of a link that is ACTIVE or draining. ALIGN_COMPLETE,
RATE_COMPLETE and LINK_FAILED_RESPONSE (R209, R213, R214): an exchange in time makes the link ACTIVE; after a RECOVER both ends apply each other's ack
and send their unacknowledged flits again; a FAILED link wakes at half rate towards the mode it had, or degraded towards a lane group that is good, or
its course is fenced when no lane group is good. The readings of the model it rests on are log entries 36, 48, 49, 55, 109. That exec answers a next
state, under conditions on the state and the operands alone, it says of RATE, SLEEP_START, SLEEP_ACK, LANE_LOCK_LOSS, ALIGN_COMPLETE, RATE_COMPLETE
and LINK_FAILED_RESPONSE. -/
def Obligations.LinkMoves : Prop :=
  (∀ (s : State) (n : Nat) (c : CourseId) (l : Fin 14), closedUp s.sys.z = false →
    let x := crsBefore s n c
    (x.c.lk.st = 2 → x.c.lk.rate = true → x.c.lk.ends.buf = [] → x.c.plan = [] → (∃ t, exec (.rate n c) s = .next t ∧
      t.sys.crs[c].lk.st = 4 ∧ t.sys.crs[c].lk.since = x.now ∧ t.sys.crs[c].cb = { x.c.cb with alGood := 0 } ∧ t.sys.z.cinfo = s.sys.z.cinfo)) ∧
    (x.c.lk.st = 2 → x.c.sr.st = 3 → x.f 0x1410 20 20 = 1 → x.c.lk.ends.buf = [] → x.c.plan = [] → x.c.lk.mnt.st ≠ 1 → (∃ t, exec (.sleepStart n c) s = .next t ∧
      t.sys.crs[c].lk.st = 5 ∧ t.sys.crs[c].lk.slp = true ∧ t.sys.crs[c].sr = x.c.sr)) ∧
    (x.c.lk.st = 5 → x.c.lk.slept = true → x.c.lk.stop = false → x.c.sr.st = 3 → (∃ t, exec (.sleepAck n c) s = .next t ∧
      t.sys.crs[c].lk.st = 6 ∧ t.sys.crs[c].lk.idles = 16 ∧ t.sys.crs[c].sr.st = 4)) ∧
    (x.c.lk.st = 5 → x.c.lk.slept = true → x.c.lk.stop = true → (∃ t, exec (.sleepAck n c) s = .next t ∧
      t.sys.crs[c].lk.st = 0 ∧ t.sys.crs[c].lk.stop = false ∧ t.sys.crs[c].lk.ends = {} ∧ t.sys.crs[c].lk.idles = 16 ∧ t.sys.crs[c].sr = x.c.sr)) ∧
    (x.c.lk.st = 2 → l.val < 8 → x.ups.contains l.val = true → (∃ t, exec (.laneLockLoss n c l) s = .next t ∧
      t.sys.crs[c].lk.st = 3 ∧ t.sys.crs[c].lk.tries = 0 ∧ t.sys.crs[c].lk.since = x.now ∧ t.sys.crs[c].lk.up = [] ∧ t.sys.crs[c].lk.ends = x.c.lk.ends)) ∧
    (x.c.lk.st = 2 → 8 ≤ l.val → x.dns.contains (l.val - 8) = true → (∃ t, exec (.laneLockLoss n c l) s = .next t ∧
      t.sys.crs[c].lk.st = 3 ∧ t.sys.crs[c].lk.tries = 0 ∧ t.sys.crs[c].lk.since = x.now ∧ t.sys.crs[c].lk.dn = [] ∧ t.sys.crs[c].lk.ends = x.c.lk.ends))) ∧
  (∀ (s : State) (n : Nat) (c : CourseId) (oneWay : Nat) (badUp : List (Fin 8)) (badDn : List (Fin 6)), closedUp s.sys.z = false →
    let x := crsBefore s n c
    (powered x.z c = true → x.c.lk.st = 1 → x.now ≤ x.c.lk.since + (if x.c.lk.fromDown then 100000 else 1500) * tuPerNs →
      (∃ t, exec (.alignComplete n c oneWay) s = .next t ∧ t.sys.crs[c].lk.st = 2 ∧ t.sys.crs[c].lk.rtt = 2 * oneWay + 1 ∧ t.sys.crs[c].cb.down = false)) ∧
    (powered x.z c = true → x.c.lk.st = 3 → x.now ≤ x.c.lk.since + 2 * tuPerUs → x.c.cb.dck = x.c.dck →
      (∃ t, exec (.alignComplete n c oneWay) s = .next t ∧ t.sys.crs[c].lk.st = 2 ∧
        t.sys.crs[c].lk.ends.buf = (x.c.lk.ends.free x.c.cb.ends.ack).buf ∧ t.sys.crs[c].lk.ends.rep = t.sys.crs[c].lk.ends.buf.length ∧
        t.sys.crs[c].cb.ends.buf = (x.c.cb.ends.free x.c.lk.ends.ack).buf ∧ t.sys.crs[c].cb.ends.rep = t.sys.crs[c].cb.ends.buf.length)) ∧
    (x.c.lk.st = 4 → x.c.lk.newAt = none → x.c.lk.since + 64 * x.lck ≤ x.now → x.now ≤ x.c.lk.since + 2 * tuPerUs → x.c.cb.dck = x.c.dck →
      (∃ t, exec (.rateComplete n c) s = .next t ∧ t.sys.crs[c].lk.st = 2 ∧ t.sys.z.cinfo[c].mode = x.f 0x0800 1 0 ∧ t.sys.crs[c].lk.sel = x.f 0x0800 2 2)) ∧
    (x.c.lk.st = 7 → potrieOn x.z = true → x.info.fence = 0 → present x.z.boot.variant c = true →
      (∃ t, exec (.linkFailedResponse n c [] []) s = .next t ∧ t.sys.crs[c].lk.st = 1 ∧ t.sys.crs[c].lk.fromDown = true ∧
        t.sys.z.cinfo[c].mode = (wakeMode (wakeGoal x).1 (wakeGoal x).2).1 ∧ t.sys.z.cinfo[c].failed = false)) ∧
    (x.c.lk.st = 7 → potrieOn x.z = true → x.info.fence = 0 → present x.z.boot.variant c = true → badUp ≠ [] ∨ badDn ≠ [] →
      (goodGroup (badUp.map (fun l => l.val)) (badDn.map (fun l => l.val))).isSome = true →
      (∃ t, exec (.linkFailedResponse n c badUp badDn) s = .next t ∧ t.sys.crs[c].lk.st = 1 ∧ t.sys.crs[c].lk.fromDown = true ∧
        t.sys.z.cinfo[c].mode = 3 ∧ t.sys.z.cinfo[c].degraded = true ∧ t.sys.z.cinfo[c].failed = false)) ∧
    (x.c.lk.st = 7 → potrieOn x.z = true → x.info.fence = 0 → goodGroup (badUp.map (fun l => l.val)) (badDn.map (fun l => l.val)) = none →
      (∃ t, exec (.linkFailedResponse n c badUp badDn) s = .next t ∧ t.sys.z.cinfo[c].fence = 3 ∧ t.sys.crs[c].wrq = [] ∧ t.sys.z.bond.dirty = true)))

/-- DOWNSTREAM_FLIT and CORBEL_UPSTREAM_FLIT (R158, R202): each end of a live link sends one flit in an LCK cycle, and no second one in the same
cycle; in WAKE and RECOVER the course sends ALIGN flits (R209). UPSTREAM_FLIT and CORBEL_FLIT_RECEIVE (R204, Table 10-9): outside an ALIGN exchange a
good sequenced flit with the expected sequence number is accepted and the next one is expected; a bad flit puts the receiver in NAK state. Either way
the flit leaves the lanes. The readings of the model it rests on are log entry 37. That exec answers a next state, under conditions on the state and
the operands alone, it says of DOWNSTREAM_FLIT, CORBEL_UPSTREAM_FLIT, UPSTREAM_FLIT and CORBEL_FLIT_RECEIVE. -/
def Obligations.FlitsMove : Prop :=
  (∀ (s : State) (n : Nat) (c : CourseId), closedUp s.sys.z = false →
    let x := crsBefore s n c
    let ready (a : Option Nat) : Prop := match a with | some k => k < x.cyc | none => True
    (powered x.z c = true → x.c.lk.st = 2 ∨ x.c.lk.st = 5 → ready x.c.sentAt → (∃ t, exec (.downstreamFlit n c) s = .next t ∧
      t.sys.crs[c].lk.dn.length = x.c.lk.dn.length + 1 ∧ t.sys.crs[c].sentAt = some x.cyc ∧ t.sys.crs[c].cb = x.c.cb)) ∧
    (powered x.z c = true → x.c.lk.st = 1 ∨ x.c.lk.st = 3 → ready x.c.sentAt → (∃ t, exec (.downstreamFlit n c) s = .next t ∧
      t.sys.crs[c].lk.dn = x.c.lk.dn ++ [pam (alignDn x (x.c.lk.st == 1 && x.c.lk.fromDown) 3 (decide (16 ≤ x.c.lk.alGood)))] ∧
      t.sys.crs[c].sentAt = some x.cyc ∧ t.sys.crs[c].lk.st = x.c.lk.st)) ∧
    (x.c.sentAt = some x.cyc → (∃ t, exec (.downstreamFlit n c) s = .next t ∧ t.sys.crs[c] = x.c)) ∧
    (cbLive x = true → ready x.c.cb.sentAt → (∃ t, exec (.corbelUpstreamFlit n c) s = .next t ∧
      t.sys.crs[c].lk.up.length = x.c.lk.up.length + 1 ∧ t.sys.crs[c].cb.sentAt = some x.cyc ∧ t.sys.crs[c].lk.dn = x.c.lk.dn)) ∧
    (x.c.cb.sentAt = some x.cyc → (∃ t, exec (.corbelUpstreamFlit n c) s = .next t ∧ t.sys.crs[c] = x.c))) ∧
  (∀ (s : State) (n : Nat) (c : CourseId) (u : UpBits) (d : DnBits) (lu : List UpBits) (ld : List DnBits) (eu : UpBits) (ed : DnBits), closedUp s.sys.z = false →
    let x := crsBefore s n c
    let vu := (scramble 80 x.c.lk.scrRx (pam u ^^^ eu).toNat).2
    let vd := (scramble 60 x.c.cb.scrRx (pam d ^^^ ed).toNat).2
    x.c.lk.st = 2 ∨ x.c.lk.st = 5 →
    (x.c.lk.up = u :: lu →
      (∀ h m b, rxUp (BitVec.ofNat 800 vu) = .good h m b → 1 ≤ slice (h >>> 648) 47 44 → slice (h >>> 648) 47 44 ≤ 3 →
        slice (h >>> 648) 43 36 = x.c.lk.ends.e → (∃ t, exec (.upstreamFlit n c eu) s = .next t ∧
          t.sys.crs[c].lk.up = lu ∧ t.sys.crs[c].lk.ends.e = (x.c.lk.ends.e + 1) % 256 ∧ t.sys.crs[c].lk.ends.nak = false)) ∧
      ((rxUp (BitVec.ofNat 800 vu) = .fecFail ∨ rxUp (BitVec.ofNat 800 vu) = .crcFail) → (∃ t, exec (.upstreamFlit n c eu) s = .next t ∧
          t.sys.crs[c].lk.up = lu ∧ t.sys.crs[c].lk.ends.e = x.c.lk.ends.e ∧ t.sys.crs[c].lk.ends.nak = true))) ∧
    (x.c.lk.dn = d :: ld →
      (∀ h m b, rxDn (BitVec.ofNat 600 vd) = .good h m b → 1 ≤ slice (h >>> 492) 23 21 → slice (h >>> 492) 23 21 ≤ 5 →
        slice (h >>> 492) 20 13 = x.c.cb.ends.e → (∃ t, exec (.corbelFlitReceive n c ed) s = .next t ∧
          t.sys.crs[c].lk.dn = ld ∧ t.sys.crs[c].cb.ends.e = (x.c.cb.ends.e + 1) % 256 ∧ t.sys.crs[c].cb.ends.nak = false)) ∧
      ((rxDn (BitVec.ofNat 600 vd) = .fecFail ∨ rxDn (BitVec.ofNat 600 vd) = .crcFail) → (∃ t, exec (.corbelFlitReceive n c ed) s = .next t ∧
          t.sys.crs[c].lk.dn = ld ∧ t.sys.crs[c].cb.ends.e = x.c.cb.ends.e ∧ t.sys.crs[c].cb.ends.nak = true))))

/-- LATE_ALERT and CA_PARITY_ALERT (R223, R228, R229, R232): the oldest record of the alert's kind sets the course's epoch, closes every bank of the
subchannel and starts a rebuild; a CA parity alert takes every entry of the retry buffer into it. ISSUE_ACKNOWLEDGEMENT and RETURN_OVERFLOW (R208,
R225): acknowledged entries leave the retry buffer, and a read whose burst was lost waits to be selected again. The readings of the model it rests on
are log entries 38, 50, 51, 53. That exec answers a next state, under conditions on the state and the operands alone, it says of LATE_ALERT,
CA_PARITY_ALERT, ISSUE_ACKNOWLEDGEMENT and RETURN_OVERFLOW. -/
def Obligations.RebuildsAndAcks : Prop :=
  (∀ (s : State) (n : Nat) (c : CourseId) (r : BitVec 80) (l : List (BitVec 80)), closedUp s.sys.z = false →
    let x := crsBefore s n c
    let sub := toSub (slice r.toNat 71 71)
    let rebuilt (t : State) : Prop :=
      t.sys.crs[c].lk.recs = l ∧ t.sys.crs[c].rb[sub].on = true ∧ t.sys.crs[c].epoch[sub] = slice r.toNat 70 69 ∧
      (∀ k, k / 256 = sub.val → (bankAt t.sys.crs[c] k).open_ = none)
    x.c.lk.recs = r :: l →
    (recTy r = 1 → (∃ t, exec (.lateAlert n c) s = .next t ∧ rebuilt t)) ∧
    (recTy r = 2 → (∃ t, exec (.caParityAlert n c) s = .next t ∧ rebuilt t ∧ t.sys.crs[c].retry[sub] = []))) ∧
  (∀ (s : State) (n : Nat) (c : CourseId) (r : BitVec 80) (l : List (BitVec 80)), closedUp s.sys.z = false →
    let x := crsBefore s n c
    let sub := toSub (slice r.toNat 71 71)
    x.c.lk.recs = r :: l →
    (recTy r = 4 → x.c.rb[sub].wait = 0 → (∃ t, exec (.issueAcknowledgement n c) s = .next t ∧
      t.sys.crs[c].lk.recs = l ∧
      t.sys.crs[c].retry[sub] = (x.c.retry[sub]).filter (fun b => !(b.epoch == slice r.toNat 70 69 && decide (b.stamp ≤ restore24 x (slice r.toNat 68 45)))) ∧
      t.sys.crs[c].rdq = x.c.rdq ∧ t.sys.crs[c].wrq = x.c.wrq)) ∧
    (∀ b o, recTy r = 6 → x.c.outRd.find? (fun b => b.sub == slice r.toNat 71 71 && b.stamp % 2 ^ 24 == slice r.toNat 70 47) = some b → b.src = .rd o →
      (∃ t, exec (.returnOverflow n c) s = .next t ∧
        t.sys.crs[c].lk.recs = l ∧ t.sys.crs[c].outRd = x.c.outRd.filter (fun k => k != b) ∧
        t.sys.crs[c].rdq = replaceFirst (fun q => q.ord == o) (fun q => { q with ph := .queued, again := true }) x.c.rdq)))

/-- MAINTENANCE_RESPONSE, MNT_TIMEOUT and LINK_STATUS (R201, R215): the answer with the request's mtag ends it with its result and data, 20 µs without
one end it with mres 3, and the Corbel's counts are added to the course's. CORBEL_MAINT_REQUEST (R237): the oldest accepted request is executed and
answered by a maintenance record: a read with the register's value, a write once the writable bits have the request's data, an unknown address or
operation with its error. The readings of the model it rests on are log entry 38. That exec answers a next state, under conditions on the state and
the operands alone, it says of MAINTENANCE_RESPONSE, MNT_TIMEOUT, LINK_STATUS and CORBEL_MAINT_REQUEST. -/
def Obligations.Maintenance : Prop :=
  (∀ (s : State) (n : Nat) (c : CourseId) (r : BitVec 80) (l : List (BitVec 80)), closedUp s.sys.z = false →
    let x := crsBefore s n c
    (x.c.lk.recs = r :: l → recTy r = 5 → x.c.lk.mnt.st = 1 → x.c.lk.mnt.tag = slice r.toNat 71 64 → (∃ t, exec (.maintenanceResponse n c) s = .next t ∧
      t.sys.crs[c].lk.recs = l ∧ t.sys.crs[c].lk.mnt.st = 2 ∧
      wordAt t.sys.z (crsBase c.val + 0x0858) = BitVec.ofNat 32 (2 + slice r.toNat 63 62 * 4 + slice r.toNat 71 64 * 16) ∧
      wordAt t.sys.z (crsBase c.val + 0x0850) = BitVec.ofNat 32 (slice r.toNat 31 0))) ∧
    (x.c.lk.mnt.st = 1 → x.c.lk.mnt.at_ + 20 * tuPerUs ≤ x.now → (∃ t, exec (.mntTimeout n c) s = .next t ∧
      t.sys.crs[c].lk.mnt.st = 2 ∧ t.sys.crs[c].lk.mnt.req = none ∧
      wordAt t.sys.z (crsBase c.val + 0x0858) = BitVec.ofNat 32 (2 + 3 * 4 + x.c.lk.mnt.tag * 16))) ∧
    (x.c.lk.recs = r :: l → recTy r = 7 → x.z.rg.sw = [] → (∃ t, exec (.linkStatus n c) s = .next t ∧
      t.sys.crs[c].lk.recs = l ∧
      getF t.sys.z (crsBase c.val + 0x08D0) 31 0 = (x.f 0x08D0 31 0 + slice r.toNat 71 56) % 2 ^ 32 ∧
      getF t.sys.z (crsBase c.val + 0x08D8) 31 0 = (x.f 0x08D8 31 0 + slice r.toNat 55 40) % 2 ^ 32))) ∧
  (∀ (s : State) (n : Nat) (c : CourseId) (m : MntReq) (l : List MntReq) (mask : Nat) (dly : Option (Nat × Nat)), closedUp s.sys.z = false →
    let x := crsBefore s n c
    let answer (res : Nat) (d : Word) : RecQ := ⟨BitVec.ofNat 80 (5 * 2 ^ 72 + (m.tag * 2 ^ 64 + res * 2 ^ 62 + d.toNat)), x.cyc⟩
    x.c.cb.maint = m :: l →
    (m.mop = 1 → cbReg m.addr = some (mask, dly) → (∃ t, exec (.corbelMaintRequest n c) s = .next t ∧
      t.sys.crs[c].cb = { x.c.cb with maint := l, recs := x.c.cb.recs ++ [answer 0 (cbRead x m.addr)] })) ∧
    (m.mop = 2 → cbReg m.addr = some (mask, none) → m.be = 15 → (∃ t, exec (.corbelMaintRequest n c) s = .next t ∧
      t.sys.crs[c].cb.reg = tblPut x.c.cb.reg m.addr ((cbWord x m.addr &&& ~~~BitVec.ofNat 32 mask) ||| (m.data &&& BitVec.ofNat 32 mask)) ∧
      t.sys.crs[c].cb.maint = l ∧ t.sys.crs[c].cb.recs = x.c.cb.recs ++ [answer 0 0])) ∧
    (m.mop = 1 ∨ m.mop = 2 → cbReg m.addr = none → (∃ t, exec (.corbelMaintRequest n c) s = .next t ∧
      t.sys.crs[c].cb = { x.c.cb with maint := l, recs := x.c.cb.recs ++ [answer 1 0] })) ∧
    (m.mop ≠ 1 → m.mop ≠ 2 → (∃ t, exec (.corbelMaintRequest n c) s = .next t ∧
      t.sys.crs[c].cb = { x.c.cb with maint := l, recs := x.c.cb.recs ++ [answer 2 0] })))

/-- RDATA (R200, R244, R249, R250): a burst that matches an outstanding demand read is decoded; a clean line goes to the home as it is, and an
uncorrectable one as poison with the hardware event of Table 18-1, which takes the next evt_seq where Potrie has posted no event in the same SCK cycle
(R77). That exec answers a next state, under conditions on the state and the operands alone, it says of RDATA. -/
def Obligations.ReadDataDecoded : Prop :=
  ∀ (s : State) (n : Nat) (c : CourseId) (sc rst : Nat) (code : Code) (l : List (Nat × Nat × Code)) (b : Cmd) (o : Nat) (r : REnt), closedUp s.sys.z = false →
    let x := crsBefore s n c
    x.c.lk.rdata = (sc, rst, code) :: l → x.c.outRd.find? (fun b => b.sub == sc && b.stamp % 2 ^ 24 == rst) = some b → b.src = .rd o →
    x.c.rdq.find? (fun r => r.ord == o) = some r → r.ph ≠ .back →
    (∀ v, (decodeNow x r.line code).1 = .clean v → (∃ t, exec (.rdata n c) s = .next t ∧
      t.sys.crs[c].lk.rdata = l ∧ t.sys.crs[c].outRd = removeFirst (fun k => k == b) x.c.outRd ∧
      t.sys.z.jdat[c] = x.z.jdat[c] ++ [⟨r.id, r.line, v, false, false, false⟩] ∧ t.sys.z.mgt.evtNext = x.z.mgt.evtNext)) ∧
    ((decodeNow x r.line code).1 = .bad → x.z.mgt.potCyc ≠ x.now / tuSck → (∃ t, exec (.rdata n c) s = .next t ∧
      t.sys.crs[c].lk.rdata = l ∧ t.sys.z.jdat[c] = x.z.jdat[c] ++ [⟨r.id, r.line, 0, true, true, false⟩] ∧
      (tblGet [] t.sys.z.mgt.evq (x.z.mgt.evtNext.toNat % 256)).getD 1 0 = BitVec.ofNat 32 (0x20 + c.val * 65536 + c.val * 16777216)))

/-- CORBEL_ISSUE and READ_BURST_CAPTURE (R219, R221, R208): the held command whose stamp falls in this LCK leaves the hold queue and is issued; the
oldest read whose burst has ended enters the return queue, or is reported lost when that is full. The readings of the model it rests on are log entry
47. That exec answers a next state, under conditions on the state and the operands alone, it says of CORBEL_ISSUE and READ_BURST_CAPTURE. -/
def Obligations.CorbelIssuesAndCaptures : Prop :=
  ∀ (s : State) (n : Nat) (c : CourseId) (sc : SubId) (fb : Option (BitVec 40)) (errs : Code) (b : Cmd) (r : Burst), closedUp s.sys.z = false →
    let x := crsBefore s n c
    (x.c.cb.hold[sc] = [b] → b.stamp < cbDck x (x.cyc + 1) → (∃ t, exec (.corbelIssue n c sc fb) s = .next t ∧
      (t.sys.crs[c].cb.hold[sc] = [] ∧ t.sys.crs[c].cb.iss[sc].head? = some b ∧
      (∀ d, d ≠ sc → t.sys.crs[c].cb.hold[d] = x.c.cb.hold[d] ∧ t.sys.crs[c].cb.iss[d] = x.c.cb.iss[d]) ∧
      t.sys.crs[c].lk = x.c.lk ∧ t.sys.crs[c].retry = x.c.retry))) ∧
    (x.c.cb.reads.find? (fun r => r.sub == sc.val) = some r → r.stamp + x.cf 0x14 7 0 + 8 ≤ cbDck x x.cyc →
      x.c.cb.retq.length < rtnDepth c.val → (∃ t, exec (.readBurstCapture n c sc errs) s = .next t ∧
        t.sys.crs[c].cb.reads = removeFirst (fun q => q == r) x.c.cb.reads ∧
        t.sys.crs[c].cb.retq.map (fun q => (q.sub, q.stamp, q.code)) = x.c.cb.retq.map (fun q => (q.sub, q.stamp, q.code)) ++ [(r.sub, r.stamp, r.code ^^^ errs)] ∧
        t.sys.crs[c].cb.recs = x.c.cb.recs)) ∧
    (x.c.cb.reads.find? (fun r => r.sub == sc.val) = some r → r.stamp + x.cf 0x14 7 0 + 8 ≤ cbDck x x.cyc →
      rtnDepth c.val ≤ x.c.cb.retq.length → (∃ t, exec (.readBurstCapture n c sc errs) s = .next t ∧
        t.sys.crs[c].cb.retq = x.c.cb.retq ∧
        t.sys.crs[c].cb.recs = x.c.cb.recs ++ [⟨BitVec.ofNat 80 (6 * 2 ^ 72 + (sc.val * 2 ^ 71 + r.stamp % 2 ^ 24 * 2 ^ 47)), x.cyc⟩]))

/-- ALERT_N_SAMPLED (R231, R223): the Corbel discards every held command and every unconfirmed one, holds its own precharges instead, and the
subchannel's epoch goes up by one; the other subchannel goes on. ISSUE_ACK_SEND, CORBEL_TEMP_READ, CORBEL_LINK_STATUS_SEND and CORBEL_SLEEP_ACK_SEND
(R224, R235, R201, R210): what the Corbel reports upstream, and what it starts anew with the report. CORBEL_SAFE_TIMEOUT and CORBEL_STAGED_APPLY
(R212, R290): with no good flit for 2 µs the Corbel takes its safe actions; a staged delay whose REFab has passed takes effect once no command or
burst of the rank is near. The readings of the model it rests on are log entries 50, 51. That exec answers a next state, under conditions on the state
and the operands alone, it says of ALERT_N_SAMPLED, ISSUE_ACK_SEND, CORBEL_TEMP_READ, CORBEL_LINK_STATUS_SEND, CORBEL_SLEEP_ACK_SEND,
CORBEL_SAFE_TIMEOUT and CORBEL_STAGED_APPLY. -/
def Obligations.CorbelActs : Prop :=
  (∀ (s : State) (n : Nat) (c : CourseId) (sc : SubId), closedUp s.sys.z = false →
    let x := crsBefore s n c
    x.cf 0x18 6 0 ≠ 0 → x.c.cb.down = false → (∃ t, exec (.alertNSampled n c sc) s = .next t ∧
      (t.sys.crs[c].cb.epoch[sc] = (x.c.cb.epoch[sc] + 1) % 4 ∧ t.sys.crs[c].cb.unconf[sc] = [] ∧
      (∀ b ∈ t.sys.crs[c].cb.hold[sc], cbOwn b = true) ∧
      (∀ d, d ≠ sc → t.sys.crs[c].cb.epoch[d] = x.c.cb.epoch[d] ∧ t.sys.crs[c].cb.hold[d] = x.c.cb.hold[d]) ∧
      t.sys.crs[c].cb.recs.length = x.c.cb.recs.length + 1))) ∧
  (∀ (s : State) (n : Nat) (c : CourseId) (sc : SubId) (e : Fin 4) (v : Nat) (rank : Fin 4) (temp : BitVec 8), closedUp s.sys.z = false →
    let x := crsBefore s n c
    let k := sc.val * 4 + e.val
    (x.c.cb.unconf[(0 : Fin 2)] = [] → x.c.cb.unconf[(1 : Fin 2)] = [] → tblFind x.c.cb.conf k = some v → tblFind x.c.cb.acked k = none →
      (∀ d : Fin 4, d ≠ e → tblFind x.c.cb.conf (sc.val * 4 + d.val) = none) → (∃ t, exec (.issueAckSend n c sc) s = .next t ∧
        t.sys.crs[c].cb.recs = x.c.cb.recs ++ [⟨BitVec.ofNat 80 (4 * 2 ^ 72 + (sc.val * 2 ^ 71 + e.val * 2 ^ 69 + v % 2 ^ 24 * 2 ^ 45)), x.cyc⟩] ∧
        t.sys.crs[c].cb.acked = tblPut x.c.cb.acked k v)) ∧
    (x.c.cb.down = false → x.c.cb.asleep = false → rank.val < cbRanks x → x.c.cb.tempAt[rank] + max 1 (x.cf 0x18 18 15) * tuPerMs ≤ x.now →
      (∃ t, exec (.corbelTempRead n c rank (some temp)) s = .next t ∧
        t.sys.crs[c].cb.recs = x.c.cb.recs ++ [⟨BitVec.ofNat 80 (3 * 2 ^ 72 + (rank.val * 2 ^ 70 + temp.toNat * 2 ^ 62)), x.cyc⟩] ∧
        t.sys.crs[c].cb.temps[rank] = some temp ∧ t.sys.crs[c].cb.tempAt[rank] = x.now)) ∧
    (x.c.cb.down = false → x.c.cb.asleep = false → x.c.cb.statAt + 65536 ≤ x.cyc → (∃ t, exec (.corbelLinkStatusSend n c) s = .next t ∧
      t.sys.crs[c].cb.recs.length = x.c.cb.recs.length + 1 ∧ t.sys.crs[c].cb.fec = 0 ∧ t.sys.crs[c].cb.bad = 0 ∧ t.sys.crs[c].cb.naks = 0 ∧
      t.sys.crs[c].cb.proto = 0 ∧ t.sys.crs[c].cb.statAt = x.cyc)) ∧
    (cbLive x = true → (∀ k, x.c.cb.sentAt = some k → k < x.cyc) → sleepReady x = true → x.c.cb.ends.rep = 0 → (∃ t, exec (.corbelSleepAckSend n c) s = .next t ∧
      t.sys.crs[c].cb.asleep = true ∧ t.sys.crs[c].cb.sleepRx = false ∧ t.sys.crs[c].lk.up.length = x.c.lk.up.length + 1))) ∧
  (∀ (s : State) (n : Nat) (c : CourseId) (sc : SubId) (rank : Fin 4), closedUp s.sys.z = false →
    let x := crsBefore s n c
    (x.c.cb.down = false → x.c.cb.asleep = false → x.c.cb.sleepRx = false → x.c.cb.safe = false → x.c.lk.st ≠ 4 →
      x.c.cb.goodAt + 2 * tuPerUs ≤ x.now → (∃ t, exec (.corbelSafeTimeout n c) s = .next t ∧
        t.sys.crs[c].cb.safe = true ∧ t.sys.crs[c].cb.epoch = x.c.cb.epoch ∧ t.sys.crs[c].sr = x.c.sr ∧
        (∀ d : Fin 2, ∀ b ∈ x.c.cb.hold[d], b ∈ t.sys.crs[c].cb.hold[d]))) ∧
    (x.c.cb.pend[sc].testBit rank.val = true → x.c.cb.pend[sc].testBit (rank.val + 4) = true → x.c.cb.hold[sc] = [] → x.c.cb.iss[sc] = [] →
      (∃ t, exec (.corbelStagedApply n c sc rank) s = .next t ∧
        (t.sys.crs[c].cb.pend[sc] = x.c.cb.pend[sc] &&& (255 ^^^ (2 ^ rank.val + 2 ^ (rank.val + 4))) ∧
        (∀ d, d ≠ sc → t.sys.crs[c].cb.pend[d] = x.c.cb.pend[d]) ∧ t.sys.crs[c].cb.reg = x.c.cb.reg))))

/-- DCHK_DONE and LCHK_DWELL_END (R293, R287): a checker that has seen its whole count stops by itself. RECENTRE_ARM and RECENTRE_ADJUST (R297, R298):
Potrie zeroes the edge counts and arms the target; after a clean probe a bit whose left count exceeds its right count by 4 has its read delay moved by
one step, and a probe with an alert in between changes nothing. LANE_MONITOR (R299): errors above the limit in a dwell are counted against the lane;
in the third dwell in a row Potrie moves the link to a mode that does not use the lane and reports the course degraded. The readings of the model it
rests on are log entries 53, 54, 90. That exec answers a next state, under conditions on the state and the operands alone, it says of DCHK_DONE,
LCHK_DWELL_END, RECENTRE_ARM, RECENTRE_ADJUST and LANE_MONITOR. -/
def Obligations.CheckersAndLanes : Prop :=
  (∀ (s : State) (n : Nat) (c : CourseId), closedUp s.sys.z = false →
    let x := crsBefore s n c
    (x.f 0x2400 0 0 = 1 → x.f 0x2400 12 5 ≠ 0 → x.f 0x2400 12 5 ≤ x.c.tr.left → (∃ t, exec (.dchkDone n c) s = .next t ∧
      getF t.sys.z (crsBase c.val + 0x2400) 0 0 = 0 ∧ getF t.sys.z (crsBase c.val + 0x2408) 0 0 = 1 ∧ t.sys.crs[c] = x.c)) ∧
    (x.f 0x0580 0 0 = 1 → x.f 0x0580 9 1 ≠ 0 → x.f 0x0580 9 1 * 4096 ≤ x.c.tr.dwell → (∃ t, exec (.lchkDwellEnd n c false) s = .next t ∧
      getF t.sys.z (crsBase c.val + 0x0580) 0 0 = 0 ∧ t.sys.crs[c] = x.c)) ∧
    (x.cf 0x280 0 0 = 1 → x.cf 0x280 9 1 ≠ 0 → x.cf 0x280 9 1 * 4096 ≤ x.c.cb.dwell → (∃ t, exec (.lchkDwellEnd n c true) s = .next t ∧
      t.sys.crs[c].cb = { x.c.cb with reg := tblPut x.c.cb.reg 0x280 (setBits (cbWord x 0x280) 0 0 0) }))) ∧
  (∀ (s : State) (n : Nat) (c : CourseId) (i : Fin 16) (p : Probe) (k : ProbeCount), closedUp s.sys.z = false →
    let x := crsBefore s n c
    let off := 0x10800 + 0x8000 * (i.val / 8) + 0x100 * prankOf x (i.val % 8) + 4 * k.q.val
    (potrieOn x.z = true → tgtUsed x i.val = true → crsUp x = true → x.c.lk.st = 2 → (∃ t, exec (.recentreArm n c i) s = .next t ∧
      (getF t.sys.z (crsBase c.val + 0x2440) i.val i.val = 1 ∧
      (∀ q, q < 40 → tblFind t.sys.crs[c].cb.reg (rctCnt (i.val / 8) q) = some 0) ∧
      t.sys.crs[c].tr.probes = x.c.tr.probes.filter (fun p => p.i != i.val)))) ∧
    (x.c.tr.probes.find? (fun p => p.i == i.val) = some p → potrieOn x.z = true → p.done = true → x.c.outRd = [] → p.bad = true →
      (∃ t, exec (.recentreAdjust n c i [k]) s = .next t ∧ t.sys.crs[c].cb = x.c.cb ∧ t.sys.crs[c].tr.probes = x.c.tr.probes.filter (fun p => p.i != i.val))) ∧
    (x.c.tr.probes.find? (fun p => p.i == i.val) = some p → potrieOn x.z = true → p.done = true → x.c.outRd = [] → p.bad = false →
      x.f 0x2440 26 16 = 0 → prankOf x (i.val % 8) < 4 → k.right + 4 ≤ k.left → k.right < 32 →
      (∃ t, exec (.recentreAdjust n c i [k]) s = .next t ∧
        ((∃ w, tblFind t.sys.crs[c].cb.reg off = some w ∧ bitsOf w 11 0 = min 4095 (x.cf off 11 0 + 1) ∧ bitsOf w 23 12 = x.cf off 23 12) ∧
        t.sys.crs[c].tr.probes = x.c.tr.probes.filter (fun p => p.i != i.val))))) ∧
  (∀ (s : State) (n : Nat) (c : CourseId) (l : Fin 8) (e : Nat), closedUp s.sys.z = false →
    let x := crsBefore s n c
    potrieOn x.z = true → x.c.lk.st = 2 → crsUp x = true → x.ups.contains l.val = true → 65 < e → x.c.lk.goal = none → (∀ p ∈ x.c.tr.badL, p.2 < 3) →
    (tblGet 0 x.c.tr.badL l.val < 2 → (∃ t, exec (.laneMonitor n c [(l, e)] []) s = .next t ∧
      tblFind t.sys.crs[c].tr.badL l.val = some (tblGet 0 x.c.tr.badL l.val + 1) ∧ t.sys.crs[c].lk = x.c.lk ∧ t.sys.z.cinfo = s.sys.z.cinfo)) ∧
    (tblGet 0 x.c.tr.badL l.val = 2 → (∃ t, exec (.laneMonitor n c [(l, e)] []) s = .next t ∧
      t.sys.crs[c].lk.rate = true ∧ t.sys.z.cinfo[c].degraded = true ∧ t.sys.crs[c].tr.badL = [])))

/-- POINTING_READ and LAP_OVERDUE (R251, R252, R255): the next line of the lap is read and the lap moves on; a lap older than its target is reported
once. RT_WATCH_EXPIRY and HARD_LINE_HANDLING (R257, R260): a tracker entry with no correction in its window is FREE; a HARD line that needs nothing
but the device already marked frees its entry; one of a single device, with no mark in place and no repair to be carried out at once, becomes an
offer. The readings of the model it rests on are log entries 52, 102, 103. That exec answers a next state, under conditions on the state and the
operands alone, it says of POINTING_READ, LAP_OVERDUE, RT_WATCH_EXPIRY and HARD_LINE_HANDLING. -/
def Obligations.PointingAndTracker : Prop :=
  (∀ (s : State) (n : Nat) (c : CourseId), closedUp s.sys.z = false →
    let x := crsBefore s n c
    let p := ptNext x (regionCount x + 1) x.c.pt.pos
    (commitOk x = true → x.c.sr.st = 0 → x.c.pt.out.length < 4 → x.f 0x1900 0 0 = 1 → ptQueued x = [] →
      (∀ a, x.c.pt.lastAt = some a → a + x.f 0x1900 16 1 * 16 * tuPerNs ≤ x.now) → ptHeld x p = false → p + 1 < lineCount x → (ptRead x p none).isSome = true → (∃ t, exec (.pointingRead n c) s = .next t ∧
        t.sys.crs[c].pt.pos = p + 1 ∧ t.sys.crs[c].pt.lastAt = some x.now ∧ t.sys.crs[c].pt.out = x.c.pt.out ++ [(p, none, false)] ∧
        t.sys.crs[c].rdq = x.c.rdq ∧ t.sys.crs[c].wrq = x.c.wrq)) ∧
    (x.f 0x1908 31 0 ≠ 0 → x.f 0x1908 31 0 < lapAge x / tuPerS → x.c.pt.ovr = false → crsUp x = true → (∃ t, exec (.lapOverdue n c) s = .next t ∧
      t.sys.crs[c] = { x.c with pt := { x.c.pt with ovr := true } } ∧ getF t.sys.z (crsBase c.val + 0x1910) 1 1 = 1)) ∧
    (x.c.pt.ovr = true → (∃ t, exec (.lapOverdue n c) s = .next t ∧ t.sys.crs[c] = x.c))) ∧
  (∀ (s : State) (n : Nat) (c : CourseId) (e : Fin 64) (ws : List Word) (d : Nat), closedUp s.sys.z = false →
    let x := crsBefore s n c
    let a := coordOf x x.c.rpt[e].line
    let others (k : CourseSt) : Prop := ∀ j, j ≠ e → k.rpt[j] = x.c.rpt[j]
    (rptOn x = true → x.c.rpt[e].st = 1 ∨ x.c.rpt[e].st = 3 → x.f 0x1A00 12 5 ≠ 0 → x.c.rpt[e].corr + x.f 0x1A00 12 5 * 3600 * tuPerS ≤ x.now →
      (∃ t, exec (.rtWatchExpiry n c e) s = .next t ∧ t.sys.crs[c].rpt[e].st = 0 ∧ others t.sys.crs[c])) ∧
    (x.c.rpt[e].st = 4 → x.c.rpt[e].evt = some ws → potrieOn x.z = true →
      (∀ d, d < 10 → x.c.rpt[e].devs.testBit d = true → markOf x (prankOf x a.lr) a.sub = some d) →
      (∃ t, exec (.hardLineHandling n c e) s = .next t ∧ t.sys.crs[c].rpt[e].st = 0 ∧ t.sys.crs[c].rpt[e].evt = none ∧ others t.sys.crs[c])) ∧
    (x.c.rpt[e].st = 4 → x.c.rpt[e].evt = some ws → potrieOn x.z = true → markOf x (prankOf x a.lr) a.sub = none →
      (List.range 10).filter (fun d => x.c.rpt[e].devs.testBit d) = [d] → repairPol x.z &&& 3#32 = 0#32 → (∃ t, exec (.hardLineHandling n c e) s = .next t ∧
        (t.sys.crs[c].rpt[e] = { x.c.rpt[e] with evt := none } ∧ others t.sys.crs[c] ∧ ∃ k, t.sys.z.mgt.offers = x.z.mgt.offers ++
          [{ id := x.z.mgt.offerNext, crs := c.val, kind := k, line := x.c.rpt[e].line, dev := d, fmtA := ws }]))))

/-- LINK_START, LINK_STOP, SR_REQ and SR_EXIT (R209, R211, R181): what a written start bit of a course does. MNT_REQ, TCMD and FRESH_INIT (R236, R292,
R339): a written request of a course's units. The readings of the model it rests on are log entries 21, 90. That exec answers a next state, under
conditions on the state and the operands alone, it says of LINK_START, LINK_STOP, SR_REQ, SR_EXIT, MNT_REQ, TCMD and FRESH_INIT. -/
def Obligations.CourseStartBits : Prop :=
  (∀ (s : State) (n : Nat) (o : Orig) (c : CourseId), closedUp s.sys.z = false →
    let x := crsBefore s n c
    let may (p : Nat) : Prop := mayWrite x.z o.val (crsBase c.val + p) = true
    (powered x.z c = true → may 0x0800 → x.c.lk.st = 0 → (∃ t, exec (.linkStart n o c) s = .next t ∧
      t.sys.crs[c].lk.st = 1 ∧ t.sys.crs[c].lk.fromDown = true ∧ t.sys.z.cinfo[c].failed = false)) ∧
    (powered x.z c = true → may 0x0800 → x.c.lk.st = 2 → (∃ t, exec (.linkStop n o c) s = .next t ∧
      t.sys.crs[c].lk.st = 5 ∧ t.sys.crs[c].lk.stop = true ∧ t.sys.crs[c].sr = x.c.sr)) ∧
    (crsUp x = true → may 0x1410 → x.c.sr.st = 0 → (∃ t, exec (.srReq n o c) s = .next t ∧ t.sys.crs[c].sr = { x.c.sr with st := 1 } ∧ t.sys.crs[c].lk = x.c.lk)) ∧
    (crsUp x = true → may 0x1410 → x.c.sr.st = 3 → x.c.lk.st = 2 → (∃ t, exec (.srExit n o c) s = .next t ∧
      t.sys.crs[c].sr.st = 5 ∧ (∀ k : Fin 2, t.sys.crs[c].sr.srx[k] = none) ∧ t.sys.crs[c].lk = x.c.lk))) ∧
  (∀ (s : State) (n : Nat) (o : Orig) (c : CourseId) (v : Word), closedUp s.sys.z = false →
    let x := crsBefore s n c
    let may (p : Nat) : Prop := mayWrite x.z o.val (crsBase c.val + p) = true
    powered x.z c = true →
    (may 0x0840 → secOrig x.z o.val = true → bitsOf v 1 0 = 1 → x.c.lk.mnt.st ≠ 1 → (∃ t, exec (.mntReq n o c v) s = .next t ∧
      t.sys.crs[c].lk.mnt.st = 1 ∧ t.sys.crs[c].lk.mnt.tag = (x.c.lk.mnt.tag + 1) % 256 ∧
      t.sys.crs[c].lk.mnt.req = some (⟨1, (x.c.lk.mnt.tag + 1) % 256, bitsOf v 19 2 * 4, 0, 0⟩, x.cyc) ∧ t.sys.crs[c].cb = x.c.cb)) ∧
    (may 0x2410 → secOrig x.z o.val = true → bitsOf v 3 0 ≠ 0 → x.c.tr.fifo.length < 16 → (∃ t, exec (.tcmd n o c v) s = .next t ∧
      t.sys.crs[c].tr.fifo.length = x.c.tr.fifo.length + 1 ∧ t.sys.crs[c].tr.fifo.take x.c.tr.fifo.length = x.c.tr.fifo)) ∧
    (may 0x2410 → secOrig x.z o.val = true → bitsOf v 3 0 ≠ 0 → 16 ≤ x.c.tr.fifo.length → (∃ t, exec (.tcmd n o c v) s = .next t ∧
      t.sys.crs[c].tr.fifo = x.c.tr.fifo ∧ getF t.sys.z (crsBase c.val + 0x2408) 1 1 = 1)) ∧
    (may 0x2020 → x.info.fence ≠ 0 ∨ x.z.boot.ready = false → (∃ t, exec (.freshInit n o c v) s = .next t ∧
      t.sys.crs[c].fm = freshMapOf (min (bitsOf v 17 0) 131072) (regionCount x) ∧ t.sys.crs[c].claims = [] ∧ t.sys.crs[c].rdq = x.c.rdq)) ∧
    (may 0x2020 → x.info.fence = 0 → x.z.boot.ready = true → (∃ t, exec (.freshInit n o c v) s = .next t ∧ t.sys.crs[c] = x.c)))

/-- KEY_VALID_ERASE, DEBUG_ATTACH and DEBUG_LOWER (R280, R305 to R309, Table 15-3): a secure write erases the slots it names; an attach that needs no
token gives OBSERVE at once and empties the key store before INVASIVE; a lower level takes effect at once. The readings of the model it rests on are
log entries 32, 33. That exec answers a next state, under conditions on the state and the operands alone, it says of KEY_VALID_ERASE, DEBUG_ATTACH and
DEBUG_LOWER. -/
def Obligations.SecurityWrites : Prop :=
  ∀ (s : State) (n : Nat) (o : Orig) (k : Fin 32) (v : Word) (lvl : Fin 2), closedUp s.sys.z = false →
    let z := (before s n).z
    (mayWrite z o.val (secBase + 0x1000 + 4 * k.val) = true → secOrig z o.val = true → (∃ t, exec (.keyValidErase n o k v) s = .next t ∧
      (t.sys.z.keys.slots = (List.range 32).foldl (fun m i => if v.getLsbD i then tblDel m (32 * k.val + i) else m) z.keys.slots ∧
      (∀ b : BayId, ∀ i, i < 32 → v.getLsbD i = true → 32 * k.val + i ∉ t.sys.z.keys.cache[b])))) ∧
    (mayWrite z o.val (secBase + 0x2000) = true → z.pwr.st < 2 → z.dbg.zero = none → z.dbg.level = 0 → z.dbg.lockTo = none →
      (attachNeed z.boot.lc 1 = 0 → (∃ t, exec (.debugAttach n o 1) s = .next t ∧ t.sys.z.dbg.level = 1 ∧ t.sys.z.keys.slots = z.keys.slots)) ∧
      (attachNeed z.boot.lc 2 = 0 → (∃ t, exec (.debugAttach n o 2) s = .next t ∧ t.sys.z.dbg.level = 0 ∧ t.sys.z.keys.slots = [] ∧
        t.sys.z.dbg.zero = some ((before s n).now + zeroTu))) ∧
      (attachNeed z.boot.lc 2 = 2 → (∃ t, exec (.debugAttach n o 2) s = .next t ∧ t.sys.z.dbg.level = 0 ∧ t.sys.z.dbg.zero = none ∧ t.sys.z.keys = z.keys))) ∧
    (mayWrite z o.val (secBase + 0x2000) = true → z.pwr.st < 2 → z.dbg.zero = none → lvl.val < z.dbg.level → (∃ t, exec (.debugLower n o lvl) s = .next t ∧
      t.sys.z.dbg.level = lvl.val ∧ t.sys.z.keys.slots = z.keys.slots))

/-- KEY_ZERO_DONE, DEBUG_CLOCK_LOSS, LOCKOUT_EXPIRY and TOKEN_EXPIRY (R306 to R309): the zeroing ends with an empty key store and, unless it was
cancelled, INVASIVE; a clock absent for 1 ms closes the port; a lockout and a consent token end at their times and not before. The readings of the
model it rests on are log entries 32, 33. That exec answers a next state, under conditions on the state and the operands alone, it says of
KEY_ZERO_DONE, DEBUG_CLOCK_LOSS, LOCKOUT_EXPIRY and TOKEN_EXPIRY. -/
def Obligations.DebugPortEvents : Prop :=
  ∀ (s : State) (n ns t0 : Nat) (k : Token),
    let z := (before s n).z
    let now := (before s n).now
    (z.dbg.zero = some t0 → t0 ≤ now → (∃ t, exec (.keyZeroDone n) s = .next t ∧ (t.sys.z.dbg.zero = none ∧ t.sys.z.dbg.cancel = false ∧ t.sys.z.keys.slots = [] ∧
      t.sys.z.keys.kek = z.keys.kek ∧ t.sys.z.dbg.level = (if z.dbg.cancel then z.dbg.level else 2)))) ∧
    (z.dbg.zero = some t0 → now < t0 → (∃ t, exec (.keyZeroDone n) s = .next t ∧ t.sys.z.dbg = z.dbg ∧ t.sys.z.keys = z.keys)) ∧
    (1000000 ≤ ns → (∃ t, exec (.debugClockLoss n ns) s = .next t ∧ (t.sys.z.dbg.level = 0 ∧ (z.dbg.zero = some t0 → t.sys.z.dbg.cancel = true) ∧ t.sys.z.keys = z.keys))) ∧
    (z.dbg.lockTo = some t0 → (∃ t, exec (.lockoutExpiry n) s = .next t ∧ (t.sys.z.dbg = { z.dbg with lockTo := if t0 ≤ now then none else some t0 }))) ∧
    (z.dbg.consent = some k → (∃ t, exec (.tokenExpiry n) s = .next t ∧ (t.sys.z.dbg = { z.dbg with consent := if k.exp ≤ now then none else some k })))

/-- DOZE_ENTERED, RETAIN_WAKE_TIMER, CREDIT_PARK_RETURN and RETAIN_EXIT (R312, R313, R316, R317): DOZE gates the homes; the wake timer begins the
exit; a returned park is noted; the exit ends in DOZE with the saved state gone back and Potrie running. DOZE_REQ, WAKE, HOD_FREEZE, HOD_UNFREEZE,
SNAP, SNAP_DONE and LAT_SEL_COPY (R312, R316, R346, R347, R349, R122): what a written control bit of the ZMC does, and the end of a snapshot. The
readings of the model it rests on are log entries 21, 28, 78, 79. That exec answers a next state, under conditions on the state and the operands
alone, it says of DOZE_ENTERED, RETAIN_WAKE_TIMER, CREDIT_PARK_RETURN, RETAIN_EXIT, DOZE_REQ, WAKE, HOD_FREEZE, HOD_UNFREEZE, SNAP, SNAP_DONE and
LAT_SEL_COPY. -/
def Obligations.PowerAndControlBits : Prop :=
  (∀ (s : State) (n : Nat) (p : PortId) (r : RetainSt) (a : SaveArea) (dead : List CourseId) (c : CourseId),
    let x := before s n
    let z := x.z
    let ms := getF z (zmcBase + 0x0600) 19 4
    (closedUp z = false → z.pwr.st = 0 → z.pwr.doze = true → allAsleep x = true → homesEmpty z = true → (∃ t, exec (.dozeEntered n) s = .next t ∧
      t.sys.z.pwr = { z.pwr with st := 1 } ∧ (∀ h : HomeId, t.sys.z.homes[h] = { z.homes[h] with gated := true }) ∧ t.sys.crs = x.crs)) ∧
    (z.pwr.st = 3 → ms ≠ 0 → z.pwr.inAt + ms * tuPerMs ≤ x.now → (∃ t, exec (.retainWakeTimer n) s = .next t ∧ t.sys.z.pwr = { z.pwr with st := 4, wakeSrc := 3 } ∧ t.sys.crs = x.crs)) ∧
    (closedUp z = false → z.pwr.st = 2 → z.pwr.ret = some r → (∃ t, exec (.creditParkReturn n p) s = .next t ∧
      (t.sys.z.pwr = { z.pwr with ret := some { r with parked := if p ∈ r.parked then r.parked else p :: r.parked } } ∧ t.sys.crs = x.crs))) ∧
    (z.pwr.st = 4 → z.pwr.save = some a → z.pwr.ret = some r → (∃ t, exec (.retainExit n dead) s = .next t ∧
      (t.sys.z.pwr.st = 1 ∧ t.sys.z.pwr.doze = true ∧ t.sys.z.pwr.ret = none ∧ t.sys.z.pwr.save = none ∧ t.sys.z.mgt.up = true ∧ t.sys.z.boot.ready = (z.boot.phase == 7) ∧
      OutMsg.credits ∈ t.sys.z.out ∧ (liveCrs z c = false → t.sys.crs[c] = x.crs[c]) ∧ (liveCrs z c = true → c ∈ dead → t.sys.z.cinfo[c].fence = 3))))) ∧
  (∀ (s : State) (n : Nat) (o : Orig) (h : HomeId) (v : Word) (c : CourseId),
    let x := before s n
    let z := x.z
    let may (p : Nat) : Prop := mayWrite z o.val p = true
    (closedUp z = false → may (zmcBase + 0x0600) → z.boot.phase = 7 → z.pwr.st = 0 → (∃ t, exec (.dozeReq n o) s = .next t ∧ (t.sys.z.pwr.doze = true ∧
      (liveCrs z c = true → x.crs[c].sr.st = 0 → t.sys.crs[c].sr.st = 1) ∧ (liveCrs z c = false → t.sys.crs[c] = x.crs[c])))) ∧
    (z.pwr.st = 3 → z.boot.hold = 0 → z.boot.pwrGood = true → may (zmcBase + 0x0600) → (∃ t, exec (.wake n o) s = .next t ∧
      t.sys.z.pwr.st = 4 ∧ t.sys.z.pwr.wakeSrc = 1 ∧ t.sys.crs = x.crs)) ∧
    (closedUp z = false → may (hodBase + 0x0010) → (∃ t, exec (.hodFreeze n o) s = .next t ∧ t.sys.z.hod.frozen = true ∧ t.sys.crs = x.crs)) ∧
    (closedUp z = false → may (hodBase + 0x0010) → (∃ t, exec (.hodUnfreeze n o) s = .next t ∧ t.sys.z.hod.frozen = false ∧ t.sys.crs = x.crs)) ∧
    (closedUp z = false → may (hodBase + 0x0010) → z.hod.busy = false → z.boot.hodOk = true →
      ((curWord x (hodBase + 0x0010)).getLsbD 0 = true → z.hod.frozen = true) → (∃ t, exec (.snap n o) s = .next t ∧
      t.sys.z.hod.busy = true ∧ t.sys.z.hod.trig = 1 ∧ t.sys.z.hod.trigAt = x.now ∧ t.sys.crs = x.crs)) ∧
    (closedUp z = false → z.hod.busy = true → (∃ t, exec (.snapDone n) s = .next t ∧ t.sys.z.hod.busy = false ∧ t.sys.z.hod.seq = z.hod.seq + 2 ∧ t.sys.crs = x.crs)) ∧
    (closedUp z = false → may (homeBase h.val + 0x1A08) → bitsOf v 4 0 < 24 → (∃ t, exec (.latSelCopy n o h v) s = .next t ∧
      (∀ j, j < 16 → wordAt t.sys.z (homeBase h.val + 0x1A10 + 4 * j) =
        tblGet 0 (if fckCyc z.homes[h].latAt < fckCyc x.now then latFlush z.homes[h] else z.homes[h]).hist (16 * (2 * (4 * bitsOf v 4 0 + bitsOf v 6 5) + bitsOf v 7 7) + j)))))

/-- RETEST_DRAIN_DONE, RETEST_TEST_DONE, RETEST_RESTORE_DONE and RETEST_STALL_EXPIRY (R337, R338, Table 16-7): the states of a re-test, its fences,
and the poisoned answer to a request that has waited too long. The readings of the model it rests on are log entry 61. That exec answers a next state,
under conditions on the state and the operands alone, it says of RETEST_DRAIN_DONE, RETEST_TEST_DONE, RETEST_RESTORE_DONE and RETEST_STALL_EXPIRY. -/
def Obligations.RetestGoesOn : Prop :=
  ∀ (s : State) (n : Nat) (c : CourseId) (obs : List BistObs) (b : BayId) (r : QReq) (loc : Nat), closedUp s.sys.z = false →
    let x := before s n
    let z := x.z
    let bg := bistBg z
    let others (t : State) : Prop := ∀ d, d ≠ c → t.sys.crs[d] = x.crs[d]
    z.boot.rtCourse = c.val →
    (z.boot.rtState = 1 → z.cinfo[c].fence ≠ 0 ∨ (crsDrained x c = true ∧ crsQuiet x.crs[c] = true) → (∃ t, exec (.retestDrainDone n) s = .next t ∧
      t.sys.z.boot.rtState = 2 ∧ t.sys.z.cinfo[c].fence = 4 ∧ t.sys.crs = x.crs)) ∧
    (z.boot.rtState = 2 → (∀ o ∈ obs, o.rows1 = [] ∧ o.steps = bistLen ((memWords o.mem).getD 0) bg ∧ o.sig = Config.bistRef o.mem bg) → (∃ t, exec (.retestTestDone n obs true) s = .next t ∧
      t.sys.z.boot.rtState = 3 ∧ t.sys.z.cinfo[c].fence = z.cinfo[c].fence ∧ others t)) ∧
    (z.boot.rtState = 2 → (∃ t, exec (.retestTestDone n obs false) s = .next t ∧ t.sys.z.boot.rtState = 0 ∧ t.sys.z.cinfo[c].fence = 1 ∧ others t)) ∧
    (z.boot.rtState = 3 → z.cinfo[c].trained = true → (∃ t, exec (.retestRestoreDone n) s = .next t ∧ t.sys.z.boot.rtState = 0 ∧ t.sys.z.cinfo[c].fence = 0 ∧
      t.sys.crs[c].sr.st = 3 ∧ t.sys.crs[c].fm = {} ∧ others t)) ∧
    (z.boot.rtState = 3 → z.cinfo[c].trained = false → (∃ t, exec (.retestRestoreDone n) s = .next t ∧ t.sys.z.boot.rtState = 0 ∧ t.sys.z.cinfo[c].fence = 2 ∧ others t)) ∧
    (homesRun z = true → z.boot.rtState ≠ 0 → z.bays[b].q = [r] → r.dest = some (c, loc) → liveFinal z r.port = true → isWr r.kind = false → r.lines = 1 →
      stallFrom z r + getF z (secBase + 0x3020) 19 4 * tuPerUs ≤ x.now → (∃ t, exec (.retestStallExpiry n b r.port) s = .next t ∧
        t.sys.z.bays[b].q = [] ∧ OutMsg.data r.port r.tag r.addr 0 true 0 false false ∈ t.sys.z.out ∧ t.sys.crs = x.crs))

/-- MIRROR_WRITE, MIRROR_READ, REGION_FRESH and FAULT_NOTICE (R368, R373, R374, R378): a partner's request for a line of a copy range joins a bay's
queue as a request of P20 in class HI where the bay has room and P20 is not policed; one at a level that the image does not accept splits the pair; a
region told FRESH is cleared as a request to its course; a notice takes this end's primary ranges to SOLO. MIRROR_ACK, MIRROR_READ_DATA and
RESYNC_LINE (R367, R369, R372, R373): an acknowledged line is free, and the write that waited for it completes; the answer to a mirror read ends it; a
pull of the next line asks the partner for it. The readings of the model it rests on are log entries 74, 75, 76. That exec answers a next state, under
conditions on the state and the operands alone, it says of MIRROR_WRITE, MIRROR_READ, REGION_FRESH, FAULT_NOTICE, MIRROR_ACK, MIRROR_READ_DATA and
RESYNC_LINE. -/
def Obligations.PairMessages : Prop :=
  (∀ (s : State) (n : Nat) (addr : BitVec 64) (d : Line) (poison : Bool) (lvl : Byte) (off : BitVec 24) (c : CourseId) (loc : Nat), homesRun s.sys.z = true →
    let z := (before s n).z
    let ok : Prop := quoin z = true ∧ lvlOk z lvl.toNat = true
    let b := bayOf c
    let joins (t : State) (k : ReqKind) : Prop := ∃ q, t.sys.z.bays[b].q = z.bays[b].q ++ [q] ∧ q.port = 20 ∧ q.kind = k ∧ q.addr = addr ∧
      q.dest = some (c, loc) ∧ q.mirror = true ∧ q.cls = 1 ∧ ∀ e, e ≠ b → t.sys.z.bays[e] = z.bays[e]
    (ok → ([0, 1] : List HomeId).findSome? (fun h => (decodeAddr z h addr.toNat).map (fun p => (h, p))) = some (homeOf c, c, loc) → (mirFind z 1 addr.toNat).isSome = true →
      mayRequest z 20 b = true → bitsOf (wordAt z (polReg (bayHome b) 20)) 0 0 = 0 → bitsOf (wordAt z (polReg (bayHome b) 20)) 4 4 = 0 →
      (∃ t, exec (.mirrorWrite n addr d poison lvl) s = .next t ∧ joins t .wrFull) ∧ (∃ t, exec (.mirrorRead n addr lvl) s = .next t ∧ joins t .rdCur)) ∧
    (quoin z = true → lvlOk z lvl.toNat = false → (∃ t, exec (.mirrorWrite n addr d poison lvl) s = .next t ∧ t.sys.z.pair.st = 3 ∧ t.sys.z.bays = z.bays) ∧
      (∃ t, exec (.mirrorRead n addr lvl) s = .next t ∧ t.sys.z.pair.st = 3 ∧ t.sys.z.bays = z.bays)) ∧
    (ok → 7 ≤ lvl.toNat → ([0, 1] : List HomeId).findSome? (fun h => decodeAddr z h addr.toNat) = some (c, loc) → (mirFind z 1 addr.toNat).isSome = true →
      (∃ t, exec (.regionFresh n addr lvl) s = .next t ∧ (t.sys.z.jclr[c] = z.jclr[c] ++ [⟨0, loc / 2 ^ 22, loc / 2 ^ 22 + 1⟩] ∧ (∀ e, e ≠ c → t.sys.z.jclr[e] = z.jclr[e]) ∧
        t.sys.crs = (before s n).crs))) ∧
    (ok → z.pair.fault = none → (∃ t, exec (.faultNotice n off lvl) s = .next t ∧
      (∀ r, r < 8 → (let st := z.pair.mirs[toMir r].st
        ((mirOf z r).role = 0 → st = 1 ∨ st = 3 ∨ st = 4 → t.sys.z.pair.mirs[toMir r].st = 2) ∧
        ((mirOf z r).role ≠ 0 → t.sys.z.pair.mirs[toMir r] = z.pair.mirs[toMir r]))))) ∧
    (quoin z = false → (∃ t, exec (.faultNotice n off lvl) s = .next t ∧ t.sys.z.pair.mirs = z.pair.mirs ∧ t.sys.z.bays = z.bays))) ∧
  (∀ (s : State) (n : Nat) (addr a : BitVec 64) (d : Option Line) (h : HomeId) (r : HReq) (k o loc : Nat) (c : CourseId) (p : BitVec 64 × Nat × Bool), homesRun s.sys.z = true →
    let z := (before s n).z
    let waits (q : HReq) : Bool := q.ph == .peer && isWr q.kind && q.addr.toNat / 64 == a.toNat / 64
    (z.pair.acks.find? (fun a => atPeer z a == some addr) = some a → z.pair.flight = [] → (∀ i : Fin 8, z.pair.mirs[i].st ≠ 4) → z.homes[(0 : Fin 2)].hrq.find? waits = some r →
      homeOf r.crs = 0 → r.mirror = false → r.orphan = false → (∃ t, exec (.mirrorAck n addr) s = .next t ∧ t.sys.z.pair.acks = removeFirst (fun x => x == a) z.pair.acks ∧
        t.sys.z.homes[(0 : Fin 2)].hrq = removeFirst (fun q => q.rid == r.rid) z.homes[(0 : Fin 2)].hrq ∧ OutMsg.wrDone r.port r.tag false ∈ t.sys.z.out)) ∧
    (z.pair.reads.find? (fun p => atPeer z p.1 == some addr) = some p → p.2.1 = r.rid → r.rid ≠ 0 → p.2.2 = false → r.addr = p.1 → homeOf r.crs = 0 → r.mirror = false → r.orphan = false →
      z.homes[(0 : Fin 2)].hrq.find? (fun q => q.rid == p.2.1 && q.ph == .peer && q.addr == p.1) = some r → (∃ t, exec (.mirrorReadData n addr none) s = .next t ∧
        (t.sys.z.pair.reads = removeFirst (fun q => q == p) z.pair.reads ∧ OutMsg.data r.port r.tag r.addr 0 true r.grant false false ∈ t.sys.z.out ∧
        (r.grant ≠ 2 → t.sys.z.homes[(0 : Fin 2)].hrq = removeFirst (fun q => q.rid == r.rid) z.homes[(0 : Fin 2)].hrq)))) ∧
    (z.pair.reads = [] → (∃ t, exec (.mirrorReadData n addr d) s = .next t ∧ t.sys.z.pair = z.pair ∧ t.sys.z.homes = z.homes)) ∧
    (closedUp z = false → (∀ i : Fin 8, z.pair.mirs[i].lose = false) →
      (List.range 8).find? (fun r => z.pair.mirs[toMir r].st == 4 && decide (z.pair.mirs[toMir r].pos[h] < (mirOf z r).size)) = some k → z.pair.mirs[toMir k].pull = true →
      z.pair.mirs[toMir k].frs = [] → inFlight z h < getF z (zmcBase + 0x0C00) 11 8 → nextLine z h (mirOf z k) 2048 z.pair.mirs[toMir k].pos[h] = some (o, c, loc) →
      busyLine z h c (loc / 64) = false → z.cinfo[c].fence = 0 → (∃ t, exec (.resyncLine n h) s = .next t ∧
        t.sys.z.pair.flight = z.pair.flight ++ [⟨k, h.val, (mirOf z k).base + o, true⟩] ∧ t.sys.z.pair.mirs[toMir k].pos[h] = o + 64 ∧
        OutMsg.mirRead (peerAddr z k (BitVec.ofNat 64 ((mirOf z k).base + o))) z.pair.lvlRun ∈ t.sys.z.out ∧ t.sys.z.homes = z.homes)))
end

