-- ==== Sys2Proof/Laws/State.lean ====
section
/-! SUPPORT. One lemma per field for each update of the State: the parts outside the courses, vectors of like things, and a course with what it
sees of the block. -/

namespace Sys2Proof.Machine

@[simp] theorem send_rg (z m) : (send z m).rg = Zmc.rg z := rfl
@[simp] theorem send_setu (z m) : (send z m).setu = Zmc.setu z := rfl
@[simp] theorem send_plumb (z m) : (send z m).plumb = Zmc.plumb z := rfl
@[simp] theorem send_bond (z m) : (send z m).bond = Zmc.bond z := rfl
@[simp] theorem send_mgt (z m) : (send z m).mgt = Zmc.mgt z := rfl
@[simp] theorem send_keys (z m) : (send z m).keys = Zmc.keys z := rfl
@[simp] theorem send_dbg (z m) : (send z m).dbg = Zmc.dbg z := rfl
@[simp] theorem send_boot (z m) : (send z m).boot = Zmc.boot z := rfl
@[simp] theorem send_pwr (z m) : (send z m).pwr = Zmc.pwr z := rfl
@[simp] theorem send_therm (z m) : (send z m).therm = Zmc.therm z := rfl
@[simp] theorem send_hod (z m) : (send z m).hod = Zmc.hod z := rfl
@[simp] theorem send_pair (z m) : (send z m).pair = Zmc.pair z := rfl
@[simp] theorem send_pkg0 (z m) : (send z m).pkg0 = Zmc.pkg0 z := rfl
@[simp] theorem send_pins (z m) : (send z m).pins = Zmc.pins z := rfl
@[simp] theorem send_liveAt (z m) : (send z m).liveAt = Zmc.liveAt z := rfl
@[simp] theorem send_live (z m) : (send z m).live = Zmc.live z := rfl
@[simp] theorem send_homes (z m) : (send z m).homes = Zmc.homes z := rfl
@[simp] theorem send_bays (z m) : (send z m).bays = Zmc.bays z := rfl
@[simp] theorem send_cinfo (z m) : (send z m).cinfo = Zmc.cinfo z := rfl
@[simp] theorem send_jreq (z m) : (send z m).jreq = Zmc.jreq z := rfl
@[simp] theorem send_jdat (z m) : (send z m).jdat = Zmc.jdat z := rfl
@[simp] theorem send_jsts (z m) : (send z m).jsts = Zmc.jsts z := rfl
@[simp] theorem send_jclr (z m) : (send z m).jclr = Zmc.jclr z := rfl
@[simp] theorem send_clrs (z m) : (send z m).clrs = Zmc.clrs z := rfl
@[simp] theorem send_clrNext (z m) : (send z m).clrNext = Zmc.clrNext z := rfl
@[simp] theorem send_bus (z m) : (send z m).bus = Zmc.bus z := rfl
@[simp] theorem needBond_rg (z) : (needBond z).rg = Zmc.rg z := rfl
@[simp] theorem needBond_setu (z) : (needBond z).setu = Zmc.setu z := rfl
@[simp] theorem needBond_plumb (z) : (needBond z).plumb = Zmc.plumb z := rfl
@[simp] theorem needBond_mgt (z) : (needBond z).mgt = Zmc.mgt z := rfl
@[simp] theorem needBond_keys (z) : (needBond z).keys = Zmc.keys z := rfl
@[simp] theorem needBond_dbg (z) : (needBond z).dbg = Zmc.dbg z := rfl
@[simp] theorem needBond_boot (z) : (needBond z).boot = Zmc.boot z := rfl
@[simp] theorem needBond_pwr (z) : (needBond z).pwr = Zmc.pwr z := rfl
@[simp] theorem needBond_therm (z) : (needBond z).therm = Zmc.therm z := rfl
@[simp] theorem needBond_hod (z) : (needBond z).hod = Zmc.hod z := rfl
@[simp] theorem needBond_pair (z) : (needBond z).pair = Zmc.pair z := rfl
@[simp] theorem needBond_pkg0 (z) : (needBond z).pkg0 = Zmc.pkg0 z := rfl
@[simp] theorem needBond_pins (z) : (needBond z).pins = Zmc.pins z := rfl
@[simp] theorem needBond_liveAt (z) : (needBond z).liveAt = Zmc.liveAt z := rfl
@[simp] theorem needBond_live (z) : (needBond z).live = Zmc.live z := rfl
@[simp] theorem needBond_homes (z) : (needBond z).homes = Zmc.homes z := rfl
@[simp] theorem needBond_bays (z) : (needBond z).bays = Zmc.bays z := rfl
@[simp] theorem needBond_cinfo (z) : (needBond z).cinfo = Zmc.cinfo z := rfl
@[simp] theorem needBond_jreq (z) : (needBond z).jreq = Zmc.jreq z := rfl
@[simp] theorem needBond_jdat (z) : (needBond z).jdat = Zmc.jdat z := rfl
@[simp] theorem needBond_jsts (z) : (needBond z).jsts = Zmc.jsts z := rfl
@[simp] theorem needBond_jclr (z) : (needBond z).jclr = Zmc.jclr z := rfl
@[simp] theorem needBond_clrs (z) : (needBond z).clrs = Zmc.clrs z := rfl
@[simp] theorem needBond_clrNext (z) : (needBond z).clrNext = Zmc.clrNext z := rfl
@[simp] theorem needBond_out (z) : (needBond z).out = Zmc.out z := rfl
@[simp] theorem needBond_bus (z) : (needBond z).bus = Zmc.bus z := rfl
@[simp] theorem modInfo_rg (z c f) : (modInfo z c f).rg = Zmc.rg z := rfl
@[simp] theorem modInfo_setu (z c f) : (modInfo z c f).setu = Zmc.setu z := rfl
@[simp] theorem modInfo_plumb (z c f) : (modInfo z c f).plumb = Zmc.plumb z := rfl
@[simp] theorem modInfo_bond (z c f) : (modInfo z c f).bond = Zmc.bond z := rfl
@[simp] theorem modInfo_mgt (z c f) : (modInfo z c f).mgt = Zmc.mgt z := rfl
@[simp] theorem modInfo_keys (z c f) : (modInfo z c f).keys = Zmc.keys z := rfl
@[simp] theorem modInfo_dbg (z c f) : (modInfo z c f).dbg = Zmc.dbg z := rfl
@[simp] theorem modInfo_boot (z c f) : (modInfo z c f).boot = Zmc.boot z := rfl
@[simp] theorem modInfo_pwr (z c f) : (modInfo z c f).pwr = Zmc.pwr z := rfl
@[simp] theorem modInfo_therm (z c f) : (modInfo z c f).therm = Zmc.therm z := rfl
@[simp] theorem modInfo_hod (z c f) : (modInfo z c f).hod = Zmc.hod z := rfl
@[simp] theorem modInfo_pair (z c f) : (modInfo z c f).pair = Zmc.pair z := rfl
@[simp] theorem modInfo_pkg0 (z c f) : (modInfo z c f).pkg0 = Zmc.pkg0 z := rfl
@[simp] theorem modInfo_pins (z c f) : (modInfo z c f).pins = Zmc.pins z := rfl
@[simp] theorem modInfo_liveAt (z c f) : (modInfo z c f).liveAt = Zmc.liveAt z := rfl
@[simp] theorem modInfo_live (z c f) : (modInfo z c f).live = Zmc.live z := rfl
@[simp] theorem modInfo_homes (z c f) : (modInfo z c f).homes = Zmc.homes z := rfl
@[simp] theorem modInfo_bays (z c f) : (modInfo z c f).bays = Zmc.bays z := rfl
@[simp] theorem modInfo_jreq (z c f) : (modInfo z c f).jreq = Zmc.jreq z := rfl
@[simp] theorem modInfo_jdat (z c f) : (modInfo z c f).jdat = Zmc.jdat z := rfl
@[simp] theorem modInfo_jsts (z c f) : (modInfo z c f).jsts = Zmc.jsts z := rfl
@[simp] theorem modInfo_jclr (z c f) : (modInfo z c f).jclr = Zmc.jclr z := rfl
@[simp] theorem modInfo_clrs (z c f) : (modInfo z c f).clrs = Zmc.clrs z := rfl
@[simp] theorem modInfo_clrNext (z c f) : (modInfo z c f).clrNext = Zmc.clrNext z := rfl
@[simp] theorem modInfo_out (z c f) : (modInfo z c f).out = Zmc.out z := rfl
@[simp] theorem modInfo_bus (z c f) : (modInfo z c f).bus = Zmc.bus z := rfl
@[simp] theorem modHome_rg (z h f) : (modHome z h f).rg = Zmc.rg z := rfl
@[simp] theorem modHome_setu (z h f) : (modHome z h f).setu = Zmc.setu z := rfl
@[simp] theorem modHome_plumb (z h f) : (modHome z h f).plumb = Zmc.plumb z := rfl
@[simp] theorem modHome_bond (z h f) : (modHome z h f).bond = Zmc.bond z := rfl
@[simp] theorem modHome_mgt (z h f) : (modHome z h f).mgt = Zmc.mgt z := rfl
@[simp] theorem modHome_keys (z h f) : (modHome z h f).keys = Zmc.keys z := rfl
@[simp] theorem modHome_dbg (z h f) : (modHome z h f).dbg = Zmc.dbg z := rfl
@[simp] theorem modHome_boot (z h f) : (modHome z h f).boot = Zmc.boot z := rfl
@[simp] theorem modHome_pwr (z h f) : (modHome z h f).pwr = Zmc.pwr z := rfl
@[simp] theorem modHome_therm (z h f) : (modHome z h f).therm = Zmc.therm z := rfl
@[simp] theorem modHome_hod (z h f) : (modHome z h f).hod = Zmc.hod z := rfl
@[simp] theorem modHome_pair (z h f) : (modHome z h f).pair = Zmc.pair z := rfl
@[simp] theorem modHome_pkg0 (z h f) : (modHome z h f).pkg0 = Zmc.pkg0 z := rfl
@[simp] theorem modHome_pins (z h f) : (modHome z h f).pins = Zmc.pins z := rfl
@[simp] theorem modHome_liveAt (z h f) : (modHome z h f).liveAt = Zmc.liveAt z := rfl
@[simp] theorem modHome_live (z h f) : (modHome z h f).live = Zmc.live z := rfl
@[simp] theorem modHome_bays (z h f) : (modHome z h f).bays = Zmc.bays z := rfl
@[simp] theorem modHome_cinfo (z h f) : (modHome z h f).cinfo = Zmc.cinfo z := rfl
@[simp] theorem modHome_jreq (z h f) : (modHome z h f).jreq = Zmc.jreq z := rfl
@[simp] theorem modHome_jdat (z h f) : (modHome z h f).jdat = Zmc.jdat z := rfl
@[simp] theorem modHome_jsts (z h f) : (modHome z h f).jsts = Zmc.jsts z := rfl
@[simp] theorem modHome_jclr (z h f) : (modHome z h f).jclr = Zmc.jclr z := rfl
@[simp] theorem modHome_clrs (z h f) : (modHome z h f).clrs = Zmc.clrs z := rfl
@[simp] theorem modHome_clrNext (z h f) : (modHome z h f).clrNext = Zmc.clrNext z := rfl
@[simp] theorem modHome_out (z h f) : (modHome z h f).out = Zmc.out z := rfl
@[simp] theorem modHome_bus (z h f) : (modHome z h f).bus = Zmc.bus z := rfl
@[simp] theorem modBay_rg (z b f) : (modBay z b f).rg = Zmc.rg z := rfl
@[simp] theorem modBay_setu (z b f) : (modBay z b f).setu = Zmc.setu z := rfl
@[simp] theorem modBay_plumb (z b f) : (modBay z b f).plumb = Zmc.plumb z := rfl
@[simp] theorem modBay_bond (z b f) : (modBay z b f).bond = Zmc.bond z := rfl
@[simp] theorem modBay_mgt (z b f) : (modBay z b f).mgt = Zmc.mgt z := rfl
@[simp] theorem modBay_keys (z b f) : (modBay z b f).keys = Zmc.keys z := rfl
@[simp] theorem modBay_dbg (z b f) : (modBay z b f).dbg = Zmc.dbg z := rfl
@[simp] theorem modBay_boot (z b f) : (modBay z b f).boot = Zmc.boot z := rfl
@[simp] theorem modBay_pwr (z b f) : (modBay z b f).pwr = Zmc.pwr z := rfl
@[simp] theorem modBay_therm (z b f) : (modBay z b f).therm = Zmc.therm z := rfl
@[simp] theorem modBay_hod (z b f) : (modBay z b f).hod = Zmc.hod z := rfl
@[simp] theorem modBay_pair (z b f) : (modBay z b f).pair = Zmc.pair z := rfl
@[simp] theorem modBay_pkg0 (z b f) : (modBay z b f).pkg0 = Zmc.pkg0 z := rfl
@[simp] theorem modBay_pins (z b f) : (modBay z b f).pins = Zmc.pins z := rfl
@[simp] theorem modBay_liveAt (z b f) : (modBay z b f).liveAt = Zmc.liveAt z := rfl
@[simp] theorem modBay_live (z b f) : (modBay z b f).live = Zmc.live z := rfl
@[simp] theorem modBay_homes (z b f) : (modBay z b f).homes = Zmc.homes z := rfl
@[simp] theorem modBay_cinfo (z b f) : (modBay z b f).cinfo = Zmc.cinfo z := rfl
@[simp] theorem modBay_jreq (z b f) : (modBay z b f).jreq = Zmc.jreq z := rfl
@[simp] theorem modBay_jdat (z b f) : (modBay z b f).jdat = Zmc.jdat z := rfl
@[simp] theorem modBay_jsts (z b f) : (modBay z b f).jsts = Zmc.jsts z := rfl
@[simp] theorem modBay_jclr (z b f) : (modBay z b f).jclr = Zmc.jclr z := rfl
@[simp] theorem modBay_clrs (z b f) : (modBay z b f).clrs = Zmc.clrs z := rfl
@[simp] theorem modBay_clrNext (z b f) : (modBay z b f).clrNext = Zmc.clrNext z := rfl
@[simp] theorem modBay_out (z b f) : (modBay z b f).out = Zmc.out z := rfl
@[simp] theorem modBay_bus (z b f) : (modBay z b f).bus = Zmc.bus z := rfl
@[simp] theorem modMbx_rg (z m f) : (modMbx z m f).rg = Zmc.rg z := rfl
@[simp] theorem modMbx_setu (z m f) : (modMbx z m f).setu = Zmc.setu z := rfl
@[simp] theorem modMbx_plumb (z m f) : (modMbx z m f).plumb = Zmc.plumb z := rfl
@[simp] theorem modMbx_bond (z m f) : (modMbx z m f).bond = Zmc.bond z := rfl
@[simp] theorem modMbx_keys (z m f) : (modMbx z m f).keys = Zmc.keys z := rfl
@[simp] theorem modMbx_dbg (z m f) : (modMbx z m f).dbg = Zmc.dbg z := rfl
@[simp] theorem modMbx_boot (z m f) : (modMbx z m f).boot = Zmc.boot z := rfl
@[simp] theorem modMbx_pwr (z m f) : (modMbx z m f).pwr = Zmc.pwr z := rfl
@[simp] theorem modMbx_therm (z m f) : (modMbx z m f).therm = Zmc.therm z := rfl
@[simp] theorem modMbx_hod (z m f) : (modMbx z m f).hod = Zmc.hod z := rfl
@[simp] theorem modMbx_pair (z m f) : (modMbx z m f).pair = Zmc.pair z := rfl
@[simp] theorem modMbx_pkg0 (z m f) : (modMbx z m f).pkg0 = Zmc.pkg0 z := rfl
@[simp] theorem modMbx_pins (z m f) : (modMbx z m f).pins = Zmc.pins z := rfl
@[simp] theorem modMbx_liveAt (z m f) : (modMbx z m f).liveAt = Zmc.liveAt z := rfl
@[simp] theorem modMbx_live (z m f) : (modMbx z m f).live = Zmc.live z := rfl
@[simp] theorem modMbx_homes (z m f) : (modMbx z m f).homes = Zmc.homes z := rfl
@[simp] theorem modMbx_bays (z m f) : (modMbx z m f).bays = Zmc.bays z := rfl
@[simp] theorem modMbx_cinfo (z m f) : (modMbx z m f).cinfo = Zmc.cinfo z := rfl
@[simp] theorem modMbx_jreq (z m f) : (modMbx z m f).jreq = Zmc.jreq z := rfl
@[simp] theorem modMbx_jdat (z m f) : (modMbx z m f).jdat = Zmc.jdat z := rfl
@[simp] theorem modMbx_jsts (z m f) : (modMbx z m f).jsts = Zmc.jsts z := rfl
@[simp] theorem modMbx_jclr (z m f) : (modMbx z m f).jclr = Zmc.jclr z := rfl
@[simp] theorem modMbx_clrs (z m f) : (modMbx z m f).clrs = Zmc.clrs z := rfl
@[simp] theorem modMbx_clrNext (z m f) : (modMbx z m f).clrNext = Zmc.clrNext z := rfl
@[simp] theorem modMbx_out (z m f) : (modMbx z m f).out = Zmc.out z := rfl
@[simp] theorem modMbx_bus (z m f) : (modMbx z m f).bus = Zmc.bus z := rfl

@[simp] theorem send_out (z : Zmc) (m : OutMsg) : (send z m).out = z.out ++ [m] := rfl
@[simp] theorem modHome_homes (z : Zmc) (h : HomeId) (f : HomeSt → HomeSt) : (modHome z h f).homes = modV z.homes h f := rfl
@[simp] theorem modBay_bays (z : Zmc) (b : BayId) (f : BaySt → BaySt) : (modBay z b f).bays = modV z.bays b f := rfl
@[simp] theorem modInfo_cinfo (z : Zmc) (c : CourseId) (f : CInfo → CInfo) : (modInfo z c f).cinfo = modV z.cinfo c f := rfl

/-! ### Vectors -/

theorem modV_same {α : Type} {n : Nat} (v : Vector α n) (i : Fin n) (f : α → α) : (modV v i f)[i] = f v[i] := by
  simp [modV]

theorem modV_other {α : Type} {n : Nat} (v : Vector α n) (i j : Fin n) (f : α → α) (h : i ≠ j) : (modV v i f)[j] = v[j] := by
  simp only [modV, Fin.getElem_fin]
  exact Vector.getElem_set_ne _ _ (fun e => h (Fin.ext e))

theorem modV_get {α : Type} {n : Nat} (v : Vector α n) (i j : Fin n) (f : α → α) : (modV v i f)[j] = if i = j then f v[j] else v[j] := by
  split
  · subst i; exact modV_same v j f
  · exact modV_other v i j f ‹_›

@[simp] theorem modV_val {α : Type} {n : Nat} (v : Vector α n) (i j : Fin n) (f : α → α) : (modV v i f)[j.val] = if i = j then f v[j.val] else v[j.val] :=
  modV_get v i j f

/-! ### A course -/

@[simp] theorem Cx.onZ_now (x : Cx) (f : Zmc → Zmc) : (x.onZ f).now = x.now := rfl
@[simp] theorem Cx.onZ_free (x : Cx) (f : Zmc → Zmc) : (x.onZ f).free = x.free := rfl
@[simp] theorem Cx.onZ_n (x : Cx) (f : Zmc → Zmc) : (x.onZ f).n = x.n := rfl
@[simp] theorem Cx.onZ_c (x : Cx) (f : Zmc → Zmc) : (x.onZ f).c = x.c := rfl
@[simp] theorem Cx.onC_now (x : Cx) (f : CourseSt → CourseSt) : (x.onC f).now = x.now := rfl
@[simp] theorem Cx.onC_free (x : Cx) (f : CourseSt → CourseSt) : (x.onC f).free = x.free := rfl
@[simp] theorem Cx.onC_z (x : Cx) (f : CourseSt → CourseSt) : (x.onC f).z = x.z := rfl
@[simp] theorem Cx.onC_n (x : Cx) (f : CourseSt → CourseSt) : (x.onC f).n = x.n := rfl
@[simp] theorem Cx.onL_now (x : Cx) (f : CLink → CLink) : (x.onL f).now = x.now := rfl
@[simp] theorem Cx.onL_free (x : Cx) (f : CLink → CLink) : (x.onL f).free = x.free := rfl
@[simp] theorem Cx.onL_z (x : Cx) (f : CLink → CLink) : (x.onL f).z = x.z := rfl
@[simp] theorem Cx.onL_n (x : Cx) (f : CLink → CLink) : (x.onL f).n = x.n := rfl
@[simp] theorem Cx.onB_now (x : Cx) (f : Corbel → Corbel) : (x.onB f).now = x.now := rfl
@[simp] theorem Cx.onB_free (x : Cx) (f : Corbel → Corbel) : (x.onB f).free = x.free := rfl
@[simp] theorem Cx.onB_z (x : Cx) (f : Corbel → Corbel) : (x.onB f).z = x.z := rfl
@[simp] theorem Cx.onB_n (x : Cx) (f : Corbel → Corbel) : (x.onB f).n = x.n := rfl
@[simp] theorem Cx.onZ_z (x : Cx) (f : Zmc → Zmc) : (x.onZ f).z = f x.z := rfl
@[simp] theorem Cx.onC_c (x : Cx) (f : CourseSt → CourseSt) : (x.onC f).c = f x.c := rfl
@[simp] theorem Cx.onL_c (x : Cx) (f : CLink → CLink) : (x.onL f).c = { x.c with lk := f x.c.lk } := rfl
@[simp] theorem Cx.onB_c (x : Cx) (f : Corbel → Corbel) : (x.onB f).c = { x.c with cb := f x.c.cb } := rfl

@[simp] theorem Cx.onC_info (x : Cx) (f : CourseSt → CourseSt) : (x.onC f).info = x.info := rfl
@[simp] theorem Cx.onL_info (x : Cx) (f : CLink → CLink) : (x.onL f).info = x.info := rfl
@[simp] theorem Cx.onB_info (x : Cx) (f : Corbel → Corbel) : (x.onB f).info = x.info := rfl

/-! ### The whole block -/

@[simp] theorem onZmc_now (x : Sys) (f : Zmc → Nat → Zmc) : (onZmc x f).now = x.now := rfl
@[simp] theorem onZmc_free (x : Sys) (f : Zmc → Nat → Zmc) : (onZmc x f).free = x.free := rfl
@[simp] theorem onZmc_crs (x : Sys) (f : Zmc → Nat → Zmc) : (onZmc x f).crs = x.crs := rfl
@[simp] theorem onZmc_z (x : Sys) (f : Zmc → Nat → Zmc) : (onZmc x f).z = f x.z x.now := rfl

end Sys2Proof.Machine
end

