-- ==== Sys2Proof/Laws/Tbl.lean ====
section
/-! SUPPORT. Sparse maps: reading after a write, and that every operation keeps the canonical form. -/

namespace Sys2Proof.Machine

variable {α : Type}

/-- The key just written reads as what was written. -/
@[simp] theorem tblFind_put_eq (m : Tbl α) (i : Nat) (v : α) : tblFind (tblPut m i v) i = some v := by
  induction m with
  | nil => simp [tblPut, tblFind]
  | cons p m ih =>
      obtain ⟨k, w⟩ := p
      unfold tblPut
      split
      · simp [tblFind]
      · split
        · simp [tblFind]
        · simp [tblFind, *]

/-- A write leaves every other key as it was. -/
theorem tblFind_put_ne {m : Tbl α} {i j : Nat} {v : α} (h : j ≠ i) : tblFind (tblPut m i v) j = tblFind m j := by
  induction m with
  | nil => simp [tblPut, tblFind, h]
  | cons p m ih =>
      obtain ⟨k, w⟩ := p
      unfold tblPut
      split
      · simp [tblFind, h]
      · split
        · subst i; simp [tblFind, h]
        · simp only [tblFind, ih]

/-- A map whose keys lie at or above a number has them at or above every lower one. -/
theorem tblAbove_mono {m : Tbl α} {a b : Nat} (h : tblAbove b m = true) (le : a ≤ b) : tblAbove a m = true := by
  cases m with
  | nil => rfl
  | cons p m => simp only [tblAbove, Bool.and_eq_true, decide_eq_true_eq] at h ⊢; exact ⟨by omega, h.2⟩

theorem tblAbove_put {m : Tbl α} {n i : Nat} {v : α} (h : tblAbove n m = true) (le : n ≤ i) : tblAbove n (tblPut m i v) = true := by
  induction m generalizing n with
  | nil => simp [tblPut, tblAbove, le]
  | cons p m ih =>
      obtain ⟨k, w⟩ := p
      simp only [tblAbove, Bool.and_eq_true, decide_eq_true_eq] at h
      unfold tblPut
      split
      · simp only [tblAbove, Bool.and_eq_true, decide_eq_true_eq]; exact ⟨le, by omega, h.2⟩
      · split
        · subst i; simp only [tblAbove, Bool.and_eq_true, decide_eq_true_eq]; exact h
        · simp only [tblAbove, Bool.and_eq_true, decide_eq_true_eq]; exact ⟨h.1, ih h.2 (by omega)⟩

/-- A write keeps the canonical form. -/
theorem tblWf_put {m : Tbl α} (i : Nat) (v : α) (h : tblWf m = true) : tblWf (tblPut m i v) = true := tblAbove_put h (Nat.zero_le i)

theorem tblAbove_del {m : Tbl α} {n : Nat} (i : Nat) (h : tblAbove n m = true) : tblAbove n (tblDel m i) = true := by
  induction m generalizing n with
  | nil => rfl
  | cons p m ih =>
      obtain ⟨k, w⟩ := p
      simp only [tblAbove, Bool.and_eq_true, decide_eq_true_eq] at h
      unfold tblDel
      split
      · exact tblAbove_mono h.2 (by omega)
      · split
        · simp only [tblAbove, Bool.and_eq_true, decide_eq_true_eq]; exact h
        · simp only [tblAbove, Bool.and_eq_true, decide_eq_true_eq]; exact ⟨h.1, ih h.2⟩

/-- A removal keeps the canonical form. -/
theorem tblWf_del {m : Tbl α} (i : Nat) (h : tblWf m = true) : tblWf (tblDel m i) = true := tblAbove_del i h

/-- A key below every listed one is not listed. -/
theorem tblFind_above {m : Tbl α} {n i : Nat} (h : tblAbove n m = true) (lt : i < n) : tblFind m i = none := by
  induction m generalizing n with
  | nil => rfl
  | cons p m ih =>
      obtain ⟨k, w⟩ := p
      simp only [tblAbove, Bool.and_eq_true, decide_eq_true_eq] at h
      simp only [tblFind]
      rw [if_neg (by omega)]
      exact ih h.2 (by omega)

/-- A removed key is not listed. -/
theorem tblFind_del_eq {m : Tbl α} (i : Nat) (h : tblWf m = true) : tblFind (tblDel m i) i = none := by
  unfold tblWf at h
  generalize 0 = n at h
  induction m generalizing n with
  | nil => rfl
  | cons p m ih =>
      obtain ⟨k, w⟩ := p
      simp only [tblAbove, Bool.and_eq_true, decide_eq_true_eq] at h
      unfold tblDel
      split
      · exact tblFind_above h.2 (by omega)
      · rename_i e
        split
        · simp only [tblFind]; rw [if_neg e]; exact tblFind_above h.2 (by omega)
        · simp only [tblFind]; rw [if_neg e]; exact ih _ h.2

/-- A removal leaves every other key as it was. -/
theorem tblFind_del_ne {m : Tbl α} {i j : Nat} (h : j ≠ i) : tblFind (tblDel m i) j = tblFind m j := by
  induction m with
  | nil => rfl
  | cons p m ih =>
      obtain ⟨k, w⟩ := p
      unfold tblDel
      split
      · subst i; simp [tblFind, h]
      · split
        · rfl
        · simp only [tblFind, ih]

/-- A write that lists nothing for the default value reads back what was written. -/
theorem tblGet_store_eq [DecidableEq α] {d : α} {m : Tbl α} (i : Nat) (v : α) (h : tblWf m = true) : tblGet d (tblStore d m i v) i = v := by
  unfold tblStore tblGet
  split
  · rw [tblFind_del_eq i h]; simp [*]
  · simp

theorem tblGet_store_ne [DecidableEq α] {d : α} {m : Tbl α} {i j : Nat} (v : α) (h : j ≠ i) : tblGet d (tblStore d m i v) j = tblGet d m j := by
  unfold tblStore tblGet
  split
  · rw [tblFind_del_ne h]
  · rw [tblFind_put_ne h]

theorem all_put {f : Nat × α → Bool} {m : Tbl α} {i : Nat} {v : α} (h : m.all f = true) (hv : f (i, v) = true) : (tblPut m i v).all f = true := by
  induction m with
  | nil => simp [tblPut, hv]
  | cons p m ih =>
      obtain ⟨k, w⟩ := p
      simp only [List.all_cons, Bool.and_eq_true] at h
      unfold tblPut
      split
      · simp only [List.all_cons, Bool.and_eq_true]; exact ⟨hv, h⟩
      · split
        · simp only [List.all_cons, Bool.and_eq_true]; exact ⟨hv, h.2⟩
        · simp only [List.all_cons, Bool.and_eq_true]; exact ⟨h.1, ih h.2⟩

theorem all_del {f : Nat × α → Bool} {m : Tbl α} (i : Nat) (h : m.all f = true) : (tblDel m i).all f = true := by
  induction m with
  | nil => rfl
  | cons p m ih =>
      obtain ⟨k, w⟩ := p
      simp only [List.all_cons, Bool.and_eq_true] at h
      unfold tblDel
      split
      · exact h.2
      · split
        · simp only [List.all_cons, Bool.and_eq_true]; exact h
        · simp only [List.all_cons, Bool.and_eq_true]; exact ⟨h.1, ih h.2⟩

/-- A write of a memory keeps its canonical form. -/
theorem tblCanon_store [DecidableEq α] {d : α} {m : Tbl α} (i : Nat) (v : α) (h : tblCanon d m = true) : tblCanon d (tblStore d m i v) = true := by
  simp only [tblCanon, Bool.and_eq_true] at h ⊢
  unfold tblStore
  split
  · exact ⟨tblWf_del i h.1, all_del i h.2⟩
  · exact ⟨tblWf_put i v h.1, all_put h.2 (by simpa using ‹_›)⟩

/-- A selection of entries keeps the canonical form. -/
theorem tblAbove_filter {m : Tbl α} {n : Nat} (f : Nat × α → Bool) (h : tblAbove n m = true) : tblAbove n (m.filter f) = true := by
  induction m generalizing n with
  | nil => rfl
  | cons p m ih =>
      obtain ⟨k, w⟩ := p
      simp only [tblAbove, Bool.and_eq_true, decide_eq_true_eq] at h
      rw [List.filter_cons]
      split
      · simp only [tblAbove, Bool.and_eq_true, decide_eq_true_eq]; exact ⟨h.1, ih h.2⟩
      · exact tblAbove_mono (ih h.2) (by omega)

theorem tblWf_filter {m : Tbl α} (f : Nat × α → Bool) (h : tblWf m = true) : tblWf (m.filter f) = true := tblAbove_filter f h

end Sys2Proof.Machine
end

