-- ==== Sys2Proof/Laws/Frame.lean ====
section
/-! SUPPORT. What each shared operation over registers, events and messages leaves alone: counting and posting change the register file
only, events and audit entries the management part only. One lemma says it once for each operation; the field lemmas follow from it. -/

namespace Sys2Proof.Machine

/-- Only the registers' words and the record of hardware updates differ. -/
def RgOnly (a b : Zmc) : Prop :=
  b = { a with rg := { a.rg with
    reg := b.rg.reg
    hw := b.rg.hw } }

theorem RgOnly.refl (a : Zmc) : RgOnly a a := rfl

theorem RgOnly.trans {a b c : Zmc} (h : RgOnly a b) (k : RgOnly b c) : RgOnly a c := by
  unfold RgOnly at *
  generalize c.rg.reg = r, c.rg.hw = w at k ⊢
  subst k
  generalize b.rg.reg = r1, b.rg.hw = w1 at h
  subst h
  rfl

theorem rgOnly_foldl {α : Type} {f : Zmc → α → Zmc} (hf : ∀ z a, RgOnly z (f z a)) (l : List α) : ∀ z, RgOnly z (l.foldl f z) := by
  induction l with
  | nil => intro z; exact .refl z
  | cons a l ih => intro z; exact (hf z a).trans (ih _)

/-- Only the management part differs. -/
def MgtOnly (a b : Zmc) : Prop := b = { a with mgt := b.mgt }

theorem MgtOnly.refl (a : Zmc) : MgtOnly a a := rfl

theorem MgtOnly.trans {a b c : Zmc} (h : MgtOnly a b) (k : MgtOnly b c) : MgtOnly a c := by
  unfold MgtOnly at *; rw [k, h]

theorem mgtOnly_foldl {α : Type} {f : Zmc → α → Zmc} (hf : ∀ z a, MgtOnly z (f z a)) (l : List α) : ∀ z, MgtOnly z (l.foldl f z) := by
  induction l with
  | nil => intro z; exact .refl z
  | cons a l ih => intro z; exact (hf z a).trans (ih _)

theorem rgOnly_putWord (z o v) : RgOnly z (putWord z o v) := rfl
theorem rgOnly_setF (z o h l v) : RgOnly z (setF z o h l v) := rfl
theorem rgOnly_putWide (z o v) : RgOnly z (putWide z o v) := rfl
theorem rgOnly_logHw (z n o) : RgOnly z (logHw z n o) := by unfold logHw; simp only; split <;> rfl
theorem rgOnly_postBits (z n o m) : RgOnly z (postBits z n o m) := by
  unfold postBits; exact (rgOnly_logHw z n o).trans (rgOnly_putWord _ _ _)
theorem rgOnly_post (z n o b) : RgOnly z (post z n o b) := rgOnly_postBits ..
theorem rgOnly_cntLost (z n o) : RgOnly z (cntLost z n o) := rgOnly_postBits ..
theorem rgOnly_ctrSts (z n i k b) : RgOnly z (ctrSts z n i k b) := rgOnly_postBits ..
theorem rgOnly_add48 (z n o k) : RgOnly z (add48 z n o k).1 := by
  unfold add48
  exact (((rgOnly_logHw z n o).trans (rgOnly_logHw _ n (o + 4))).trans (rgOnly_putWord ..)).trans (rgOnly_putWord ..)
theorem rgOnly_ctrCarry (z n i k w) : RgOnly z (ctrCarry z n i k w) := by
  unfold ctrCarry; simp only
  split
  · exact rgOnly_ctrSts ..
  · split
    · exact .refl z
    · split
      · exact (rgOnly_cntLost ..).trans (rgOnly_ctrSts ..)
      · split
        · exact rgOnly_add48 ..
        · exact (rgOnly_add48 ..).trans (rgOnly_ctrSts ..)
theorem rgOnly_ctrAdd (z n i k w) : RgOnly z (ctrAdd z n i k w) := by
  unfold ctrAdd; simp only
  split
  · exact .refl z
  · split
    · exact rgOnly_cntLost ..
    · split
      · exact rgOnly_add48 ..
      · split
        · exact ((rgOnly_add48 ..).trans (rgOnly_ctrSts ..)).trans (rgOnly_ctrCarry ..)
        · exact (rgOnly_add48 ..).trans (rgOnly_ctrSts ..)
theorem rgOnly_edgeCtrs (z n i o l w) : RgOnly z (edgeCtrs z n i o l w) := by
  unfold edgeCtrs; split
  · exact .refl z
  · refine rgOnly_foldl (fun z a => ?_) _ _
    simp only; split
    · exact rgOnly_ctrAdd ..
    · exact .refl z
theorem rgOnly_bumpN (z n o l w) : RgOnly z (bumpN z n o l w) := by
  unfold bumpN; simp only
  refine RgOnly.trans ?_ (rgOnly_edgeCtrs ..)
  split
  · exact .refl z
  · split
    · exact rgOnly_cntLost ..
    · exact (rgOnly_logHw ..).trans (rgOnly_setF ..)
theorem rgOnly_bump (z n o) : RgOnly z (bump z n o) := rgOnly_bumpN ..
theorem rgOnly_bump48 (z n o w) : RgOnly z (bump48 z n o w) := by
  unfold bump48; simp only
  split
  · exact .refl z
  · refine RgOnly.trans ?_ (rgOnly_edgeCtrs ..)
    split
    · exact rgOnly_cntLost ..
    · exact rgOnly_add48 ..
theorem rgOnly_dropAcc (z n o r w) : RgOnly z (dropAcc z n o r w) := by
  unfold dropAcc; simp only
  refine RgOnly.trans ?_ (rgOnly_putWord ..)
  repeat' split
  all_goals first | exact rgOnly_bumpN .. | exact .refl z

theorem rgOnly_jDiscard (z n i) : RgOnly z (jDiscard z n i) := rgOnly_bumpN ..

theorem mgtOnly_evPost (z n c i k d) : MgtOnly z (evPost z n c i k d) := by
  unfold evPost; simp only; split <;> rfl

theorem mgtOnly_potPut (z n c i k d) : MgtOnly z (potPut z n c i k d) := rfl

theorem mgtOnly_potPost (z n c i k d) : MgtOnly z (potPost z n c i k d) := by
  unfold potPost; split
  · exact mgtOnly_potPut ..
  · rfl

theorem mgtOnly_audWrite (z r) : MgtOnly z (audWrite z r) := rfl

theorem mgtOnly_audit (z r) : MgtOnly z (audit z r) := by
  unfold audit; split
  · exact mgtOnly_audWrite ..
  · rfl

theorem mgtOnly_coalesce (z r) : MgtOnly z (coalesce z r) := by
  unfold coalesce; simp only
  split
  · split
    · rfl
    · rename_i c _ _
      exact (mgtOnly_audit z (coalRec z c)).trans rfl
  · rfl

theorem mgtOnly_capture (z n g o a b) : MgtOnly z (capture z n g o a b) := by
  unfold capture
  split
  · exact .refl z
  · split
    · exact mgtOnly_coalesce ..
    · split <;> rfl

theorem mgtOnly_coalClose (z n) : MgtOnly z (coalClose z n) := by
  unfold coalClose
  refine MgtOnly.trans ?_ (mgtOnly_foldl (fun z c => mgtOnly_audit z _) _ _)
  rfl

theorem RgOnly.rg_pend {a b : Zmc} (h : RgOnly a b) : b.rg.pend = a.rg.pend := by rw [h]
theorem RgOnly.rg_fail {a b : Zmc} (h : RgOnly a b) : b.rg.fail = a.rg.fail := by rw [h]
theorem RgOnly.rg_w1 {a b : Zmc} (h : RgOnly a b) : b.rg.w1 = a.rg.w1 := by rw [h]
theorem RgOnly.rg_holdOk {a b : Zmc} (h : RgOnly a b) : b.rg.holdOk = a.rg.holdOk := by rw [h]
theorem RgOnly.rg_rdSh {a b : Zmc} (h : RgOnly a b) : b.rg.rdSh = a.rg.rdSh := by rw [h]
theorem RgOnly.rg_wrSh {a b : Zmc} (h : RgOnly a b) : b.rg.wrSh = a.rg.wrSh := by rw [h]
theorem RgOnly.rg_sw {a b : Zmc} (h : RgOnly a b) : b.rg.sw = a.rg.sw := by rw [h]
theorem RgOnly.rg_lvl {a b : Zmc} (h : RgOnly a b) : b.rg.lvl = a.rg.lvl := by rw [h]
theorem RgOnly.rg_sealed {a b : Zmc} (h : RgOnly a b) : b.rg.sealed = a.rg.sealed := by rw [h]
theorem RgOnly.setu {a b : Zmc} (h : RgOnly a b) : b.setu = a.setu := by rw [h]
theorem RgOnly.plumb {a b : Zmc} (h : RgOnly a b) : b.plumb = a.plumb := by rw [h]
theorem RgOnly.bond {a b : Zmc} (h : RgOnly a b) : b.bond = a.bond := by rw [h]
theorem RgOnly.mgt {a b : Zmc} (h : RgOnly a b) : b.mgt = a.mgt := by rw [h]
theorem RgOnly.keys {a b : Zmc} (h : RgOnly a b) : b.keys = a.keys := by rw [h]
theorem RgOnly.dbg {a b : Zmc} (h : RgOnly a b) : b.dbg = a.dbg := by rw [h]
theorem RgOnly.boot {a b : Zmc} (h : RgOnly a b) : b.boot = a.boot := by rw [h]
theorem RgOnly.pwr {a b : Zmc} (h : RgOnly a b) : b.pwr = a.pwr := by rw [h]
theorem RgOnly.therm {a b : Zmc} (h : RgOnly a b) : b.therm = a.therm := by rw [h]
theorem RgOnly.hod {a b : Zmc} (h : RgOnly a b) : b.hod = a.hod := by rw [h]
theorem RgOnly.pair {a b : Zmc} (h : RgOnly a b) : b.pair = a.pair := by rw [h]
theorem RgOnly.pkg0 {a b : Zmc} (h : RgOnly a b) : b.pkg0 = a.pkg0 := by rw [h]
theorem RgOnly.pins {a b : Zmc} (h : RgOnly a b) : b.pins = a.pins := by rw [h]
theorem RgOnly.liveAt {a b : Zmc} (h : RgOnly a b) : b.liveAt = a.liveAt := by rw [h]
theorem RgOnly.live {a b : Zmc} (h : RgOnly a b) : b.live = a.live := by rw [h]
theorem RgOnly.homes {a b : Zmc} (h : RgOnly a b) : b.homes = a.homes := by rw [h]
theorem RgOnly.bays {a b : Zmc} (h : RgOnly a b) : b.bays = a.bays := by rw [h]
theorem RgOnly.cinfo {a b : Zmc} (h : RgOnly a b) : b.cinfo = a.cinfo := by rw [h]
theorem RgOnly.jreq {a b : Zmc} (h : RgOnly a b) : b.jreq = a.jreq := by rw [h]
theorem RgOnly.jdat {a b : Zmc} (h : RgOnly a b) : b.jdat = a.jdat := by rw [h]
theorem RgOnly.jsts {a b : Zmc} (h : RgOnly a b) : b.jsts = a.jsts := by rw [h]
theorem RgOnly.jclr {a b : Zmc} (h : RgOnly a b) : b.jclr = a.jclr := by rw [h]
theorem RgOnly.clrs {a b : Zmc} (h : RgOnly a b) : b.clrs = a.clrs := by rw [h]
theorem RgOnly.clrNext {a b : Zmc} (h : RgOnly a b) : b.clrNext = a.clrNext := by rw [h]
theorem RgOnly.out {a b : Zmc} (h : RgOnly a b) : b.out = a.out := by rw [h]
theorem RgOnly.bus {a b : Zmc} (h : RgOnly a b) : b.bus = a.bus := by rw [h]
theorem MgtOnly.rg {a b : Zmc} (h : MgtOnly a b) : b.rg = a.rg := by rw [h]
theorem MgtOnly.setu {a b : Zmc} (h : MgtOnly a b) : b.setu = a.setu := by rw [h]
theorem MgtOnly.plumb {a b : Zmc} (h : MgtOnly a b) : b.plumb = a.plumb := by rw [h]
theorem MgtOnly.bond {a b : Zmc} (h : MgtOnly a b) : b.bond = a.bond := by rw [h]
theorem MgtOnly.keys {a b : Zmc} (h : MgtOnly a b) : b.keys = a.keys := by rw [h]
theorem MgtOnly.dbg {a b : Zmc} (h : MgtOnly a b) : b.dbg = a.dbg := by rw [h]
theorem MgtOnly.boot {a b : Zmc} (h : MgtOnly a b) : b.boot = a.boot := by rw [h]
theorem MgtOnly.pwr {a b : Zmc} (h : MgtOnly a b) : b.pwr = a.pwr := by rw [h]
theorem MgtOnly.therm {a b : Zmc} (h : MgtOnly a b) : b.therm = a.therm := by rw [h]
theorem MgtOnly.hod {a b : Zmc} (h : MgtOnly a b) : b.hod = a.hod := by rw [h]
theorem MgtOnly.pair {a b : Zmc} (h : MgtOnly a b) : b.pair = a.pair := by rw [h]
theorem MgtOnly.pkg0 {a b : Zmc} (h : MgtOnly a b) : b.pkg0 = a.pkg0 := by rw [h]
theorem MgtOnly.pins {a b : Zmc} (h : MgtOnly a b) : b.pins = a.pins := by rw [h]
theorem MgtOnly.liveAt {a b : Zmc} (h : MgtOnly a b) : b.liveAt = a.liveAt := by rw [h]
theorem MgtOnly.live {a b : Zmc} (h : MgtOnly a b) : b.live = a.live := by rw [h]
theorem MgtOnly.homes {a b : Zmc} (h : MgtOnly a b) : b.homes = a.homes := by rw [h]
theorem MgtOnly.bays {a b : Zmc} (h : MgtOnly a b) : b.bays = a.bays := by rw [h]
theorem MgtOnly.cinfo {a b : Zmc} (h : MgtOnly a b) : b.cinfo = a.cinfo := by rw [h]
theorem MgtOnly.jreq {a b : Zmc} (h : MgtOnly a b) : b.jreq = a.jreq := by rw [h]
theorem MgtOnly.jdat {a b : Zmc} (h : MgtOnly a b) : b.jdat = a.jdat := by rw [h]
theorem MgtOnly.jsts {a b : Zmc} (h : MgtOnly a b) : b.jsts = a.jsts := by rw [h]
theorem MgtOnly.jclr {a b : Zmc} (h : MgtOnly a b) : b.jclr = a.jclr := by rw [h]
theorem MgtOnly.clrs {a b : Zmc} (h : MgtOnly a b) : b.clrs = a.clrs := by rw [h]
theorem MgtOnly.clrNext {a b : Zmc} (h : MgtOnly a b) : b.clrNext = a.clrNext := by rw [h]
theorem MgtOnly.out {a b : Zmc} (h : MgtOnly a b) : b.out = a.out := by rw [h]
theorem MgtOnly.bus {a b : Zmc} (h : MgtOnly a b) : b.bus = a.bus := by rw [h]

@[simp] theorem putWord_setu (z o v) : (putWord z o v).setu = Zmc.setu z := (rgOnly_putWord z o v).setu
@[simp] theorem putWord_plumb (z o v) : (putWord z o v).plumb = Zmc.plumb z := (rgOnly_putWord z o v).plumb
@[simp] theorem putWord_bond (z o v) : (putWord z o v).bond = Zmc.bond z := (rgOnly_putWord z o v).bond
@[simp] theorem putWord_mgt (z o v) : (putWord z o v).mgt = Zmc.mgt z := (rgOnly_putWord z o v).mgt
@[simp] theorem putWord_keys (z o v) : (putWord z o v).keys = Zmc.keys z := (rgOnly_putWord z o v).keys
@[simp] theorem putWord_dbg (z o v) : (putWord z o v).dbg = Zmc.dbg z := (rgOnly_putWord z o v).dbg
@[simp] theorem putWord_boot (z o v) : (putWord z o v).boot = Zmc.boot z := (rgOnly_putWord z o v).boot
@[simp] theorem putWord_pwr (z o v) : (putWord z o v).pwr = Zmc.pwr z := (rgOnly_putWord z o v).pwr
@[simp] theorem putWord_therm (z o v) : (putWord z o v).therm = Zmc.therm z := (rgOnly_putWord z o v).therm
@[simp] theorem putWord_hod (z o v) : (putWord z o v).hod = Zmc.hod z := (rgOnly_putWord z o v).hod
@[simp] theorem putWord_pair (z o v) : (putWord z o v).pair = Zmc.pair z := (rgOnly_putWord z o v).pair
@[simp] theorem putWord_pkg0 (z o v) : (putWord z o v).pkg0 = Zmc.pkg0 z := (rgOnly_putWord z o v).pkg0
@[simp] theorem putWord_pins (z o v) : (putWord z o v).pins = Zmc.pins z := (rgOnly_putWord z o v).pins
@[simp] theorem putWord_liveAt (z o v) : (putWord z o v).liveAt = Zmc.liveAt z := (rgOnly_putWord z o v).liveAt
@[simp] theorem putWord_live (z o v) : (putWord z o v).live = Zmc.live z := (rgOnly_putWord z o v).live
@[simp] theorem putWord_homes (z o v) : (putWord z o v).homes = Zmc.homes z := (rgOnly_putWord z o v).homes
@[simp] theorem putWord_bays (z o v) : (putWord z o v).bays = Zmc.bays z := (rgOnly_putWord z o v).bays
@[simp] theorem putWord_cinfo (z o v) : (putWord z o v).cinfo = Zmc.cinfo z := (rgOnly_putWord z o v).cinfo
@[simp] theorem putWord_jreq (z o v) : (putWord z o v).jreq = Zmc.jreq z := (rgOnly_putWord z o v).jreq
@[simp] theorem putWord_jdat (z o v) : (putWord z o v).jdat = Zmc.jdat z := (rgOnly_putWord z o v).jdat
@[simp] theorem putWord_jsts (z o v) : (putWord z o v).jsts = Zmc.jsts z := (rgOnly_putWord z o v).jsts
@[simp] theorem putWord_jclr (z o v) : (putWord z o v).jclr = Zmc.jclr z := (rgOnly_putWord z o v).jclr
@[simp] theorem putWord_clrs (z o v) : (putWord z o v).clrs = Zmc.clrs z := (rgOnly_putWord z o v).clrs
@[simp] theorem putWord_clrNext (z o v) : (putWord z o v).clrNext = Zmc.clrNext z := (rgOnly_putWord z o v).clrNext
@[simp] theorem putWord_out (z o v) : (putWord z o v).out = Zmc.out z := (rgOnly_putWord z o v).out
@[simp] theorem putWord_bus (z o v) : (putWord z o v).bus = Zmc.bus z := (rgOnly_putWord z o v).bus
@[simp] theorem setF_setu (z o h l v) : (setF z o h l v).setu = Zmc.setu z := (rgOnly_setF z o h l v).setu
@[simp] theorem setF_plumb (z o h l v) : (setF z o h l v).plumb = Zmc.plumb z := (rgOnly_setF z o h l v).plumb
@[simp] theorem setF_bond (z o h l v) : (setF z o h l v).bond = Zmc.bond z := (rgOnly_setF z o h l v).bond
@[simp] theorem setF_mgt (z o h l v) : (setF z o h l v).mgt = Zmc.mgt z := (rgOnly_setF z o h l v).mgt
@[simp] theorem setF_keys (z o h l v) : (setF z o h l v).keys = Zmc.keys z := (rgOnly_setF z o h l v).keys
@[simp] theorem setF_dbg (z o h l v) : (setF z o h l v).dbg = Zmc.dbg z := (rgOnly_setF z o h l v).dbg
@[simp] theorem setF_boot (z o h l v) : (setF z o h l v).boot = Zmc.boot z := (rgOnly_setF z o h l v).boot
@[simp] theorem setF_pwr (z o h l v) : (setF z o h l v).pwr = Zmc.pwr z := (rgOnly_setF z o h l v).pwr
@[simp] theorem setF_therm (z o h l v) : (setF z o h l v).therm = Zmc.therm z := (rgOnly_setF z o h l v).therm
@[simp] theorem setF_hod (z o h l v) : (setF z o h l v).hod = Zmc.hod z := (rgOnly_setF z o h l v).hod
@[simp] theorem setF_pair (z o h l v) : (setF z o h l v).pair = Zmc.pair z := (rgOnly_setF z o h l v).pair
@[simp] theorem setF_pkg0 (z o h l v) : (setF z o h l v).pkg0 = Zmc.pkg0 z := (rgOnly_setF z o h l v).pkg0
@[simp] theorem setF_pins (z o h l v) : (setF z o h l v).pins = Zmc.pins z := (rgOnly_setF z o h l v).pins
@[simp] theorem setF_liveAt (z o h l v) : (setF z o h l v).liveAt = Zmc.liveAt z := (rgOnly_setF z o h l v).liveAt
@[simp] theorem setF_live (z o h l v) : (setF z o h l v).live = Zmc.live z := (rgOnly_setF z o h l v).live
@[simp] theorem setF_homes (z o h l v) : (setF z o h l v).homes = Zmc.homes z := (rgOnly_setF z o h l v).homes
@[simp] theorem setF_bays (z o h l v) : (setF z o h l v).bays = Zmc.bays z := (rgOnly_setF z o h l v).bays
@[simp] theorem setF_cinfo (z o h l v) : (setF z o h l v).cinfo = Zmc.cinfo z := (rgOnly_setF z o h l v).cinfo
@[simp] theorem setF_jreq (z o h l v) : (setF z o h l v).jreq = Zmc.jreq z := (rgOnly_setF z o h l v).jreq
@[simp] theorem setF_jdat (z o h l v) : (setF z o h l v).jdat = Zmc.jdat z := (rgOnly_setF z o h l v).jdat
@[simp] theorem setF_jsts (z o h l v) : (setF z o h l v).jsts = Zmc.jsts z := (rgOnly_setF z o h l v).jsts
@[simp] theorem setF_jclr (z o h l v) : (setF z o h l v).jclr = Zmc.jclr z := (rgOnly_setF z o h l v).jclr
@[simp] theorem setF_clrs (z o h l v) : (setF z o h l v).clrs = Zmc.clrs z := (rgOnly_setF z o h l v).clrs
@[simp] theorem setF_clrNext (z o h l v) : (setF z o h l v).clrNext = Zmc.clrNext z := (rgOnly_setF z o h l v).clrNext
@[simp] theorem setF_out (z o h l v) : (setF z o h l v).out = Zmc.out z := (rgOnly_setF z o h l v).out
@[simp] theorem setF_bus (z o h l v) : (setF z o h l v).bus = Zmc.bus z := (rgOnly_setF z o h l v).bus
@[simp] theorem putWide_setu (z o v) : (putWide z o v).setu = Zmc.setu z := (rgOnly_putWide z o v).setu
@[simp] theorem putWide_plumb (z o v) : (putWide z o v).plumb = Zmc.plumb z := (rgOnly_putWide z o v).plumb
@[simp] theorem putWide_bond (z o v) : (putWide z o v).bond = Zmc.bond z := (rgOnly_putWide z o v).bond
@[simp] theorem putWide_mgt (z o v) : (putWide z o v).mgt = Zmc.mgt z := (rgOnly_putWide z o v).mgt
@[simp] theorem putWide_keys (z o v) : (putWide z o v).keys = Zmc.keys z := (rgOnly_putWide z o v).keys
@[simp] theorem putWide_dbg (z o v) : (putWide z o v).dbg = Zmc.dbg z := (rgOnly_putWide z o v).dbg
@[simp] theorem putWide_boot (z o v) : (putWide z o v).boot = Zmc.boot z := (rgOnly_putWide z o v).boot
@[simp] theorem putWide_pwr (z o v) : (putWide z o v).pwr = Zmc.pwr z := (rgOnly_putWide z o v).pwr
@[simp] theorem putWide_therm (z o v) : (putWide z o v).therm = Zmc.therm z := (rgOnly_putWide z o v).therm
@[simp] theorem putWide_hod (z o v) : (putWide z o v).hod = Zmc.hod z := (rgOnly_putWide z o v).hod
@[simp] theorem putWide_pair (z o v) : (putWide z o v).pair = Zmc.pair z := (rgOnly_putWide z o v).pair
@[simp] theorem putWide_pkg0 (z o v) : (putWide z o v).pkg0 = Zmc.pkg0 z := (rgOnly_putWide z o v).pkg0
@[simp] theorem putWide_pins (z o v) : (putWide z o v).pins = Zmc.pins z := (rgOnly_putWide z o v).pins
@[simp] theorem putWide_liveAt (z o v) : (putWide z o v).liveAt = Zmc.liveAt z := (rgOnly_putWide z o v).liveAt
@[simp] theorem putWide_live (z o v) : (putWide z o v).live = Zmc.live z := (rgOnly_putWide z o v).live
@[simp] theorem putWide_homes (z o v) : (putWide z o v).homes = Zmc.homes z := (rgOnly_putWide z o v).homes
@[simp] theorem putWide_bays (z o v) : (putWide z o v).bays = Zmc.bays z := (rgOnly_putWide z o v).bays
@[simp] theorem putWide_cinfo (z o v) : (putWide z o v).cinfo = Zmc.cinfo z := (rgOnly_putWide z o v).cinfo
@[simp] theorem putWide_jreq (z o v) : (putWide z o v).jreq = Zmc.jreq z := (rgOnly_putWide z o v).jreq
@[simp] theorem putWide_jdat (z o v) : (putWide z o v).jdat = Zmc.jdat z := (rgOnly_putWide z o v).jdat
@[simp] theorem putWide_jsts (z o v) : (putWide z o v).jsts = Zmc.jsts z := (rgOnly_putWide z o v).jsts
@[simp] theorem putWide_jclr (z o v) : (putWide z o v).jclr = Zmc.jclr z := (rgOnly_putWide z o v).jclr
@[simp] theorem putWide_clrs (z o v) : (putWide z o v).clrs = Zmc.clrs z := (rgOnly_putWide z o v).clrs
@[simp] theorem putWide_clrNext (z o v) : (putWide z o v).clrNext = Zmc.clrNext z := (rgOnly_putWide z o v).clrNext
@[simp] theorem putWide_out (z o v) : (putWide z o v).out = Zmc.out z := (rgOnly_putWide z o v).out
@[simp] theorem putWide_bus (z o v) : (putWide z o v).bus = Zmc.bus z := (rgOnly_putWide z o v).bus
@[simp] theorem postBits_setu (z n o m) : (postBits z n o m).setu = Zmc.setu z := (rgOnly_postBits z n o m).setu
@[simp] theorem postBits_plumb (z n o m) : (postBits z n o m).plumb = Zmc.plumb z := (rgOnly_postBits z n o m).plumb
@[simp] theorem postBits_bond (z n o m) : (postBits z n o m).bond = Zmc.bond z := (rgOnly_postBits z n o m).bond
@[simp] theorem postBits_mgt (z n o m) : (postBits z n o m).mgt = Zmc.mgt z := (rgOnly_postBits z n o m).mgt
@[simp] theorem postBits_keys (z n o m) : (postBits z n o m).keys = Zmc.keys z := (rgOnly_postBits z n o m).keys
@[simp] theorem postBits_dbg (z n o m) : (postBits z n o m).dbg = Zmc.dbg z := (rgOnly_postBits z n o m).dbg
@[simp] theorem postBits_boot (z n o m) : (postBits z n o m).boot = Zmc.boot z := (rgOnly_postBits z n o m).boot
@[simp] theorem postBits_pwr (z n o m) : (postBits z n o m).pwr = Zmc.pwr z := (rgOnly_postBits z n o m).pwr
@[simp] theorem postBits_therm (z n o m) : (postBits z n o m).therm = Zmc.therm z := (rgOnly_postBits z n o m).therm
@[simp] theorem postBits_hod (z n o m) : (postBits z n o m).hod = Zmc.hod z := (rgOnly_postBits z n o m).hod
@[simp] theorem postBits_pair (z n o m) : (postBits z n o m).pair = Zmc.pair z := (rgOnly_postBits z n o m).pair
@[simp] theorem postBits_pkg0 (z n o m) : (postBits z n o m).pkg0 = Zmc.pkg0 z := (rgOnly_postBits z n o m).pkg0
@[simp] theorem postBits_pins (z n o m) : (postBits z n o m).pins = Zmc.pins z := (rgOnly_postBits z n o m).pins
@[simp] theorem postBits_liveAt (z n o m) : (postBits z n o m).liveAt = Zmc.liveAt z := (rgOnly_postBits z n o m).liveAt
@[simp] theorem postBits_live (z n o m) : (postBits z n o m).live = Zmc.live z := (rgOnly_postBits z n o m).live
@[simp] theorem postBits_homes (z n o m) : (postBits z n o m).homes = Zmc.homes z := (rgOnly_postBits z n o m).homes
@[simp] theorem postBits_bays (z n o m) : (postBits z n o m).bays = Zmc.bays z := (rgOnly_postBits z n o m).bays
@[simp] theorem postBits_cinfo (z n o m) : (postBits z n o m).cinfo = Zmc.cinfo z := (rgOnly_postBits z n o m).cinfo
@[simp] theorem postBits_jreq (z n o m) : (postBits z n o m).jreq = Zmc.jreq z := (rgOnly_postBits z n o m).jreq
@[simp] theorem postBits_jdat (z n o m) : (postBits z n o m).jdat = Zmc.jdat z := (rgOnly_postBits z n o m).jdat
@[simp] theorem postBits_jsts (z n o m) : (postBits z n o m).jsts = Zmc.jsts z := (rgOnly_postBits z n o m).jsts
@[simp] theorem postBits_jclr (z n o m) : (postBits z n o m).jclr = Zmc.jclr z := (rgOnly_postBits z n o m).jclr
@[simp] theorem postBits_clrs (z n o m) : (postBits z n o m).clrs = Zmc.clrs z := (rgOnly_postBits z n o m).clrs
@[simp] theorem postBits_clrNext (z n o m) : (postBits z n o m).clrNext = Zmc.clrNext z := (rgOnly_postBits z n o m).clrNext
@[simp] theorem postBits_out (z n o m) : (postBits z n o m).out = Zmc.out z := (rgOnly_postBits z n o m).out
@[simp] theorem postBits_bus (z n o m) : (postBits z n o m).bus = Zmc.bus z := (rgOnly_postBits z n o m).bus
@[simp] theorem post_setu (z n o b) : (post z n o b).setu = Zmc.setu z := (rgOnly_post z n o b).setu
@[simp] theorem post_plumb (z n o b) : (post z n o b).plumb = Zmc.plumb z := (rgOnly_post z n o b).plumb
@[simp] theorem post_bond (z n o b) : (post z n o b).bond = Zmc.bond z := (rgOnly_post z n o b).bond
@[simp] theorem post_mgt (z n o b) : (post z n o b).mgt = Zmc.mgt z := (rgOnly_post z n o b).mgt
@[simp] theorem post_keys (z n o b) : (post z n o b).keys = Zmc.keys z := (rgOnly_post z n o b).keys
@[simp] theorem post_dbg (z n o b) : (post z n o b).dbg = Zmc.dbg z := (rgOnly_post z n o b).dbg
@[simp] theorem post_boot (z n o b) : (post z n o b).boot = Zmc.boot z := (rgOnly_post z n o b).boot
@[simp] theorem post_pwr (z n o b) : (post z n o b).pwr = Zmc.pwr z := (rgOnly_post z n o b).pwr
@[simp] theorem post_therm (z n o b) : (post z n o b).therm = Zmc.therm z := (rgOnly_post z n o b).therm
@[simp] theorem post_hod (z n o b) : (post z n o b).hod = Zmc.hod z := (rgOnly_post z n o b).hod
@[simp] theorem post_pair (z n o b) : (post z n o b).pair = Zmc.pair z := (rgOnly_post z n o b).pair
@[simp] theorem post_pkg0 (z n o b) : (post z n o b).pkg0 = Zmc.pkg0 z := (rgOnly_post z n o b).pkg0
@[simp] theorem post_pins (z n o b) : (post z n o b).pins = Zmc.pins z := (rgOnly_post z n o b).pins
@[simp] theorem post_liveAt (z n o b) : (post z n o b).liveAt = Zmc.liveAt z := (rgOnly_post z n o b).liveAt
@[simp] theorem post_live (z n o b) : (post z n o b).live = Zmc.live z := (rgOnly_post z n o b).live
@[simp] theorem post_homes (z n o b) : (post z n o b).homes = Zmc.homes z := (rgOnly_post z n o b).homes
@[simp] theorem post_bays (z n o b) : (post z n o b).bays = Zmc.bays z := (rgOnly_post z n o b).bays
@[simp] theorem post_cinfo (z n o b) : (post z n o b).cinfo = Zmc.cinfo z := (rgOnly_post z n o b).cinfo
@[simp] theorem post_jreq (z n o b) : (post z n o b).jreq = Zmc.jreq z := (rgOnly_post z n o b).jreq
@[simp] theorem post_jdat (z n o b) : (post z n o b).jdat = Zmc.jdat z := (rgOnly_post z n o b).jdat
@[simp] theorem post_jsts (z n o b) : (post z n o b).jsts = Zmc.jsts z := (rgOnly_post z n o b).jsts
@[simp] theorem post_jclr (z n o b) : (post z n o b).jclr = Zmc.jclr z := (rgOnly_post z n o b).jclr
@[simp] theorem post_clrs (z n o b) : (post z n o b).clrs = Zmc.clrs z := (rgOnly_post z n o b).clrs
@[simp] theorem post_clrNext (z n o b) : (post z n o b).clrNext = Zmc.clrNext z := (rgOnly_post z n o b).clrNext
@[simp] theorem post_out (z n o b) : (post z n o b).out = Zmc.out z := (rgOnly_post z n o b).out
@[simp] theorem post_bus (z n o b) : (post z n o b).bus = Zmc.bus z := (rgOnly_post z n o b).bus
@[simp] theorem cntLost_setu (z n o) : (cntLost z n o).setu = Zmc.setu z := (rgOnly_cntLost z n o).setu
@[simp] theorem cntLost_plumb (z n o) : (cntLost z n o).plumb = Zmc.plumb z := (rgOnly_cntLost z n o).plumb
@[simp] theorem cntLost_bond (z n o) : (cntLost z n o).bond = Zmc.bond z := (rgOnly_cntLost z n o).bond
@[simp] theorem cntLost_mgt (z n o) : (cntLost z n o).mgt = Zmc.mgt z := (rgOnly_cntLost z n o).mgt
@[simp] theorem cntLost_keys (z n o) : (cntLost z n o).keys = Zmc.keys z := (rgOnly_cntLost z n o).keys
@[simp] theorem cntLost_dbg (z n o) : (cntLost z n o).dbg = Zmc.dbg z := (rgOnly_cntLost z n o).dbg
@[simp] theorem cntLost_boot (z n o) : (cntLost z n o).boot = Zmc.boot z := (rgOnly_cntLost z n o).boot
@[simp] theorem cntLost_pwr (z n o) : (cntLost z n o).pwr = Zmc.pwr z := (rgOnly_cntLost z n o).pwr
@[simp] theorem cntLost_therm (z n o) : (cntLost z n o).therm = Zmc.therm z := (rgOnly_cntLost z n o).therm
@[simp] theorem cntLost_hod (z n o) : (cntLost z n o).hod = Zmc.hod z := (rgOnly_cntLost z n o).hod
@[simp] theorem cntLost_pair (z n o) : (cntLost z n o).pair = Zmc.pair z := (rgOnly_cntLost z n o).pair
@[simp] theorem cntLost_pkg0 (z n o) : (cntLost z n o).pkg0 = Zmc.pkg0 z := (rgOnly_cntLost z n o).pkg0
@[simp] theorem cntLost_pins (z n o) : (cntLost z n o).pins = Zmc.pins z := (rgOnly_cntLost z n o).pins
@[simp] theorem cntLost_liveAt (z n o) : (cntLost z n o).liveAt = Zmc.liveAt z := (rgOnly_cntLost z n o).liveAt
@[simp] theorem cntLost_live (z n o) : (cntLost z n o).live = Zmc.live z := (rgOnly_cntLost z n o).live
@[simp] theorem cntLost_homes (z n o) : (cntLost z n o).homes = Zmc.homes z := (rgOnly_cntLost z n o).homes
@[simp] theorem cntLost_bays (z n o) : (cntLost z n o).bays = Zmc.bays z := (rgOnly_cntLost z n o).bays
@[simp] theorem cntLost_cinfo (z n o) : (cntLost z n o).cinfo = Zmc.cinfo z := (rgOnly_cntLost z n o).cinfo
@[simp] theorem cntLost_jreq (z n o) : (cntLost z n o).jreq = Zmc.jreq z := (rgOnly_cntLost z n o).jreq
@[simp] theorem cntLost_jdat (z n o) : (cntLost z n o).jdat = Zmc.jdat z := (rgOnly_cntLost z n o).jdat
@[simp] theorem cntLost_jsts (z n o) : (cntLost z n o).jsts = Zmc.jsts z := (rgOnly_cntLost z n o).jsts
@[simp] theorem cntLost_jclr (z n o) : (cntLost z n o).jclr = Zmc.jclr z := (rgOnly_cntLost z n o).jclr
@[simp] theorem cntLost_clrs (z n o) : (cntLost z n o).clrs = Zmc.clrs z := (rgOnly_cntLost z n o).clrs
@[simp] theorem cntLost_clrNext (z n o) : (cntLost z n o).clrNext = Zmc.clrNext z := (rgOnly_cntLost z n o).clrNext
@[simp] theorem cntLost_out (z n o) : (cntLost z n o).out = Zmc.out z := (rgOnly_cntLost z n o).out
@[simp] theorem cntLost_bus (z n o) : (cntLost z n o).bus = Zmc.bus z := (rgOnly_cntLost z n o).bus
@[simp] theorem bumpN_setu (z n o l w) : (bumpN z n o l w).setu = Zmc.setu z := (rgOnly_bumpN z n o l w).setu
@[simp] theorem bumpN_plumb (z n o l w) : (bumpN z n o l w).plumb = Zmc.plumb z := (rgOnly_bumpN z n o l w).plumb
@[simp] theorem bumpN_bond (z n o l w) : (bumpN z n o l w).bond = Zmc.bond z := (rgOnly_bumpN z n o l w).bond
@[simp] theorem bumpN_mgt (z n o l w) : (bumpN z n o l w).mgt = Zmc.mgt z := (rgOnly_bumpN z n o l w).mgt
@[simp] theorem bumpN_keys (z n o l w) : (bumpN z n o l w).keys = Zmc.keys z := (rgOnly_bumpN z n o l w).keys
@[simp] theorem bumpN_dbg (z n o l w) : (bumpN z n o l w).dbg = Zmc.dbg z := (rgOnly_bumpN z n o l w).dbg
@[simp] theorem bumpN_boot (z n o l w) : (bumpN z n o l w).boot = Zmc.boot z := (rgOnly_bumpN z n o l w).boot
@[simp] theorem bumpN_pwr (z n o l w) : (bumpN z n o l w).pwr = Zmc.pwr z := (rgOnly_bumpN z n o l w).pwr
@[simp] theorem bumpN_therm (z n o l w) : (bumpN z n o l w).therm = Zmc.therm z := (rgOnly_bumpN z n o l w).therm
@[simp] theorem bumpN_hod (z n o l w) : (bumpN z n o l w).hod = Zmc.hod z := (rgOnly_bumpN z n o l w).hod
@[simp] theorem bumpN_pair (z n o l w) : (bumpN z n o l w).pair = Zmc.pair z := (rgOnly_bumpN z n o l w).pair
@[simp] theorem bumpN_pkg0 (z n o l w) : (bumpN z n o l w).pkg0 = Zmc.pkg0 z := (rgOnly_bumpN z n o l w).pkg0
@[simp] theorem bumpN_pins (z n o l w) : (bumpN z n o l w).pins = Zmc.pins z := (rgOnly_bumpN z n o l w).pins
@[simp] theorem bumpN_liveAt (z n o l w) : (bumpN z n o l w).liveAt = Zmc.liveAt z := (rgOnly_bumpN z n o l w).liveAt
@[simp] theorem bumpN_live (z n o l w) : (bumpN z n o l w).live = Zmc.live z := (rgOnly_bumpN z n o l w).live
@[simp] theorem bumpN_homes (z n o l w) : (bumpN z n o l w).homes = Zmc.homes z := (rgOnly_bumpN z n o l w).homes
@[simp] theorem bumpN_bays (z n o l w) : (bumpN z n o l w).bays = Zmc.bays z := (rgOnly_bumpN z n o l w).bays
@[simp] theorem bumpN_cinfo (z n o l w) : (bumpN z n o l w).cinfo = Zmc.cinfo z := (rgOnly_bumpN z n o l w).cinfo
@[simp] theorem bumpN_jreq (z n o l w) : (bumpN z n o l w).jreq = Zmc.jreq z := (rgOnly_bumpN z n o l w).jreq
@[simp] theorem bumpN_jdat (z n o l w) : (bumpN z n o l w).jdat = Zmc.jdat z := (rgOnly_bumpN z n o l w).jdat
@[simp] theorem bumpN_jsts (z n o l w) : (bumpN z n o l w).jsts = Zmc.jsts z := (rgOnly_bumpN z n o l w).jsts
@[simp] theorem bumpN_jclr (z n o l w) : (bumpN z n o l w).jclr = Zmc.jclr z := (rgOnly_bumpN z n o l w).jclr
@[simp] theorem bumpN_clrs (z n o l w) : (bumpN z n o l w).clrs = Zmc.clrs z := (rgOnly_bumpN z n o l w).clrs
@[simp] theorem bumpN_clrNext (z n o l w) : (bumpN z n o l w).clrNext = Zmc.clrNext z := (rgOnly_bumpN z n o l w).clrNext
@[simp] theorem bumpN_out (z n o l w) : (bumpN z n o l w).out = Zmc.out z := (rgOnly_bumpN z n o l w).out
@[simp] theorem bumpN_bus (z n o l w) : (bumpN z n o l w).bus = Zmc.bus z := (rgOnly_bumpN z n o l w).bus
@[simp] theorem bump_setu (z n o) : (bump z n o).setu = Zmc.setu z := (rgOnly_bump z n o).setu
@[simp] theorem bump_plumb (z n o) : (bump z n o).plumb = Zmc.plumb z := (rgOnly_bump z n o).plumb
@[simp] theorem bump_bond (z n o) : (bump z n o).bond = Zmc.bond z := (rgOnly_bump z n o).bond
@[simp] theorem bump_mgt (z n o) : (bump z n o).mgt = Zmc.mgt z := (rgOnly_bump z n o).mgt
@[simp] theorem bump_keys (z n o) : (bump z n o).keys = Zmc.keys z := (rgOnly_bump z n o).keys
@[simp] theorem bump_dbg (z n o) : (bump z n o).dbg = Zmc.dbg z := (rgOnly_bump z n o).dbg
@[simp] theorem bump_boot (z n o) : (bump z n o).boot = Zmc.boot z := (rgOnly_bump z n o).boot
@[simp] theorem bump_pwr (z n o) : (bump z n o).pwr = Zmc.pwr z := (rgOnly_bump z n o).pwr
@[simp] theorem bump_therm (z n o) : (bump z n o).therm = Zmc.therm z := (rgOnly_bump z n o).therm
@[simp] theorem bump_hod (z n o) : (bump z n o).hod = Zmc.hod z := (rgOnly_bump z n o).hod
@[simp] theorem bump_pair (z n o) : (bump z n o).pair = Zmc.pair z := (rgOnly_bump z n o).pair
@[simp] theorem bump_pkg0 (z n o) : (bump z n o).pkg0 = Zmc.pkg0 z := (rgOnly_bump z n o).pkg0
@[simp] theorem bump_pins (z n o) : (bump z n o).pins = Zmc.pins z := (rgOnly_bump z n o).pins
@[simp] theorem bump_liveAt (z n o) : (bump z n o).liveAt = Zmc.liveAt z := (rgOnly_bump z n o).liveAt
@[simp] theorem bump_live (z n o) : (bump z n o).live = Zmc.live z := (rgOnly_bump z n o).live
@[simp] theorem bump_homes (z n o) : (bump z n o).homes = Zmc.homes z := (rgOnly_bump z n o).homes
@[simp] theorem bump_bays (z n o) : (bump z n o).bays = Zmc.bays z := (rgOnly_bump z n o).bays
@[simp] theorem bump_cinfo (z n o) : (bump z n o).cinfo = Zmc.cinfo z := (rgOnly_bump z n o).cinfo
@[simp] theorem bump_jreq (z n o) : (bump z n o).jreq = Zmc.jreq z := (rgOnly_bump z n o).jreq
@[simp] theorem bump_jdat (z n o) : (bump z n o).jdat = Zmc.jdat z := (rgOnly_bump z n o).jdat
@[simp] theorem bump_jsts (z n o) : (bump z n o).jsts = Zmc.jsts z := (rgOnly_bump z n o).jsts
@[simp] theorem bump_jclr (z n o) : (bump z n o).jclr = Zmc.jclr z := (rgOnly_bump z n o).jclr
@[simp] theorem bump_clrs (z n o) : (bump z n o).clrs = Zmc.clrs z := (rgOnly_bump z n o).clrs
@[simp] theorem bump_clrNext (z n o) : (bump z n o).clrNext = Zmc.clrNext z := (rgOnly_bump z n o).clrNext
@[simp] theorem bump_out (z n o) : (bump z n o).out = Zmc.out z := (rgOnly_bump z n o).out
@[simp] theorem bump_bus (z n o) : (bump z n o).bus = Zmc.bus z := (rgOnly_bump z n o).bus
@[simp] theorem bump48_setu (z n o w) : (bump48 z n o w).setu = Zmc.setu z := (rgOnly_bump48 z n o w).setu
@[simp] theorem bump48_plumb (z n o w) : (bump48 z n o w).plumb = Zmc.plumb z := (rgOnly_bump48 z n o w).plumb
@[simp] theorem bump48_bond (z n o w) : (bump48 z n o w).bond = Zmc.bond z := (rgOnly_bump48 z n o w).bond
@[simp] theorem bump48_mgt (z n o w) : (bump48 z n o w).mgt = Zmc.mgt z := (rgOnly_bump48 z n o w).mgt
@[simp] theorem bump48_keys (z n o w) : (bump48 z n o w).keys = Zmc.keys z := (rgOnly_bump48 z n o w).keys
@[simp] theorem bump48_dbg (z n o w) : (bump48 z n o w).dbg = Zmc.dbg z := (rgOnly_bump48 z n o w).dbg
@[simp] theorem bump48_boot (z n o w) : (bump48 z n o w).boot = Zmc.boot z := (rgOnly_bump48 z n o w).boot
@[simp] theorem bump48_pwr (z n o w) : (bump48 z n o w).pwr = Zmc.pwr z := (rgOnly_bump48 z n o w).pwr
@[simp] theorem bump48_therm (z n o w) : (bump48 z n o w).therm = Zmc.therm z := (rgOnly_bump48 z n o w).therm
@[simp] theorem bump48_hod (z n o w) : (bump48 z n o w).hod = Zmc.hod z := (rgOnly_bump48 z n o w).hod
@[simp] theorem bump48_pair (z n o w) : (bump48 z n o w).pair = Zmc.pair z := (rgOnly_bump48 z n o w).pair
@[simp] theorem bump48_pkg0 (z n o w) : (bump48 z n o w).pkg0 = Zmc.pkg0 z := (rgOnly_bump48 z n o w).pkg0
@[simp] theorem bump48_pins (z n o w) : (bump48 z n o w).pins = Zmc.pins z := (rgOnly_bump48 z n o w).pins
@[simp] theorem bump48_liveAt (z n o w) : (bump48 z n o w).liveAt = Zmc.liveAt z := (rgOnly_bump48 z n o w).liveAt
@[simp] theorem bump48_live (z n o w) : (bump48 z n o w).live = Zmc.live z := (rgOnly_bump48 z n o w).live
@[simp] theorem bump48_homes (z n o w) : (bump48 z n o w).homes = Zmc.homes z := (rgOnly_bump48 z n o w).homes
@[simp] theorem bump48_bays (z n o w) : (bump48 z n o w).bays = Zmc.bays z := (rgOnly_bump48 z n o w).bays
@[simp] theorem bump48_cinfo (z n o w) : (bump48 z n o w).cinfo = Zmc.cinfo z := (rgOnly_bump48 z n o w).cinfo
@[simp] theorem bump48_jreq (z n o w) : (bump48 z n o w).jreq = Zmc.jreq z := (rgOnly_bump48 z n o w).jreq
@[simp] theorem bump48_jdat (z n o w) : (bump48 z n o w).jdat = Zmc.jdat z := (rgOnly_bump48 z n o w).jdat
@[simp] theorem bump48_jsts (z n o w) : (bump48 z n o w).jsts = Zmc.jsts z := (rgOnly_bump48 z n o w).jsts
@[simp] theorem bump48_jclr (z n o w) : (bump48 z n o w).jclr = Zmc.jclr z := (rgOnly_bump48 z n o w).jclr
@[simp] theorem bump48_clrs (z n o w) : (bump48 z n o w).clrs = Zmc.clrs z := (rgOnly_bump48 z n o w).clrs
@[simp] theorem bump48_clrNext (z n o w) : (bump48 z n o w).clrNext = Zmc.clrNext z := (rgOnly_bump48 z n o w).clrNext
@[simp] theorem bump48_out (z n o w) : (bump48 z n o w).out = Zmc.out z := (rgOnly_bump48 z n o w).out
@[simp] theorem bump48_bus (z n o w) : (bump48 z n o w).bus = Zmc.bus z := (rgOnly_bump48 z n o w).bus
@[simp] theorem dropAcc_setu (z n o r w) : (dropAcc z n o r w).setu = Zmc.setu z := (rgOnly_dropAcc z n o r w).setu
@[simp] theorem dropAcc_plumb (z n o r w) : (dropAcc z n o r w).plumb = Zmc.plumb z := (rgOnly_dropAcc z n o r w).plumb
@[simp] theorem dropAcc_bond (z n o r w) : (dropAcc z n o r w).bond = Zmc.bond z := (rgOnly_dropAcc z n o r w).bond
@[simp] theorem dropAcc_mgt (z n o r w) : (dropAcc z n o r w).mgt = Zmc.mgt z := (rgOnly_dropAcc z n o r w).mgt
@[simp] theorem dropAcc_keys (z n o r w) : (dropAcc z n o r w).keys = Zmc.keys z := (rgOnly_dropAcc z n o r w).keys
@[simp] theorem dropAcc_dbg (z n o r w) : (dropAcc z n o r w).dbg = Zmc.dbg z := (rgOnly_dropAcc z n o r w).dbg
@[simp] theorem dropAcc_boot (z n o r w) : (dropAcc z n o r w).boot = Zmc.boot z := (rgOnly_dropAcc z n o r w).boot
@[simp] theorem dropAcc_pwr (z n o r w) : (dropAcc z n o r w).pwr = Zmc.pwr z := (rgOnly_dropAcc z n o r w).pwr
@[simp] theorem dropAcc_therm (z n o r w) : (dropAcc z n o r w).therm = Zmc.therm z := (rgOnly_dropAcc z n o r w).therm
@[simp] theorem dropAcc_hod (z n o r w) : (dropAcc z n o r w).hod = Zmc.hod z := (rgOnly_dropAcc z n o r w).hod
@[simp] theorem dropAcc_pair (z n o r w) : (dropAcc z n o r w).pair = Zmc.pair z := (rgOnly_dropAcc z n o r w).pair
@[simp] theorem dropAcc_pkg0 (z n o r w) : (dropAcc z n o r w).pkg0 = Zmc.pkg0 z := (rgOnly_dropAcc z n o r w).pkg0
@[simp] theorem dropAcc_pins (z n o r w) : (dropAcc z n o r w).pins = Zmc.pins z := (rgOnly_dropAcc z n o r w).pins
@[simp] theorem dropAcc_liveAt (z n o r w) : (dropAcc z n o r w).liveAt = Zmc.liveAt z := (rgOnly_dropAcc z n o r w).liveAt
@[simp] theorem dropAcc_live (z n o r w) : (dropAcc z n o r w).live = Zmc.live z := (rgOnly_dropAcc z n o r w).live
@[simp] theorem dropAcc_homes (z n o r w) : (dropAcc z n o r w).homes = Zmc.homes z := (rgOnly_dropAcc z n o r w).homes
@[simp] theorem dropAcc_bays (z n o r w) : (dropAcc z n o r w).bays = Zmc.bays z := (rgOnly_dropAcc z n o r w).bays
@[simp] theorem dropAcc_cinfo (z n o r w) : (dropAcc z n o r w).cinfo = Zmc.cinfo z := (rgOnly_dropAcc z n o r w).cinfo
@[simp] theorem dropAcc_jreq (z n o r w) : (dropAcc z n o r w).jreq = Zmc.jreq z := (rgOnly_dropAcc z n o r w).jreq
@[simp] theorem dropAcc_jdat (z n o r w) : (dropAcc z n o r w).jdat = Zmc.jdat z := (rgOnly_dropAcc z n o r w).jdat
@[simp] theorem dropAcc_jsts (z n o r w) : (dropAcc z n o r w).jsts = Zmc.jsts z := (rgOnly_dropAcc z n o r w).jsts
@[simp] theorem dropAcc_jclr (z n o r w) : (dropAcc z n o r w).jclr = Zmc.jclr z := (rgOnly_dropAcc z n o r w).jclr
@[simp] theorem dropAcc_clrs (z n o r w) : (dropAcc z n o r w).clrs = Zmc.clrs z := (rgOnly_dropAcc z n o r w).clrs
@[simp] theorem dropAcc_clrNext (z n o r w) : (dropAcc z n o r w).clrNext = Zmc.clrNext z := (rgOnly_dropAcc z n o r w).clrNext
@[simp] theorem dropAcc_out (z n o r w) : (dropAcc z n o r w).out = Zmc.out z := (rgOnly_dropAcc z n o r w).out
@[simp] theorem dropAcc_bus (z n o r w) : (dropAcc z n o r w).bus = Zmc.bus z := (rgOnly_dropAcc z n o r w).bus
@[simp] theorem jDiscard_setu (z n i) : (jDiscard z n i).setu = Zmc.setu z := (rgOnly_jDiscard z n i).setu
@[simp] theorem jDiscard_plumb (z n i) : (jDiscard z n i).plumb = Zmc.plumb z := (rgOnly_jDiscard z n i).plumb
@[simp] theorem jDiscard_bond (z n i) : (jDiscard z n i).bond = Zmc.bond z := (rgOnly_jDiscard z n i).bond
@[simp] theorem jDiscard_mgt (z n i) : (jDiscard z n i).mgt = Zmc.mgt z := (rgOnly_jDiscard z n i).mgt
@[simp] theorem jDiscard_keys (z n i) : (jDiscard z n i).keys = Zmc.keys z := (rgOnly_jDiscard z n i).keys
@[simp] theorem jDiscard_dbg (z n i) : (jDiscard z n i).dbg = Zmc.dbg z := (rgOnly_jDiscard z n i).dbg
@[simp] theorem jDiscard_boot (z n i) : (jDiscard z n i).boot = Zmc.boot z := (rgOnly_jDiscard z n i).boot
@[simp] theorem jDiscard_pwr (z n i) : (jDiscard z n i).pwr = Zmc.pwr z := (rgOnly_jDiscard z n i).pwr
@[simp] theorem jDiscard_therm (z n i) : (jDiscard z n i).therm = Zmc.therm z := (rgOnly_jDiscard z n i).therm
@[simp] theorem jDiscard_hod (z n i) : (jDiscard z n i).hod = Zmc.hod z := (rgOnly_jDiscard z n i).hod
@[simp] theorem jDiscard_pair (z n i) : (jDiscard z n i).pair = Zmc.pair z := (rgOnly_jDiscard z n i).pair
@[simp] theorem jDiscard_pkg0 (z n i) : (jDiscard z n i).pkg0 = Zmc.pkg0 z := (rgOnly_jDiscard z n i).pkg0
@[simp] theorem jDiscard_pins (z n i) : (jDiscard z n i).pins = Zmc.pins z := (rgOnly_jDiscard z n i).pins
@[simp] theorem jDiscard_liveAt (z n i) : (jDiscard z n i).liveAt = Zmc.liveAt z := (rgOnly_jDiscard z n i).liveAt
@[simp] theorem jDiscard_live (z n i) : (jDiscard z n i).live = Zmc.live z := (rgOnly_jDiscard z n i).live
@[simp] theorem jDiscard_homes (z n i) : (jDiscard z n i).homes = Zmc.homes z := (rgOnly_jDiscard z n i).homes
@[simp] theorem jDiscard_bays (z n i) : (jDiscard z n i).bays = Zmc.bays z := (rgOnly_jDiscard z n i).bays
@[simp] theorem jDiscard_cinfo (z n i) : (jDiscard z n i).cinfo = Zmc.cinfo z := (rgOnly_jDiscard z n i).cinfo
@[simp] theorem jDiscard_jreq (z n i) : (jDiscard z n i).jreq = Zmc.jreq z := (rgOnly_jDiscard z n i).jreq
@[simp] theorem jDiscard_jdat (z n i) : (jDiscard z n i).jdat = Zmc.jdat z := (rgOnly_jDiscard z n i).jdat
@[simp] theorem jDiscard_jsts (z n i) : (jDiscard z n i).jsts = Zmc.jsts z := (rgOnly_jDiscard z n i).jsts
@[simp] theorem jDiscard_jclr (z n i) : (jDiscard z n i).jclr = Zmc.jclr z := (rgOnly_jDiscard z n i).jclr
@[simp] theorem jDiscard_clrs (z n i) : (jDiscard z n i).clrs = Zmc.clrs z := (rgOnly_jDiscard z n i).clrs
@[simp] theorem jDiscard_clrNext (z n i) : (jDiscard z n i).clrNext = Zmc.clrNext z := (rgOnly_jDiscard z n i).clrNext
@[simp] theorem jDiscard_out (z n i) : (jDiscard z n i).out = Zmc.out z := (rgOnly_jDiscard z n i).out
@[simp] theorem jDiscard_bus (z n i) : (jDiscard z n i).bus = Zmc.bus z := (rgOnly_jDiscard z n i).bus
@[simp] theorem edgeCtrs_setu (z n i o l w) : (edgeCtrs z n i o l w).setu = Zmc.setu z := (rgOnly_edgeCtrs z n i o l w).setu
@[simp] theorem edgeCtrs_plumb (z n i o l w) : (edgeCtrs z n i o l w).plumb = Zmc.plumb z := (rgOnly_edgeCtrs z n i o l w).plumb
@[simp] theorem edgeCtrs_bond (z n i o l w) : (edgeCtrs z n i o l w).bond = Zmc.bond z := (rgOnly_edgeCtrs z n i o l w).bond
@[simp] theorem edgeCtrs_mgt (z n i o l w) : (edgeCtrs z n i o l w).mgt = Zmc.mgt z := (rgOnly_edgeCtrs z n i o l w).mgt
@[simp] theorem edgeCtrs_keys (z n i o l w) : (edgeCtrs z n i o l w).keys = Zmc.keys z := (rgOnly_edgeCtrs z n i o l w).keys
@[simp] theorem edgeCtrs_dbg (z n i o l w) : (edgeCtrs z n i o l w).dbg = Zmc.dbg z := (rgOnly_edgeCtrs z n i o l w).dbg
@[simp] theorem edgeCtrs_boot (z n i o l w) : (edgeCtrs z n i o l w).boot = Zmc.boot z := (rgOnly_edgeCtrs z n i o l w).boot
@[simp] theorem edgeCtrs_pwr (z n i o l w) : (edgeCtrs z n i o l w).pwr = Zmc.pwr z := (rgOnly_edgeCtrs z n i o l w).pwr
@[simp] theorem edgeCtrs_therm (z n i o l w) : (edgeCtrs z n i o l w).therm = Zmc.therm z := (rgOnly_edgeCtrs z n i o l w).therm
@[simp] theorem edgeCtrs_hod (z n i o l w) : (edgeCtrs z n i o l w).hod = Zmc.hod z := (rgOnly_edgeCtrs z n i o l w).hod
@[simp] theorem edgeCtrs_pair (z n i o l w) : (edgeCtrs z n i o l w).pair = Zmc.pair z := (rgOnly_edgeCtrs z n i o l w).pair
@[simp] theorem edgeCtrs_pkg0 (z n i o l w) : (edgeCtrs z n i o l w).pkg0 = Zmc.pkg0 z := (rgOnly_edgeCtrs z n i o l w).pkg0
@[simp] theorem edgeCtrs_pins (z n i o l w) : (edgeCtrs z n i o l w).pins = Zmc.pins z := (rgOnly_edgeCtrs z n i o l w).pins
@[simp] theorem edgeCtrs_liveAt (z n i o l w) : (edgeCtrs z n i o l w).liveAt = Zmc.liveAt z := (rgOnly_edgeCtrs z n i o l w).liveAt
@[simp] theorem edgeCtrs_live (z n i o l w) : (edgeCtrs z n i o l w).live = Zmc.live z := (rgOnly_edgeCtrs z n i o l w).live
@[simp] theorem edgeCtrs_homes (z n i o l w) : (edgeCtrs z n i o l w).homes = Zmc.homes z := (rgOnly_edgeCtrs z n i o l w).homes
@[simp] theorem edgeCtrs_bays (z n i o l w) : (edgeCtrs z n i o l w).bays = Zmc.bays z := (rgOnly_edgeCtrs z n i o l w).bays
@[simp] theorem edgeCtrs_cinfo (z n i o l w) : (edgeCtrs z n i o l w).cinfo = Zmc.cinfo z := (rgOnly_edgeCtrs z n i o l w).cinfo
@[simp] theorem edgeCtrs_jreq (z n i o l w) : (edgeCtrs z n i o l w).jreq = Zmc.jreq z := (rgOnly_edgeCtrs z n i o l w).jreq
@[simp] theorem edgeCtrs_jdat (z n i o l w) : (edgeCtrs z n i o l w).jdat = Zmc.jdat z := (rgOnly_edgeCtrs z n i o l w).jdat
@[simp] theorem edgeCtrs_jsts (z n i o l w) : (edgeCtrs z n i o l w).jsts = Zmc.jsts z := (rgOnly_edgeCtrs z n i o l w).jsts
@[simp] theorem edgeCtrs_jclr (z n i o l w) : (edgeCtrs z n i o l w).jclr = Zmc.jclr z := (rgOnly_edgeCtrs z n i o l w).jclr
@[simp] theorem edgeCtrs_clrs (z n i o l w) : (edgeCtrs z n i o l w).clrs = Zmc.clrs z := (rgOnly_edgeCtrs z n i o l w).clrs
@[simp] theorem edgeCtrs_clrNext (z n i o l w) : (edgeCtrs z n i o l w).clrNext = Zmc.clrNext z := (rgOnly_edgeCtrs z n i o l w).clrNext
@[simp] theorem edgeCtrs_out (z n i o l w) : (edgeCtrs z n i o l w).out = Zmc.out z := (rgOnly_edgeCtrs z n i o l w).out
@[simp] theorem edgeCtrs_bus (z n i o l w) : (edgeCtrs z n i o l w).bus = Zmc.bus z := (rgOnly_edgeCtrs z n i o l w).bus
@[simp] theorem ctrAdd_setu (z n i k w) : (ctrAdd z n i k w).setu = Zmc.setu z := (rgOnly_ctrAdd z n i k w).setu
@[simp] theorem ctrAdd_plumb (z n i k w) : (ctrAdd z n i k w).plumb = Zmc.plumb z := (rgOnly_ctrAdd z n i k w).plumb
@[simp] theorem ctrAdd_bond (z n i k w) : (ctrAdd z n i k w).bond = Zmc.bond z := (rgOnly_ctrAdd z n i k w).bond
@[simp] theorem ctrAdd_mgt (z n i k w) : (ctrAdd z n i k w).mgt = Zmc.mgt z := (rgOnly_ctrAdd z n i k w).mgt
@[simp] theorem ctrAdd_keys (z n i k w) : (ctrAdd z n i k w).keys = Zmc.keys z := (rgOnly_ctrAdd z n i k w).keys
@[simp] theorem ctrAdd_dbg (z n i k w) : (ctrAdd z n i k w).dbg = Zmc.dbg z := (rgOnly_ctrAdd z n i k w).dbg
@[simp] theorem ctrAdd_boot (z n i k w) : (ctrAdd z n i k w).boot = Zmc.boot z := (rgOnly_ctrAdd z n i k w).boot
@[simp] theorem ctrAdd_pwr (z n i k w) : (ctrAdd z n i k w).pwr = Zmc.pwr z := (rgOnly_ctrAdd z n i k w).pwr
@[simp] theorem ctrAdd_therm (z n i k w) : (ctrAdd z n i k w).therm = Zmc.therm z := (rgOnly_ctrAdd z n i k w).therm
@[simp] theorem ctrAdd_hod (z n i k w) : (ctrAdd z n i k w).hod = Zmc.hod z := (rgOnly_ctrAdd z n i k w).hod
@[simp] theorem ctrAdd_pair (z n i k w) : (ctrAdd z n i k w).pair = Zmc.pair z := (rgOnly_ctrAdd z n i k w).pair
@[simp] theorem ctrAdd_pkg0 (z n i k w) : (ctrAdd z n i k w).pkg0 = Zmc.pkg0 z := (rgOnly_ctrAdd z n i k w).pkg0
@[simp] theorem ctrAdd_pins (z n i k w) : (ctrAdd z n i k w).pins = Zmc.pins z := (rgOnly_ctrAdd z n i k w).pins
@[simp] theorem ctrAdd_liveAt (z n i k w) : (ctrAdd z n i k w).liveAt = Zmc.liveAt z := (rgOnly_ctrAdd z n i k w).liveAt
@[simp] theorem ctrAdd_live (z n i k w) : (ctrAdd z n i k w).live = Zmc.live z := (rgOnly_ctrAdd z n i k w).live
@[simp] theorem ctrAdd_homes (z n i k w) : (ctrAdd z n i k w).homes = Zmc.homes z := (rgOnly_ctrAdd z n i k w).homes
@[simp] theorem ctrAdd_bays (z n i k w) : (ctrAdd z n i k w).bays = Zmc.bays z := (rgOnly_ctrAdd z n i k w).bays
@[simp] theorem ctrAdd_cinfo (z n i k w) : (ctrAdd z n i k w).cinfo = Zmc.cinfo z := (rgOnly_ctrAdd z n i k w).cinfo
@[simp] theorem ctrAdd_jreq (z n i k w) : (ctrAdd z n i k w).jreq = Zmc.jreq z := (rgOnly_ctrAdd z n i k w).jreq
@[simp] theorem ctrAdd_jdat (z n i k w) : (ctrAdd z n i k w).jdat = Zmc.jdat z := (rgOnly_ctrAdd z n i k w).jdat
@[simp] theorem ctrAdd_jsts (z n i k w) : (ctrAdd z n i k w).jsts = Zmc.jsts z := (rgOnly_ctrAdd z n i k w).jsts
@[simp] theorem ctrAdd_jclr (z n i k w) : (ctrAdd z n i k w).jclr = Zmc.jclr z := (rgOnly_ctrAdd z n i k w).jclr
@[simp] theorem ctrAdd_clrs (z n i k w) : (ctrAdd z n i k w).clrs = Zmc.clrs z := (rgOnly_ctrAdd z n i k w).clrs
@[simp] theorem ctrAdd_clrNext (z n i k w) : (ctrAdd z n i k w).clrNext = Zmc.clrNext z := (rgOnly_ctrAdd z n i k w).clrNext
@[simp] theorem ctrAdd_out (z n i k w) : (ctrAdd z n i k w).out = Zmc.out z := (rgOnly_ctrAdd z n i k w).out
@[simp] theorem ctrAdd_bus (z n i k w) : (ctrAdd z n i k w).bus = Zmc.bus z := (rgOnly_ctrAdd z n i k w).bus
@[simp] theorem logHw_setu (z n o) : (logHw z n o).setu = Zmc.setu z := (rgOnly_logHw z n o).setu
@[simp] theorem logHw_plumb (z n o) : (logHw z n o).plumb = Zmc.plumb z := (rgOnly_logHw z n o).plumb
@[simp] theorem logHw_bond (z n o) : (logHw z n o).bond = Zmc.bond z := (rgOnly_logHw z n o).bond
@[simp] theorem logHw_mgt (z n o) : (logHw z n o).mgt = Zmc.mgt z := (rgOnly_logHw z n o).mgt
@[simp] theorem logHw_keys (z n o) : (logHw z n o).keys = Zmc.keys z := (rgOnly_logHw z n o).keys
@[simp] theorem logHw_dbg (z n o) : (logHw z n o).dbg = Zmc.dbg z := (rgOnly_logHw z n o).dbg
@[simp] theorem logHw_boot (z n o) : (logHw z n o).boot = Zmc.boot z := (rgOnly_logHw z n o).boot
@[simp] theorem logHw_pwr (z n o) : (logHw z n o).pwr = Zmc.pwr z := (rgOnly_logHw z n o).pwr
@[simp] theorem logHw_therm (z n o) : (logHw z n o).therm = Zmc.therm z := (rgOnly_logHw z n o).therm
@[simp] theorem logHw_hod (z n o) : (logHw z n o).hod = Zmc.hod z := (rgOnly_logHw z n o).hod
@[simp] theorem logHw_pair (z n o) : (logHw z n o).pair = Zmc.pair z := (rgOnly_logHw z n o).pair
@[simp] theorem logHw_pkg0 (z n o) : (logHw z n o).pkg0 = Zmc.pkg0 z := (rgOnly_logHw z n o).pkg0
@[simp] theorem logHw_pins (z n o) : (logHw z n o).pins = Zmc.pins z := (rgOnly_logHw z n o).pins
@[simp] theorem logHw_liveAt (z n o) : (logHw z n o).liveAt = Zmc.liveAt z := (rgOnly_logHw z n o).liveAt
@[simp] theorem logHw_live (z n o) : (logHw z n o).live = Zmc.live z := (rgOnly_logHw z n o).live
@[simp] theorem logHw_homes (z n o) : (logHw z n o).homes = Zmc.homes z := (rgOnly_logHw z n o).homes
@[simp] theorem logHw_bays (z n o) : (logHw z n o).bays = Zmc.bays z := (rgOnly_logHw z n o).bays
@[simp] theorem logHw_cinfo (z n o) : (logHw z n o).cinfo = Zmc.cinfo z := (rgOnly_logHw z n o).cinfo
@[simp] theorem logHw_jreq (z n o) : (logHw z n o).jreq = Zmc.jreq z := (rgOnly_logHw z n o).jreq
@[simp] theorem logHw_jdat (z n o) : (logHw z n o).jdat = Zmc.jdat z := (rgOnly_logHw z n o).jdat
@[simp] theorem logHw_jsts (z n o) : (logHw z n o).jsts = Zmc.jsts z := (rgOnly_logHw z n o).jsts
@[simp] theorem logHw_jclr (z n o) : (logHw z n o).jclr = Zmc.jclr z := (rgOnly_logHw z n o).jclr
@[simp] theorem logHw_clrs (z n o) : (logHw z n o).clrs = Zmc.clrs z := (rgOnly_logHw z n o).clrs
@[simp] theorem logHw_clrNext (z n o) : (logHw z n o).clrNext = Zmc.clrNext z := (rgOnly_logHw z n o).clrNext
@[simp] theorem logHw_out (z n o) : (logHw z n o).out = Zmc.out z := (rgOnly_logHw z n o).out
@[simp] theorem logHw_bus (z n o) : (logHw z n o).bus = Zmc.bus z := (rgOnly_logHw z n o).bus
@[simp] theorem putWord_rg_pend (z o v) : (putWord z o v).rg.pend = (Zmc.rg z).pend := (rgOnly_putWord z o v).rg_pend
@[simp] theorem putWord_rg_fail (z o v) : (putWord z o v).rg.fail = (Zmc.rg z).fail := (rgOnly_putWord z o v).rg_fail
@[simp] theorem putWord_rg_w1 (z o v) : (putWord z o v).rg.w1 = (Zmc.rg z).w1 := (rgOnly_putWord z o v).rg_w1
@[simp] theorem putWord_rg_holdOk (z o v) : (putWord z o v).rg.holdOk = (Zmc.rg z).holdOk := (rgOnly_putWord z o v).rg_holdOk
@[simp] theorem putWord_rg_rdSh (z o v) : (putWord z o v).rg.rdSh = (Zmc.rg z).rdSh := (rgOnly_putWord z o v).rg_rdSh
@[simp] theorem putWord_rg_wrSh (z o v) : (putWord z o v).rg.wrSh = (Zmc.rg z).wrSh := (rgOnly_putWord z o v).rg_wrSh
@[simp] theorem putWord_rg_sw (z o v) : (putWord z o v).rg.sw = (Zmc.rg z).sw := (rgOnly_putWord z o v).rg_sw
@[simp] theorem putWord_rg_lvl (z o v) : (putWord z o v).rg.lvl = (Zmc.rg z).lvl := (rgOnly_putWord z o v).rg_lvl
@[simp] theorem putWord_rg_sealed (z o v) : (putWord z o v).rg.sealed = (Zmc.rg z).sealed := (rgOnly_putWord z o v).rg_sealed
@[simp] theorem setF_rg_pend (z o h l v) : (setF z o h l v).rg.pend = (Zmc.rg z).pend := (rgOnly_setF z o h l v).rg_pend
@[simp] theorem setF_rg_fail (z o h l v) : (setF z o h l v).rg.fail = (Zmc.rg z).fail := (rgOnly_setF z o h l v).rg_fail
@[simp] theorem setF_rg_w1 (z o h l v) : (setF z o h l v).rg.w1 = (Zmc.rg z).w1 := (rgOnly_setF z o h l v).rg_w1
@[simp] theorem setF_rg_holdOk (z o h l v) : (setF z o h l v).rg.holdOk = (Zmc.rg z).holdOk := (rgOnly_setF z o h l v).rg_holdOk
@[simp] theorem setF_rg_rdSh (z o h l v) : (setF z o h l v).rg.rdSh = (Zmc.rg z).rdSh := (rgOnly_setF z o h l v).rg_rdSh
@[simp] theorem setF_rg_wrSh (z o h l v) : (setF z o h l v).rg.wrSh = (Zmc.rg z).wrSh := (rgOnly_setF z o h l v).rg_wrSh
@[simp] theorem setF_rg_sw (z o h l v) : (setF z o h l v).rg.sw = (Zmc.rg z).sw := (rgOnly_setF z o h l v).rg_sw
@[simp] theorem setF_rg_lvl (z o h l v) : (setF z o h l v).rg.lvl = (Zmc.rg z).lvl := (rgOnly_setF z o h l v).rg_lvl
@[simp] theorem setF_rg_sealed (z o h l v) : (setF z o h l v).rg.sealed = (Zmc.rg z).sealed := (rgOnly_setF z o h l v).rg_sealed
@[simp] theorem putWide_rg_pend (z o v) : (putWide z o v).rg.pend = (Zmc.rg z).pend := (rgOnly_putWide z o v).rg_pend
@[simp] theorem putWide_rg_fail (z o v) : (putWide z o v).rg.fail = (Zmc.rg z).fail := (rgOnly_putWide z o v).rg_fail
@[simp] theorem putWide_rg_w1 (z o v) : (putWide z o v).rg.w1 = (Zmc.rg z).w1 := (rgOnly_putWide z o v).rg_w1
@[simp] theorem putWide_rg_holdOk (z o v) : (putWide z o v).rg.holdOk = (Zmc.rg z).holdOk := (rgOnly_putWide z o v).rg_holdOk
@[simp] theorem putWide_rg_rdSh (z o v) : (putWide z o v).rg.rdSh = (Zmc.rg z).rdSh := (rgOnly_putWide z o v).rg_rdSh
@[simp] theorem putWide_rg_wrSh (z o v) : (putWide z o v).rg.wrSh = (Zmc.rg z).wrSh := (rgOnly_putWide z o v).rg_wrSh
@[simp] theorem putWide_rg_sw (z o v) : (putWide z o v).rg.sw = (Zmc.rg z).sw := (rgOnly_putWide z o v).rg_sw
@[simp] theorem putWide_rg_lvl (z o v) : (putWide z o v).rg.lvl = (Zmc.rg z).lvl := (rgOnly_putWide z o v).rg_lvl
@[simp] theorem putWide_rg_sealed (z o v) : (putWide z o v).rg.sealed = (Zmc.rg z).sealed := (rgOnly_putWide z o v).rg_sealed
@[simp] theorem postBits_rg_pend (z n o m) : (postBits z n o m).rg.pend = (Zmc.rg z).pend := (rgOnly_postBits z n o m).rg_pend
@[simp] theorem postBits_rg_fail (z n o m) : (postBits z n o m).rg.fail = (Zmc.rg z).fail := (rgOnly_postBits z n o m).rg_fail
@[simp] theorem postBits_rg_w1 (z n o m) : (postBits z n o m).rg.w1 = (Zmc.rg z).w1 := (rgOnly_postBits z n o m).rg_w1
@[simp] theorem postBits_rg_holdOk (z n o m) : (postBits z n o m).rg.holdOk = (Zmc.rg z).holdOk := (rgOnly_postBits z n o m).rg_holdOk
@[simp] theorem postBits_rg_rdSh (z n o m) : (postBits z n o m).rg.rdSh = (Zmc.rg z).rdSh := (rgOnly_postBits z n o m).rg_rdSh
@[simp] theorem postBits_rg_wrSh (z n o m) : (postBits z n o m).rg.wrSh = (Zmc.rg z).wrSh := (rgOnly_postBits z n o m).rg_wrSh
@[simp] theorem postBits_rg_sw (z n o m) : (postBits z n o m).rg.sw = (Zmc.rg z).sw := (rgOnly_postBits z n o m).rg_sw
@[simp] theorem postBits_rg_lvl (z n o m) : (postBits z n o m).rg.lvl = (Zmc.rg z).lvl := (rgOnly_postBits z n o m).rg_lvl
@[simp] theorem postBits_rg_sealed (z n o m) : (postBits z n o m).rg.sealed = (Zmc.rg z).sealed := (rgOnly_postBits z n o m).rg_sealed
@[simp] theorem post_rg_pend (z n o b) : (post z n o b).rg.pend = (Zmc.rg z).pend := (rgOnly_post z n o b).rg_pend
@[simp] theorem post_rg_fail (z n o b) : (post z n o b).rg.fail = (Zmc.rg z).fail := (rgOnly_post z n o b).rg_fail
@[simp] theorem post_rg_w1 (z n o b) : (post z n o b).rg.w1 = (Zmc.rg z).w1 := (rgOnly_post z n o b).rg_w1
@[simp] theorem post_rg_holdOk (z n o b) : (post z n o b).rg.holdOk = (Zmc.rg z).holdOk := (rgOnly_post z n o b).rg_holdOk
@[simp] theorem post_rg_rdSh (z n o b) : (post z n o b).rg.rdSh = (Zmc.rg z).rdSh := (rgOnly_post z n o b).rg_rdSh
@[simp] theorem post_rg_wrSh (z n o b) : (post z n o b).rg.wrSh = (Zmc.rg z).wrSh := (rgOnly_post z n o b).rg_wrSh
@[simp] theorem post_rg_sw (z n o b) : (post z n o b).rg.sw = (Zmc.rg z).sw := (rgOnly_post z n o b).rg_sw
@[simp] theorem post_rg_lvl (z n o b) : (post z n o b).rg.lvl = (Zmc.rg z).lvl := (rgOnly_post z n o b).rg_lvl
@[simp] theorem post_rg_sealed (z n o b) : (post z n o b).rg.sealed = (Zmc.rg z).sealed := (rgOnly_post z n o b).rg_sealed
@[simp] theorem cntLost_rg_pend (z n o) : (cntLost z n o).rg.pend = (Zmc.rg z).pend := (rgOnly_cntLost z n o).rg_pend
@[simp] theorem cntLost_rg_fail (z n o) : (cntLost z n o).rg.fail = (Zmc.rg z).fail := (rgOnly_cntLost z n o).rg_fail
@[simp] theorem cntLost_rg_w1 (z n o) : (cntLost z n o).rg.w1 = (Zmc.rg z).w1 := (rgOnly_cntLost z n o).rg_w1
@[simp] theorem cntLost_rg_holdOk (z n o) : (cntLost z n o).rg.holdOk = (Zmc.rg z).holdOk := (rgOnly_cntLost z n o).rg_holdOk
@[simp] theorem cntLost_rg_rdSh (z n o) : (cntLost z n o).rg.rdSh = (Zmc.rg z).rdSh := (rgOnly_cntLost z n o).rg_rdSh
@[simp] theorem cntLost_rg_wrSh (z n o) : (cntLost z n o).rg.wrSh = (Zmc.rg z).wrSh := (rgOnly_cntLost z n o).rg_wrSh
@[simp] theorem cntLost_rg_sw (z n o) : (cntLost z n o).rg.sw = (Zmc.rg z).sw := (rgOnly_cntLost z n o).rg_sw
@[simp] theorem cntLost_rg_lvl (z n o) : (cntLost z n o).rg.lvl = (Zmc.rg z).lvl := (rgOnly_cntLost z n o).rg_lvl
@[simp] theorem cntLost_rg_sealed (z n o) : (cntLost z n o).rg.sealed = (Zmc.rg z).sealed := (rgOnly_cntLost z n o).rg_sealed
@[simp] theorem bumpN_rg_pend (z n o l w) : (bumpN z n o l w).rg.pend = (Zmc.rg z).pend := (rgOnly_bumpN z n o l w).rg_pend
@[simp] theorem bumpN_rg_fail (z n o l w) : (bumpN z n o l w).rg.fail = (Zmc.rg z).fail := (rgOnly_bumpN z n o l w).rg_fail
@[simp] theorem bumpN_rg_w1 (z n o l w) : (bumpN z n o l w).rg.w1 = (Zmc.rg z).w1 := (rgOnly_bumpN z n o l w).rg_w1
@[simp] theorem bumpN_rg_holdOk (z n o l w) : (bumpN z n o l w).rg.holdOk = (Zmc.rg z).holdOk := (rgOnly_bumpN z n o l w).rg_holdOk
@[simp] theorem bumpN_rg_rdSh (z n o l w) : (bumpN z n o l w).rg.rdSh = (Zmc.rg z).rdSh := (rgOnly_bumpN z n o l w).rg_rdSh
@[simp] theorem bumpN_rg_wrSh (z n o l w) : (bumpN z n o l w).rg.wrSh = (Zmc.rg z).wrSh := (rgOnly_bumpN z n o l w).rg_wrSh
@[simp] theorem bumpN_rg_sw (z n o l w) : (bumpN z n o l w).rg.sw = (Zmc.rg z).sw := (rgOnly_bumpN z n o l w).rg_sw
@[simp] theorem bumpN_rg_lvl (z n o l w) : (bumpN z n o l w).rg.lvl = (Zmc.rg z).lvl := (rgOnly_bumpN z n o l w).rg_lvl
@[simp] theorem bumpN_rg_sealed (z n o l w) : (bumpN z n o l w).rg.sealed = (Zmc.rg z).sealed := (rgOnly_bumpN z n o l w).rg_sealed
@[simp] theorem bump_rg_pend (z n o) : (bump z n o).rg.pend = (Zmc.rg z).pend := (rgOnly_bump z n o).rg_pend
@[simp] theorem bump_rg_fail (z n o) : (bump z n o).rg.fail = (Zmc.rg z).fail := (rgOnly_bump z n o).rg_fail
@[simp] theorem bump_rg_w1 (z n o) : (bump z n o).rg.w1 = (Zmc.rg z).w1 := (rgOnly_bump z n o).rg_w1
@[simp] theorem bump_rg_holdOk (z n o) : (bump z n o).rg.holdOk = (Zmc.rg z).holdOk := (rgOnly_bump z n o).rg_holdOk
@[simp] theorem bump_rg_rdSh (z n o) : (bump z n o).rg.rdSh = (Zmc.rg z).rdSh := (rgOnly_bump z n o).rg_rdSh
@[simp] theorem bump_rg_wrSh (z n o) : (bump z n o).rg.wrSh = (Zmc.rg z).wrSh := (rgOnly_bump z n o).rg_wrSh
@[simp] theorem bump_rg_sw (z n o) : (bump z n o).rg.sw = (Zmc.rg z).sw := (rgOnly_bump z n o).rg_sw
@[simp] theorem bump_rg_lvl (z n o) : (bump z n o).rg.lvl = (Zmc.rg z).lvl := (rgOnly_bump z n o).rg_lvl
@[simp] theorem bump_rg_sealed (z n o) : (bump z n o).rg.sealed = (Zmc.rg z).sealed := (rgOnly_bump z n o).rg_sealed
@[simp] theorem bump48_rg_pend (z n o w) : (bump48 z n o w).rg.pend = (Zmc.rg z).pend := (rgOnly_bump48 z n o w).rg_pend
@[simp] theorem bump48_rg_fail (z n o w) : (bump48 z n o w).rg.fail = (Zmc.rg z).fail := (rgOnly_bump48 z n o w).rg_fail
@[simp] theorem bump48_rg_w1 (z n o w) : (bump48 z n o w).rg.w1 = (Zmc.rg z).w1 := (rgOnly_bump48 z n o w).rg_w1
@[simp] theorem bump48_rg_holdOk (z n o w) : (bump48 z n o w).rg.holdOk = (Zmc.rg z).holdOk := (rgOnly_bump48 z n o w).rg_holdOk
@[simp] theorem bump48_rg_rdSh (z n o w) : (bump48 z n o w).rg.rdSh = (Zmc.rg z).rdSh := (rgOnly_bump48 z n o w).rg_rdSh
@[simp] theorem bump48_rg_wrSh (z n o w) : (bump48 z n o w).rg.wrSh = (Zmc.rg z).wrSh := (rgOnly_bump48 z n o w).rg_wrSh
@[simp] theorem bump48_rg_sw (z n o w) : (bump48 z n o w).rg.sw = (Zmc.rg z).sw := (rgOnly_bump48 z n o w).rg_sw
@[simp] theorem bump48_rg_lvl (z n o w) : (bump48 z n o w).rg.lvl = (Zmc.rg z).lvl := (rgOnly_bump48 z n o w).rg_lvl
@[simp] theorem bump48_rg_sealed (z n o w) : (bump48 z n o w).rg.sealed = (Zmc.rg z).sealed := (rgOnly_bump48 z n o w).rg_sealed
@[simp] theorem dropAcc_rg_pend (z n o r w) : (dropAcc z n o r w).rg.pend = (Zmc.rg z).pend := (rgOnly_dropAcc z n o r w).rg_pend
@[simp] theorem dropAcc_rg_fail (z n o r w) : (dropAcc z n o r w).rg.fail = (Zmc.rg z).fail := (rgOnly_dropAcc z n o r w).rg_fail
@[simp] theorem dropAcc_rg_w1 (z n o r w) : (dropAcc z n o r w).rg.w1 = (Zmc.rg z).w1 := (rgOnly_dropAcc z n o r w).rg_w1
@[simp] theorem dropAcc_rg_holdOk (z n o r w) : (dropAcc z n o r w).rg.holdOk = (Zmc.rg z).holdOk := (rgOnly_dropAcc z n o r w).rg_holdOk
@[simp] theorem dropAcc_rg_rdSh (z n o r w) : (dropAcc z n o r w).rg.rdSh = (Zmc.rg z).rdSh := (rgOnly_dropAcc z n o r w).rg_rdSh
@[simp] theorem dropAcc_rg_wrSh (z n o r w) : (dropAcc z n o r w).rg.wrSh = (Zmc.rg z).wrSh := (rgOnly_dropAcc z n o r w).rg_wrSh
@[simp] theorem dropAcc_rg_sw (z n o r w) : (dropAcc z n o r w).rg.sw = (Zmc.rg z).sw := (rgOnly_dropAcc z n o r w).rg_sw
@[simp] theorem dropAcc_rg_lvl (z n o r w) : (dropAcc z n o r w).rg.lvl = (Zmc.rg z).lvl := (rgOnly_dropAcc z n o r w).rg_lvl
@[simp] theorem dropAcc_rg_sealed (z n o r w) : (dropAcc z n o r w).rg.sealed = (Zmc.rg z).sealed := (rgOnly_dropAcc z n o r w).rg_sealed
@[simp] theorem jDiscard_rg_pend (z n i) : (jDiscard z n i).rg.pend = (Zmc.rg z).pend := (rgOnly_jDiscard z n i).rg_pend
@[simp] theorem jDiscard_rg_fail (z n i) : (jDiscard z n i).rg.fail = (Zmc.rg z).fail := (rgOnly_jDiscard z n i).rg_fail
@[simp] theorem jDiscard_rg_w1 (z n i) : (jDiscard z n i).rg.w1 = (Zmc.rg z).w1 := (rgOnly_jDiscard z n i).rg_w1
@[simp] theorem jDiscard_rg_holdOk (z n i) : (jDiscard z n i).rg.holdOk = (Zmc.rg z).holdOk := (rgOnly_jDiscard z n i).rg_holdOk
@[simp] theorem jDiscard_rg_rdSh (z n i) : (jDiscard z n i).rg.rdSh = (Zmc.rg z).rdSh := (rgOnly_jDiscard z n i).rg_rdSh
@[simp] theorem jDiscard_rg_wrSh (z n i) : (jDiscard z n i).rg.wrSh = (Zmc.rg z).wrSh := (rgOnly_jDiscard z n i).rg_wrSh
@[simp] theorem jDiscard_rg_sw (z n i) : (jDiscard z n i).rg.sw = (Zmc.rg z).sw := (rgOnly_jDiscard z n i).rg_sw
@[simp] theorem jDiscard_rg_lvl (z n i) : (jDiscard z n i).rg.lvl = (Zmc.rg z).lvl := (rgOnly_jDiscard z n i).rg_lvl
@[simp] theorem jDiscard_rg_sealed (z n i) : (jDiscard z n i).rg.sealed = (Zmc.rg z).sealed := (rgOnly_jDiscard z n i).rg_sealed
@[simp] theorem edgeCtrs_rg_pend (z n i o l w) : (edgeCtrs z n i o l w).rg.pend = (Zmc.rg z).pend := (rgOnly_edgeCtrs z n i o l w).rg_pend
@[simp] theorem edgeCtrs_rg_fail (z n i o l w) : (edgeCtrs z n i o l w).rg.fail = (Zmc.rg z).fail := (rgOnly_edgeCtrs z n i o l w).rg_fail
@[simp] theorem edgeCtrs_rg_w1 (z n i o l w) : (edgeCtrs z n i o l w).rg.w1 = (Zmc.rg z).w1 := (rgOnly_edgeCtrs z n i o l w).rg_w1
@[simp] theorem edgeCtrs_rg_holdOk (z n i o l w) : (edgeCtrs z n i o l w).rg.holdOk = (Zmc.rg z).holdOk := (rgOnly_edgeCtrs z n i o l w).rg_holdOk
@[simp] theorem edgeCtrs_rg_rdSh (z n i o l w) : (edgeCtrs z n i o l w).rg.rdSh = (Zmc.rg z).rdSh := (rgOnly_edgeCtrs z n i o l w).rg_rdSh
@[simp] theorem edgeCtrs_rg_wrSh (z n i o l w) : (edgeCtrs z n i o l w).rg.wrSh = (Zmc.rg z).wrSh := (rgOnly_edgeCtrs z n i o l w).rg_wrSh
@[simp] theorem edgeCtrs_rg_sw (z n i o l w) : (edgeCtrs z n i o l w).rg.sw = (Zmc.rg z).sw := (rgOnly_edgeCtrs z n i o l w).rg_sw
@[simp] theorem edgeCtrs_rg_lvl (z n i o l w) : (edgeCtrs z n i o l w).rg.lvl = (Zmc.rg z).lvl := (rgOnly_edgeCtrs z n i o l w).rg_lvl
@[simp] theorem edgeCtrs_rg_sealed (z n i o l w) : (edgeCtrs z n i o l w).rg.sealed = (Zmc.rg z).sealed := (rgOnly_edgeCtrs z n i o l w).rg_sealed
@[simp] theorem ctrAdd_rg_pend (z n i k w) : (ctrAdd z n i k w).rg.pend = (Zmc.rg z).pend := (rgOnly_ctrAdd z n i k w).rg_pend
@[simp] theorem ctrAdd_rg_fail (z n i k w) : (ctrAdd z n i k w).rg.fail = (Zmc.rg z).fail := (rgOnly_ctrAdd z n i k w).rg_fail
@[simp] theorem ctrAdd_rg_w1 (z n i k w) : (ctrAdd z n i k w).rg.w1 = (Zmc.rg z).w1 := (rgOnly_ctrAdd z n i k w).rg_w1
@[simp] theorem ctrAdd_rg_holdOk (z n i k w) : (ctrAdd z n i k w).rg.holdOk = (Zmc.rg z).holdOk := (rgOnly_ctrAdd z n i k w).rg_holdOk
@[simp] theorem ctrAdd_rg_rdSh (z n i k w) : (ctrAdd z n i k w).rg.rdSh = (Zmc.rg z).rdSh := (rgOnly_ctrAdd z n i k w).rg_rdSh
@[simp] theorem ctrAdd_rg_wrSh (z n i k w) : (ctrAdd z n i k w).rg.wrSh = (Zmc.rg z).wrSh := (rgOnly_ctrAdd z n i k w).rg_wrSh
@[simp] theorem ctrAdd_rg_sw (z n i k w) : (ctrAdd z n i k w).rg.sw = (Zmc.rg z).sw := (rgOnly_ctrAdd z n i k w).rg_sw
@[simp] theorem ctrAdd_rg_lvl (z n i k w) : (ctrAdd z n i k w).rg.lvl = (Zmc.rg z).lvl := (rgOnly_ctrAdd z n i k w).rg_lvl
@[simp] theorem ctrAdd_rg_sealed (z n i k w) : (ctrAdd z n i k w).rg.sealed = (Zmc.rg z).sealed := (rgOnly_ctrAdd z n i k w).rg_sealed
@[simp] theorem logHw_rg_pend (z n o) : (logHw z n o).rg.pend = (Zmc.rg z).pend := (rgOnly_logHw z n o).rg_pend
@[simp] theorem logHw_rg_fail (z n o) : (logHw z n o).rg.fail = (Zmc.rg z).fail := (rgOnly_logHw z n o).rg_fail
@[simp] theorem logHw_rg_w1 (z n o) : (logHw z n o).rg.w1 = (Zmc.rg z).w1 := (rgOnly_logHw z n o).rg_w1
@[simp] theorem logHw_rg_holdOk (z n o) : (logHw z n o).rg.holdOk = (Zmc.rg z).holdOk := (rgOnly_logHw z n o).rg_holdOk
@[simp] theorem logHw_rg_rdSh (z n o) : (logHw z n o).rg.rdSh = (Zmc.rg z).rdSh := (rgOnly_logHw z n o).rg_rdSh
@[simp] theorem logHw_rg_wrSh (z n o) : (logHw z n o).rg.wrSh = (Zmc.rg z).wrSh := (rgOnly_logHw z n o).rg_wrSh
@[simp] theorem logHw_rg_sw (z n o) : (logHw z n o).rg.sw = (Zmc.rg z).sw := (rgOnly_logHw z n o).rg_sw
@[simp] theorem logHw_rg_lvl (z n o) : (logHw z n o).rg.lvl = (Zmc.rg z).lvl := (rgOnly_logHw z n o).rg_lvl
@[simp] theorem logHw_rg_sealed (z n o) : (logHw z n o).rg.sealed = (Zmc.rg z).sealed := (rgOnly_logHw z n o).rg_sealed
@[simp] theorem evPost_rg (z n c i k d) : (evPost z n c i k d).rg = Zmc.rg z := (mgtOnly_evPost z n c i k d).rg
@[simp] theorem evPost_setu (z n c i k d) : (evPost z n c i k d).setu = Zmc.setu z := (mgtOnly_evPost z n c i k d).setu
@[simp] theorem evPost_plumb (z n c i k d) : (evPost z n c i k d).plumb = Zmc.plumb z := (mgtOnly_evPost z n c i k d).plumb
@[simp] theorem evPost_bond (z n c i k d) : (evPost z n c i k d).bond = Zmc.bond z := (mgtOnly_evPost z n c i k d).bond
@[simp] theorem evPost_keys (z n c i k d) : (evPost z n c i k d).keys = Zmc.keys z := (mgtOnly_evPost z n c i k d).keys
@[simp] theorem evPost_dbg (z n c i k d) : (evPost z n c i k d).dbg = Zmc.dbg z := (mgtOnly_evPost z n c i k d).dbg
@[simp] theorem evPost_boot (z n c i k d) : (evPost z n c i k d).boot = Zmc.boot z := (mgtOnly_evPost z n c i k d).boot
@[simp] theorem evPost_pwr (z n c i k d) : (evPost z n c i k d).pwr = Zmc.pwr z := (mgtOnly_evPost z n c i k d).pwr
@[simp] theorem evPost_therm (z n c i k d) : (evPost z n c i k d).therm = Zmc.therm z := (mgtOnly_evPost z n c i k d).therm
@[simp] theorem evPost_hod (z n c i k d) : (evPost z n c i k d).hod = Zmc.hod z := (mgtOnly_evPost z n c i k d).hod
@[simp] theorem evPost_pair (z n c i k d) : (evPost z n c i k d).pair = Zmc.pair z := (mgtOnly_evPost z n c i k d).pair
@[simp] theorem evPost_pkg0 (z n c i k d) : (evPost z n c i k d).pkg0 = Zmc.pkg0 z := (mgtOnly_evPost z n c i k d).pkg0
@[simp] theorem evPost_pins (z n c i k d) : (evPost z n c i k d).pins = Zmc.pins z := (mgtOnly_evPost z n c i k d).pins
@[simp] theorem evPost_liveAt (z n c i k d) : (evPost z n c i k d).liveAt = Zmc.liveAt z := (mgtOnly_evPost z n c i k d).liveAt
@[simp] theorem evPost_live (z n c i k d) : (evPost z n c i k d).live = Zmc.live z := (mgtOnly_evPost z n c i k d).live
@[simp] theorem evPost_homes (z n c i k d) : (evPost z n c i k d).homes = Zmc.homes z := (mgtOnly_evPost z n c i k d).homes
@[simp] theorem evPost_bays (z n c i k d) : (evPost z n c i k d).bays = Zmc.bays z := (mgtOnly_evPost z n c i k d).bays
@[simp] theorem evPost_cinfo (z n c i k d) : (evPost z n c i k d).cinfo = Zmc.cinfo z := (mgtOnly_evPost z n c i k d).cinfo
@[simp] theorem evPost_jreq (z n c i k d) : (evPost z n c i k d).jreq = Zmc.jreq z := (mgtOnly_evPost z n c i k d).jreq
@[simp] theorem evPost_jdat (z n c i k d) : (evPost z n c i k d).jdat = Zmc.jdat z := (mgtOnly_evPost z n c i k d).jdat
@[simp] theorem evPost_jsts (z n c i k d) : (evPost z n c i k d).jsts = Zmc.jsts z := (mgtOnly_evPost z n c i k d).jsts
@[simp] theorem evPost_jclr (z n c i k d) : (evPost z n c i k d).jclr = Zmc.jclr z := (mgtOnly_evPost z n c i k d).jclr
@[simp] theorem evPost_clrs (z n c i k d) : (evPost z n c i k d).clrs = Zmc.clrs z := (mgtOnly_evPost z n c i k d).clrs
@[simp] theorem evPost_clrNext (z n c i k d) : (evPost z n c i k d).clrNext = Zmc.clrNext z := (mgtOnly_evPost z n c i k d).clrNext
@[simp] theorem evPost_out (z n c i k d) : (evPost z n c i k d).out = Zmc.out z := (mgtOnly_evPost z n c i k d).out
@[simp] theorem evPost_bus (z n c i k d) : (evPost z n c i k d).bus = Zmc.bus z := (mgtOnly_evPost z n c i k d).bus
@[simp] theorem potPut_rg (z n c i k d) : (potPut z n c i k d).rg = Zmc.rg z := (mgtOnly_potPut z n c i k d).rg
@[simp] theorem potPut_setu (z n c i k d) : (potPut z n c i k d).setu = Zmc.setu z := (mgtOnly_potPut z n c i k d).setu
@[simp] theorem potPut_plumb (z n c i k d) : (potPut z n c i k d).plumb = Zmc.plumb z := (mgtOnly_potPut z n c i k d).plumb
@[simp] theorem potPut_bond (z n c i k d) : (potPut z n c i k d).bond = Zmc.bond z := (mgtOnly_potPut z n c i k d).bond
@[simp] theorem potPut_keys (z n c i k d) : (potPut z n c i k d).keys = Zmc.keys z := (mgtOnly_potPut z n c i k d).keys
@[simp] theorem potPut_dbg (z n c i k d) : (potPut z n c i k d).dbg = Zmc.dbg z := (mgtOnly_potPut z n c i k d).dbg
@[simp] theorem potPut_boot (z n c i k d) : (potPut z n c i k d).boot = Zmc.boot z := (mgtOnly_potPut z n c i k d).boot
@[simp] theorem potPut_pwr (z n c i k d) : (potPut z n c i k d).pwr = Zmc.pwr z := (mgtOnly_potPut z n c i k d).pwr
@[simp] theorem potPut_therm (z n c i k d) : (potPut z n c i k d).therm = Zmc.therm z := (mgtOnly_potPut z n c i k d).therm
@[simp] theorem potPut_hod (z n c i k d) : (potPut z n c i k d).hod = Zmc.hod z := (mgtOnly_potPut z n c i k d).hod
@[simp] theorem potPut_pair (z n c i k d) : (potPut z n c i k d).pair = Zmc.pair z := (mgtOnly_potPut z n c i k d).pair
@[simp] theorem potPut_pkg0 (z n c i k d) : (potPut z n c i k d).pkg0 = Zmc.pkg0 z := (mgtOnly_potPut z n c i k d).pkg0
@[simp] theorem potPut_pins (z n c i k d) : (potPut z n c i k d).pins = Zmc.pins z := (mgtOnly_potPut z n c i k d).pins
@[simp] theorem potPut_liveAt (z n c i k d) : (potPut z n c i k d).liveAt = Zmc.liveAt z := (mgtOnly_potPut z n c i k d).liveAt
@[simp] theorem potPut_live (z n c i k d) : (potPut z n c i k d).live = Zmc.live z := (mgtOnly_potPut z n c i k d).live
@[simp] theorem potPut_homes (z n c i k d) : (potPut z n c i k d).homes = Zmc.homes z := (mgtOnly_potPut z n c i k d).homes
@[simp] theorem potPut_bays (z n c i k d) : (potPut z n c i k d).bays = Zmc.bays z := (mgtOnly_potPut z n c i k d).bays
@[simp] theorem potPut_cinfo (z n c i k d) : (potPut z n c i k d).cinfo = Zmc.cinfo z := (mgtOnly_potPut z n c i k d).cinfo
@[simp] theorem potPut_jreq (z n c i k d) : (potPut z n c i k d).jreq = Zmc.jreq z := (mgtOnly_potPut z n c i k d).jreq
@[simp] theorem potPut_jdat (z n c i k d) : (potPut z n c i k d).jdat = Zmc.jdat z := (mgtOnly_potPut z n c i k d).jdat
@[simp] theorem potPut_jsts (z n c i k d) : (potPut z n c i k d).jsts = Zmc.jsts z := (mgtOnly_potPut z n c i k d).jsts
@[simp] theorem potPut_jclr (z n c i k d) : (potPut z n c i k d).jclr = Zmc.jclr z := (mgtOnly_potPut z n c i k d).jclr
@[simp] theorem potPut_clrs (z n c i k d) : (potPut z n c i k d).clrs = Zmc.clrs z := (mgtOnly_potPut z n c i k d).clrs
@[simp] theorem potPut_clrNext (z n c i k d) : (potPut z n c i k d).clrNext = Zmc.clrNext z := (mgtOnly_potPut z n c i k d).clrNext
@[simp] theorem potPut_out (z n c i k d) : (potPut z n c i k d).out = Zmc.out z := (mgtOnly_potPut z n c i k d).out
@[simp] theorem potPut_bus (z n c i k d) : (potPut z n c i k d).bus = Zmc.bus z := (mgtOnly_potPut z n c i k d).bus
@[simp] theorem potPost_rg (z n c i k d) : (potPost z n c i k d).rg = Zmc.rg z := (mgtOnly_potPost z n c i k d).rg
@[simp] theorem potPost_setu (z n c i k d) : (potPost z n c i k d).setu = Zmc.setu z := (mgtOnly_potPost z n c i k d).setu
@[simp] theorem potPost_plumb (z n c i k d) : (potPost z n c i k d).plumb = Zmc.plumb z := (mgtOnly_potPost z n c i k d).plumb
@[simp] theorem potPost_bond (z n c i k d) : (potPost z n c i k d).bond = Zmc.bond z := (mgtOnly_potPost z n c i k d).bond
@[simp] theorem potPost_keys (z n c i k d) : (potPost z n c i k d).keys = Zmc.keys z := (mgtOnly_potPost z n c i k d).keys
@[simp] theorem potPost_dbg (z n c i k d) : (potPost z n c i k d).dbg = Zmc.dbg z := (mgtOnly_potPost z n c i k d).dbg
@[simp] theorem potPost_boot (z n c i k d) : (potPost z n c i k d).boot = Zmc.boot z := (mgtOnly_potPost z n c i k d).boot
@[simp] theorem potPost_pwr (z n c i k d) : (potPost z n c i k d).pwr = Zmc.pwr z := (mgtOnly_potPost z n c i k d).pwr
@[simp] theorem potPost_therm (z n c i k d) : (potPost z n c i k d).therm = Zmc.therm z := (mgtOnly_potPost z n c i k d).therm
@[simp] theorem potPost_hod (z n c i k d) : (potPost z n c i k d).hod = Zmc.hod z := (mgtOnly_potPost z n c i k d).hod
@[simp] theorem potPost_pair (z n c i k d) : (potPost z n c i k d).pair = Zmc.pair z := (mgtOnly_potPost z n c i k d).pair
@[simp] theorem potPost_pkg0 (z n c i k d) : (potPost z n c i k d).pkg0 = Zmc.pkg0 z := (mgtOnly_potPost z n c i k d).pkg0
@[simp] theorem potPost_pins (z n c i k d) : (potPost z n c i k d).pins = Zmc.pins z := (mgtOnly_potPost z n c i k d).pins
@[simp] theorem potPost_liveAt (z n c i k d) : (potPost z n c i k d).liveAt = Zmc.liveAt z := (mgtOnly_potPost z n c i k d).liveAt
@[simp] theorem potPost_live (z n c i k d) : (potPost z n c i k d).live = Zmc.live z := (mgtOnly_potPost z n c i k d).live
@[simp] theorem potPost_homes (z n c i k d) : (potPost z n c i k d).homes = Zmc.homes z := (mgtOnly_potPost z n c i k d).homes
@[simp] theorem potPost_bays (z n c i k d) : (potPost z n c i k d).bays = Zmc.bays z := (mgtOnly_potPost z n c i k d).bays
@[simp] theorem potPost_cinfo (z n c i k d) : (potPost z n c i k d).cinfo = Zmc.cinfo z := (mgtOnly_potPost z n c i k d).cinfo
@[simp] theorem potPost_jreq (z n c i k d) : (potPost z n c i k d).jreq = Zmc.jreq z := (mgtOnly_potPost z n c i k d).jreq
@[simp] theorem potPost_jdat (z n c i k d) : (potPost z n c i k d).jdat = Zmc.jdat z := (mgtOnly_potPost z n c i k d).jdat
@[simp] theorem potPost_jsts (z n c i k d) : (potPost z n c i k d).jsts = Zmc.jsts z := (mgtOnly_potPost z n c i k d).jsts
@[simp] theorem potPost_jclr (z n c i k d) : (potPost z n c i k d).jclr = Zmc.jclr z := (mgtOnly_potPost z n c i k d).jclr
@[simp] theorem potPost_clrs (z n c i k d) : (potPost z n c i k d).clrs = Zmc.clrs z := (mgtOnly_potPost z n c i k d).clrs
@[simp] theorem potPost_clrNext (z n c i k d) : (potPost z n c i k d).clrNext = Zmc.clrNext z := (mgtOnly_potPost z n c i k d).clrNext
@[simp] theorem potPost_out (z n c i k d) : (potPost z n c i k d).out = Zmc.out z := (mgtOnly_potPost z n c i k d).out
@[simp] theorem potPost_bus (z n c i k d) : (potPost z n c i k d).bus = Zmc.bus z := (mgtOnly_potPost z n c i k d).bus
@[simp] theorem audit_rg (z r) : (audit z r).rg = Zmc.rg z := (mgtOnly_audit z r).rg
@[simp] theorem audit_setu (z r) : (audit z r).setu = Zmc.setu z := (mgtOnly_audit z r).setu
@[simp] theorem audit_plumb (z r) : (audit z r).plumb = Zmc.plumb z := (mgtOnly_audit z r).plumb
@[simp] theorem audit_bond (z r) : (audit z r).bond = Zmc.bond z := (mgtOnly_audit z r).bond
@[simp] theorem audit_keys (z r) : (audit z r).keys = Zmc.keys z := (mgtOnly_audit z r).keys
@[simp] theorem audit_dbg (z r) : (audit z r).dbg = Zmc.dbg z := (mgtOnly_audit z r).dbg
@[simp] theorem audit_boot (z r) : (audit z r).boot = Zmc.boot z := (mgtOnly_audit z r).boot
@[simp] theorem audit_pwr (z r) : (audit z r).pwr = Zmc.pwr z := (mgtOnly_audit z r).pwr
@[simp] theorem audit_therm (z r) : (audit z r).therm = Zmc.therm z := (mgtOnly_audit z r).therm
@[simp] theorem audit_hod (z r) : (audit z r).hod = Zmc.hod z := (mgtOnly_audit z r).hod
@[simp] theorem audit_pair (z r) : (audit z r).pair = Zmc.pair z := (mgtOnly_audit z r).pair
@[simp] theorem audit_pkg0 (z r) : (audit z r).pkg0 = Zmc.pkg0 z := (mgtOnly_audit z r).pkg0
@[simp] theorem audit_pins (z r) : (audit z r).pins = Zmc.pins z := (mgtOnly_audit z r).pins
@[simp] theorem audit_liveAt (z r) : (audit z r).liveAt = Zmc.liveAt z := (mgtOnly_audit z r).liveAt
@[simp] theorem audit_live (z r) : (audit z r).live = Zmc.live z := (mgtOnly_audit z r).live
@[simp] theorem audit_homes (z r) : (audit z r).homes = Zmc.homes z := (mgtOnly_audit z r).homes
@[simp] theorem audit_bays (z r) : (audit z r).bays = Zmc.bays z := (mgtOnly_audit z r).bays
@[simp] theorem audit_cinfo (z r) : (audit z r).cinfo = Zmc.cinfo z := (mgtOnly_audit z r).cinfo
@[simp] theorem audit_jreq (z r) : (audit z r).jreq = Zmc.jreq z := (mgtOnly_audit z r).jreq
@[simp] theorem audit_jdat (z r) : (audit z r).jdat = Zmc.jdat z := (mgtOnly_audit z r).jdat
@[simp] theorem audit_jsts (z r) : (audit z r).jsts = Zmc.jsts z := (mgtOnly_audit z r).jsts
@[simp] theorem audit_jclr (z r) : (audit z r).jclr = Zmc.jclr z := (mgtOnly_audit z r).jclr
@[simp] theorem audit_clrs (z r) : (audit z r).clrs = Zmc.clrs z := (mgtOnly_audit z r).clrs
@[simp] theorem audit_clrNext (z r) : (audit z r).clrNext = Zmc.clrNext z := (mgtOnly_audit z r).clrNext
@[simp] theorem audit_out (z r) : (audit z r).out = Zmc.out z := (mgtOnly_audit z r).out
@[simp] theorem audit_bus (z r) : (audit z r).bus = Zmc.bus z := (mgtOnly_audit z r).bus
@[simp] theorem capture_rg (z n g o a b) : (capture z n g o a b).rg = Zmc.rg z := (mgtOnly_capture z n g o a b).rg
@[simp] theorem capture_setu (z n g o a b) : (capture z n g o a b).setu = Zmc.setu z := (mgtOnly_capture z n g o a b).setu
@[simp] theorem capture_plumb (z n g o a b) : (capture z n g o a b).plumb = Zmc.plumb z := (mgtOnly_capture z n g o a b).plumb
@[simp] theorem capture_bond (z n g o a b) : (capture z n g o a b).bond = Zmc.bond z := (mgtOnly_capture z n g o a b).bond
@[simp] theorem capture_keys (z n g o a b) : (capture z n g o a b).keys = Zmc.keys z := (mgtOnly_capture z n g o a b).keys
@[simp] theorem capture_dbg (z n g o a b) : (capture z n g o a b).dbg = Zmc.dbg z := (mgtOnly_capture z n g o a b).dbg
@[simp] theorem capture_boot (z n g o a b) : (capture z n g o a b).boot = Zmc.boot z := (mgtOnly_capture z n g o a b).boot
@[simp] theorem capture_pwr (z n g o a b) : (capture z n g o a b).pwr = Zmc.pwr z := (mgtOnly_capture z n g o a b).pwr
@[simp] theorem capture_therm (z n g o a b) : (capture z n g o a b).therm = Zmc.therm z := (mgtOnly_capture z n g o a b).therm
@[simp] theorem capture_hod (z n g o a b) : (capture z n g o a b).hod = Zmc.hod z := (mgtOnly_capture z n g o a b).hod
@[simp] theorem capture_pair (z n g o a b) : (capture z n g o a b).pair = Zmc.pair z := (mgtOnly_capture z n g o a b).pair
@[simp] theorem capture_pkg0 (z n g o a b) : (capture z n g o a b).pkg0 = Zmc.pkg0 z := (mgtOnly_capture z n g o a b).pkg0
@[simp] theorem capture_pins (z n g o a b) : (capture z n g o a b).pins = Zmc.pins z := (mgtOnly_capture z n g o a b).pins
@[simp] theorem capture_liveAt (z n g o a b) : (capture z n g o a b).liveAt = Zmc.liveAt z := (mgtOnly_capture z n g o a b).liveAt
@[simp] theorem capture_live (z n g o a b) : (capture z n g o a b).live = Zmc.live z := (mgtOnly_capture z n g o a b).live
@[simp] theorem capture_homes (z n g o a b) : (capture z n g o a b).homes = Zmc.homes z := (mgtOnly_capture z n g o a b).homes
@[simp] theorem capture_bays (z n g o a b) : (capture z n g o a b).bays = Zmc.bays z := (mgtOnly_capture z n g o a b).bays
@[simp] theorem capture_cinfo (z n g o a b) : (capture z n g o a b).cinfo = Zmc.cinfo z := (mgtOnly_capture z n g o a b).cinfo
@[simp] theorem capture_jreq (z n g o a b) : (capture z n g o a b).jreq = Zmc.jreq z := (mgtOnly_capture z n g o a b).jreq
@[simp] theorem capture_jdat (z n g o a b) : (capture z n g o a b).jdat = Zmc.jdat z := (mgtOnly_capture z n g o a b).jdat
@[simp] theorem capture_jsts (z n g o a b) : (capture z n g o a b).jsts = Zmc.jsts z := (mgtOnly_capture z n g o a b).jsts
@[simp] theorem capture_jclr (z n g o a b) : (capture z n g o a b).jclr = Zmc.jclr z := (mgtOnly_capture z n g o a b).jclr
@[simp] theorem capture_clrs (z n g o a b) : (capture z n g o a b).clrs = Zmc.clrs z := (mgtOnly_capture z n g o a b).clrs
@[simp] theorem capture_clrNext (z n g o a b) : (capture z n g o a b).clrNext = Zmc.clrNext z := (mgtOnly_capture z n g o a b).clrNext
@[simp] theorem capture_out (z n g o a b) : (capture z n g o a b).out = Zmc.out z := (mgtOnly_capture z n g o a b).out
@[simp] theorem capture_bus (z n g o a b) : (capture z n g o a b).bus = Zmc.bus z := (mgtOnly_capture z n g o a b).bus

/-! ### The beginning and the end of a command -/

theorem rgOnly_settleLevels (x : Sys) (t : Nat) : settleLevels x t = { x with z := { x.z with rg := { x.z.rg with
    reg := (settleLevels x t).z.rg.reg
    hw := (settleLevels x t).z.rg.hw } } } := by
  unfold settleLevels
  split
  · rfl
  · have h := rgOnly_foldl (f := fun z (p : Nat × Nat) =>
        let n := if !clocked z p.1 then 0 else levelVal x p.1 (getF z (ctrBase p.1 + 16 * p.2) 16 3) * (islCyc z p.1 t - islCyc z p.1 x.now)
        if n = 0 then z else ctrAdd z t p.1 p.2 n)
      (fun z p => by
        simp only
        repeat' split
        all_goals first | exact .refl z | exact rgOnly_ctrAdd ..) x.z.rg.lvl x.z
    exact congrArg (fun z => { x with z := z }) h

@[simp] theorem startAt_now (x : Sys) (t : Nat) : (startAt x t).now = max x.now t := rfl
@[simp] theorem startAt_out (x : Sys) (t : Nat) : (startAt x t).z.out = [] := rfl
@[simp] theorem startAt_free (x : Sys) (t : Nat) : (startAt x t).free = x.free := by unfold startAt; simp only; rw [rgOnly_settleLevels]
@[simp] theorem startAt_crs (x : Sys) (t : Nat) : (startAt x t).crs = x.crs := by unfold startAt; simp only; rw [rgOnly_settleLevels]
@[simp] theorem startAt_setu (x : Sys) (t : Nat) : (startAt x t).z.setu = x.z.setu := by unfold startAt; simp only; rw [rgOnly_settleLevels]
@[simp] theorem startAt_plumb (x : Sys) (t : Nat) : (startAt x t).z.plumb = x.z.plumb := by unfold startAt; simp only; rw [rgOnly_settleLevels]
@[simp] theorem startAt_bond (x : Sys) (t : Nat) : (startAt x t).z.bond = x.z.bond := by unfold startAt; simp only; rw [rgOnly_settleLevels]
@[simp] theorem startAt_mgt (x : Sys) (t : Nat) : (startAt x t).z.mgt = x.z.mgt := by unfold startAt; simp only; rw [rgOnly_settleLevels]
@[simp] theorem startAt_keys (x : Sys) (t : Nat) : (startAt x t).z.keys = x.z.keys := by unfold startAt; simp only; rw [rgOnly_settleLevels]
@[simp] theorem startAt_dbg (x : Sys) (t : Nat) : (startAt x t).z.dbg = x.z.dbg := by unfold startAt; simp only; rw [rgOnly_settleLevels]
@[simp] theorem startAt_boot (x : Sys) (t : Nat) : (startAt x t).z.boot = x.z.boot := by unfold startAt; simp only; rw [rgOnly_settleLevels]
@[simp] theorem startAt_pwr (x : Sys) (t : Nat) : (startAt x t).z.pwr = x.z.pwr := by unfold startAt; simp only; rw [rgOnly_settleLevels]
@[simp] theorem startAt_therm (x : Sys) (t : Nat) : (startAt x t).z.therm = x.z.therm := by unfold startAt; simp only; rw [rgOnly_settleLevels]
@[simp] theorem startAt_hod (x : Sys) (t : Nat) : (startAt x t).z.hod = x.z.hod := by unfold startAt; simp only; rw [rgOnly_settleLevels]
@[simp] theorem startAt_pair (x : Sys) (t : Nat) : (startAt x t).z.pair = x.z.pair := by unfold startAt; simp only; rw [rgOnly_settleLevels]
@[simp] theorem startAt_pkg0 (x : Sys) (t : Nat) : (startAt x t).z.pkg0 = x.z.pkg0 := by unfold startAt; simp only; rw [rgOnly_settleLevels]
@[simp] theorem startAt_pins (x : Sys) (t : Nat) : (startAt x t).z.pins = x.z.pins := by unfold startAt; simp only; rw [rgOnly_settleLevels]
@[simp] theorem startAt_liveAt (x : Sys) (t : Nat) : (startAt x t).z.liveAt = x.z.liveAt := by unfold startAt; simp only; rw [rgOnly_settleLevels]
@[simp] theorem startAt_live (x : Sys) (t : Nat) : (startAt x t).z.live = x.z.live := by unfold startAt; simp only; rw [rgOnly_settleLevels]
@[simp] theorem startAt_homes (x : Sys) (t : Nat) : (startAt x t).z.homes = x.z.homes := by unfold startAt; simp only; rw [rgOnly_settleLevels]
@[simp] theorem startAt_bays (x : Sys) (t : Nat) : (startAt x t).z.bays = x.z.bays := by unfold startAt; simp only; rw [rgOnly_settleLevels]
@[simp] theorem startAt_cinfo (x : Sys) (t : Nat) : (startAt x t).z.cinfo = x.z.cinfo := by unfold startAt; simp only; rw [rgOnly_settleLevels]
@[simp] theorem startAt_jreq (x : Sys) (t : Nat) : (startAt x t).z.jreq = x.z.jreq := by unfold startAt; simp only; rw [rgOnly_settleLevels]
@[simp] theorem startAt_jdat (x : Sys) (t : Nat) : (startAt x t).z.jdat = x.z.jdat := by unfold startAt; simp only; rw [rgOnly_settleLevels]
@[simp] theorem startAt_jsts (x : Sys) (t : Nat) : (startAt x t).z.jsts = x.z.jsts := by unfold startAt; simp only; rw [rgOnly_settleLevels]
@[simp] theorem startAt_jclr (x : Sys) (t : Nat) : (startAt x t).z.jclr = x.z.jclr := by unfold startAt; simp only; rw [rgOnly_settleLevels]
@[simp] theorem startAt_clrs (x : Sys) (t : Nat) : (startAt x t).z.clrs = x.z.clrs := by unfold startAt; simp only; rw [rgOnly_settleLevels]
@[simp] theorem startAt_clrNext (x : Sys) (t : Nat) : (startAt x t).z.clrNext = x.z.clrNext := by unfold startAt; simp only; rw [rgOnly_settleLevels]
@[simp] theorem startAt_bus (x : Sys) (t : Nat) : (startAt x t).z.bus = x.z.bus := by unfold startAt; simp only; rw [rgOnly_settleLevels]
@[simp] theorem startAt_rg_pend (x : Sys) (t : Nat) : (startAt x t).z.rg.pend = x.z.rg.pend := by unfold startAt; simp only; rw [rgOnly_settleLevels]
@[simp] theorem startAt_rg_fail (x : Sys) (t : Nat) : (startAt x t).z.rg.fail = x.z.rg.fail := by unfold startAt; simp only; rw [rgOnly_settleLevels]
@[simp] theorem startAt_rg_w1 (x : Sys) (t : Nat) : (startAt x t).z.rg.w1 = x.z.rg.w1 := by unfold startAt; simp only; rw [rgOnly_settleLevels]
@[simp] theorem startAt_rg_holdOk (x : Sys) (t : Nat) : (startAt x t).z.rg.holdOk = x.z.rg.holdOk := by unfold startAt; simp only; rw [rgOnly_settleLevels]
@[simp] theorem startAt_rg_rdSh (x : Sys) (t : Nat) : (startAt x t).z.rg.rdSh = x.z.rg.rdSh := by unfold startAt; simp only; rw [rgOnly_settleLevels]
@[simp] theorem startAt_rg_wrSh (x : Sys) (t : Nat) : (startAt x t).z.rg.wrSh = x.z.rg.wrSh := by unfold startAt; simp only; rw [rgOnly_settleLevels]
@[simp] theorem startAt_rg_sw (x : Sys) (t : Nat) : (startAt x t).z.rg.sw = x.z.rg.sw := by unfold startAt; simp only; rw [rgOnly_settleLevels]
@[simp] theorem startAt_rg_lvl (x : Sys) (t : Nat) : (startAt x t).z.rg.lvl = x.z.rg.lvl := by unfold startAt; simp only; rw [rgOnly_settleLevels]
@[simp] theorem startAt_rg_sealed (x : Sys) (t : Nat) : (startAt x t).z.rg.sealed = x.z.rg.sealed := by unfold startAt; simp only; rw [rgOnly_settleLevels]

/-- What the end of a command may change: the audit log, Plumb and its reference word, and for a pair the mirror states and messages. -/
def CloseOnly (a b : Zmc) : Prop :=
  b = { a with
    rg := { a.rg with reg := b.rg.reg }
    mgt := { a.mgt with
      aud := b.mgt.aud
      audNext := b.mgt.audNext
      chain := b.mgt.chain
      audQ := b.mgt.audQ }
    plumb := b.plumb
    pair := b.pair
    out := b.out } ∧ ∀ off, off ≠ zmcBase + 0x0218 → wordAt b off = wordAt a off

theorem CloseOnly.refl (a : Zmc) : CloseOnly a a := ⟨rfl, fun _ _ => rfl⟩

theorem CloseOnly.trans {a b c : Zmc} (h : CloseOnly a b) (k : CloseOnly b c) : CloseOnly a c := by
  refine ⟨?_, fun off e => (k.2 off e).trans (h.2 off e)⟩
  have h1 := h.1
  have k1 := k.1
  generalize c.rg.reg = r, c.mgt.aud = u, c.mgt.audNext = v, c.mgt.chain = w, c.mgt.audQ = q, c.plumb = p, c.pair = m, c.out = o at k1 ⊢
  subst k1
  generalize b.rg.reg = r1, b.mgt.aud = u1, b.mgt.audNext = v1, b.mgt.chain = w1, b.mgt.audQ = q1, b.plumb = p1, b.pair = m1, b.out = o1 at h1
  subst h1
  rfl

theorem CloseOnly.setu {a b : Zmc} (h : CloseOnly a b) : b.setu = a.setu := by rw [h.1]
theorem CloseOnly.bond {a b : Zmc} (h : CloseOnly a b) : b.bond = a.bond := by rw [h.1]
theorem CloseOnly.keys {a b : Zmc} (h : CloseOnly a b) : b.keys = a.keys := by rw [h.1]
theorem CloseOnly.dbg {a b : Zmc} (h : CloseOnly a b) : b.dbg = a.dbg := by rw [h.1]
theorem CloseOnly.boot {a b : Zmc} (h : CloseOnly a b) : b.boot = a.boot := by rw [h.1]
theorem CloseOnly.pwr {a b : Zmc} (h : CloseOnly a b) : b.pwr = a.pwr := by rw [h.1]
theorem CloseOnly.therm {a b : Zmc} (h : CloseOnly a b) : b.therm = a.therm := by rw [h.1]
theorem CloseOnly.hod {a b : Zmc} (h : CloseOnly a b) : b.hod = a.hod := by rw [h.1]
theorem CloseOnly.pkg0 {a b : Zmc} (h : CloseOnly a b) : b.pkg0 = a.pkg0 := by rw [h.1]
theorem CloseOnly.pins {a b : Zmc} (h : CloseOnly a b) : b.pins = a.pins := by rw [h.1]
theorem CloseOnly.liveAt {a b : Zmc} (h : CloseOnly a b) : b.liveAt = a.liveAt := by rw [h.1]
theorem CloseOnly.live {a b : Zmc} (h : CloseOnly a b) : b.live = a.live := by rw [h.1]
theorem CloseOnly.homes {a b : Zmc} (h : CloseOnly a b) : b.homes = a.homes := by rw [h.1]
theorem CloseOnly.bays {a b : Zmc} (h : CloseOnly a b) : b.bays = a.bays := by rw [h.1]
theorem CloseOnly.cinfo {a b : Zmc} (h : CloseOnly a b) : b.cinfo = a.cinfo := by rw [h.1]
theorem CloseOnly.jreq {a b : Zmc} (h : CloseOnly a b) : b.jreq = a.jreq := by rw [h.1]
theorem CloseOnly.jdat {a b : Zmc} (h : CloseOnly a b) : b.jdat = a.jdat := by rw [h.1]
theorem CloseOnly.jsts {a b : Zmc} (h : CloseOnly a b) : b.jsts = a.jsts := by rw [h.1]
theorem CloseOnly.jclr {a b : Zmc} (h : CloseOnly a b) : b.jclr = a.jclr := by rw [h.1]
theorem CloseOnly.clrs {a b : Zmc} (h : CloseOnly a b) : b.clrs = a.clrs := by rw [h.1]
theorem CloseOnly.clrNext {a b : Zmc} (h : CloseOnly a b) : b.clrNext = a.clrNext := by rw [h.1]
theorem CloseOnly.bus {a b : Zmc} (h : CloseOnly a b) : b.bus = a.bus := by rw [h.1]
theorem CloseOnly.rg_pend {a b : Zmc} (h : CloseOnly a b) : b.rg.pend = a.rg.pend := by rw [h.1]
theorem CloseOnly.rg_fail {a b : Zmc} (h : CloseOnly a b) : b.rg.fail = a.rg.fail := by rw [h.1]
theorem CloseOnly.rg_w1 {a b : Zmc} (h : CloseOnly a b) : b.rg.w1 = a.rg.w1 := by rw [h.1]
theorem CloseOnly.rg_holdOk {a b : Zmc} (h : CloseOnly a b) : b.rg.holdOk = a.rg.holdOk := by rw [h.1]
theorem CloseOnly.rg_rdSh {a b : Zmc} (h : CloseOnly a b) : b.rg.rdSh = a.rg.rdSh := by rw [h.1]
theorem CloseOnly.rg_wrSh {a b : Zmc} (h : CloseOnly a b) : b.rg.wrSh = a.rg.wrSh := by rw [h.1]
theorem CloseOnly.rg_hw {a b : Zmc} (h : CloseOnly a b) : b.rg.hw = a.rg.hw := by rw [h.1]
theorem CloseOnly.rg_sw {a b : Zmc} (h : CloseOnly a b) : b.rg.sw = a.rg.sw := by rw [h.1]
theorem CloseOnly.rg_lvl {a b : Zmc} (h : CloseOnly a b) : b.rg.lvl = a.rg.lvl := by rw [h.1]
theorem CloseOnly.rg_sealed {a b : Zmc} (h : CloseOnly a b) : b.rg.sealed = a.rg.sealed := by rw [h.1]
theorem CloseOnly.mgt_up {a b : Zmc} (h : CloseOnly a b) : b.mgt.up = a.mgt.up := by rw [h.1]
theorem CloseOnly.mgt_act {a b : Zmc} (h : CloseOnly a b) : b.mgt.act = a.mgt.act := by rw [h.1]
theorem CloseOnly.mgt_active {a b : Zmc} (h : CloseOnly a b) : b.mgt.active = a.mgt.active := by rw [h.1]
theorem CloseOnly.mgt_banks {a b : Zmc} (h : CloseOnly a b) : b.mgt.banks = a.mgt.banks := by rw [h.1]
theorem CloseOnly.mgt_imgEnd {a b : Zmc} (h : CloseOnly a b) : b.mgt.imgEnd = a.mgt.imgEnd := by rw [h.1]
theorem CloseOnly.mgt_mbx {a b : Zmc} (h : CloseOnly a b) : b.mgt.mbx = a.mgt.mbx := by rw [h.1]
theorem CloseOnly.mgt_ringQ {a b : Zmc} (h : CloseOnly a b) : b.mgt.ringQ = a.mgt.ringQ := by rw [h.1]
theorem CloseOnly.mgt_lastPeer {a b : Zmc} (h : CloseOnly a b) : b.mgt.lastPeer = a.mgt.lastPeer := by rw [h.1]
theorem CloseOnly.mgt_jobs {a b : Zmc} (h : CloseOnly a b) : b.mgt.jobs = a.mgt.jobs := by rw [h.1]
theorem CloseOnly.mgt_evq {a b : Zmc} (h : CloseOnly a b) : b.mgt.evq = a.mgt.evq := by rw [h.1]
theorem CloseOnly.mgt_evtNext {a b : Zmc} (h : CloseOnly a b) : b.mgt.evtNext = a.mgt.evtNext := by rw [h.1]
theorem CloseOnly.mgt_wait {a b : Zmc} (h : CloseOnly a b) : b.mgt.wait = a.mgt.wait := by rw [h.1]
theorem CloseOnly.mgt_potCyc {a b : Zmc} (h : CloseOnly a b) : b.mgt.potCyc = a.mgt.potCyc := by rw [h.1]
theorem CloseOnly.mgt_potSeq {a b : Zmc} (h : CloseOnly a b) : b.mgt.potSeq = a.mgt.potSeq := by rw [h.1]
theorem CloseOnly.mgt_potEvs {a b : Zmc} (h : CloseOnly a b) : b.mgt.potEvs = a.mgt.potEvs := by rw [h.1]
theorem CloseOnly.mgt_reissue {a b : Zmc} (h : CloseOnly a b) : b.mgt.reissue = a.mgt.reissue := by rw [h.1]
theorem CloseOnly.mgt_gap {a b : Zmc} (h : CloseOnly a b) : b.mgt.gap = a.mgt.gap := by rw [h.1]
theorem CloseOnly.mgt_fifo {a b : Zmc} (h : CloseOnly a b) : b.mgt.fifo = a.mgt.fifo := by rw [h.1]
theorem CloseOnly.mgt_lost {a b : Zmc} (h : CloseOnly a b) : b.mgt.lost = a.mgt.lost := by rw [h.1]
theorem CloseOnly.mgt_coal {a b : Zmc} (h : CloseOnly a b) : b.mgt.coal = a.mgt.coal := by rw [h.1]
theorem CloseOnly.mgt_pol {a b : Zmc} (h : CloseOnly a b) : b.mgt.pol = a.mgt.pol := by rw [h.1]
theorem CloseOnly.mgt_offers {a b : Zmc} (h : CloseOnly a b) : b.mgt.offers = a.mgt.offers := by rw [h.1]
theorem CloseOnly.mgt_offerNext {a b : Zmc} (h : CloseOnly a b) : b.mgt.offerNext = a.mgt.offerNext := by rw [h.1]
theorem CloseOnly.mgt_hist {a b : Zmc} (h : CloseOnly a b) : b.mgt.hist = a.mgt.hist := by rw [h.1]
theorem CloseOnly.mgt_hppr {a b : Zmc} (h : CloseOnly a b) : b.mgt.hppr = a.mgt.hppr := by rw [h.1]
theorem CloseOnly.mgt_ramUe {a b : Zmc} (h : CloseOnly a b) : b.mgt.ramUe = a.mgt.ramUe := by rw [h.1]
theorem CloseOnly.mgt_head {a b : Zmc} (h : CloseOnly a b) : b.mgt.head = a.mgt.head := by rw [h.1]
theorem CloseOnly.mgt_wdogAt {a b : Zmc} (h : CloseOnly a b) : b.mgt.wdogAt = a.mgt.wdogAt := by rw [h.1]

theorem closeOnly_audit (z : Zmc) (r : AudRec) : CloseOnly z (audit z r) := by
  unfold audit
  split
  · exact ⟨rfl, fun _ _ => rfl⟩
  · exact ⟨rfl, fun _ _ => rfl⟩

theorem closeOnly_commit (z : Zmc) (v : Word) : CloseOnly z (plumbCommit z v) := by
  refine ⟨rfl, fun off h => ?_⟩
  simp only [plumbCommit, wordAt, putWord, tblFind_put_ne h]

theorem closeOnly_foldl {α : Type} {f : Zmc → α → Zmc} (hf : ∀ z a, CloseOnly z (f z a)) (l : List α) : ∀ z, CloseOnly z (l.foldl f z) := by
  induction l with
  | nil => intro z; exact .refl z
  | cons a l ih => intro z; exact (hf z a).trans (ih _)

theorem closeOnly_send {a b : Zmc} (h : CloseOnly a b) (m : OutMsg) : CloseOnly a (send b m) := h.trans ⟨rfl, fun _ _ => rfl⟩

theorem closeOnly_rangeFenced (z : Zmc) (c : CourseId) (r : Nat) : CloseOnly z (rangeFenced z c r) := by
  unfold rangeFenced; simp only
  split
  · exact ⟨rfl, fun _ _ => rfl⟩
  · exact .refl z

theorem closeOnly_pairFenced (z : Zmc) (c : CourseId) : CloseOnly z (pairFenced z c) := by
  have h := closeOnly_foldl (fun z r => closeOnly_rangeFenced z c r) (List.range 8) z
  unfold pairFenced; simp only
  split
  · exact closeOnly_send h _
  · exact h

theorem closeOnly_plumb (z : Zmc) (p : Plumb) : CloseOnly z { z with plumb := p } := ⟨rfl, fun _ _ => rfl⟩

theorem closeOnly_potCommit (own : List (Nat × Word)) (z : Zmc) (now : Nat) : CloseOnly z (potCommit own z now) := by
  unfold potCommit refCommit; simp only
  exact (closeOnly_plumb ..).trans ((closeOnly_audit ..).trans ((closeOnly_commit ..).trans (closeOnly_audit ..)))

theorem closeOnly_potFinish (x : Sys) : ∃ z, CloseOnly x.z z ∧ potFinish x = { x with z := z } := by
  unfold potFinish
  split
  · exact ⟨x.z, .refl _, rfl⟩
  · exact ⟨_, closeOnly_potCommit .., rfl⟩

theorem closeCmd_eq (x y : Sys) : ∃ z, CloseOnly y.z z ∧ closeCmd x y = { y with z := z } := by
  have fold : ∀ (l : List CourseId) (y : Sys), ∃ z, CloseOnly y.z z ∧ l.foldl (fun y c => onZmc y (fun z _ => pairFenced z c)) y = { y with z := z } := by
    intro l
    induction l with
    | nil => intro y; exact ⟨y.z, .refl _, rfl⟩
    | cons c l ih =>
        intro y
        rw [List.foldl_cons]
        have k := closeOnly_pairFenced y.z c
        have e : onZmc y (fun z _ => pairFenced z c) = { y with z := pairFenced y.z c } := rfl
        rw [e]
        generalize pairFenced y.z c = w at *
        obtain ⟨z, h1, h2⟩ := ih { y with z := w }
        exact ⟨z, k.trans h1, h2⟩
  unfold closeCmd
  obtain ⟨z, h1, h2⟩ := fold (newFences x y) y
  rw [h2]
  obtain ⟨w, k1, k2⟩ := closeOnly_potFinish { y with z := z }
  exact ⟨w, h1.trans k1, k2⟩

@[simp] theorem closeCmd_now (x y : Sys) : (closeCmd x y).now = y.now := by obtain ⟨z, _, h⟩ := closeCmd_eq x y; rw [h]
@[simp] theorem closeCmd_free (x y : Sys) : (closeCmd x y).free = y.free := by obtain ⟨z, _, h⟩ := closeCmd_eq x y; rw [h]
@[simp] theorem closeCmd_crs (x y : Sys) : (closeCmd x y).crs = y.crs := by obtain ⟨z, _, h⟩ := closeCmd_eq x y; rw [h]
@[simp] theorem closeCmd_setu (x y : Sys) : (closeCmd x y).z.setu = y.z.setu := by obtain ⟨z, k, h⟩ := closeCmd_eq x y; rw [h]; exact k.setu
@[simp] theorem closeCmd_bond (x y : Sys) : (closeCmd x y).z.bond = y.z.bond := by obtain ⟨z, k, h⟩ := closeCmd_eq x y; rw [h]; exact k.bond
@[simp] theorem closeCmd_keys (x y : Sys) : (closeCmd x y).z.keys = y.z.keys := by obtain ⟨z, k, h⟩ := closeCmd_eq x y; rw [h]; exact k.keys
@[simp] theorem closeCmd_dbg (x y : Sys) : (closeCmd x y).z.dbg = y.z.dbg := by obtain ⟨z, k, h⟩ := closeCmd_eq x y; rw [h]; exact k.dbg
@[simp] theorem closeCmd_boot (x y : Sys) : (closeCmd x y).z.boot = y.z.boot := by obtain ⟨z, k, h⟩ := closeCmd_eq x y; rw [h]; exact k.boot
@[simp] theorem closeCmd_pwr (x y : Sys) : (closeCmd x y).z.pwr = y.z.pwr := by obtain ⟨z, k, h⟩ := closeCmd_eq x y; rw [h]; exact k.pwr
@[simp] theorem closeCmd_therm (x y : Sys) : (closeCmd x y).z.therm = y.z.therm := by obtain ⟨z, k, h⟩ := closeCmd_eq x y; rw [h]; exact k.therm
@[simp] theorem closeCmd_hod (x y : Sys) : (closeCmd x y).z.hod = y.z.hod := by obtain ⟨z, k, h⟩ := closeCmd_eq x y; rw [h]; exact k.hod
@[simp] theorem closeCmd_pkg0 (x y : Sys) : (closeCmd x y).z.pkg0 = y.z.pkg0 := by obtain ⟨z, k, h⟩ := closeCmd_eq x y; rw [h]; exact k.pkg0
@[simp] theorem closeCmd_pins (x y : Sys) : (closeCmd x y).z.pins = y.z.pins := by obtain ⟨z, k, h⟩ := closeCmd_eq x y; rw [h]; exact k.pins
@[simp] theorem closeCmd_liveAt (x y : Sys) : (closeCmd x y).z.liveAt = y.z.liveAt := by obtain ⟨z, k, h⟩ := closeCmd_eq x y; rw [h]; exact k.liveAt
@[simp] theorem closeCmd_live (x y : Sys) : (closeCmd x y).z.live = y.z.live := by obtain ⟨z, k, h⟩ := closeCmd_eq x y; rw [h]; exact k.live
@[simp] theorem closeCmd_homes (x y : Sys) : (closeCmd x y).z.homes = y.z.homes := by obtain ⟨z, k, h⟩ := closeCmd_eq x y; rw [h]; exact k.homes
@[simp] theorem closeCmd_bays (x y : Sys) : (closeCmd x y).z.bays = y.z.bays := by obtain ⟨z, k, h⟩ := closeCmd_eq x y; rw [h]; exact k.bays
@[simp] theorem closeCmd_cinfo (x y : Sys) : (closeCmd x y).z.cinfo = y.z.cinfo := by obtain ⟨z, k, h⟩ := closeCmd_eq x y; rw [h]; exact k.cinfo
@[simp] theorem closeCmd_jreq (x y : Sys) : (closeCmd x y).z.jreq = y.z.jreq := by obtain ⟨z, k, h⟩ := closeCmd_eq x y; rw [h]; exact k.jreq
@[simp] theorem closeCmd_jdat (x y : Sys) : (closeCmd x y).z.jdat = y.z.jdat := by obtain ⟨z, k, h⟩ := closeCmd_eq x y; rw [h]; exact k.jdat
@[simp] theorem closeCmd_jsts (x y : Sys) : (closeCmd x y).z.jsts = y.z.jsts := by obtain ⟨z, k, h⟩ := closeCmd_eq x y; rw [h]; exact k.jsts
@[simp] theorem closeCmd_jclr (x y : Sys) : (closeCmd x y).z.jclr = y.z.jclr := by obtain ⟨z, k, h⟩ := closeCmd_eq x y; rw [h]; exact k.jclr
@[simp] theorem closeCmd_clrs (x y : Sys) : (closeCmd x y).z.clrs = y.z.clrs := by obtain ⟨z, k, h⟩ := closeCmd_eq x y; rw [h]; exact k.clrs
@[simp] theorem closeCmd_clrNext (x y : Sys) : (closeCmd x y).z.clrNext = y.z.clrNext := by obtain ⟨z, k, h⟩ := closeCmd_eq x y; rw [h]; exact k.clrNext
@[simp] theorem closeCmd_bus (x y : Sys) : (closeCmd x y).z.bus = y.z.bus := by obtain ⟨z, k, h⟩ := closeCmd_eq x y; rw [h]; exact k.bus
@[simp] theorem closeCmd_rg_pend (x y : Sys) : (closeCmd x y).z.rg.pend = y.z.rg.pend := by obtain ⟨z, k, h⟩ := closeCmd_eq x y; rw [h]; exact k.rg_pend
@[simp] theorem closeCmd_rg_fail (x y : Sys) : (closeCmd x y).z.rg.fail = y.z.rg.fail := by obtain ⟨z, k, h⟩ := closeCmd_eq x y; rw [h]; exact k.rg_fail
@[simp] theorem closeCmd_rg_w1 (x y : Sys) : (closeCmd x y).z.rg.w1 = y.z.rg.w1 := by obtain ⟨z, k, h⟩ := closeCmd_eq x y; rw [h]; exact k.rg_w1
@[simp] theorem closeCmd_rg_holdOk (x y : Sys) : (closeCmd x y).z.rg.holdOk = y.z.rg.holdOk := by obtain ⟨z, k, h⟩ := closeCmd_eq x y; rw [h]; exact k.rg_holdOk
@[simp] theorem closeCmd_rg_rdSh (x y : Sys) : (closeCmd x y).z.rg.rdSh = y.z.rg.rdSh := by obtain ⟨z, k, h⟩ := closeCmd_eq x y; rw [h]; exact k.rg_rdSh
@[simp] theorem closeCmd_rg_wrSh (x y : Sys) : (closeCmd x y).z.rg.wrSh = y.z.rg.wrSh := by obtain ⟨z, k, h⟩ := closeCmd_eq x y; rw [h]; exact k.rg_wrSh
@[simp] theorem closeCmd_rg_hw (x y : Sys) : (closeCmd x y).z.rg.hw = y.z.rg.hw := by obtain ⟨z, k, h⟩ := closeCmd_eq x y; rw [h]; exact k.rg_hw
@[simp] theorem closeCmd_rg_sw (x y : Sys) : (closeCmd x y).z.rg.sw = y.z.rg.sw := by obtain ⟨z, k, h⟩ := closeCmd_eq x y; rw [h]; exact k.rg_sw
@[simp] theorem closeCmd_rg_lvl (x y : Sys) : (closeCmd x y).z.rg.lvl = y.z.rg.lvl := by obtain ⟨z, k, h⟩ := closeCmd_eq x y; rw [h]; exact k.rg_lvl
@[simp] theorem closeCmd_rg_sealed (x y : Sys) : (closeCmd x y).z.rg.sealed = y.z.rg.sealed := by obtain ⟨z, k, h⟩ := closeCmd_eq x y; rw [h]; exact k.rg_sealed
@[simp] theorem closeCmd_mgt_up (x y : Sys) : (closeCmd x y).z.mgt.up = y.z.mgt.up := by obtain ⟨z, k, h⟩ := closeCmd_eq x y; rw [h]; exact k.mgt_up
@[simp] theorem closeCmd_mgt_act (x y : Sys) : (closeCmd x y).z.mgt.act = y.z.mgt.act := by obtain ⟨z, k, h⟩ := closeCmd_eq x y; rw [h]; exact k.mgt_act
@[simp] theorem closeCmd_mgt_active (x y : Sys) : (closeCmd x y).z.mgt.active = y.z.mgt.active := by obtain ⟨z, k, h⟩ := closeCmd_eq x y; rw [h]; exact k.mgt_active
@[simp] theorem closeCmd_mgt_banks (x y : Sys) : (closeCmd x y).z.mgt.banks = y.z.mgt.banks := by obtain ⟨z, k, h⟩ := closeCmd_eq x y; rw [h]; exact k.mgt_banks
@[simp] theorem closeCmd_mgt_imgEnd (x y : Sys) : (closeCmd x y).z.mgt.imgEnd = y.z.mgt.imgEnd := by obtain ⟨z, k, h⟩ := closeCmd_eq x y; rw [h]; exact k.mgt_imgEnd
@[simp] theorem closeCmd_mgt_mbx (x y : Sys) : (closeCmd x y).z.mgt.mbx = y.z.mgt.mbx := by obtain ⟨z, k, h⟩ := closeCmd_eq x y; rw [h]; exact k.mgt_mbx
@[simp] theorem closeCmd_mgt_ringQ (x y : Sys) : (closeCmd x y).z.mgt.ringQ = y.z.mgt.ringQ := by obtain ⟨z, k, h⟩ := closeCmd_eq x y; rw [h]; exact k.mgt_ringQ
@[simp] theorem closeCmd_mgt_lastPeer (x y : Sys) : (closeCmd x y).z.mgt.lastPeer = y.z.mgt.lastPeer := by obtain ⟨z, k, h⟩ := closeCmd_eq x y; rw [h]; exact k.mgt_lastPeer
@[simp] theorem closeCmd_mgt_jobs (x y : Sys) : (closeCmd x y).z.mgt.jobs = y.z.mgt.jobs := by obtain ⟨z, k, h⟩ := closeCmd_eq x y; rw [h]; exact k.mgt_jobs
@[simp] theorem closeCmd_mgt_evq (x y : Sys) : (closeCmd x y).z.mgt.evq = y.z.mgt.evq := by obtain ⟨z, k, h⟩ := closeCmd_eq x y; rw [h]; exact k.mgt_evq
@[simp] theorem closeCmd_mgt_evtNext (x y : Sys) : (closeCmd x y).z.mgt.evtNext = y.z.mgt.evtNext := by obtain ⟨z, k, h⟩ := closeCmd_eq x y; rw [h]; exact k.mgt_evtNext
@[simp] theorem closeCmd_mgt_wait (x y : Sys) : (closeCmd x y).z.mgt.wait = y.z.mgt.wait := by obtain ⟨z, k, h⟩ := closeCmd_eq x y; rw [h]; exact k.mgt_wait
@[simp] theorem closeCmd_mgt_potCyc (x y : Sys) : (closeCmd x y).z.mgt.potCyc = y.z.mgt.potCyc := by obtain ⟨z, k, h⟩ := closeCmd_eq x y; rw [h]; exact k.mgt_potCyc
@[simp] theorem closeCmd_mgt_potSeq (x y : Sys) : (closeCmd x y).z.mgt.potSeq = y.z.mgt.potSeq := by obtain ⟨z, k, h⟩ := closeCmd_eq x y; rw [h]; exact k.mgt_potSeq
@[simp] theorem closeCmd_mgt_potEvs (x y : Sys) : (closeCmd x y).z.mgt.potEvs = y.z.mgt.potEvs := by obtain ⟨z, k, h⟩ := closeCmd_eq x y; rw [h]; exact k.mgt_potEvs
@[simp] theorem closeCmd_mgt_reissue (x y : Sys) : (closeCmd x y).z.mgt.reissue = y.z.mgt.reissue := by obtain ⟨z, k, h⟩ := closeCmd_eq x y; rw [h]; exact k.mgt_reissue
@[simp] theorem closeCmd_mgt_gap (x y : Sys) : (closeCmd x y).z.mgt.gap = y.z.mgt.gap := by obtain ⟨z, k, h⟩ := closeCmd_eq x y; rw [h]; exact k.mgt_gap
@[simp] theorem closeCmd_mgt_fifo (x y : Sys) : (closeCmd x y).z.mgt.fifo = y.z.mgt.fifo := by obtain ⟨z, k, h⟩ := closeCmd_eq x y; rw [h]; exact k.mgt_fifo
@[simp] theorem closeCmd_mgt_lost (x y : Sys) : (closeCmd x y).z.mgt.lost = y.z.mgt.lost := by obtain ⟨z, k, h⟩ := closeCmd_eq x y; rw [h]; exact k.mgt_lost
@[simp] theorem closeCmd_mgt_coal (x y : Sys) : (closeCmd x y).z.mgt.coal = y.z.mgt.coal := by obtain ⟨z, k, h⟩ := closeCmd_eq x y; rw [h]; exact k.mgt_coal
@[simp] theorem closeCmd_mgt_pol (x y : Sys) : (closeCmd x y).z.mgt.pol = y.z.mgt.pol := by obtain ⟨z, k, h⟩ := closeCmd_eq x y; rw [h]; exact k.mgt_pol
@[simp] theorem closeCmd_mgt_offers (x y : Sys) : (closeCmd x y).z.mgt.offers = y.z.mgt.offers := by obtain ⟨z, k, h⟩ := closeCmd_eq x y; rw [h]; exact k.mgt_offers
@[simp] theorem closeCmd_mgt_offerNext (x y : Sys) : (closeCmd x y).z.mgt.offerNext = y.z.mgt.offerNext := by obtain ⟨z, k, h⟩ := closeCmd_eq x y; rw [h]; exact k.mgt_offerNext
@[simp] theorem closeCmd_mgt_hist (x y : Sys) : (closeCmd x y).z.mgt.hist = y.z.mgt.hist := by obtain ⟨z, k, h⟩ := closeCmd_eq x y; rw [h]; exact k.mgt_hist
@[simp] theorem closeCmd_mgt_hppr (x y : Sys) : (closeCmd x y).z.mgt.hppr = y.z.mgt.hppr := by obtain ⟨z, k, h⟩ := closeCmd_eq x y; rw [h]; exact k.mgt_hppr
@[simp] theorem closeCmd_mgt_ramUe (x y : Sys) : (closeCmd x y).z.mgt.ramUe = y.z.mgt.ramUe := by obtain ⟨z, k, h⟩ := closeCmd_eq x y; rw [h]; exact k.mgt_ramUe
@[simp] theorem closeCmd_mgt_head (x y : Sys) : (closeCmd x y).z.mgt.head = y.z.mgt.head := by obtain ⟨z, k, h⟩ := closeCmd_eq x y; rw [h]; exact k.mgt_head
@[simp] theorem closeCmd_mgt_wdogAt (x y : Sys) : (closeCmd x y).z.mgt.wdogAt = y.z.mgt.wdogAt := by obtain ⟨z, k, h⟩ := closeCmd_eq x y; rw [h]; exact k.mgt_wdogAt

/-- Of the registers only the Plumb reference may change at the end of a command. -/
theorem closeCmd_wordAt (x y : Sys) {off : Nat} (e : off ≠ zmcBase + 0x0218) : wordAt (closeCmd x y).z off = wordAt y.z off := by
  obtain ⟨z, k, h⟩ := closeCmd_eq x y; rw [h]; exact k.2 off e

theorem closeCmd_getF (x y : Sys) {off hi lo : Nat} (e : off ≠ zmcBase + 0x0218) : getF (closeCmd x y).z off hi lo = getF y.z off hi lo := by
  unfold getF; rw [closeCmd_wordAt x y e]

/-- A command that fences no course and leaves Potrie nothing to commit ends as it stands. -/
theorem closeCmd_id {x y : Sys} (h : newFences x y = []) (k : y.z.plumb.own = []) : closeCmd x y = y := by
  unfold closeCmd; rw [h]; simp [potFinish, k]

end Sys2Proof.Machine
end

