-- ==== Sys2Proof/Laws/Word.lean ====
section
/-! SUPPORT. Registers' words: reading after a write, and which words counting and posting leave alone. -/

namespace Sys2Proof.Machine

@[simp] theorem wordAt_put (z : Zmc) (o : Nat) (v : Word) : wordAt (putWord z o v) o = v := by simp [wordAt, putWord]

theorem wordAt_put_ne (z : Zmc) (v : Word) {o q : Nat} (h : q ≠ o) : wordAt (putWord z o v) q = wordAt z q := by
  simp only [wordAt, putWord, tblFind_put_ne h]

theorem wordAt_setF_ne (z : Zmc) (hi lo v : Nat) {o q : Nat} (h : q ≠ o) : wordAt (setF z o hi lo v) q = wordAt z q := wordAt_put_ne z _ h

@[simp] theorem wordAt_setF (z : Zmc) (o hi lo v : Nat) : wordAt (setF z o hi lo v) o = setBits (wordAt z o) hi lo v := wordAt_put ..

/-- A field just driven reads as the value, cut to its width. -/
theorem bitsOf_setBits (w : Word) {hi lo : Nat} (v : Nat) (h : hi < 32) (l : lo ≤ hi) : bitsOf (setBits w hi lo v) hi lo = v % 2 ^ (hi + 1 - lo) := by
  unfold bitsOf
  apply Nat.eq_of_testBit_eq
  intro i
  rw [Nat.testBit_mod_two_pow, Nat.testBit_mod_two_pow, Nat.testBit_shiftRight, BitVec.testBit_toNat]
  by_cases k : i < hi + 1 - lo
  · simp only [setBits, BitVec.getLsbD_or, BitVec.getLsbD_and, BitVec.getLsbD_not, BitVec.getLsbD_shiftLeft, BitVec.getLsbD_ofNat, Nat.testBit_two_pow_sub_one]
    have a : lo + i < 32 := by omega
    have b : ¬ lo + i < lo := by omega
    have e : lo + i - lo = i := by omega
    have g : i < 32 := by omega
    simp [a, b, e, g, k]
  · simp [k]

@[simp] theorem getF_setF (z : Zmc) (o : Nat) {hi lo : Nat} (v : Nat) (h : hi < 32) (l : lo ≤ hi) : getF (setF z o hi lo v) o hi lo = v % 2 ^ (hi + 1 - lo) := by
  unfold getF; rw [wordAt_setF, bitsOf_setBits _ _ h l]

theorem wordAt_putWide_ne (z : Zmc) (v : BitVec 64) {o q : Nat} (h : q ≠ o) (k : q ≠ o + 4) : wordAt (putWide z o v) q = wordAt z q := by
  unfold putWide; rw [wordAt_put_ne _ _ k, wordAt_put_ne _ _ h]

/-- A 64-bit value reads back as it was driven. -/
theorem getWide_putWide (z : Zmc) (o : Nat) (v : BitVec 64) : getWide (putWide z o v) o = v := by
  unfold getWide putWide
  rw [wordAt_put, wordAt_put_ne _ _ (by omega), wordAt_put]
  apply BitVec.eq_of_getLsbD_eq
  intro i hi
  simp only [BitVec.getLsbD_append, BitVec.getLsbD_extractLsb']
  split <;> simp_all
  intro; omega

theorem wordAt_logHw (z : Zmc) (n o q : Nat) : wordAt (logHw z n o) q = wordAt z q := by
  unfold logHw; simp only; split <;> rfl

theorem wordAt_postBits_ne (z : Zmc) (n : Nat) (m : Word) {o q : Nat} (h : q ≠ o) : wordAt (postBits z n o m) q = wordAt z q := by
  unfold postBits; simp only; rw [wordAt_put_ne _ _ h, wordAt_logHw]

theorem wordAt_post_ne (z : Zmc) (n b : Nat) {o q : Nat} (h : q ≠ o) : wordAt (post z n o b) q = wordAt z q := wordAt_postBits_ne z n _ h

/-- Block bases are multiples of 0x1000. -/
theorem blkBase_mod (o : Nat) : blkBase o % 0x1000 = 0 := by
  unfold blkBase blockOf
  split
  · rfl
  · rename_i a b c h
    repeat' split at h
    all_goals first | (injection h with h; injection h with h1 h; injection h with h2 h; omega) | simp at h

theorem wordAt_cntLost_ne (z : Zmc) (n o : Nat) {q : Nat} (h : q % 0x1000 ≠ 8) : wordAt (cntLost z n o) q = wordAt z q := by
  unfold cntLost
  have := blkBase_mod o
  exact wordAt_post_ne _ _ _ (by omega)

theorem wordAt_add48_ne (z : Zmc) (n k : Nat) {o q : Nat} (h : q ≠ o) (h4 : q ≠ o + 4) : wordAt (add48 z n o k).1 q = wordAt z q := by
  unfold add48; simp only; rw [wordAt_put_ne _ _ h4, wordAt_put_ne _ _ h, wordAt_logHw, wordAt_logHw]

/-- The word lies outside the counter group of island `i`, and is no block status register. -/
def calm (i q : Nat) : Prop := (q < ctrBase i ∨ ctrBase i + 0x1000 ≤ q) ∧ q % 0x1000 ≠ 8

theorem ctrNum_le (i : Nat) : ctrNum i ≤ 32 := by unfold ctrNum; repeat' split
                                                  all_goals omega

theorem ctrNum_even (i : Nat) : ctrNum i % 2 = 0 := by unfold ctrNum; repeat' split
                                                       all_goals omega

theorem wordAt_ctrSts_ne (z : Zmc) (n b : Nat) {i k q : Nat} (hk : k < ctrNum i) (h : calm i q) : wordAt (ctrSts z n i k b) q = wordAt z q := by
  unfold ctrSts
  have := ctrNum_le i
  exact wordAt_post_ne _ _ _ (by obtain ⟨h, _⟩ := h; omega)

theorem wordAt_ctrCarry_ne (z : Zmc) (n w : Nat) {i k q : Nat} (hk : k < ctrNum i) (h : calm i q) : wordAt (ctrCarry z n i k w) q = wordAt z q := by
  have := ctrNum_le i
  have a : wordAt (add48 z n (ctrBase i + 16 * k + 8) w).1 q = wordAt z q := wordAt_add48_ne _ _ _ (by obtain ⟨h, _⟩ := h; omega) (by obtain ⟨h, _⟩ := h; omega)
  unfold ctrCarry; simp only
  split
  · exact wordAt_ctrSts_ne _ _ _ hk h
  · split
    · rfl
    · split
      · rw [wordAt_ctrSts_ne _ _ _ hk h, wordAt_cntLost_ne _ _ _ h.2]
      · split
        · exact a
        · rw [wordAt_ctrSts_ne _ _ _ hk h, a]

theorem wordAt_ctrAdd_ne (z : Zmc) (n w : Nat) {i k q : Nat} (hk : k < ctrNum i) (h : calm i q) : wordAt (ctrAdd z n i k w) q = wordAt z q := by
  have := ctrNum_le i
  have ev := ctrNum_even i
  have a : wordAt (add48 z n (ctrBase i + 16 * k + 8) w).1 q = wordAt z q := wordAt_add48_ne _ _ _ (by obtain ⟨h, _⟩ := h; omega) (by obtain ⟨h, _⟩ := h; omega)
  unfold ctrAdd; simp only
  split
  · rfl
  · split
    · exact wordAt_cntLost_ne _ _ _ h.2
    · split
      · exact a
      · split
        · rw [wordAt_ctrCarry_ne _ _ _ (by omega) h, wordAt_ctrSts_ne _ _ _ hk h, a]
        · rw [wordAt_ctrSts_ne _ _ _ hk h, a]

theorem wordAt_edgeCtrs_ne (z : Zmc) (n o l w : Nat) {i q : Nat} (h : calm i q) : wordAt (edgeCtrs z n i o l w) q = wordAt z q := by
  unfold edgeCtrs
  split
  · rfl
  · have : ∀ (ks : List Nat) (z : Zmc), (∀ k ∈ ks, k < ctrNum i) → wordAt (ks.foldl (fun z k =>
        let c := wordAt z (ctrBase i + 16 * k)
        if bitsOf c 1 0 = 1 ∧ bitsOf c 16 3 * 4 = o - blkBase o ∧ bitsOf c 17 17 = l / 16 then ctrAdd z n i k w else z) z) q = wordAt z q := by
      intro ks
      induction ks with
      | nil => intro z _; rfl
      | cons k ks ih =>
          intro z hk
          rw [List.foldl_cons, ih _ (fun j hj => hk j (List.mem_cons_of_mem _ hj))]
          simp only
          split
          · exact wordAt_ctrAdd_ne _ _ _ (hk k List.mem_cons_self) h
          · rfl
    exact this _ _ (fun k hk => List.mem_range.mp hk)

/-- Counting an event changes its own word, counters of the owning island and block status registers only. -/
theorem wordAt_bumpN_ne (z : Zmc) (n l w : Nat) {o q : Nat} (e : q ≠ o) (h : calm (ownerOf o) q) : wordAt (bumpN z n o l w) q = wordAt z q := by
  unfold bumpN; simp only
  rw [wordAt_edgeCtrs_ne _ _ _ _ _ h]
  split
  · rfl
  · split
    · exact wordAt_cntLost_ne _ _ _ h.2
    · rw [wordAt_setF_ne _ _ _ _ e, wordAt_logHw]

theorem wordAt_bump_ne (z : Zmc) (n : Nat) {o q : Nat} (e : q ≠ o) (h : calm (ownerOf o) q) : wordAt (bump z n o) q = wordAt z q := wordAt_bumpN_ne z n 0 1 e h

theorem wordAt_bump48_ne (z : Zmc) (n w : Nat) {o q : Nat} (e : q ≠ o) (e4 : q ≠ o + 4) (h : calm (ownerOf o) q) : wordAt (bump48 z n o w) q = wordAt z q := by
  unfold bump48; simp only
  split
  · rfl
  · rw [wordAt_edgeCtrs_ne _ _ _ _ _ h]
    split
    · exact wordAt_cntLost_ne _ _ _ h.2
    · exact wordAt_add48_ne _ _ _ e e4

theorem wordAt_evPost (z n c i k d q) : wordAt (evPost z n c i k d) q = wordAt z q := by unfold wordAt; rw [evPost_rg]
theorem wordAt_potPost (z n c i k d q) : wordAt (potPost z n c i k d) q = wordAt z q := by unfold wordAt; rw [potPost_rg]
theorem wordAt_audit (z r q) : wordAt (audit z r) q = wordAt z q := by unfold audit; split <;> rfl

/-- The island that owns a course's words. -/
theorem ownerOf_crs {n o : Nat} (hn : n < 16) (h : o < 0x40000) : ownerOf (crsBase n + o) = n := by
  have e : (crsBase n + o - 0x100000) / 0x40000 = n := by unfold crsBase; omega
  have hb : blockOf (crsBase n + o) = some (5, n, crsBase n) := by
    unfold blockOf
    have : crsBase n = 0x100000 + n * 0x40000 := rfl
    rw [if_neg (by omega), if_neg (by omega), if_neg (by omega), if_neg (by omega), if_pos (by omega), e, this]
  simp only [ownerOf, hb]

/-- A course's counting leaves its other words below the counters alone. -/
theorem calm_crs {n o : Nat} (hn : n < 16) (h : o < 0x3000) (k : o % 0x1000 ≠ 8) : calm n (crsBase n + o) := by
  unfold calm ctrBase crsBase
  rw [if_pos hn]
  omega

end Sys2Proof.Machine
end

