-- ==== Sys2Proof/Laws/Course.lean ====
section
/-! SUPPORT. What each operation of a course leaves alone: the updates of `Cx`, counting, posting and driving a field. -/

namespace Sys2Proof.Machine

@[simp] theorem Cx.setf_now (x : Cx) (o hi lo v : Nat) : (x.setf o hi lo v).now = x.now := rfl
@[simp] theorem Cx.setf_free (x : Cx) (o hi lo v : Nat) : (x.setf o hi lo v).free = x.free := rfl
@[simp] theorem Cx.setf_n (x : Cx) (o hi lo v : Nat) : (x.setf o hi lo v).n = x.n := rfl
@[simp] theorem Cx.setf_c (x : Cx) (o hi lo v : Nat) : (x.setf o hi lo v).c = x.c := rfl
@[simp] theorem Cx.sts_now (x : Cx) (o b : Nat) : (x.sts o b).now = x.now := rfl
@[simp] theorem Cx.sts_free (x : Cx) (o b : Nat) : (x.sts o b).free = x.free := rfl
@[simp] theorem Cx.sts_n (x : Cx) (o b : Nat) : (x.sts o b).n = x.n := rfl
@[simp] theorem Cx.sts_c (x : Cx) (o b : Nat) : (x.sts o b).c = x.c := rfl
@[simp] theorem Cx.cntN_now (x : Cx) (o k : Nat) : (x.cntN o k).now = x.now := by unfold Cx.cntN; split <;> rfl
@[simp] theorem Cx.cntN_free (x : Cx) (o k : Nat) : (x.cntN o k).free = x.free := by unfold Cx.cntN; split <;> rfl
@[simp] theorem Cx.cntN_n (x : Cx) (o k : Nat) : (x.cntN o k).n = x.n := by unfold Cx.cntN; split <;> rfl
@[simp] theorem Cx.cntN_c (x : Cx) (o k : Nat) : (x.cntN o k).c = x.c := by unfold Cx.cntN; split <;> rfl
@[simp] theorem Cx.cnt_now (x : Cx) (o : Nat) : (x.cnt o).now = x.now := rfl
@[simp] theorem Cx.cnt_free (x : Cx) (o : Nat) : (x.cnt o).free = x.free := rfl
@[simp] theorem Cx.cnt_n (x : Cx) (o : Nat) : (x.cnt o).n = x.n := rfl
@[simp] theorem Cx.cnt_c (x : Cx) (o : Nat) : (x.cnt o).c = x.c := rfl
@[simp] theorem Cx.ev_now (x : Cx) (k : Nat) (d : List Word) : (x.ev k d).now = x.now := rfl
@[simp] theorem Cx.ev_free (x : Cx) (k : Nat) (d : List Word) : (x.ev k d).free = x.free := rfl
@[simp] theorem Cx.ev_n (x : Cx) (k : Nat) (d : List Word) : (x.ev k d).n = x.n := rfl
@[simp] theorem Cx.ev_c (x : Cx) (k : Nat) (d : List Word) : (x.ev k d).c = x.c := rfl
@[simp] theorem Cx.pev_now (x : Cx) (k : Nat) (d : List Word) : (x.pev k d).now = x.now := rfl
@[simp] theorem Cx.pev_free (x : Cx) (k : Nat) (d : List Word) : (x.pev k d).free = x.free := rfl
@[simp] theorem Cx.pev_n (x : Cx) (k : Nat) (d : List Word) : (x.pev k d).n = x.n := rfl
@[simp] theorem Cx.pev_c (x : Cx) (k : Nat) (d : List Word) : (x.pev k d).c = x.c := rfl
@[simp] theorem Cx.onInfo_now (x : Cx) (f : CInfo → CInfo) : (x.onInfo f).now = x.now := rfl
@[simp] theorem Cx.onInfo_free (x : Cx) (f : CInfo → CInfo) : (x.onInfo f).free = x.free := rfl
@[simp] theorem Cx.onInfo_n (x : Cx) (f : CInfo → CInfo) : (x.onInfo f).n = x.n := rfl
@[simp] theorem Cx.onInfo_c (x : Cx) (f : CInfo → CInfo) : (x.onInfo f).c = x.c := rfl

theorem rgOnly_cxSetf (x : Cx) (o hi lo v : Nat) : RgOnly x.z (x.setf o hi lo v).z := rgOnly_setF ..
theorem rgOnly_cxSts (x : Cx) (o b : Nat) : RgOnly x.z (x.sts o b).z := rgOnly_post ..
theorem rgOnly_cxCntN (x : Cx) (o k : Nat) : RgOnly x.z (x.cntN o k).z := by
  unfold Cx.cntN; split
  · exact .refl _
  · exact rgOnly_bumpN ..
theorem rgOnly_cxCnt (x : Cx) (o : Nat) : RgOnly x.z (x.cnt o).z := rgOnly_bump ..
theorem mgtOnly_cxEv (x : Cx) (k : Nat) (d : List Word) : MgtOnly x.z (x.ev k d).z := mgtOnly_evPost ..
theorem mgtOnly_cxPev (x : Cx) (k : Nat) (d : List Word) : MgtOnly x.z (x.pev k d).z := mgtOnly_potPost ..

@[simp] theorem Cx.setf_z_setu (x : Cx) (o hi lo v : Nat) : (x.setf o hi lo v).z.setu = x.z.setu := (rgOnly_cxSetf ..).setu
@[simp] theorem Cx.setf_z_plumb (x : Cx) (o hi lo v : Nat) : (x.setf o hi lo v).z.plumb = x.z.plumb := (rgOnly_cxSetf ..).plumb
@[simp] theorem Cx.setf_z_bond (x : Cx) (o hi lo v : Nat) : (x.setf o hi lo v).z.bond = x.z.bond := (rgOnly_cxSetf ..).bond
@[simp] theorem Cx.setf_z_mgt (x : Cx) (o hi lo v : Nat) : (x.setf o hi lo v).z.mgt = x.z.mgt := (rgOnly_cxSetf ..).mgt
@[simp] theorem Cx.setf_z_keys (x : Cx) (o hi lo v : Nat) : (x.setf o hi lo v).z.keys = x.z.keys := (rgOnly_cxSetf ..).keys
@[simp] theorem Cx.setf_z_dbg (x : Cx) (o hi lo v : Nat) : (x.setf o hi lo v).z.dbg = x.z.dbg := (rgOnly_cxSetf ..).dbg
@[simp] theorem Cx.setf_z_boot (x : Cx) (o hi lo v : Nat) : (x.setf o hi lo v).z.boot = x.z.boot := (rgOnly_cxSetf ..).boot
@[simp] theorem Cx.setf_z_pwr (x : Cx) (o hi lo v : Nat) : (x.setf o hi lo v).z.pwr = x.z.pwr := (rgOnly_cxSetf ..).pwr
@[simp] theorem Cx.setf_z_therm (x : Cx) (o hi lo v : Nat) : (x.setf o hi lo v).z.therm = x.z.therm := (rgOnly_cxSetf ..).therm
@[simp] theorem Cx.setf_z_hod (x : Cx) (o hi lo v : Nat) : (x.setf o hi lo v).z.hod = x.z.hod := (rgOnly_cxSetf ..).hod
@[simp] theorem Cx.setf_z_pair (x : Cx) (o hi lo v : Nat) : (x.setf o hi lo v).z.pair = x.z.pair := (rgOnly_cxSetf ..).pair
@[simp] theorem Cx.setf_z_pkg0 (x : Cx) (o hi lo v : Nat) : (x.setf o hi lo v).z.pkg0 = x.z.pkg0 := (rgOnly_cxSetf ..).pkg0
@[simp] theorem Cx.setf_z_pins (x : Cx) (o hi lo v : Nat) : (x.setf o hi lo v).z.pins = x.z.pins := (rgOnly_cxSetf ..).pins
@[simp] theorem Cx.setf_z_liveAt (x : Cx) (o hi lo v : Nat) : (x.setf o hi lo v).z.liveAt = x.z.liveAt := (rgOnly_cxSetf ..).liveAt
@[simp] theorem Cx.setf_z_live (x : Cx) (o hi lo v : Nat) : (x.setf o hi lo v).z.live = x.z.live := (rgOnly_cxSetf ..).live
@[simp] theorem Cx.setf_z_homes (x : Cx) (o hi lo v : Nat) : (x.setf o hi lo v).z.homes = x.z.homes := (rgOnly_cxSetf ..).homes
@[simp] theorem Cx.setf_z_bays (x : Cx) (o hi lo v : Nat) : (x.setf o hi lo v).z.bays = x.z.bays := (rgOnly_cxSetf ..).bays
@[simp] theorem Cx.setf_z_cinfo (x : Cx) (o hi lo v : Nat) : (x.setf o hi lo v).z.cinfo = x.z.cinfo := (rgOnly_cxSetf ..).cinfo
@[simp] theorem Cx.setf_z_jreq (x : Cx) (o hi lo v : Nat) : (x.setf o hi lo v).z.jreq = x.z.jreq := (rgOnly_cxSetf ..).jreq
@[simp] theorem Cx.setf_z_jdat (x : Cx) (o hi lo v : Nat) : (x.setf o hi lo v).z.jdat = x.z.jdat := (rgOnly_cxSetf ..).jdat
@[simp] theorem Cx.setf_z_jsts (x : Cx) (o hi lo v : Nat) : (x.setf o hi lo v).z.jsts = x.z.jsts := (rgOnly_cxSetf ..).jsts
@[simp] theorem Cx.setf_z_jclr (x : Cx) (o hi lo v : Nat) : (x.setf o hi lo v).z.jclr = x.z.jclr := (rgOnly_cxSetf ..).jclr
@[simp] theorem Cx.setf_z_clrs (x : Cx) (o hi lo v : Nat) : (x.setf o hi lo v).z.clrs = x.z.clrs := (rgOnly_cxSetf ..).clrs
@[simp] theorem Cx.setf_z_clrNext (x : Cx) (o hi lo v : Nat) : (x.setf o hi lo v).z.clrNext = x.z.clrNext := (rgOnly_cxSetf ..).clrNext
@[simp] theorem Cx.setf_z_out (x : Cx) (o hi lo v : Nat) : (x.setf o hi lo v).z.out = x.z.out := (rgOnly_cxSetf ..).out
@[simp] theorem Cx.setf_z_bus (x : Cx) (o hi lo v : Nat) : (x.setf o hi lo v).z.bus = x.z.bus := (rgOnly_cxSetf ..).bus
@[simp] theorem Cx.sts_z_setu (x : Cx) (o b : Nat) : (x.sts o b).z.setu = x.z.setu := (rgOnly_cxSts ..).setu
@[simp] theorem Cx.sts_z_plumb (x : Cx) (o b : Nat) : (x.sts o b).z.plumb = x.z.plumb := (rgOnly_cxSts ..).plumb
@[simp] theorem Cx.sts_z_bond (x : Cx) (o b : Nat) : (x.sts o b).z.bond = x.z.bond := (rgOnly_cxSts ..).bond
@[simp] theorem Cx.sts_z_mgt (x : Cx) (o b : Nat) : (x.sts o b).z.mgt = x.z.mgt := (rgOnly_cxSts ..).mgt
@[simp] theorem Cx.sts_z_keys (x : Cx) (o b : Nat) : (x.sts o b).z.keys = x.z.keys := (rgOnly_cxSts ..).keys
@[simp] theorem Cx.sts_z_dbg (x : Cx) (o b : Nat) : (x.sts o b).z.dbg = x.z.dbg := (rgOnly_cxSts ..).dbg
@[simp] theorem Cx.sts_z_boot (x : Cx) (o b : Nat) : (x.sts o b).z.boot = x.z.boot := (rgOnly_cxSts ..).boot
@[simp] theorem Cx.sts_z_pwr (x : Cx) (o b : Nat) : (x.sts o b).z.pwr = x.z.pwr := (rgOnly_cxSts ..).pwr
@[simp] theorem Cx.sts_z_therm (x : Cx) (o b : Nat) : (x.sts o b).z.therm = x.z.therm := (rgOnly_cxSts ..).therm
@[simp] theorem Cx.sts_z_hod (x : Cx) (o b : Nat) : (x.sts o b).z.hod = x.z.hod := (rgOnly_cxSts ..).hod
@[simp] theorem Cx.sts_z_pair (x : Cx) (o b : Nat) : (x.sts o b).z.pair = x.z.pair := (rgOnly_cxSts ..).pair
@[simp] theorem Cx.sts_z_pkg0 (x : Cx) (o b : Nat) : (x.sts o b).z.pkg0 = x.z.pkg0 := (rgOnly_cxSts ..).pkg0
@[simp] theorem Cx.sts_z_pins (x : Cx) (o b : Nat) : (x.sts o b).z.pins = x.z.pins := (rgOnly_cxSts ..).pins
@[simp] theorem Cx.sts_z_liveAt (x : Cx) (o b : Nat) : (x.sts o b).z.liveAt = x.z.liveAt := (rgOnly_cxSts ..).liveAt
@[simp] theorem Cx.sts_z_live (x : Cx) (o b : Nat) : (x.sts o b).z.live = x.z.live := (rgOnly_cxSts ..).live
@[simp] theorem Cx.sts_z_homes (x : Cx) (o b : Nat) : (x.sts o b).z.homes = x.z.homes := (rgOnly_cxSts ..).homes
@[simp] theorem Cx.sts_z_bays (x : Cx) (o b : Nat) : (x.sts o b).z.bays = x.z.bays := (rgOnly_cxSts ..).bays
@[simp] theorem Cx.sts_z_cinfo (x : Cx) (o b : Nat) : (x.sts o b).z.cinfo = x.z.cinfo := (rgOnly_cxSts ..).cinfo
@[simp] theorem Cx.sts_z_jreq (x : Cx) (o b : Nat) : (x.sts o b).z.jreq = x.z.jreq := (rgOnly_cxSts ..).jreq
@[simp] theorem Cx.sts_z_jdat (x : Cx) (o b : Nat) : (x.sts o b).z.jdat = x.z.jdat := (rgOnly_cxSts ..).jdat
@[simp] theorem Cx.sts_z_jsts (x : Cx) (o b : Nat) : (x.sts o b).z.jsts = x.z.jsts := (rgOnly_cxSts ..).jsts
@[simp] theorem Cx.sts_z_jclr (x : Cx) (o b : Nat) : (x.sts o b).z.jclr = x.z.jclr := (rgOnly_cxSts ..).jclr
@[simp] theorem Cx.sts_z_clrs (x : Cx) (o b : Nat) : (x.sts o b).z.clrs = x.z.clrs := (rgOnly_cxSts ..).clrs
@[simp] theorem Cx.sts_z_clrNext (x : Cx) (o b : Nat) : (x.sts o b).z.clrNext = x.z.clrNext := (rgOnly_cxSts ..).clrNext
@[simp] theorem Cx.sts_z_out (x : Cx) (o b : Nat) : (x.sts o b).z.out = x.z.out := (rgOnly_cxSts ..).out
@[simp] theorem Cx.sts_z_bus (x : Cx) (o b : Nat) : (x.sts o b).z.bus = x.z.bus := (rgOnly_cxSts ..).bus
@[simp] theorem Cx.cntN_z_setu (x : Cx) (o k : Nat) : (x.cntN o k).z.setu = x.z.setu := (rgOnly_cxCntN ..).setu
@[simp] theorem Cx.cntN_z_plumb (x : Cx) (o k : Nat) : (x.cntN o k).z.plumb = x.z.plumb := (rgOnly_cxCntN ..).plumb
@[simp] theorem Cx.cntN_z_bond (x : Cx) (o k : Nat) : (x.cntN o k).z.bond = x.z.bond := (rgOnly_cxCntN ..).bond
@[simp] theorem Cx.cntN_z_mgt (x : Cx) (o k : Nat) : (x.cntN o k).z.mgt = x.z.mgt := (rgOnly_cxCntN ..).mgt
@[simp] theorem Cx.cntN_z_keys (x : Cx) (o k : Nat) : (x.cntN o k).z.keys = x.z.keys := (rgOnly_cxCntN ..).keys
@[simp] theorem Cx.cntN_z_dbg (x : Cx) (o k : Nat) : (x.cntN o k).z.dbg = x.z.dbg := (rgOnly_cxCntN ..).dbg
@[simp] theorem Cx.cntN_z_boot (x : Cx) (o k : Nat) : (x.cntN o k).z.boot = x.z.boot := (rgOnly_cxCntN ..).boot
@[simp] theorem Cx.cntN_z_pwr (x : Cx) (o k : Nat) : (x.cntN o k).z.pwr = x.z.pwr := (rgOnly_cxCntN ..).pwr
@[simp] theorem Cx.cntN_z_therm (x : Cx) (o k : Nat) : (x.cntN o k).z.therm = x.z.therm := (rgOnly_cxCntN ..).therm
@[simp] theorem Cx.cntN_z_hod (x : Cx) (o k : Nat) : (x.cntN o k).z.hod = x.z.hod := (rgOnly_cxCntN ..).hod
@[simp] theorem Cx.cntN_z_pair (x : Cx) (o k : Nat) : (x.cntN o k).z.pair = x.z.pair := (rgOnly_cxCntN ..).pair
@[simp] theorem Cx.cntN_z_pkg0 (x : Cx) (o k : Nat) : (x.cntN o k).z.pkg0 = x.z.pkg0 := (rgOnly_cxCntN ..).pkg0
@[simp] theorem Cx.cntN_z_pins (x : Cx) (o k : Nat) : (x.cntN o k).z.pins = x.z.pins := (rgOnly_cxCntN ..).pins
@[simp] theorem Cx.cntN_z_liveAt (x : Cx) (o k : Nat) : (x.cntN o k).z.liveAt = x.z.liveAt := (rgOnly_cxCntN ..).liveAt
@[simp] theorem Cx.cntN_z_live (x : Cx) (o k : Nat) : (x.cntN o k).z.live = x.z.live := (rgOnly_cxCntN ..).live
@[simp] theorem Cx.cntN_z_homes (x : Cx) (o k : Nat) : (x.cntN o k).z.homes = x.z.homes := (rgOnly_cxCntN ..).homes
@[simp] theorem Cx.cntN_z_bays (x : Cx) (o k : Nat) : (x.cntN o k).z.bays = x.z.bays := (rgOnly_cxCntN ..).bays
@[simp] theorem Cx.cntN_z_cinfo (x : Cx) (o k : Nat) : (x.cntN o k).z.cinfo = x.z.cinfo := (rgOnly_cxCntN ..).cinfo
@[simp] theorem Cx.cntN_z_jreq (x : Cx) (o k : Nat) : (x.cntN o k).z.jreq = x.z.jreq := (rgOnly_cxCntN ..).jreq
@[simp] theorem Cx.cntN_z_jdat (x : Cx) (o k : Nat) : (x.cntN o k).z.jdat = x.z.jdat := (rgOnly_cxCntN ..).jdat
@[simp] theorem Cx.cntN_z_jsts (x : Cx) (o k : Nat) : (x.cntN o k).z.jsts = x.z.jsts := (rgOnly_cxCntN ..).jsts
@[simp] theorem Cx.cntN_z_jclr (x : Cx) (o k : Nat) : (x.cntN o k).z.jclr = x.z.jclr := (rgOnly_cxCntN ..).jclr
@[simp] theorem Cx.cntN_z_clrs (x : Cx) (o k : Nat) : (x.cntN o k).z.clrs = x.z.clrs := (rgOnly_cxCntN ..).clrs
@[simp] theorem Cx.cntN_z_clrNext (x : Cx) (o k : Nat) : (x.cntN o k).z.clrNext = x.z.clrNext := (rgOnly_cxCntN ..).clrNext
@[simp] theorem Cx.cntN_z_out (x : Cx) (o k : Nat) : (x.cntN o k).z.out = x.z.out := (rgOnly_cxCntN ..).out
@[simp] theorem Cx.cntN_z_bus (x : Cx) (o k : Nat) : (x.cntN o k).z.bus = x.z.bus := (rgOnly_cxCntN ..).bus
@[simp] theorem Cx.cnt_z_setu (x : Cx) (o : Nat) : (x.cnt o).z.setu = x.z.setu := (rgOnly_cxCnt ..).setu
@[simp] theorem Cx.cnt_z_plumb (x : Cx) (o : Nat) : (x.cnt o).z.plumb = x.z.plumb := (rgOnly_cxCnt ..).plumb
@[simp] theorem Cx.cnt_z_bond (x : Cx) (o : Nat) : (x.cnt o).z.bond = x.z.bond := (rgOnly_cxCnt ..).bond
@[simp] theorem Cx.cnt_z_mgt (x : Cx) (o : Nat) : (x.cnt o).z.mgt = x.z.mgt := (rgOnly_cxCnt ..).mgt
@[simp] theorem Cx.cnt_z_keys (x : Cx) (o : Nat) : (x.cnt o).z.keys = x.z.keys := (rgOnly_cxCnt ..).keys
@[simp] theorem Cx.cnt_z_dbg (x : Cx) (o : Nat) : (x.cnt o).z.dbg = x.z.dbg := (rgOnly_cxCnt ..).dbg
@[simp] theorem Cx.cnt_z_boot (x : Cx) (o : Nat) : (x.cnt o).z.boot = x.z.boot := (rgOnly_cxCnt ..).boot
@[simp] theorem Cx.cnt_z_pwr (x : Cx) (o : Nat) : (x.cnt o).z.pwr = x.z.pwr := (rgOnly_cxCnt ..).pwr
@[simp] theorem Cx.cnt_z_therm (x : Cx) (o : Nat) : (x.cnt o).z.therm = x.z.therm := (rgOnly_cxCnt ..).therm
@[simp] theorem Cx.cnt_z_hod (x : Cx) (o : Nat) : (x.cnt o).z.hod = x.z.hod := (rgOnly_cxCnt ..).hod
@[simp] theorem Cx.cnt_z_pair (x : Cx) (o : Nat) : (x.cnt o).z.pair = x.z.pair := (rgOnly_cxCnt ..).pair
@[simp] theorem Cx.cnt_z_pkg0 (x : Cx) (o : Nat) : (x.cnt o).z.pkg0 = x.z.pkg0 := (rgOnly_cxCnt ..).pkg0
@[simp] theorem Cx.cnt_z_pins (x : Cx) (o : Nat) : (x.cnt o).z.pins = x.z.pins := (rgOnly_cxCnt ..).pins
@[simp] theorem Cx.cnt_z_liveAt (x : Cx) (o : Nat) : (x.cnt o).z.liveAt = x.z.liveAt := (rgOnly_cxCnt ..).liveAt
@[simp] theorem Cx.cnt_z_live (x : Cx) (o : Nat) : (x.cnt o).z.live = x.z.live := (rgOnly_cxCnt ..).live
@[simp] theorem Cx.cnt_z_homes (x : Cx) (o : Nat) : (x.cnt o).z.homes = x.z.homes := (rgOnly_cxCnt ..).homes
@[simp] theorem Cx.cnt_z_bays (x : Cx) (o : Nat) : (x.cnt o).z.bays = x.z.bays := (rgOnly_cxCnt ..).bays
@[simp] theorem Cx.cnt_z_cinfo (x : Cx) (o : Nat) : (x.cnt o).z.cinfo = x.z.cinfo := (rgOnly_cxCnt ..).cinfo
@[simp] theorem Cx.cnt_z_jreq (x : Cx) (o : Nat) : (x.cnt o).z.jreq = x.z.jreq := (rgOnly_cxCnt ..).jreq
@[simp] theorem Cx.cnt_z_jdat (x : Cx) (o : Nat) : (x.cnt o).z.jdat = x.z.jdat := (rgOnly_cxCnt ..).jdat
@[simp] theorem Cx.cnt_z_jsts (x : Cx) (o : Nat) : (x.cnt o).z.jsts = x.z.jsts := (rgOnly_cxCnt ..).jsts
@[simp] theorem Cx.cnt_z_jclr (x : Cx) (o : Nat) : (x.cnt o).z.jclr = x.z.jclr := (rgOnly_cxCnt ..).jclr
@[simp] theorem Cx.cnt_z_clrs (x : Cx) (o : Nat) : (x.cnt o).z.clrs = x.z.clrs := (rgOnly_cxCnt ..).clrs
@[simp] theorem Cx.cnt_z_clrNext (x : Cx) (o : Nat) : (x.cnt o).z.clrNext = x.z.clrNext := (rgOnly_cxCnt ..).clrNext
@[simp] theorem Cx.cnt_z_out (x : Cx) (o : Nat) : (x.cnt o).z.out = x.z.out := (rgOnly_cxCnt ..).out
@[simp] theorem Cx.cnt_z_bus (x : Cx) (o : Nat) : (x.cnt o).z.bus = x.z.bus := (rgOnly_cxCnt ..).bus
@[simp] theorem Cx.ev_z_rg (x : Cx) (k : Nat) (d : List Word) : (x.ev k d).z.rg = x.z.rg := (mgtOnly_cxEv ..).rg
@[simp] theorem Cx.ev_z_setu (x : Cx) (k : Nat) (d : List Word) : (x.ev k d).z.setu = x.z.setu := (mgtOnly_cxEv ..).setu
@[simp] theorem Cx.ev_z_plumb (x : Cx) (k : Nat) (d : List Word) : (x.ev k d).z.plumb = x.z.plumb := (mgtOnly_cxEv ..).plumb
@[simp] theorem Cx.ev_z_bond (x : Cx) (k : Nat) (d : List Word) : (x.ev k d).z.bond = x.z.bond := (mgtOnly_cxEv ..).bond
@[simp] theorem Cx.ev_z_keys (x : Cx) (k : Nat) (d : List Word) : (x.ev k d).z.keys = x.z.keys := (mgtOnly_cxEv ..).keys
@[simp] theorem Cx.ev_z_dbg (x : Cx) (k : Nat) (d : List Word) : (x.ev k d).z.dbg = x.z.dbg := (mgtOnly_cxEv ..).dbg
@[simp] theorem Cx.ev_z_boot (x : Cx) (k : Nat) (d : List Word) : (x.ev k d).z.boot = x.z.boot := (mgtOnly_cxEv ..).boot
@[simp] theorem Cx.ev_z_pwr (x : Cx) (k : Nat) (d : List Word) : (x.ev k d).z.pwr = x.z.pwr := (mgtOnly_cxEv ..).pwr
@[simp] theorem Cx.ev_z_therm (x : Cx) (k : Nat) (d : List Word) : (x.ev k d).z.therm = x.z.therm := (mgtOnly_cxEv ..).therm
@[simp] theorem Cx.ev_z_hod (x : Cx) (k : Nat) (d : List Word) : (x.ev k d).z.hod = x.z.hod := (mgtOnly_cxEv ..).hod
@[simp] theorem Cx.ev_z_pair (x : Cx) (k : Nat) (d : List Word) : (x.ev k d).z.pair = x.z.pair := (mgtOnly_cxEv ..).pair
@[simp] theorem Cx.ev_z_pkg0 (x : Cx) (k : Nat) (d : List Word) : (x.ev k d).z.pkg0 = x.z.pkg0 := (mgtOnly_cxEv ..).pkg0
@[simp] theorem Cx.ev_z_pins (x : Cx) (k : Nat) (d : List Word) : (x.ev k d).z.pins = x.z.pins := (mgtOnly_cxEv ..).pins
@[simp] theorem Cx.ev_z_liveAt (x : Cx) (k : Nat) (d : List Word) : (x.ev k d).z.liveAt = x.z.liveAt := (mgtOnly_cxEv ..).liveAt
@[simp] theorem Cx.ev_z_live (x : Cx) (k : Nat) (d : List Word) : (x.ev k d).z.live = x.z.live := (mgtOnly_cxEv ..).live
@[simp] theorem Cx.ev_z_homes (x : Cx) (k : Nat) (d : List Word) : (x.ev k d).z.homes = x.z.homes := (mgtOnly_cxEv ..).homes
@[simp] theorem Cx.ev_z_bays (x : Cx) (k : Nat) (d : List Word) : (x.ev k d).z.bays = x.z.bays := (mgtOnly_cxEv ..).bays
@[simp] theorem Cx.ev_z_cinfo (x : Cx) (k : Nat) (d : List Word) : (x.ev k d).z.cinfo = x.z.cinfo := (mgtOnly_cxEv ..).cinfo
@[simp] theorem Cx.ev_z_jreq (x : Cx) (k : Nat) (d : List Word) : (x.ev k d).z.jreq = x.z.jreq := (mgtOnly_cxEv ..).jreq
@[simp] theorem Cx.ev_z_jdat (x : Cx) (k : Nat) (d : List Word) : (x.ev k d).z.jdat = x.z.jdat := (mgtOnly_cxEv ..).jdat
@[simp] theorem Cx.ev_z_jsts (x : Cx) (k : Nat) (d : List Word) : (x.ev k d).z.jsts = x.z.jsts := (mgtOnly_cxEv ..).jsts
@[simp] theorem Cx.ev_z_jclr (x : Cx) (k : Nat) (d : List Word) : (x.ev k d).z.jclr = x.z.jclr := (mgtOnly_cxEv ..).jclr
@[simp] theorem Cx.ev_z_clrs (x : Cx) (k : Nat) (d : List Word) : (x.ev k d).z.clrs = x.z.clrs := (mgtOnly_cxEv ..).clrs
@[simp] theorem Cx.ev_z_clrNext (x : Cx) (k : Nat) (d : List Word) : (x.ev k d).z.clrNext = x.z.clrNext := (mgtOnly_cxEv ..).clrNext
@[simp] theorem Cx.ev_z_out (x : Cx) (k : Nat) (d : List Word) : (x.ev k d).z.out = x.z.out := (mgtOnly_cxEv ..).out
@[simp] theorem Cx.ev_z_bus (x : Cx) (k : Nat) (d : List Word) : (x.ev k d).z.bus = x.z.bus := (mgtOnly_cxEv ..).bus
@[simp] theorem Cx.pev_z_rg (x : Cx) (k : Nat) (d : List Word) : (x.pev k d).z.rg = x.z.rg := (mgtOnly_cxPev ..).rg
@[simp] theorem Cx.pev_z_setu (x : Cx) (k : Nat) (d : List Word) : (x.pev k d).z.setu = x.z.setu := (mgtOnly_cxPev ..).setu
@[simp] theorem Cx.pev_z_plumb (x : Cx) (k : Nat) (d : List Word) : (x.pev k d).z.plumb = x.z.plumb := (mgtOnly_cxPev ..).plumb
@[simp] theorem Cx.pev_z_bond (x : Cx) (k : Nat) (d : List Word) : (x.pev k d).z.bond = x.z.bond := (mgtOnly_cxPev ..).bond
@[simp] theorem Cx.pev_z_keys (x : Cx) (k : Nat) (d : List Word) : (x.pev k d).z.keys = x.z.keys := (mgtOnly_cxPev ..).keys
@[simp] theorem Cx.pev_z_dbg (x : Cx) (k : Nat) (d : List Word) : (x.pev k d).z.dbg = x.z.dbg := (mgtOnly_cxPev ..).dbg
@[simp] theorem Cx.pev_z_boot (x : Cx) (k : Nat) (d : List Word) : (x.pev k d).z.boot = x.z.boot := (mgtOnly_cxPev ..).boot
@[simp] theorem Cx.pev_z_pwr (x : Cx) (k : Nat) (d : List Word) : (x.pev k d).z.pwr = x.z.pwr := (mgtOnly_cxPev ..).pwr
@[simp] theorem Cx.pev_z_therm (x : Cx) (k : Nat) (d : List Word) : (x.pev k d).z.therm = x.z.therm := (mgtOnly_cxPev ..).therm
@[simp] theorem Cx.pev_z_hod (x : Cx) (k : Nat) (d : List Word) : (x.pev k d).z.hod = x.z.hod := (mgtOnly_cxPev ..).hod
@[simp] theorem Cx.pev_z_pair (x : Cx) (k : Nat) (d : List Word) : (x.pev k d).z.pair = x.z.pair := (mgtOnly_cxPev ..).pair
@[simp] theorem Cx.pev_z_pkg0 (x : Cx) (k : Nat) (d : List Word) : (x.pev k d).z.pkg0 = x.z.pkg0 := (mgtOnly_cxPev ..).pkg0
@[simp] theorem Cx.pev_z_pins (x : Cx) (k : Nat) (d : List Word) : (x.pev k d).z.pins = x.z.pins := (mgtOnly_cxPev ..).pins
@[simp] theorem Cx.pev_z_liveAt (x : Cx) (k : Nat) (d : List Word) : (x.pev k d).z.liveAt = x.z.liveAt := (mgtOnly_cxPev ..).liveAt
@[simp] theorem Cx.pev_z_live (x : Cx) (k : Nat) (d : List Word) : (x.pev k d).z.live = x.z.live := (mgtOnly_cxPev ..).live
@[simp] theorem Cx.pev_z_homes (x : Cx) (k : Nat) (d : List Word) : (x.pev k d).z.homes = x.z.homes := (mgtOnly_cxPev ..).homes
@[simp] theorem Cx.pev_z_bays (x : Cx) (k : Nat) (d : List Word) : (x.pev k d).z.bays = x.z.bays := (mgtOnly_cxPev ..).bays
@[simp] theorem Cx.pev_z_cinfo (x : Cx) (k : Nat) (d : List Word) : (x.pev k d).z.cinfo = x.z.cinfo := (mgtOnly_cxPev ..).cinfo
@[simp] theorem Cx.pev_z_jreq (x : Cx) (k : Nat) (d : List Word) : (x.pev k d).z.jreq = x.z.jreq := (mgtOnly_cxPev ..).jreq
@[simp] theorem Cx.pev_z_jdat (x : Cx) (k : Nat) (d : List Word) : (x.pev k d).z.jdat = x.z.jdat := (mgtOnly_cxPev ..).jdat
@[simp] theorem Cx.pev_z_jsts (x : Cx) (k : Nat) (d : List Word) : (x.pev k d).z.jsts = x.z.jsts := (mgtOnly_cxPev ..).jsts
@[simp] theorem Cx.pev_z_jclr (x : Cx) (k : Nat) (d : List Word) : (x.pev k d).z.jclr = x.z.jclr := (mgtOnly_cxPev ..).jclr
@[simp] theorem Cx.pev_z_clrs (x : Cx) (k : Nat) (d : List Word) : (x.pev k d).z.clrs = x.z.clrs := (mgtOnly_cxPev ..).clrs
@[simp] theorem Cx.pev_z_clrNext (x : Cx) (k : Nat) (d : List Word) : (x.pev k d).z.clrNext = x.z.clrNext := (mgtOnly_cxPev ..).clrNext
@[simp] theorem Cx.pev_z_out (x : Cx) (k : Nat) (d : List Word) : (x.pev k d).z.out = x.z.out := (mgtOnly_cxPev ..).out
@[simp] theorem Cx.pev_z_bus (x : Cx) (k : Nat) (d : List Word) : (x.pev k d).z.bus = x.z.bus := (mgtOnly_cxPev ..).bus

@[simp] theorem Cx.setf_info (x : Cx) (o hi lo v : Nat) : (x.setf o hi lo v).info = x.info := by simp [Cx.info]
@[simp] theorem Cx.sts_info (x : Cx) (o b : Nat) : (x.sts o b).info = x.info := by simp [Cx.info]
@[simp] theorem Cx.cntN_info (x : Cx) (o k : Nat) : (x.cntN o k).info = x.info := by simp [Cx.info]
@[simp] theorem Cx.cnt_info (x : Cx) (o : Nat) : (x.cnt o).info = x.info := by simp [Cx.info]
@[simp] theorem Cx.ev_info (x : Cx) (k : Nat) (d : List Word) : (x.ev k d).info = x.info := by simp [Cx.info]
@[simp] theorem Cx.pev_info (x : Cx) (k : Nat) (d : List Word) : (x.pev k d).info = x.info := by simp [Cx.info]
@[simp] theorem Cx.onInfo_info (x : Cx) (f : CInfo → CInfo) : (x.onInfo f).info = f x.info := by simp [Cx.info, Cx.onInfo, modInfo]

/-! ### Fields of a course's registers -/

theorem Cx.f_of_word {x y : Cx} {o hi lo : Nat} (hn : y.n = x.n) (h : wordAt y.z (crsBase x.n.val + o) = wordAt x.z (crsBase x.n.val + o)) :
    y.f o hi lo = x.f o hi lo := by simp only [Cx.f, Cx.off, getF, hn, h]

theorem Cx.f_cntN (x : Cx) {o q hi lo k : Nat} (e : q ≠ o) (ho : o < 0x40000) (hq : q < 0x3000) (h8 : q % 0x1000 ≠ 8) : (x.cntN o k).f q hi lo = x.f q hi lo := by
  refine Cx.f_of_word (by simp) ?_
  unfold Cx.cntN
  split
  · rfl
  · exact wordAt_bumpN_ne _ _ _ _ (by unfold Cx.off; omega) (by unfold Cx.off; rw [ownerOf_crs x.n.isLt ho]; exact calm_crs x.n.isLt hq h8)

theorem Cx.f_cnt (x : Cx) {o q hi lo : Nat} (e : q ≠ o) (ho : o < 0x40000) (hq : q < 0x3000) (h8 : q % 0x1000 ≠ 8) : (x.cnt o).f q hi lo = x.f q hi lo :=
  Cx.f_of_word (by simp) (wordAt_bump_ne _ _ (by unfold Cx.off; omega) (by unfold Cx.off; rw [ownerOf_crs x.n.isLt ho]; exact calm_crs x.n.isLt hq h8))

theorem Cx.f_sts (x : Cx) {o q hi lo b : Nat} (e : q ≠ o) : (x.sts o b).f q hi lo = x.f q hi lo :=
  Cx.f_of_word (by simp) (wordAt_post_ne _ _ _ (by unfold Cx.off; omega))

theorem Cx.f_setf (x : Cx) {o q hi lo h l v : Nat} (e : q ≠ o) : (x.setf o h l v).f q hi lo = x.f q hi lo :=
  Cx.f_of_word (by simp) (wordAt_setF_ne _ _ _ _ (by unfold Cx.off; omega))

@[simp] theorem Cx.f_ev (x : Cx) (k : Nat) (d : List Word) (q hi lo : Nat) : (x.ev k d).f q hi lo = x.f q hi lo :=
  Cx.f_of_word (by simp) (wordAt_evPost ..)
@[simp] theorem Cx.f_pev (x : Cx) (k : Nat) (d : List Word) (q hi lo : Nat) : (x.pev k d).f q hi lo = x.f q hi lo :=
  Cx.f_of_word (by simp) (wordAt_potPost ..)
@[simp] theorem Cx.f_onC (x : Cx) (g : CourseSt → CourseSt) (q hi lo : Nat) : (x.onC g).f q hi lo = x.f q hi lo := rfl
@[simp] theorem Cx.f_onL (x : Cx) (g : CLink → CLink) (q hi lo : Nat) : (x.onL g).f q hi lo = x.f q hi lo := rfl
@[simp] theorem Cx.f_onB (x : Cx) (g : Corbel → Corbel) (q hi lo : Nat) : (x.onB g).f q hi lo = x.f q hi lo := rfl

end Sys2Proof.Machine
end

