-- ==== Sys2Proof/Laws/Exec.lean ====
section
/-! SUPPORT. Each row's meaning as an effect at its instant: what `exec` does with a command, without unfolding the dispatch. -/

namespace Sys2Proof.Machine

theorem exec_powerGoodRise (t : Nat) (s : State) : exec (.powerGoodRise t) s = cmd s t (fun x => powerRise x s.fuse) := rfl
theorem exec_powerGoodFall (t : Nat) (s : State) : exec (.powerGoodFall t) s = cmd s t (fun x => powerFall x s.fuse) := rfl
theorem exec_coldRstRelease (t lowNs : Nat) (s : State) : exec (.coldRstRelease t lowNs) s = cmd s t (fun x => coldRelease x s.fuse lowNs) := rfl
theorem exec_warmRstRelease (t lowNs : Nat) (s : State) : exec (.warmRstRelease t lowNs) s = cmd s t (fun x => warmRelease x lowNs) := rfl
theorem exec_mgtBist (t : Nat) (obs : List BistObs) (s : State) : exec (.mgtBist t obs) s = cmd s t (ifUp (fun x => onZmc x (fun z _ => mgtBistEnd z obs))) := rfl
theorem exec_image (t : Nat) (s : State) : exec (.image t) s = cmd s t (ifZ (fun z now => imageEnd z now)) := rfl
theorem exec_islandBist (t : Nat) (obs : List BistObs) (badDec : List CourseId) (badEng : List HomeId) (s : State) : exec (.islandBist t obs badDec badEng) s = cmd s t (ifUp (fun x => islandBistEnd x obs badDec badEng)) := rfl
theorem exec_publish (t : Nat) (s : State) : exec (.publish t) s = cmd s t (ifZ (fun z now => publishEnd z now)) := rfl
theorem exec_train (t : Nat) (c : CourseId) (obs : TrainObs) (s : State) : exec (.train t c obs) s = cmd s t (ifUp (fun x => allFenced (trainRow x c obs))) := rfl
theorem exec_trainTimeout (t : Nat) (c : CourseId) (s : State) : exec (.trainTimeout t c) s = cmd s t (ifUp (fun x => allFenced (Sys2Proof.Machine.trainTimeout x c))) := rfl
theorem exec_fresh (t : Nat) (s : State) : exec (.fresh t) s = cmd s t (ifUp (fun x => freshEnd x)) := rfl
theorem exec_released (t : Nat) (s : State) : exec (.released t) s = cmd s t (ifUp (fun x => Sys2Proof.Machine.released x)) := rfl
theorem exec_memDoubleBitError (t mem word bit : Nat) (s : State) : exec (.memDoubleBitError t mem word bit) s = cmd s t (fun x => memDoubleBit x mem word bit) := rfl
theorem exec_memSingleBitError (t mem word bit : Nat) (s : State) : exec (.memSingleBitError t mem word bit) s = cmd s t (fun x => onZmc x (fun z now => memSingleBit z now mem word bit)) := rfl
theorem exec_registerWrite (t : Nat) (o : Orig) (off : BitVec 24) (size : AccSize) (v : BitVec 64) (s : State) : exec (.registerWrite t o off size v) s = cmd s t (fun x => busWrite x o off.toNat size v) := rfl
theorem exec_lowWordRead (t : Nat) (o : Orig) (off : BitVec 24) (size : AccSize) (s : State) : exec (.lowWordRead t o off size) s = cmd s t (fun x => busRead x o off.toNat size) := rfl
theorem exec_setIssue (t : Nat) (o : Orig) (v : Word) (s : State) : exec (.setIssue t o v) s = cmd s t (fun x => busWrite x o (zmcBase + 0x0010) .b4 (v.setWidth 64)) := rfl
theorem exec_setApply (t : Nat) (i : IslandId) (s : State) : exec (.setApply t i) s = cmd s t (ifUp (fun x => setApplyAt x i.val)) := rfl
theorem exec_setComplete (t : Nat) (s : State) : exec (.setComplete t) s = cmd s t (ifUp (fun x => setCompleteNow x)) := rfl
theorem exec_plumbLapEnd (t : Nat) (s : State) : exec (.plumbLapEnd t) s = cmd s t (ifZ (fun z now => Sys2Proof.Machine.plumbLapEnd z now)) := rfl
theorem exec_plumbStall (t : Nat) (s : State) : exec (.plumbStall t) s = cmd s t (ifZ (fun z now => Sys2Proof.Machine.plumbStall z now)) := rfl
theorem exec_parityCheck (t : Nat) (i : IslandId) (bad : List (BitVec 24)) (s : State) : exec (.parityCheck t i bad) s = cmd s t (ifZ (fun z now => Sys2Proof.Machine.parityCheck z now i.val (bad.map (fun o => o.toNat)))) := rfl
theorem exec_sensorSample (t : Nat) (temps : List Int) (s : State) : exec (.sensorSample t temps) s = if tempsWf temps then cmd s t (fun x => onZmc x (fun z now => Sys2Proof.Machine.sensorSample z now temps)) else .fault .illFormed := rfl
theorem exec_gapThrottle (t : Nat) (s : State) : exec (.gapThrottle t) s = cmd s t (ifUp (fun x => Sys2Proof.Machine.gapThrottle x)) := rfl
theorem exec_gapUnthrottle (t : Nat) (s : State) : exec (.gapUnthrottle t) s = cmd s t (ifUp (fun x => Sys2Proof.Machine.gapUnthrottle x)) := rfl
theorem exec_thermAlertAssert (t lowNs : Nat) (s : State) : exec (.thermAlertAssert t lowNs) s = cmd s t (fun x => alertAssert x lowNs) := rfl
theorem exec_thermAlertRelease (t highNs : Nat) (s : State) : exec (.thermAlertRelease t highNs) s = cmd s t (fun x => onZmc x (fun z now => alertRelease z now highNs)) := rfl
theorem exec_laneClockLoss (t : Nat) (k : HomeId) (s : State) : exec (.laneClockLoss t k) s = cmd s t (fun x => Sys2Proof.Machine.laneClockLoss x k) := rfl
theorem exec_bondRegenerate (t : Nat) (s : State) : exec (.bondRegenerate t) s = cmd s t (ifZ (fun z now => bondRegen z now)) := rfl
theorem exec_watchdogExpiry (t : Nat) (s : State) : exec (.watchdogExpiry t) s = cmd s t (ifZ (fun z now => watchdog z now)) := rfl
theorem exec_mbxRing (t : Nat) (o : Orig) (m : MbxId) (s : State) : exec (.mbxRing t o m) s = cmd s t (fun x => busWrite x o (mbxBase + 0x0180 + 0x100 * m.val) .b4 (1)) := rfl
theorem exec_mbxCancel (t : Nat) (o : Orig) (m : MbxId) (s : State) : exec (.mbxCancel t o m) s = cmd s t (fun x => busWrite x o (mbxBase + 0x0180 + 0x100 * m.val) .b4 (2)) := rfl
theorem exec_mbxTimeout (t : Nat) (m : MbxId) (s : State) : exec (.mbxTimeout t m) s = cmd s t (ifZ (fun z now => Sys2Proof.Machine.mbxTimeout z now m)) := rfl
theorem exec_acceptedComplete (t : Nat) (m : MbxId) (ok : Bool) (s : State) : exec (.acceptedComplete t m ok) s = cmdFuse s t (fun x f => if closedUp x.z then (x, f) else Sys2Proof.Machine.acceptedComplete x f m ok) := rfl
theorem exec_auditCoalesceClose (t : Nat) (s : State) : exec (.auditCoalesceClose t) s = cmd s t (ifZ (fun z now => coalClose z now)) := rfl
theorem exec_activationDone (t : Nat) (s : State) : exec (.activationDone t) s = cmd s t (ifZ (fun z now => Sys2Proof.Machine.activationDone z now)) := rfl
theorem exec_activationTimeout (t : Nat) (s : State) : exec (.activationTimeout t) s = cmd s t (ifZ (fun z now => Sys2Proof.Machine.activationTimeout z now)) := rfl
theorem exec_query (t : Nat) (m : MbxId) (s : State) : exec (.query t m) s = cmd s t (ifUp (fun x => cmdQuery x m)) := rfl
theorem exec_regionClear (t : Nat) (m : MbxId) (s : State) : exec (.regionClear t m) s = cmd s t (ifUp (fun x => cmdRegionClear x m)) := rfl
theorem exec_keyLoad (t : Nat) (m : MbxId) (s : State) : exec (.keyLoad t m) s = cmd s t (ifUp (fun x => cmdKeyLoad x m)) := rfl
theorem exec_keyErase (t : Nat) (m : MbxId) (s : State) : exec (.keyErase t m) s = cmd s t (ifUp (fun x => cmdKeyErase x m)) := rfl
theorem exec_counterGrant (t : Nat) (m : MbxId) (s : State) : exec (.counterGrant t m) s = cmd s t (ifUp (fun x => cmdCounterGrant x m)) := rfl
theorem exec_debugConsent (t : Nat) (m : MbxId) (s : State) : exec (.debugConsent t m) s = cmd s t (ifUp (fun x => cmdDebugConsent x m)) := rfl
theorem exec_plumbRef (t : Nat) (m : MbxId) (lap : Bool) (s : State) : exec (.plumbRef t m lap) s = cmd s t (ifUp (fun x => cmdPlumbRef x m lap)) := rfl
theorem exec_activate (t : Nat) (m : MbxId) (s : State) : exec (.activate t m) s = cmd s t (ifUp (fun x => cmdActivate x m)) := rfl
theorem exec_repair (t : Nat) (m : MbxId) (s : State) : exec (.repair t m) s = cmd s t (ifUp (fun x => cmdRepair x m)) := rfl
theorem exec_powerDoze (t : Nat) (m : MbxId) (s : State) : exec (.powerDoze t m) s = cmd s t (ifUp (fun x => cmdPowerDoze x m)) := rfl
theorem exec_retain (t : Nat) (m : MbxId) (s : State) : exec (.retain t m) s = cmd s t (ifUp (fun x => cmdRetain x m)) := rfl
theorem exec_retainTimeout (t : Nat) (s : State) : exec (.retainTimeout t) s = cmd s t (ifUp (fun x => Sys2Proof.Machine.retainTimeout x)) := rfl
theorem exec_auditHead (t : Nat) (m : MbxId) (s : State) : exec (.auditHead t m) s = cmd s t (ifUp (fun x => cmdAuditHead x m)) := rfl
theorem exec_seal (t : Nat) (m : MbxId) (s : State) : exec (.seal t m) s = cmd s t (ifUp (fun x => cmdSeal x m)) := rfl
theorem exec_imageWrite (t : Nat) (m : MbxId) (s : State) : exec (.imageWrite t m) s = cmd s t (ifUp (fun x => cmdImageWrite x m)) := rfl
theorem exec_kekSet (t : Nat) (m : MbxId) (s : State) : exec (.kekSet t m) s = cmd s t (ifUp (fun x => cmdKekSet x m)) := rfl
theorem exec_lcTransition (t : Nat) (m : MbxId) (s : State) : exec (.lcTransition t m) s = cmd s t (ifUp (fun x => cmdLcTransition x m)) := rfl
theorem exec_pairSetup (t : Nat) (m : MbxId) (s : State) : exec (.pairSetup t m) s = cmd s t (ifUp (fun x => cmdPairSetup x m)) := rfl
theorem exec_pairRange (t : Nat) (m : MbxId) (s : State) : exec (.pairRange t m) s = cmd s t (ifUp (fun x => cmdPairRange x m)) := rfl
theorem exec_interleave (t : Nat) (m : MbxId) (s : State) : exec (.interleave t m) s = cmd s t (ifUp (fun x => cmdInterleave x m)) := rfl
theorem exec_eccMode (t : Nat) (m : MbxId) (s : State) : exec (.eccMode t m) s = cmd s t (ifUp (fun x => cmdEccMode x m)) := rfl
theorem exec_freshMode (t : Nat) (m : MbxId) (s : State) : exec (.freshMode t m) s = cmd s t (ifUp (fun x => cmdFreshMode x m)) := rfl
theorem exec_trainPolicy (t : Nat) (m : MbxId) (s : State) : exec (.trainPolicy t m) s = cmd s t (ifUp (fun x => cmdTrainPolicy x m)) := rfl
theorem exec_thermalPolicy (t : Nat) (m : MbxId) (s : State) : exec (.thermalPolicy t m) s = cmd s t (ifUp (fun x => cmdThermalPolicy x m)) := rfl
theorem exec_repairPolicy (t : Nat) (m : MbxId) (s : State) : exec (.repairPolicy t m) s = cmd s t (ifUp (fun x => cmdRepairPolicy x m)) := rfl
theorem exec_courseFence (t : Nat) (m : MbxId) (s : State) : exec (.courseFence t m) s = cmd s t (ifUp (fun x => cmdCourseFence x m)) := rfl
theorem exec_courseRestore (t : Nat) (m : MbxId) (s : State) : exec (.courseRestore t m) s = cmd s t (ifUp (fun x => cmdCourseRestore x m)) := rfl
theorem exec_courseRetest (t : Nat) (m : MbxId) (s : State) : exec (.courseRetest t m) s = cmd s t (ifUp (fun x => cmdCourseRetest x m)) := rfl
theorem exec_bistAbort (t : Nat) (m : MbxId) (s : State) : exec (.bistAbort t m) s = cmd s t (ifUp (fun x => cmdBistAbort x m)) := rfl
theorem exec_hardRepair (t : Nat) (m : MbxId) (s : State) : exec (.hardRepair t m) s = cmd s t (ifUp (fun x => cmdHardRepair x m)) := rfl
theorem exec_holdSet (t : Nat) (m : MbxId) (s : State) : exec (.holdSet t m) s = cmd s t (ifUp (fun x => cmdHoldSet x m)) := rfl
theorem exec_dbgTrace (t : Nat) (m : MbxId) (s : State) : exec (.dbgTrace t m) s = cmd s t (ifUp (fun x => cmdDbgTrace x m)) := rfl
theorem exec_dbgPreempt (t : Nat) (m : MbxId) (s : State) : exec (.dbgPreempt t m) s = cmd s t (ifUp (fun x => cmdDbgPreempt x m)) := rfl
theorem exec_pairHello (t : Nat) (m : MbxId) (s : State) : exec (.pairHello t m) s = cmd s t (ifUp (fun x => cmdPairHello x m)) := rfl
theorem exec_peerClear (t : Nat) (m : MbxId) (s : State) : exec (.peerClear t m) s = cmd s t (ifUp (fun x => cmdPeerClear x m)) := rfl
theorem exec_peerNotice (t : Nat) (m : MbxId) (s : State) : exec (.peerNotice t m) s = cmd s t (ifUp (fun x => cmdPeerNotice x m)) := rfl
theorem exec_portLiveRise (t : Nat) (p : PortId) (s : State) : exec (.portLiveRise t p) s = cmd s t (fun x => onZmc x (fun z now => portRise z now p)) := rfl
theorem exec_portLiveFall (t : Nat) (p : PortId) (s : State) : exec (.portLiveFall t p) s = cmd s t (fun x => onZmc x (fun z now => portFall z now p)) := rfl
theorem exec_fabricRequest (t : Nat) (r : FabReq) (s : State) : exec (.fabricRequest t r) s = if r.wf then cmd s t (ifHome (fun z now => fabricArrive z now r)) else .fault .illFormed := rfl
theorem exec_bayGrant (t : Nat) (b : BayId) (s : State) : exec (.bayGrant t b) s = cmd s t (ifHome (fun z now => bayTick b z now)) := rfl
theorem exec_patternSwap (t : Nat) (b : BayId) (s : State) : exec (.patternSwap t b) s = cmd s t (ifHome (fun z now => patSwap z now b)) := rfl
theorem exec_shaperSweep (t : Nat) (h : HomeId) (s : State) : exec (.shaperSweep t h) s = cmd s t (ifHome (fun z now => sweep z now h)) := rfl
theorem exec_wheelExpiry (t : Nat) (h : HomeId) (s : State) : exec (.wheelExpiry t h) s = cmd s t (ifHome (fun z now => wheelTurn z now h)) := rfl
theorem exec_gateListStart (t : Nat) (c : CourseId) (s : State) : exec (.gateListStart t c) s = cmd s t (ifHome (fun z now => Sys2Proof.Machine.gateListStart z c now)) := rfl
theorem exec_gateEntryStart (t : Nat) (c : CourseId) (s : State) : exec (.gateEntryStart t c) s = cmd s t (ifHome (fun z now => entryStart z c now)) := rfl
theorem exec_lintelStart (t : Nat) (c : CourseId) (cls : Fin 4) (s : State) : exec (.lintelStart t c cls) s = cmd s t (ifHome (fun z now => lintelBegin z c cls now)) := rfl
theorem exec_gateClose (t : Nat) (c : CourseId) (s : State) : exec (.gateClose t c) s = cmd s t (ifHome (fun z now => gateCloseAt z c now)) := rfl
theorem exec_overrunEnd (t : Nat) (c : CourseId) (s : State) : exec (.overrunEnd t c) s = cmd s t (ifHome (fun z now => overrunDone z c now)) := rfl
theorem exec_gateResync (t : Nat) (h : HomeId) (pkgNs : BitVec 64) (s : State) : exec (.gateResync t h pkgNs) s = cmd s t (ifHome (fun z now => resyncHome z h pkgNs.toNat now)) := rfl
theorem exec_latSample (t : Nat) (h : HomeId) (s : State) : exec (.latSample t h) s = cmd s t (ifHome (fun z now => latSampleAll z now h)) := rfl
theorem exec_latSelCopy (t : Nat) (o : Orig) (h : HomeId) (v : Word) (s : State) : exec (.latSelCopy t o h v) s = cmd s t (fun x => busWrite x o (homeBase h.val + 0x1A08) .b4 (v.setWidth 64)) := rfl
theorem exec_requestLookup (t : Nat) (h : HomeId) (s : State) : exec (.requestLookup t h) s = cmd s t (ifHome (fun z now => lookupOldest z now h)) := rfl
theorem exec_footingDataReturn (t : Nat) (h : HomeId) (s : State) : exec (.footingDataReturn t h) s = cmd s t (ifHome (fun z now => ftgReturn z now h)) := rfl
theorem exec_footingDrain (t : Nat) (h : HomeId) (s : State) : exec (.footingDrain t h) s = cmd s t (ifHome (fun z now => drainStep z now h)) := rfl
theorem exec_writeback (t : Nat) (p : PortId) (k : WbKind) (addr : BitVec 64) (d : Line) (key : BitVec 10) (poison : Bool) (s : State) : exec (.writeback t p k addr d key poison) s = cmd s t (ifHome (fun z now => wbArrive z now p k addr d key poison)) := rfl
theorem exec_writebackMerge (t : Nat) (h : HomeId) (s : State) : exec (.writebackMerge t h) s = cmd s t (ifHome (fun z now => wbMerge z now h)) := rfl
theorem exec_snoopResponse (t : Nat) (p : PortId) (a : SnpAns) (addr : BitVec 64) (d : Line) (s : State) : exec (.snoopResponse t p a addr d) s = cmd s t (ifHome (fun z now => snoopAnswer z now p a addr d)) := rfl
theorem exec_snoopTimeout (t : Nat) (h : HomeId) (s : State) : exec (.snoopTimeout t h) s = cmd s t (ifHome (fun z now => Sys2Proof.Machine.snoopTimeout z now h)) := rfl
theorem exec_holdWindowEnd (t : Nat) (h : HomeId) (s : State) : exec (.holdWindowEnd t h) s = cmd s t (ifHome (fun z now => holdEnd z now h)) := rfl
theorem exec_readDataReturn (t : Nat) (c : CourseId) (s : State) : exec (.readDataReturn t c) s = cmd s t (fun x => if homesRun x.z && !jointHeld x c then dataBack x c else x) := rfl
theorem exec_courseCredit (t : Nat) (c : CourseId) (s : State) : exec (.courseCredit t c) s = cmd s t (ifJoint c (fun z now => creditReturn z now c)) := rfl
theorem exec_courseEnqueue (t : Nat) (c : CourseId) (s : State) : exec (.courseEnqueue t c) s = cmd s t (ifCrs c (Sys2Proof.Machine.courseEnqueue)) := rfl
theorem exec_selectCommit (t : Nat) (c : CourseId) (sc : SubId) (s : State) : exec (.selectCommit t c sc) s = cmd s t (ifCrs c (fun x => Sys2Proof.Machine.courseSelect x sc)) := rfl
theorem exec_downstreamFlit (t : Nat) (c : CourseId) (s : State) : exec (.downstreamFlit t c) s = cmd s t (ifCrs c (Sys2Proof.Machine.downstreamFlit)) := rfl
theorem exec_stampReached (t : Nat) (c : CourseId) (s : State) : exec (.stampReached t c) s = cmd s t (ifCrs c (Sys2Proof.Machine.stampReached)) := rfl
theorem exec_writeAgeDrain (t : Nat) (c : CourseId) (s : State) : exec (.writeAgeDrain t c) s = cmd s t (ifCrs c (writeAge)) := rfl
theorem exec_pageIdleTimeout (t : Nat) (c : CourseId) (bank : Fin 512) (s : State) : exec (.pageIdleTimeout t c bank) s = cmd s t (ifCrs c (fun x => pageIdle x bank.val)) := rfl
theorem exec_pdIdleEntry (t : Nat) (c : CourseId) (sc : SubId) (rank : Fin 4) (s : State) : exec (.pdIdleEntry t c sc rank) s = cmd s t (ifCrs c (fun x => pdIdle x sc rank.val)) := rfl
theorem exec_refreshTick (t : Nat) (c : CourseId) (seq : BitVec 16) (s : State) : exec (.refreshTick t c seq) s = cmd s t (ifCrs c (fun x => Sys2Proof.Machine.refreshTick x seq)) := rfl
theorem exec_catchupTimerExpiry (t : Nat) (c : CourseId) (i : Fin 16) (s : State) : exec (.catchupTimerExpiry t c i) s = cmd s t (ifCrs c (fun x => catchupExpiry x i)) := rfl
theorem exec_tempReport (t : Nat) (c : CourseId) (s : State) : exec (.tempReport t c) s = cmd s t (ifCrs c (tempRecord)) := rfl
theorem exec_tempStale (t : Nat) (c : CourseId) (rank : Fin 4) (s : State) : exec (.tempStale t c rank) s = cmd s t (ifCrs c (fun x => Sys2Proof.Machine.tempStale x rank)) := rfl
theorem exec_srReq (t : Nat) (o : Orig) (c : CourseId) (s : State) : exec (.srReq t o c) s = cmd s t (fun x => bitsWrite x o (crsBase c.val + 0x1410) 1 1) := rfl
theorem exec_srExit (t : Nat) (o : Orig) (c : CourseId) (s : State) : exec (.srExit t o c) s = cmd s t (fun x => bitsWrite x o (crsBase c.val + 0x1410) 2 2) := rfl
theorem exec_srIdleTimeout (t : Nat) (c : CourseId) (s : State) : exec (.srIdleTimeout t c) s = cmd s t (ifCrs c (srIdle)) := rfl
theorem exec_srQuiesceDone (t : Nat) (c : CourseId) (s : State) : exec (.srQuiesceDone t c) s = cmd s t (ifCrs c (Sys2Proof.Machine.srQuiesceDone)) := rfl
theorem exec_srEntered (t : Nat) (c : CourseId) (s : State) : exec (.srEntered t c) s = cmd s t (ifCrs c (Sys2Proof.Machine.srEntered)) := rfl
theorem exec_srExitDone (t : Nat) (c : CourseId) (s : State) : exec (.srExitDone t c) s = cmd s t (ifCrs c (Sys2Proof.Machine.srExitDone)) := rfl
theorem exec_upstreamFlit (t : Nat) (c : CourseId) (errs : UpBits) (s : State) : exec (.upstreamFlit t c errs) s = cmd s t (ifCrs c (fun x => Sys2Proof.Machine.upstreamFlit x errs)) := rfl
theorem exec_corbelFlitReceive (t : Nat) (c : CourseId) (errs : DnBits) (s : State) : exec (.corbelFlitReceive t c errs) s = cmd s t (ifCrs c (fun x => cbReceive x errs)) := rfl
theorem exec_corbelUpstreamFlit (t : Nat) (c : CourseId) (s : State) : exec (.corbelUpstreamFlit t c) s = cmd s t (ifCrs c (cbUpstream)) := rfl
theorem exec_nakTimerExpiry (t : Nat) (c : CourseId) (far : Bool) (s : State) : exec (.nakTimerExpiry t c far) s = cmd s t (ifCrs c (if far then cbNakExpiry else courseNakExpiry)) := rfl
theorem exec_ackTimeout (t : Nat) (c : CourseId) (far : Bool) (s : State) : exec (.ackTimeout t c far) s = cmd s t (ifCrs c (if far then cbAckTimeout else courseAckTimeout)) := rfl
theorem exec_rdata (t : Nat) (c : CourseId) (s : State) : exec (.rdata t c) s = cmd s t (ifCrs c (Sys2Proof.Machine.rdata)) := rfl
theorem exec_lateAlert (t : Nat) (c : CourseId) (s : State) : exec (.lateAlert t c) s = cmd s t (ifCrs c (Sys2Proof.Machine.lateAlert)) := rfl
theorem exec_caParityAlert (t : Nat) (c : CourseId) (s : State) : exec (.caParityAlert t c) s = cmd s t (ifCrs c (Sys2Proof.Machine.caParityAlert)) := rfl
theorem exec_issueAcknowledgement (t : Nat) (c : CourseId) (s : State) : exec (.issueAcknowledgement t c) s = cmd s t (ifCrs c (issueAck)) := rfl
theorem exec_maintenanceResponse (t : Nat) (c : CourseId) (s : State) : exec (.maintenanceResponse t c) s = cmd s t (ifCrs c (mntResponse)) := rfl
theorem exec_returnOverflow (t : Nat) (c : CourseId) (s : State) : exec (.returnOverflow t c) s = cmd s t (ifCrs c (Sys2Proof.Machine.returnOverflow)) := rfl
theorem exec_linkStatus (t : Nat) (c : CourseId) (s : State) : exec (.linkStatus t c) s = cmd s t (ifCrs c (Sys2Proof.Machine.linkStatus)) := rfl
theorem exec_corbelLinkStatusSend (t : Nat) (c : CourseId) (s : State) : exec (.corbelLinkStatusSend t c) s = cmd s t (ifCrs c (cbStatusSend)) := rfl
theorem exec_linkStart (t : Nat) (o : Orig) (c : CourseId) (s : State) : exec (.linkStart t o c) s = cmd s t (fun x => bitsWrite x o (crsBase c.val + 0x0800) 8 8) := rfl
theorem exec_linkStop (t : Nat) (o : Orig) (c : CourseId) (s : State) : exec (.linkStop t o c) s = cmd s t (fun x => bitsWrite x o (crsBase c.val + 0x0800) 0x80000000 0x80000000) := rfl
theorem exec_alignComplete (t : Nat) (c : CourseId) (oneWay : Nat) (s : State) : exec (.alignComplete t c oneWay) s = cmd s t (ifCrs c (fun x => Sys2Proof.Machine.linkAligned x oneWay)) := rfl
theorem exec_wakeTimeout (t : Nat) (c : CourseId) (s : State) : exec (.wakeTimeout t c) s = cmd s t (ifCrs c (Sys2Proof.Machine.wakeTimeout)) := rfl
theorem exec_recoverTimeout (t : Nat) (c : CourseId) (s : State) : exec (.recoverTimeout t c) s = cmd s t (ifCrs c (Sys2Proof.Machine.recoverTimeout)) := rfl
theorem exec_rate (t : Nat) (c : CourseId) (s : State) : exec (.rate t c) s = cmd s t (ifCrs c (rateStart)) := rfl
theorem exec_rateComplete (t : Nat) (c : CourseId) (s : State) : exec (.rateComplete t c) s = cmd s t (ifCrs c (rateDone)) := rfl
theorem exec_rateTimeout (t : Nat) (c : CourseId) (s : State) : exec (.rateTimeout t c) s = cmd s t (ifCrs c (Sys2Proof.Machine.rateTimeout)) := rfl
theorem exec_sleepStart (t : Nat) (c : CourseId) (s : State) : exec (.sleepStart t c) s = cmd s t (ifCrs c (Sys2Proof.Machine.sleepStart)) := rfl
theorem exec_sleepAck (t : Nat) (c : CourseId) (s : State) : exec (.sleepAck t c) s = cmd s t (ifCrs c (Sys2Proof.Machine.sleepAck)) := rfl
theorem exec_corbelSleepAckSend (t : Nat) (c : CourseId) (s : State) : exec (.corbelSleepAckSend t c) s = cmd s t (ifCrs c (cbSleepAckSend)) := rfl
theorem exec_corbelSafeTimeout (t : Nat) (c : CourseId) (s : State) : exec (.corbelSafeTimeout t c) s = cmd s t (ifCrs c (cbSafeTimeout)) := rfl
theorem exec_linkFailedResponse (t : Nat) (c : CourseId) (badUp : List (Fin 8)) (badDn : List (Fin 6)) (s : State) : exec (.linkFailedResponse t c badUp badDn) s = cmd s t (ifCrs c (fun x => Sys2Proof.Machine.linkFailedResponse x (badUp.map (fun l => l.val)) (badDn.map (fun l => l.val)))) := rfl
theorem exec_mntReq (t : Nat) (o : Orig) (c : CourseId) (v : Word) (s : State) : exec (.mntReq t o c v) s = cmd s t (fun x => busWrite x o (crsBase c.val + 0x0840) .b4 (v.setWidth 64)) := rfl
theorem exec_mntTimeout (t : Nat) (c : CourseId) (s : State) : exec (.mntTimeout t c) s = cmd s t (ifCrs c (Sys2Proof.Machine.mntTimeout)) := rfl
theorem exec_corbelMaintRequest (t : Nat) (c : CourseId) (s : State) : exec (.corbelMaintRequest t c) s = cmd s t (ifCrs c (cbMaint)) := rfl
theorem exec_corbelIssue (t : Nat) (c : CourseId) (sc : SubId) (fb : Option (BitVec 40)) (s : State) : exec (.corbelIssue t c sc fb) s = cmd s t (ifCrs c (fun x => cbIssue x sc fb)) := rfl
theorem exec_readBurstCapture (t : Nat) (c : CourseId) (sc : SubId) (errs : Code) (s : State) : exec (.readBurstCapture t c sc errs) s = cmd s t (ifCrs c (fun x => burstCapture x sc errs)) := rfl
theorem exec_alertNSampled (t : Nat) (c : CourseId) (sc : SubId) (s : State) : exec (.alertNSampled t c sc) s = cmd s t (ifCrs c (fun x => alertSampled x sc)) := rfl
theorem exec_issueAckSend (t : Nat) (c : CourseId) (sc : SubId) (s : State) : exec (.issueAckSend t c sc) s = cmd s t (ifCrs c (fun x => Sys2Proof.Machine.issueAckSend x sc)) := rfl
theorem exec_corbelTempRead (t : Nat) (c : CourseId) (rank : Fin 4) (temp : Option (BitVec 8)) (s : State) : exec (.corbelTempRead t c rank temp) s = cmd s t (ifCrs c (fun x => cbTempRead x rank temp)) := rfl
theorem exec_corbelStagedApply (t : Nat) (c : CourseId) (sc : SubId) (rank : Fin 4) (s : State) : exec (.corbelStagedApply t c sc rank) s = cmd s t (ifCrs c (fun x => cbStagedApply x sc rank.val)) := rfl
theorem exec_tcmd (t : Nat) (o : Orig) (c : CourseId) (v : Word) (s : State) : exec (.tcmd t o c v) s = cmd s t (fun x => busWrite x o (crsBase c.val + 0x2410) .b4 (v.setWidth 64)) := rfl
theorem exec_dchkDone (t : Nat) (c : CourseId) (s : State) : exec (.dchkDone t c) s = cmd s t (ifCrs c (Sys2Proof.Machine.dchkDone)) := rfl
theorem exec_lchkDwellEnd (t : Nat) (c : CourseId) (far : Bool) (s : State) : exec (.lchkDwellEnd t c far) s = cmd s t (ifCrs c (if far then cbDwellEnd else Sys2Proof.Machine.lchkDwellEnd)) := rfl
theorem exec_recentreArm (t : Nat) (c : CourseId) (i : Fin 16) (s : State) : exec (.recentreArm t c i) s = cmd s t (ifCrs c (fun x => Sys2Proof.Machine.recentreArm x i.val)) := rfl
theorem exec_recentreAdjust (t : Nat) (c : CourseId) (i : Fin 16) (counts : List ProbeCount) (s : State) : exec (.recentreAdjust t c i counts) s = cmd s t (ifCrs c (fun x => Sys2Proof.Machine.recentreAdjust x i.val counts)) := rfl
theorem exec_laneMonitor (t : Nat) (c : CourseId) (up : List (Fin 8 × Nat)) (dn : List (Fin 6 × Nat)) (s : State) : exec (.laneMonitor t c up dn) s = cmd s t (ifCrs c (fun x => Sys2Proof.Machine.laneMonitor x (up.map (fun p => (p.1.val, p.2))) (dn.map (fun p => (p.1.val, p.2))))) := rfl
theorem exec_pointingRead (t : Nat) (c : CourseId) (s : State) : exec (.pointingRead t c) s = cmd s t (ifCrs c (Sys2Proof.Machine.pointingRead)) := rfl
theorem exec_lapOverdue (t : Nat) (c : CourseId) (s : State) : exec (.lapOverdue t c) s = cmd s t (ifCrs c (Sys2Proof.Machine.lapOverdue)) := rfl
theorem exec_rtWatchExpiry (t : Nat) (c : CourseId) (e : Fin 64) (s : State) : exec (.rtWatchExpiry t c e) s = cmd s t (ifCrs c (fun x => rtExpiry x e)) := rfl
theorem exec_hardLineHandling (t : Nat) (c : CourseId) (e : Fin 64) (s : State) : exec (.hardLineHandling t c e) s = cmd s t (ifCrs c (fun x => hardLine x e)) := rfl
theorem exec_clearRequest (t : Nat) (c : CourseId) (s : State) : exec (.clearRequest t c) s = cmd s t (ifCrs c (clearArrive)) := rfl
theorem exec_clearPoint (t : Nat) (c : CourseId) (s : State) : exec (.clearPoint t c) s = cmd s t (ifUp (fun x => clearPointAt x c)) := rfl
theorem exec_keyValidErase (t : Nat) (o : Orig) (k : Fin 32) (v : Word) (s : State) : exec (.keyValidErase t o k v) s = cmd s t (fun x => busWrite x o (secBase + 0x1000 + 4 * k.val) .b4 (v.setWidth 64)) := rfl
theorem exec_freshInit (t : Nat) (o : Orig) (c : CourseId) (v : Word) (s : State) : exec (.freshInit t o c v) s = cmd s t (fun x => busWrite x o (crsBase c.val + 0x2020) .b4 (v.setWidth 64)) := rfl
theorem exec_debugAttach (t : Nat) (o : Orig) (lvl : Fin 4) (s : State) : exec (.debugAttach t o lvl) s = cmd s t (fun x => busWrite x o (secBase + 0x2000) .b4 (BitVec.ofNat 64 lvl.val)) := rfl
theorem exec_keyZeroDone (t : Nat) (s : State) : exec (.keyZeroDone t) s = cmd s t (fun x => keysZeroed x) := rfl
theorem exec_debugLower (t : Nat) (o : Orig) (lvl : Fin 2) (s : State) : exec (.debugLower t o lvl) s = cmd s t (fun x => busWrite x o (secBase + 0x2000) .b4 (BitVec.ofNat 64 lvl.val)) := rfl
theorem exec_debugClockLoss (t ns : Nat) (s : State) : exec (.debugClockLoss t ns) s = cmd s t (fun x => onZmc x (fun z now => clockLoss z now ns)) := rfl
theorem exec_lockoutExpiry (t : Nat) (s : State) : exec (.lockoutExpiry t) s = cmd s t (fun x => onZmc x (fun z now => lockoutEnd z now)) := rfl
theorem exec_tokenExpiry (t : Nat) (s : State) : exec (.tokenExpiry t) s = cmd s t (fun x => onZmc x (fun z now => tokenEnd z now)) := rfl
theorem exec_dozeReq (t : Nat) (o : Orig) (s : State) : exec (.dozeReq t o) s = cmd s t (fun x => bitsWrite x o (zmcBase + 0x0600) 1 1) := rfl
theorem exec_dozeEntered (t : Nat) (s : State) : exec (.dozeEntered t) s = cmd s t (ifUp (fun x => Sys2Proof.Machine.dozeEntered x)) := rfl
theorem exec_wake (t : Nat) (o : Orig) (s : State) : exec (.wake t o) s = cmd s t (fun x => bitsWrite x o (zmcBase + 0x0600) 2 2) := rfl
theorem exec_retainWakeTimer (t : Nat) (s : State) : exec (.retainWakeTimer t) s = cmd s t (fun x => wakeTimer x) := rfl
theorem exec_retainExit (t : Nat) (dead : List CourseId) (s : State) : exec (.retainExit t dead) s = cmd s t (fun x => Sys2Proof.Machine.retainExit x dead) := rfl
theorem exec_retestDrainDone (t : Nat) (s : State) : exec (.retestDrainDone t) s = cmd s t (ifUp (fun x => retestDrain x)) := rfl
theorem exec_retestTestDone (t : Nat) (obs : List BistObs) (decOk : Bool) (s : State) : exec (.retestTestDone t obs decOk) s = cmd s t (ifUp (fun x => retestTest x obs decOk)) := rfl
theorem exec_retestRestoreDone (t : Nat) (s : State) : exec (.retestRestoreDone t) s = cmd s t (ifUp (fun x => retestRestore x)) := rfl
theorem exec_retestStallExpiry (t : Nat) (b : BayId) (p : PortId) (s : State) : exec (.retestStallExpiry t b p) s = cmd s t (ifHome (fun z now => retestStall z now b p)) := rfl
theorem exec_hodFreeze (t : Nat) (o : Orig) (s : State) : exec (.hodFreeze t o) s = cmd s t (fun x => bitsWrite x o (hodBase + 0x0010) 1 1) := rfl
theorem exec_hodUnfreeze (t : Nat) (o : Orig) (s : State) : exec (.hodUnfreeze t o) s = cmd s t (fun x => bitsWrite x o (hodBase + 0x0010) 1 0) := rfl
theorem exec_snap (t : Nat) (o : Orig) (s : State) : exec (.snap t o) s = cmd s t (fun x => bitsWrite x o (hodBase + 0x0010) 2 2) := rfl
theorem exec_snapDone (t : Nat) (s : State) : exec (.snapDone t) s = cmd s t (ifZ (fun z now => Sys2Proof.Machine.snapDone z now)) := rfl
theorem exec_bwWindowClose (t : Nat) (h : HomeId) (s : State) : exec (.bwWindowClose t h) s = cmd s t (ifHome (fun z now => bwClose z now h)) := rfl
theorem exec_mirrorWrite (t : Nat) (addr : BitVec 64) (d : Line) (poison : Bool) (lvl : Byte) (s : State) : exec (.mirrorWrite t addr d poison lvl) s = cmd s t (ifHome (fun z now => Sys2Proof.Machine.mirrorWrite z now addr d poison lvl.toNat)) := rfl
theorem exec_mirrorAck (t : Nat) (addr : BitVec 64) (s : State) : exec (.mirrorAck t addr) s = cmd s t (ifHome (fun z now => Sys2Proof.Machine.mirrorAck z now addr)) := rfl
theorem exec_mirrorRead (t : Nat) (addr : BitVec 64) (lvl : Byte) (s : State) : exec (.mirrorRead t addr lvl) s = cmd s t (ifHome (fun z now => Sys2Proof.Machine.mirrorRead z now addr lvl.toNat)) := rfl
theorem exec_mirrorReadData (t : Nat) (addr : BitVec 64) (d : Option Line) (s : State) : exec (.mirrorReadData t addr d) s = cmd s t (ifHome (fun z now => mirrorData z now addr d)) := rfl
theorem exec_faultNotice (t : Nat) (off : BitVec 24) (lvl : Byte) (s : State) : exec (.faultNotice t off lvl) s = cmd s t (ifHome (fun z now => Sys2Proof.Machine.faultNotice z now off.toNat lvl.toNat)) := rfl
theorem exec_resyncLine (t : Nat) (h : HomeId) (s : State) : exec (.resyncLine t h) s = cmd s t (ifUp (fun x => Sys2Proof.Machine.resyncLine x h)) := rfl
theorem exec_regionFresh (t : Nat) (addr : BitVec 64) (lvl : Byte) (s : State) : exec (.regionFresh t addr lvl) s = cmd s t (ifHome (fun z now => Sys2Proof.Machine.regionFresh z now addr lvl.toNat)) := rfl
theorem exec_laneLockLoss (t : Nat) (c : CourseId) (l : Fin 14) (s : State) : exec (.laneLockLoss t c l) s = cmd s t (ifCrs c (fun x => Sys2Proof.Machine.laneLockLoss x l.val)) := rfl
theorem exec_masonRestartDone (t : Nat) (s : State) : exec (.masonRestartDone t) s = cmd s t (ifZ (fun z now => masonBack z now)) := rfl
theorem exec_creditParkReturn (t : Nat) (p : PortId) (s : State) : exec (.creditParkReturn t p) s = cmd s t (ifZ (fun z _ => creditPark z p)) := rfl
theorem exec_dramCritAction (t : Nat) (c : CourseId) (s : State) : exec (.dramCritAction t c) s = cmd s t (ifUp (fun x => critAction x c)) := rfl
theorem exec_critRelease (t : Nat) (c : CourseId) (s : State) : exec (.critRelease t c) s = cmd s t (ifUp (fun x => Sys2Proof.Machine.critRelease x c)) := rfl
theorem exec_faultedWordReapply (t : Nat) (s : State) : exec (.faultedWordReapply t) s = cmd s t (ifUp (fun x => reapply x)) := rfl
theorem exec_courseIdle (t : Nat) (c : CourseId) (s : State) : exec (.courseIdle t c) s = cmd s t (ifCrs c (Sys2Proof.Machine.courseIdle)) := rfl
theorem exec_unknownOpcode (t : Nat) (m : MbxId) (s : State) : exec (.unknownOpcode t m) s = cmd s t (ifUp (fun x => cmdUnknown x m)) := rfl

end Sys2Proof.Machine
end

