-- ==== Sys2Proof/Laws/Cmd.lean ====
section
/-! SUPPORT. What holds of every command: its outcome as an effect on the block at its instant, and what the effect on one course leaves
alone. -/

namespace Sys2Proof.Machine

/-- A command that is an effect at its instant completes, in the state that the effect gives. -/
theorem gives_cmd {c : Instr} {s : State} {n : Nat} {f : Sys → Sys} {P : State → Prop} (e : exec c s = cmd s n f)
    (h : P { s with sys := closeCmd (before s n) (f (before s n)) }) : Gives c s P := ⟨_, e, h⟩

theorem before_eq (s : State) (n : Nat) : before s n = startAt s.sys n := rfl
theorem crsBefore_eq (s : State) (n : Nat) (c : CourseId) : crsBefore s n c = cxOf (before s n) c := rfl

theorem ifUp_run {f : Sys → Sys} {x : Sys} (h : closedUp x.z = false) : ifUp f x = f x := by simp [ifUp, h]
theorem ifZ_run {f : Zmc → Nat → Zmc} {x : Sys} (h : closedUp x.z = false) : ifZ f x = { x with z := f x.z x.now } := by simp [ifZ, ifUp, h, onZmc]
theorem ifHome_run {f : Zmc → Nat → Zmc} {x : Sys} (h : homesRun x.z = true) : ifHome f x = { x with z := f x.z x.now } := by simp [ifHome, h, onZmc]

theorem ifCrs_run {f : Cx → Cx} {x : Sys} {c : CourseId} (h : closedUp x.z = false) :
    ifCrs c f x = { x with
      free := (f (cxOf x c)).free
      z := (f (cxOf x c)).z
      crs := modV x.crs c (fun _ => (f (cxOf x c)).c) } := by
  simp [ifCrs, ifUp, h, onCrs, cxOf]

@[simp] theorem startAt_closedUp (x : Sys) (n : Nat) : closedUp (startAt x n).z = closedUp x.z := by simp [closedUp]
@[simp] theorem startAt_homesRun (x : Sys) (n : Nat) : homesRun (startAt x n).z = homesRun x.z := by simp [homesRun]
@[simp] theorem startAt_potrieOn (x : Sys) (n : Nat) : potrieOn (startAt x n).z = potrieOn x.z := by simp [potrieOn]

/-- The end of a command changes what `CloseOnly` lists, and nothing of the courses. -/
theorem closeCmd_only (x y : Sys) : CloseOnly y.z (closeCmd x y).z := by
  obtain ⟨z, k, h⟩ := closeCmd_eq x y; rw [h]; exact k

/-- A row of one course: the course's own effect, the other courses as they were, and the rest of the block up to the command's end. -/
theorem gives_crs {i : Instr} {s : State} {n : Nat} {c : CourseId} {f : Cx → Cx} {P : State → Prop} (e : exec i s = cmd s n (ifCrs c f))
    (hu : closedUp s.sys.z = false)
    (h : ∀ t : State, (crsBefore s n c).n = c → t.sys.crs[c] = (f (crsBefore s n c)).c → CloseOnly (f (crsBefore s n c)).z t.sys.z →
      (∀ d, d ≠ c → t.sys.crs[d] = s.sys.crs[d]) → P t) : Gives i s P := by
  refine gives_cmd e (h _ rfl ?_ ?_ ?_)
  · rw [ifCrs_run (by simpa [before] using hu)]; simp [crsBefore_eq]
  · rw [ifCrs_run (by simpa [before] using hu)]
    exact closeCmd_only (before s n) { before s n with
      free := (f (cxOf (before s n) c)).free
      z := (f (cxOf (before s n) c)).z
      crs := modV (before s n).crs c (fun _ => (f (cxOf (before s n) c)).c) }
  · intro d hd
    rw [ifCrs_run (by simpa [before] using hu)]; simp [before, Ne.symm hd]

/-- A row outside the courses: the effect on the rest of the block up to the command's end; the courses stay. -/
theorem gives_z {i : Instr} {s : State} {n : Nat} {f : Zmc → Nat → Zmc} {P : State → Prop} (e : exec i s = cmd s n (ifZ f))
    (hu : closedUp s.sys.z = false) (h : ∀ t : State, t.sys.crs = s.sys.crs → CloseOnly (f (before s n).z (max s.sys.now n)) t.sys.z → P t) : Gives i s P := by
  refine gives_cmd e (h _ ?_ ?_)
  · rw [ifZ_run (by simpa [before] using hu)]; simp [before]
  · rw [ifZ_run (by simpa [before] using hu)]
    exact closeCmd_only (before s n) { before s n with z := f (before s n).z (before s n).now }

/-- A row of a home or bay. -/
theorem gives_home {i : Instr} {s : State} {n : Nat} {f : Zmc → Nat → Zmc} {P : State → Prop} (e : exec i s = cmd s n (ifHome f))
    (hu : homesRun s.sys.z = true) (h : ∀ t : State, t.sys.crs = s.sys.crs → CloseOnly (f (before s n).z (max s.sys.now n)) t.sys.z → P t) : Gives i s P := by
  refine gives_cmd e (h _ ?_ ?_)
  · rw [ifHome_run (by simpa [before] using hu)]; simp [before]
  · rw [ifHome_run (by simpa [before] using hu)]
    exact closeCmd_only (before s n) { before s n with z := f (before s n).z (before s n).now }

/-! ### What the instant of a command leaves as it was -/

@[simp] theorem crsBefore_setu (s : State) (n : Nat) (c : CourseId) : (crsBefore s n c).z.setu = s.sys.z.setu := startAt_setu ..
@[simp] theorem crsBefore_plumb (s : State) (n : Nat) (c : CourseId) : (crsBefore s n c).z.plumb = s.sys.z.plumb := startAt_plumb ..
@[simp] theorem crsBefore_bond (s : State) (n : Nat) (c : CourseId) : (crsBefore s n c).z.bond = s.sys.z.bond := startAt_bond ..
@[simp] theorem crsBefore_mgt (s : State) (n : Nat) (c : CourseId) : (crsBefore s n c).z.mgt = s.sys.z.mgt := startAt_mgt ..
@[simp] theorem crsBefore_keys (s : State) (n : Nat) (c : CourseId) : (crsBefore s n c).z.keys = s.sys.z.keys := startAt_keys ..
@[simp] theorem crsBefore_dbg (s : State) (n : Nat) (c : CourseId) : (crsBefore s n c).z.dbg = s.sys.z.dbg := startAt_dbg ..
@[simp] theorem crsBefore_boot (s : State) (n : Nat) (c : CourseId) : (crsBefore s n c).z.boot = s.sys.z.boot := startAt_boot ..
@[simp] theorem crsBefore_pwr (s : State) (n : Nat) (c : CourseId) : (crsBefore s n c).z.pwr = s.sys.z.pwr := startAt_pwr ..
@[simp] theorem crsBefore_therm (s : State) (n : Nat) (c : CourseId) : (crsBefore s n c).z.therm = s.sys.z.therm := startAt_therm ..
@[simp] theorem crsBefore_hod (s : State) (n : Nat) (c : CourseId) : (crsBefore s n c).z.hod = s.sys.z.hod := startAt_hod ..
@[simp] theorem crsBefore_pair (s : State) (n : Nat) (c : CourseId) : (crsBefore s n c).z.pair = s.sys.z.pair := startAt_pair ..
@[simp] theorem crsBefore_pkg0 (s : State) (n : Nat) (c : CourseId) : (crsBefore s n c).z.pkg0 = s.sys.z.pkg0 := startAt_pkg0 ..
@[simp] theorem crsBefore_pins (s : State) (n : Nat) (c : CourseId) : (crsBefore s n c).z.pins = s.sys.z.pins := startAt_pins ..
@[simp] theorem crsBefore_liveAt (s : State) (n : Nat) (c : CourseId) : (crsBefore s n c).z.liveAt = s.sys.z.liveAt := startAt_liveAt ..
@[simp] theorem crsBefore_live (s : State) (n : Nat) (c : CourseId) : (crsBefore s n c).z.live = s.sys.z.live := startAt_live ..
@[simp] theorem crsBefore_homes (s : State) (n : Nat) (c : CourseId) : (crsBefore s n c).z.homes = s.sys.z.homes := startAt_homes ..
@[simp] theorem crsBefore_bays (s : State) (n : Nat) (c : CourseId) : (crsBefore s n c).z.bays = s.sys.z.bays := startAt_bays ..
@[simp] theorem crsBefore_cinfo (s : State) (n : Nat) (c : CourseId) : (crsBefore s n c).z.cinfo = s.sys.z.cinfo := startAt_cinfo ..
@[simp] theorem crsBefore_jreq (s : State) (n : Nat) (c : CourseId) : (crsBefore s n c).z.jreq = s.sys.z.jreq := startAt_jreq ..
@[simp] theorem crsBefore_jdat (s : State) (n : Nat) (c : CourseId) : (crsBefore s n c).z.jdat = s.sys.z.jdat := startAt_jdat ..
@[simp] theorem crsBefore_jsts (s : State) (n : Nat) (c : CourseId) : (crsBefore s n c).z.jsts = s.sys.z.jsts := startAt_jsts ..
@[simp] theorem crsBefore_jclr (s : State) (n : Nat) (c : CourseId) : (crsBefore s n c).z.jclr = s.sys.z.jclr := startAt_jclr ..
@[simp] theorem crsBefore_clrs (s : State) (n : Nat) (c : CourseId) : (crsBefore s n c).z.clrs = s.sys.z.clrs := startAt_clrs ..
@[simp] theorem crsBefore_clrNext (s : State) (n : Nat) (c : CourseId) : (crsBefore s n c).z.clrNext = s.sys.z.clrNext := startAt_clrNext ..
@[simp] theorem crsBefore_bus (s : State) (n : Nat) (c : CourseId) : (crsBefore s n c).z.bus = s.sys.z.bus := startAt_bus ..
@[simp] theorem crsBefore_c (s : State) (n : Nat) (c : CourseId) : (crsBefore s n c).c = s.sys.crs[c] := by unfold crsBefore cxOf; simp
@[simp] theorem crsBefore_now (s : State) (n : Nat) (c : CourseId) : (crsBefore s n c).now = max s.sys.now n := rfl

end Sys2Proof.Machine
end

