-- ==== Sys2Proof/Tests/Slice0.lean ====
section
/-! SUPPORT. The model's own tests: the well-formedness checks, and for every statement with hypotheses a state and operands that meet them together,
clause by clause. -/

set_option maxRecDepth 20000
set_option Elab.async false
open Sys2Proof Sys2Proof.Machine
namespace Sys2Proof.Tests

/-- A fabric request of `n` lines for tests. -/
def train (n : Nat) : FabReq := ⟨0, .rdShared, 0, n, 0, 0, 0, 0, 0, 0, false, 0⟩

theorem test_wf_refuses_empty_train : (Instr.fabricRequest 0 (train 0)).wf = false := by decide
theorem test_wf_refuses_long_train : (Instr.fabricRequest 0 (train 5)).wf = false := by decide
theorem test_wf_accepts_train : (Instr.fabricRequest 0 (train 4)).wf = true := by decide
theorem test_wf_refuses_short_sensor_list : (Instr.sensorSample 0 [20]).wf = false := by decide

/-- A released ZMC with sixteen trained courses and Potrie running. -/
def upZ : Zmc :=
  let z := State.reset.sys.z
  { z with
    boot := { z.boot with phase := 7, ready := true }
    mgt := { z.mgt with up := true }
    pair := { z.pair with lvlRun := 7 }
    cinfo := Vector.replicate 16 { trained := true, rate := 8800, ranks := 1, dies := 1, density := 32 } }

/-- That state with changes outside the courses and in every course. -/
def on (f : Zmc → Zmc) (g : CourseSt → CourseSt := id) : State :=
  { State.reset with sys := { State.reset.sys with z := f upZ, crs := Vector.replicate 16 (g {}) } }

/-- Words stored. -/
def put (l : List (Nat × Word)) (z : Zmc) : Zmc := l.foldl (fun z p => putWord z p.1 p.2) z

/-- An interleave record of both homes: 1 GiB on course 0. -/
def mapW : List (Nat × Word) :=
  [0, 1].flatMap (fun h => [(homeBase h + 0x100, 0xC01#32), (homeBase h + 0x110, 0x40000000#32), (homeBase h + 0x118, 0xFFFFFF00#32)])

/-- A range of 16 MiB in use, with quoin_en. -/
def mirW (role : Word) : List (Nat × Word) :=
  [(zmcBase + 0xC00, 0x401#32), (zmcBase + 0xC48, 0x1000000#32), (zmcBase + 0xC54, 1#32), (zmcBase + 0xC58, 2#32 ||| role)]

/-- A request in a home's queue. -/
def hreq (k : ReqKind) (ph : HPh) : HReq :=
  { rid := 7, port := 2, kind := k, crs := 0, line := 0, addr := 0, cls := 1, key := 0, tag := 0, data := 0, poison := false, ph := ph, dueAt := 0, orphan := false, snps := []
    snpData := none, byte := 0, grant := 0, mid := 7, ent := true, sent := false, need := false, spec := none, holdCnt := false, evCnt := false, pinCnt := false, mirror := false }

/-- A request of port 2 at a bay. -/
def qreq (k : ReqKind) : QReq :=
  { rid := 7, port := 2, kind := k, addr := 0, dest := some (0, 0), xmiss := 0, lines := 1, cls := 1, stream := 0, key := 0, tag := 0, data := 0, poison := false, arr := 0, s := 0
    f := 0, waited := false, mirror := false, ent := true }

/-- The state with every port live. -/
def ports (z : Zmc) : Zmc := { z with live := Vector.replicate 24 true, pins := Vector.replicate 24 true }

/-- A request posted in mailbox `m`. -/
def req (m : MbxId) (op : Nat) (ws : List Word) (z : Zmc) (lvl : Nat := 7) : Zmc :=
  let fr := Vector.ofFn (fun i : Fin 16 => (BitVec.ofNat 32 (op + lvl * 65536 + ws.length * 16777216) :: 9#32 :: ws).getD i.val 0)
  { z with mgt := { z.mgt with mbx := z.mgt.mbx.set m { z.mgt.mbx[m] with ph := .posted, req := fr }, ringQ := [m] } }

/-- That request alone. -/
def ask (m : MbxId) (op : Nat) (ws : List Word) (f : Zmc → Zmc := id) : State := on (fun z => req m op ws (f z))

/-- The reference timing set, ratios and tsr_res of course 0. -/
def timW : List (Nat × Word) :=
  (List.range 12).map (fun k => (crsBase 0 + 0x1100 + 4 * k, timWord 8800 32 1 k)) ++ [(crsBase 0 + 0x1020, 0x208#32), (crsBase 0 + 0x1410, 88#32)]

/-- A course with a live link and four DCK to an LCK cycle. -/
def upC : CourseSt := { lk := { st := 2 }, dck := { num := 8, den := 2 } }

/-- A state whose courses are like `c`, course 0 with timing and the words given. -/
def crs (c : CourseSt) (ws : List (Nat × Word) := []) (f : Zmc → Zmc := id) : State :=
  on (fun z => f (put (timW ++ ws.map (fun p => (crsBase 0 + p.1, p.2))) z)) (fun _ => c)

/-- A read of row 0 of bank 0 in its queue. -/
def rq (ent ord : Nat) (ph : QPh) : REnt := ⟨ent, ord, 100 + ord, 0, ⟨0, 0, 0, 0, 0, 0⟩, 2, false, 0, ph, none, false, false⟩

/-- A write of row 0 of bank 0 in its queue. -/
def wq (ent ord : Nat) (ph : QPh) : WEnt := ⟨ent, ord, 100 + ord, 0, ⟨0, 0, 0, 0, 0, 0⟩, 2, false, false, 0, false, 0, 0, ph, none, false⟩

/-- With every port live and the map. -/
def mapped (z : Zmc) : Zmc := ports (put mapW z)

/-- A request has joined the queue of bay `b` alone. -/
def joined (z : Zmc) (t : State) (b : Nat) (addr : BitVec 64) (c : CourseId) (loc : Nat) (k : ReqKind) : Bool :=
  match t.sys.z.bays.toList.findSome? (fun y => y.q.getLast?) with
  | none => false
  | some q =>
      decide (t.sys.z.bays.toList[b]?.map (fun y => y.q) = z.bays.toList[b]?.map (fun y => y.q ++ [q]) ∧ q.port = 20 ∧ q.kind = k ∧ q.addr = addr ∧
        q.dest = some (c, loc) ∧ q.mirror = true ∧ q.cls = 1) && (List.range 12).all (fun e => e == b || decide (t.sys.z.bays.toList[e]? = z.bays.toList[e]?))
/-- Example 8-1: dck_now at LCK 1,000 and 1,001 with the ratio 55/14. -/
theorem test_dck_counts_example_8_1 :
    (({ num := 55, den := 14 } : DckCnt).at 1000).dck = 3928 ∧ (({ num := 55, den := 14 } : DckCnt).at 1001).dck = 3932 := by decide

/-- Example 8-1: cure_dck is 212 at cure_ns 48 and 8,800 MT/s. -/
theorem test_cure_dck_example_8_1 : cureDck (crsBefore (crs upC [(0x1018, 48#32)]) 0 0) = 212 := by decide +kernel

/-- Example 22-1: a system address over 16 ways of 256 bytes. -/
theorem test_map_example_22_1 : ilvMap ⟨16, 8, 0, 0x1F800000000, List.range 16⟩ 0x91A280D640 = (6, 0x91A280D40) := by decide +kernel

/-- Example 22-1: 12 ways of 4 KiB. -/
theorem test_map_twelve_ways_example_22_1 :
    ilvMap ⟨12, 12, 0, 0x1F800000000, [0, 1, 2, 3, 4, 5, 8, 9, 10, 11, 12, 13]⟩ 0x100003000 = (9, 0x15555000) := by decide +kernel

/-- Example 22-1: places of registers in the window. -/
theorem test_register_places_example_22_1 : crsBase 6 + 0x1820 = 0x281820 ∧ bayBase 3 + 0x18 = 0x83018 ∧ crsBase 9 = 0x340000 := by decide

/-- Example 1-1: C5 at 103 °C and Home-N at 78 °C make the widest gap, 25 °C. -/
theorem test_widest_gap_example_1_1 :
    widest upZ ((List.range 25).map (fun i => if i = 5 then 103 else if i = 16 then 78 else 81)) = (25, 5, 16) := by decide +kernel

/-- The course of Example 8-1 in an LCK cycle, with the commands it has committed, one queued read and its bank. -/
def ex81 (cal : List Cmd) (r : REnt) (bank : BankSt) (cyc : Nat) : State :=
  crs { upC with
    dck := { num := 55, den := 14 }
    rdq := [r]
    cal := #v[cal, []]
    banks := [(bankKey 0 0 2 1, bank)]
    othAt := Vector.replicate 2 (some cyc) } [(0x1018, 48#32), (0x1010, 128#32)]

/-- Operations and stamps of the chain that opens the row of a read and reads. -/
def chainOf (s : State) (a : Coord) (cyc : Nat) : Option (List (Nat × Nat)) :=
  let x := crsBefore s (cyc * 75) 0
  (tryCmds x 0 (openRow x a ++ [colCmd a true false 0 (.rd 1) none 2]) 0 (some 128)).map (fun p => p.map (fun (b : Cmd × Nat) => (b.1.op, b.1.stamp)))

/-- Example 8-1, LCK 1,001: ACT 4,148 and RD 4,210. -/
theorem test_page_empty_example_8_1 :
    chainOf (ex81 [] (rq 0 1 .queued) {} 1001) ⟨0, 0, 2, 1, 0x1A2B0, 0⟩ 1001 = some [(1, 4148), (2, 4210)] := by decide +kernel

/-- Example 8-1, LCK 1,007: PRE 4,289, ACT 4,351 and RD 4,413. -/
theorem test_page_conflict_example_8_1 :
    chainOf (ex81 [{ op := 1, sub := 0, lr := 0, bg := 2, bk := 1, arg := 0x1A2B0, stamp := 4148 }, { op := 2, sub := 0, lr := 0, bg := 2, bk := 1, stamp := 4210 },
        { op := 2, sub := 0, lr := 0, bg := 2, bk := 1, stamp := 4232 }] (rq 0 3 .queued) { open_ := some 0x1A2B0, act := 4148, lastCol := 4232 } 1007)
      ⟨0, 0, 2, 1, 0x00F00, 0⟩ 1007 = some [(6, 4289), (1, 4351), (2, 4413)] := by decide +kernel

/-- The hypotheses of every clause of ColdResetStarts can be met. -/
theorem test_cold_reset_starts_met :
    (let s : State := (on (fun z => { z with boot := { z.boot with pwrGood := false } }))
    s.sys.z.boot.pwrGood = false) ∧
    (let s : State := (on id)
    let lowNs : Nat := 1000
    s.sys.z.boot.pwrGood = true ∧ 1000 ≤ lowNs) := by
  refine ⟨?_, ?_⟩ <;> decide +kernel

/-- The hypotheses of every clause of WarmResetKeeps can be met. -/
theorem test_warm_reset_keeps_met :
    (let s : State := (on id)
    let lowNs : Nat := 1000
    s.sys.z.boot.pwrGood = true ∧ s.sys.z.pwr.st ≠ 3 ∧ 1000 ≤ lowNs) ∧
    (let s : State := (on (fun z => { z with pwr := { z.pwr with st := 3 } }))
    (s.sys.z.boot.pwrGood = false ∨ s.sys.z.pwr.st = 3)) := by
  refine ⟨?_, ?_⟩ <;> decide +kernel

/-- The hypotheses of every clause of OffKeepsNothing can be met. -/
theorem test_off_keeps_nothing_met :
    (let s : State := (on id)
    s.sys.z.boot.pwrGood = true) := by
  decide +kernel

/-- The hypotheses of every clause of MgtBistPasses can be met. -/
theorem test_mgt_bist_passes_met :
    (let s : State := (on (fun z => { z with boot := { z.boot with phase := 0 } }))
    let obs : List BistObs := []
    closedUp s.sys.z = false ∧ s.sys.z.boot.phase = 0 ∧ (s.sys.z.boot.lc ≠ 4 ∧ ∀ o ∈ obs, o.rows1 = [] ∧ o.steps = 20 * (memWords o.mem).getD 0 ∧ o.sig = Config.bistRef o.mem 2)) ∧
    (let s : State := (on (fun z => { z with boot := { z.boot with phase := 0, lc := 4 } }))
    closedUp s.sys.z = false ∧ s.sys.z.boot.phase = 0 ∧ s.sys.z.boot.lc = 4) := by
  refine ⟨?_, ?_⟩ <;> decide +kernel

/-- The hypotheses of every clause of ImageBoots can be met. -/
theorem test_image_boots_met :
    (let s : State := (on (fun z => { z with boot := { z.boot with phase := 2 }, mgt := { z.mgt with banks := #v[{ valid := true }, {  }] } }))
    let m := s.sys.z.mgt
    let valid (b : Nat) : Bool := m.banks[toHome b].valid
    closedUp s.sys.z = false ∧ s.sys.z.boot.phase = 2 ∧ valid m.active = true) ∧
    (let s : State := (on (fun z => { z with boot := { z.boot with phase := 2 }, mgt := { z.mgt with banks := #v[{  }, { valid := true }] } }))
    let m := s.sys.z.mgt
    let valid (b : Nat) : Bool := m.banks[toHome b].valid
    closedUp s.sys.z = false ∧ s.sys.z.boot.phase = 2 ∧ valid m.active = false ∧ valid (1 - m.active) = true) ∧
    (let s : State := (on (fun z => { z with boot := { z.boot with phase := 2 }, mgt := { z.mgt with banks := #v[{  }, {  }] } }))
    let m := s.sys.z.mgt
    let valid (b : Nat) : Bool := m.banks[toHome b].valid
    closedUp s.sys.z = false ∧ s.sys.z.boot.phase = 2 ∧ valid m.active = false ∧ valid (1 - m.active) = false) := by
  refine ⟨?_, ?_, ?_⟩ <;> decide +kernel

/-- The hypotheses of every clause of ReleaseSteps can be met. -/
theorem test_release_steps_met :
    (let s : State := (on (fun z => { z with boot := { z.boot with phase := 4 } }))
    closedUp s.sys.z = false ∧ s.sys.z.boot.phase = 4 ∧ potrieOn s.sys.z = true) ∧
    (let s : State := (on (fun z => { z with boot := { z.boot with phase := 5 } }))
    closedUp s.sys.z = false ∧ s.sys.z.boot.phase = 5 ∧ (∀ c, liveCrs s.sys.z c = true → s.sys.z.cinfo[c].trained = true)) ∧
    (let s : State := (on (fun z => { z with boot := { z.boot with phase := 6 } }))
    closedUp s.sys.z = false ∧ s.sys.z.boot.phase = 6) := by
  refine ⟨?_, ?_, ?_⟩ <;> decide +kernel

/-- The hypotheses of every clause of RequestsEnterTheQueue can be met. -/
theorem test_requests_enter_the_queue_met :
    (let s : State := (crs { upC with rdq := [rq 0 1 .queued] } [] (fun z => { z with jreq := Vector.replicate 16 [⟨5, false, 100, 0, false, 2, false, false⟩] }))
    let n : Nat := 7500
    let c : CourseId := 0
    let j : JReq := ⟨5, false, 100, 0, false, 2, false, false⟩
    let l : List JReq := []
    let x := crsBefore s n c
    closedUp s.sys.z = false ∧ crsUp x = true ∧ x.c.lk.st ≠ 4 ∧ x.z.jreq[c] = j :: l ∧ j.write = false ∧ (lowFree 192 (x.c.rdq.map (fun r => r.ent))).isSome = true) ∧
    (let s : State := (crs { upC with wrq := [wq 1 1 .queued] } [] (fun z => { z with jreq := Vector.replicate 16 [⟨5, true, 100, 0, false, 2, false, false⟩] }))
    let n : Nat := 7500
    let c : CourseId := 0
    let j : JReq := ⟨5, true, 100, 0, false, 2, false, false⟩
    let l : List JReq := []
    let x := crsBefore s n c
    closedUp s.sys.z = false ∧ crsUp x = true ∧ x.c.lk.st ≠ 4 ∧ x.z.jreq[c] = j :: l ∧ j.write = true ∧ (lowFree 128 (x.c.wrq.map (fun w => w.ent))).isSome = true) := by
  refine ⟨?_, ?_⟩ <;> decide +kernel

/-- The hypotheses of every clause of FreshReadsAnswerZero can be met. -/
theorem test_fresh_reads_answer_zero_met :
    (let s : State := (crs { upC with fm := { dflt := .fresh } } [(0x2000, 1#32)] (fun z => { z with jreq := Vector.replicate 16 [⟨5, false, 100, 0, false, 2, false, false⟩] }))
    let n : Nat := 7500
    let c : CourseId := 0
    let j : JReq := ⟨5, false, 100, 0, false, 2, false, false⟩
    let l : List JReq := []
    let x := crsBefore s n c
    closedUp s.sys.z = false ∧ crsUp x = true ∧ x.c.lk.st ≠ 4 ∧ x.z.jreq[c] = j :: l ∧ j.write = false ∧ (lowFree 192 (x.c.rdq.map (fun r => r.ent))).isSome = true ∧ freshOn x = true ∧ clearing x (j.line >>> 16) = false ∧ regionOf x (j.line >>> 16) = .fresh ∧ x.c.sr.st = 0) := by
  decide +kernel

/-- The hypotheses of every clause of StampsFreeWrites can be met. -/
theorem test_stamps_free_writes_met :
    (let s : State := (crs { upC with rdq := [rq 0 1 (.committed 8)], wrq := [wq 0 2 (.committed 9), wq 1 3 (.committed 9000)] } [])
    closedUp s.sys.z = false) := by
  decide +kernel

/-- The hypotheses of every clause of ClearsMakeRegionsFresh can be met. -/
theorem test_clears_make_regions_fresh_met :
    (let s : State := (crs { upC with wrq := [wq 0 2 .queued] } [] (fun z => { z with jclr := Vector.replicate 16 [⟨7, 0, 3⟩] }))
    let n : Nat := 7500
    let c : CourseId := 0
    let k : ClrReq := ⟨7, 0, 3⟩
    let l : List ClrReq := []
    let x := crsBefore s n c
    closedUp s.sys.z = false ∧ x.z.jclr[c] = k :: l ∧ x.c.lk.st ≠ 4) ∧
    (let s : State := (crs { upC with clrs := [⟨7, 0, 3, 9⟩], fm := { dflt := .written, ex := [(8, .fresh)] } } [(0x2000, 1#32)])
    let n : Nat := 7500
    let c : CourseId := 0
    let q : ClrSt := ⟨7, 0, 3, 9⟩
    let x := crsBefore s n c
    closedUp s.sys.z = false ∧ x.c.clrs = [q] ∧ clearReady x q = true ∧ x.c.claims = [] ∧ (∀ w ∈ x.c.wrq, w.ph ≠ .held) ∧ (∀ r ∈ x.c.rdq, r.ph ≠ .held)) := by
  refine ⟨?_, ?_⟩ <;> decide +kernel

/-- The hypotheses of every clause of SelectorCommitsTheCandidate can be met. -/
theorem test_selector_commits_the_candidate_met :
    (let s : State := (crs { upC with rdq := [rq 0 1 .queued], othAt := Vector.replicate 2 (some 100) } [])
    let n : Nat := 7500
    let c : CourseId := 0
    let sc : SubId := 0
    let q : Req := ⟨true, 1, 0, ⟨0, 0, 0, 0, 0, 0⟩, false, 0, false, 0, 0, false, 2⟩
    let x := crsBefore s n c
    let y := bgTidy (sendLater (modeStep (probesDone (pruneCal (classify x sc)))) sc)
    let ap := autoPre y (reqsOf y.c) q.at_ q.ord
    closedUp s.sys.z = false ∧ powered x.z c = true ∧ commitOk (probesDone (pruneCal (classify x sc))) = true ∧ x.c.retry[sc].length < 128 ∧ x.c.rb[sc].on = false ∧ x.c.sr.st = 0 ∧ x.c.reqAt[sc] ≠ some x.cyc ∧ x.c.othAt[sc] = some x.cyc ∧ x.c.claims = [] ∧ x.c.redo = [] ∧ x.c.ppr = [] ∧ q.rd = true ∧ (reqsOf y.c).filter (mayServe y sc (reqsOf y.c)) = [q] ∧ (tryCmds y sc (openRow y q.at_ ++ [colCmd q.at_ true ap.1 0 (.rd q.ord) none q.port]) 0 (some (y.f 0x1010 9 0))).isSome = true) := by
  decide +kernel

/-- The hypotheses of every clause of StampsStayInTheWindow can be met. -/
theorem test_stamps_stay_in_the_window_met :
    (let x : Cx := (crsBefore (crs upC []) 7500 0)
    let sc : Fin 2 := 0
    let bs : List Cmd := [{ op := 1, sub := 0, lr := 0 }]
    let cys : List Nat := [100]
    let floor : Nat := 0
    let hz : Option Nat := none
    (tryChain x sc bs cys floor hz).isSome = true) := by
  decide +kernel

/-- The hypotheses of every clause of IdleBanksAndRanks can be met. -/
theorem test_idle_banks_and_ranks_met :
    (let s : State := (crs { upC with banks := [(0, { open_ := some 5 })] } [(0x1000, 0x400#32), (0x1010, 0x103FF#32)])
    let n : Nat := 7500
    let c : CourseId := 0
    let bank : Fin 512 := 0
    let x := crsBefore s n c
    let b := bankAt x.c bank.val
    let sb := toSub (bank.val / 256)
    let lr := bank.val / 32 % 8
    closedUp s.sys.z = false ∧ commitOk x = true ∧ x.f 0x1000 19 10 ≠ 0 ∧ b.open_.isSome = true ∧ x.c.rb[sb].on = false ∧ x.c.sr.st < 2 ∧ x.c.othAt[sb] ≠ some x.cyc ∧ b.lastCol + x.f 0x1000 19 10 * 8 ≤ x.dck ∧ onBank (reqsOf x.c) bank.val = [] ∧ blocked x sb.val lr = false ∧ othChain x sb = none ∧ (tryCmds x sb (pdxFor x sb.val lr ++ [{ op := 6, sub := sb.val, lr := lr, bg := bank.val / 4 % 8, bk := bank.val % 4 }]) 0 (some (x.f 0x1010 9 0))).isSome = true) ∧
    (let s : State := (crs upC [(0x1000, 0x100000#32), (0x1010, 0x103FF#32)])
    let n : Nat := 7500
    let c : CourseId := 0
    let sc : SubId := 0
    let rank : Fin 4 := 0
    let x := crsBefore s n c
    closedUp s.sys.z = false ∧ commitOk x = true ∧ x.f 0x1000 20 20 = 1 ∧ rank.val < pranks x ∧ x.c.pd.contains (sc.val, rank.val) = false ∧ x.c.rb[sc].on = false ∧ x.c.sr.st = 0 ∧ x.c.othAt[sc] ≠ some x.cyc ∧ (reqsOf x.c).any (fun q => q.at_.sub == sc.val && prankOf x q.at_.lr == rank.val) = false ∧ (∀ e ∈ x.c.cal[sc], prankOf x e.lr = rank.val → (isRd e.op || isWrOp e.op) = true → e.stamp ≤ x.dck) ∧ (∀ i ∈ tgtsOf x sc, prankOf x (i % 8) = rank.val → x.c.tgts[toFin 16 (by decide) i].owed = 0) ∧ (tblFind x.c.lastCmd (4 * sc.val + rank.val)).getD 0 + x.f 0x1010 25 16 * 64 ≤ x.dck ∧ othChain x sc = none ∧ (tryCmds x sc [{ op := 14, sub := sc.val, lr := rank.val, arg := 0 }] 0 (some (x.f 0x1010 9 0))).isSome = true) := by
  refine ⟨?_, ?_⟩ <;> decide +kernel

/-- The hypotheses of every clause of AgeForcesDrainIdleAfterMicrosecond can be met. -/
theorem test_age_forces_drain_idle_after_microsecond_met :
    (let s : State := (crs { upC with wrq := [wq 0 1 .queued] } [(0x1008, 0x4000#32)])
    let n : Nat := (2 * tuPerUs)
    let c : CourseId := 0
    let x := crsBefore s n c
    closedUp s.sys.z = false ∧ crsUp x = true ∧ x.c.mode = 0 ∧ x.f 0x1008 21 14 ≠ 0 ∧ (∃ w ∈ x.c.wrq, (w.ph = .queued ∨ w.ph = .held) ∧ w.born + x.f 0x1008 21 14 * tuPerUs < x.now)) ∧
    (let s : State := (crs upC [])
    let n : Nat := tuPerUs
    let c : CourseId := 0
    let x := crsBefore s n c
    closedUp s.sys.z = false ∧ crsUp x = true ∧ x.c.sr.st = 0 ∧ x.c.rdq = [] ∧ x.c.wrq = [] ∧ x.c.emptyAt + tuPerUs ≤ x.now ∧ x.c.sr.demand + tuPerUs ≤ x.now) := by
  refine ⟨?_, ?_⟩ <;> decide +kernel

/-- The hypotheses of every clause of TicksAccrueRefreshes can be met. -/
theorem test_ticks_accrue_refreshes_met :
    (let s : State := (crs { upC with tickSeq := some 5 } [(0x1400, 0x407E80#32)])
    let n : Nat := 7500
    let c : CourseId := 0
    let p : BitVec 16 := 5
    let x := crsBefore s n c
    closedUp s.sys.z = false ∧ powered x.z c = true ∧ x.c.tickSeq = some p) ∧
    (let s : State := (crs { upC with tgts := Vector.replicate 16 { catch_ := true, timer := 0, owed := 1 } } [(0x1400, 0x407E80#32)])
    let n : Nat := 7500
    let c : CourseId := 0
    let i : Fin 16 := 0
    let x := crsBefore s n c
    closedUp s.sys.z = false ∧ x.c.tgts[i].catch_ = true ∧ x.c.tgts[i].timer ≤ x.c.ticks ∧ 1 ≤ x.c.tgts[i].owed ∧ refOn x = true ∧ crsUp x = true ∧ tgtUsed x i.val = true) := by
  refine ⟨?_, ?_⟩ <;> decide +kernel

/-- The hypotheses of every clause of TemperatureReports can be met. -/
theorem test_temperature_reports_met :
    (let s : State := (crs { upC with lk := { st := 2, recs := [BitVec.ofNat 80 (3 * 2 ^ 72 + 2 ^ 70 + 50 * 2 ^ 62)] } } [])
    let n : Nat := 7500
    let c : CourseId := 0
    let x := crsBefore s n c
    closedUp s.sys.z = false ∧ (popRec x [3] 3).isSome = true) ∧
    (let s : State := (crs upC [])
    let n : Nat := (256 * tuPerMs)
    let c : CourseId := 0
    let rank : Fin 4 := 0
    let x := crsBefore s n c
    closedUp s.sys.z = false ∧ crsUp x = true ∧ rank.val < x.info.ranks ∧ x.c.sr.st < 3 ∧ x.c.ranks[rank].stale = false ∧ x.c.ranks[rank].repAt + x.f 0x1408 23 16 * tuPerMs ≤ x.now) := by
  refine ⟨?_, ?_⟩ <;> decide +kernel

/-- The hypotheses of every clause of SelfRefreshRound can be met. -/
theorem test_self_refresh_round_met :
    (let s : State := (crs upC [(0x1410, 0x458#32)])
    let n : Nat := (2 * tuPerUs)
    let c : CourseId := 0
    let x := crsBefore s n c
    closedUp s.sys.z = false ∧ x.f 0x1410 19 10 ≠ 0 ∧ x.c.sr.demand + x.f 0x1410 19 10 * tuPerUs ≤ x.now ∧ crsUp x = true ∧ x.c.sr.st = 0) ∧
    (let s : State := (crs { upC with sr := { st := 1 } } [])
    let n : Nat := 7500
    let c : CourseId := 0
    let x := crsBefore s n c
    let sre (k : Nat) : List Cmd := (List.range (pranks x)).map (fun r => { op := 14, sub := k, lr := r, arg := 2 * 2 ^ 15 })
    let cys := (List.range (pranks x)).map (fun r => if r < 3 then x.cyc else x.cyc + 1)
    closedUp s.sys.z = false ∧ commitOk x = true ∧ quiesced x = true ∧ nextFlit x = x.cyc ∧ min 6 (2 * pranks x) ≤ planRoom x x.cyc ∧ 2 * pranks x - 6 ≤ planRoom x (x.cyc + 1) ∧ (tryChain x 0 (sre 0) cys 0 none).isSome = true ∧ (tryChain x 1 (sre 1) cys 0 none).isSome = true) ∧
    (let s : State := (crs { upC with sr := { st := 2, sre := 10 } } [])
    let n : Nat := 7500
    let c : CourseId := 0
    let x := crsBefore s n c
    closedUp s.sys.z = false ∧ x.c.sr.st = 2 ∧ x.c.sr.sre ≤ x.dck) ∧
    (let s : State := (crs { upC with sr := { st := 5, srx := Vector.replicate 2 (some 10) } } [])
    let n : Nat := 375000
    let c : CourseId := 0
    let x := crsBefore s n c
    let e : Nat := (lastSrx x.c).getD 0
    closedUp s.sys.z = false ∧ x.c.sr.st = 5 ∧ (lastSrx x.c).isSome = true ∧ e + (timOf x).txs ≤ x.dck) := by
  refine ⟨?_, ?_, ?_, ?_⟩ <;> decide +kernel

/-- The hypotheses of every clause of CriticalCourses can be met. -/
theorem test_critical_courses_met :
    (let s : State := (crs { upC with ranks := Vector.replicate 4 { temp := 0x7F#8 } } [])
    let n : Nat := 7500
    let c : CourseId := 0
    let x := before s n
    closedUp s.sys.z = false ∧ bitsOf (thermPol x.z) 1 0 ≠ 0 ∧ liveCrs x.z c = true ∧ potrieOn x.z = true ∧ x.z.boot.phase = 7 ∧ isCrit (crsBefore s n c) = true ∧ tblFind x.z.therm.crit c.val = none) ∧
    (let s : State := (crs upC [] (fun z => { z with therm := { z.therm with crit := [(0, 1)] } }))
    let n : Nat := (2 * tuPerS)
    let c : CourseId := 0
    let since : Nat := 1
    let x := before s n
    closedUp s.sys.z = false ∧ tblFind x.z.therm.crit c.val = some since ∧ since ≠ 0 ∧ since + tuPerS ≤ x.now ∧ potrieOn x.z = true ∧ liveCrs x.z c = true) := by
  refine ⟨?_, ?_⟩ <;> decide +kernel

/-- The hypotheses of every clause of LinkTimeoutsFail can be met. -/
theorem test_link_timeouts_fail_met :
    (let s : State := (crs { upC with lk := { st := 1 } } [])
    let n : Nat := (101 * tuPerMs / 1000)
    let c : CourseId := 0
    let x := crsBefore s n c
    closedUp s.sys.z = false ∧ x.c.lk.st = 1 ∧ x.c.lk.since + (if x.c.lk.fromDown then 100000 else 1500) * tuPerNs < x.now) ∧
    (let s : State := (crs { upC with lk := { st := 3, tries := 2 } } [(0x0800, 0x1000000#32)])
    let n : Nat := (3 * tuPerUs)
    let c : CourseId := 0
    let x := crsBefore s n c
    closedUp s.sys.z = false ∧ x.c.lk.st = 3 ∧ x.c.lk.since + 2 * tuPerUs < x.now ∧ x.f 0x0800 24 23 ≤ x.c.lk.tries + 1) ∧
    (let s : State := (crs { upC with lk := { st := 3 } } [(0x0800, 0x1000000#32)])
    let n : Nat := (3 * tuPerUs)
    let c : CourseId := 0
    let x := crsBefore s n c
    closedUp s.sys.z = false ∧ x.c.lk.st = 3 ∧ x.c.lk.since + 2 * tuPerUs < x.now ∧ x.c.lk.tries + 1 < x.f 0x0800 24 23) ∧
    (let s : State := (crs { upC with lk := { st := 4 } } [])
    let n : Nat := (3 * tuPerUs)
    let c : CourseId := 0
    let x := crsBefore s n c
    closedUp s.sys.z = false ∧ x.c.lk.st = 4 ∧ x.c.lk.since + 2 * tuPerUs < x.now) := by
  refine ⟨?_, ?_, ?_, ?_⟩ <;> decide +kernel

/-- The hypotheses of every clause of LinkMoves can be met. -/
theorem test_link_moves_met :
    (let s : State := (crs { upC with lk := { st := 2, rate := true } } [])
    let n : Nat := 0
    let c : CourseId := 0
    let x := crsBefore s n c
    closedUp s.sys.z = false ∧ x.c.lk.st = 2 ∧ x.c.lk.rate = true ∧ x.c.lk.ends.buf = [] ∧ x.c.plan = []) ∧
    (let s : State := (crs { upC with lk := { st := 2 }, sr := { st := 3 } } [(0x1410, 0x100058#32)])
    let n : Nat := 0
    let c : CourseId := 0
    let x := crsBefore s n c
    closedUp s.sys.z = false ∧ x.c.lk.st = 2 ∧ x.c.sr.st = 3 ∧ x.f 0x1410 20 20 = 1 ∧ x.c.lk.ends.buf = [] ∧ x.c.plan = [] ∧ x.c.lk.mnt.st ≠ 1) ∧
    (let s : State := (crs { upC with lk := { st := 5, slept := true }, sr := { st := 3 } } [])
    let n : Nat := 0
    let c : CourseId := 0
    let x := crsBefore s n c
    closedUp s.sys.z = false ∧ x.c.lk.st = 5 ∧ x.c.lk.slept = true ∧ x.c.lk.stop = false ∧ x.c.sr.st = 3) ∧
    (let s : State := (crs { upC with lk := { st := 5, slept := true, stop := true } } [])
    let n : Nat := 0
    let c : CourseId := 0
    let x := crsBefore s n c
    closedUp s.sys.z = false ∧ x.c.lk.st = 5 ∧ x.c.lk.slept = true ∧ x.c.lk.stop = true) ∧
    (let s : State := (crs { upC with lk := { st := 2 } } [])
    let n : Nat := 7500
    let c : CourseId := 0
    let l : Fin 14 := 0
    let x := crsBefore s n c
    closedUp s.sys.z = false ∧ x.c.lk.st = 2 ∧ l.val < 8 ∧ x.ups.contains l.val = true) ∧
    (let s : State := (crs { upC with lk := { st := 2 } } [])
    let n : Nat := 7500
    let c : CourseId := 0
    let l : Fin 14 := 9
    let x := crsBefore s n c
    closedUp s.sys.z = false ∧ x.c.lk.st = 2 ∧ 8 ≤ l.val ∧ x.dns.contains (l.val - 8) = true) := by
  refine ⟨?_, ?_, ?_, ?_, ?_, ?_⟩ <;> decide +kernel

/-- The hypotheses of every clause of LinkComesBack can be met. -/
theorem test_link_comes_back_met :
    (let s : State := (crs { upC with lk := { st := 1 } } [])
    let n : Nat := 7500
    let c : CourseId := 0
    let x := crsBefore s n c
    closedUp s.sys.z = false ∧ powered x.z c = true ∧ x.c.lk.st = 1 ∧ x.now ≤ x.c.lk.since + (if x.c.lk.fromDown then 100000 else 1500) * tuPerNs) ∧
    (let s : State := (crs { upC with lk := { st := 3 }, cb := { dck := { num := 8, den := 2 } } } [])
    let n : Nat := 7500
    let c : CourseId := 0
    let x := crsBefore s n c
    closedUp s.sys.z = false ∧ powered x.z c = true ∧ x.c.lk.st = 3 ∧ x.now ≤ x.c.lk.since + 2 * tuPerUs ∧ x.c.cb.dck = x.c.dck) ∧
    (let s : State := (crs { upC with lk := { st := 4 }, cb := { dck := { num := 8, den := 2 } } } [])
    let n : Nat := (64 * 75)
    let c : CourseId := 0
    let x := crsBefore s n c
    closedUp s.sys.z = false ∧ x.c.lk.st = 4 ∧ x.c.lk.newAt = none ∧ x.c.lk.since + 64 * x.lck ≤ x.now ∧ x.now ≤ x.c.lk.since + 2 * tuPerUs ∧ x.c.cb.dck = x.c.dck) ∧
    (let s : State := (crs { upC with lk := { st := 7 } } [])
    let n : Nat := 0
    let c : CourseId := 0
    let x := crsBefore s n c
    closedUp s.sys.z = false ∧ x.c.lk.st = 7 ∧ potrieOn x.z = true ∧ x.info.fence = 0 ∧ present x.z.boot.variant c = true) ∧
    (let s : State := (crs { upC with lk := { st := 7 } } [])
    let n : Nat := 0
    let c : CourseId := 0
    let badUp : List (Fin 8) := [0]
    let badDn : List (Fin 6) := []
    let x := crsBefore s n c
    closedUp s.sys.z = false ∧ x.c.lk.st = 7 ∧ potrieOn x.z = true ∧ x.info.fence = 0 ∧ present x.z.boot.variant c = true ∧ (badUp ≠ [] ∨ badDn ≠ []) ∧ (goodGroup (badUp.map (fun l => l.val)) (badDn.map (fun l => l.val))).isSome = true) ∧
    (let s : State := (crs { upC with lk := { st := 7 } } [])
    let n : Nat := 0
    let c : CourseId := 0
    let badUp : List (Fin 8) := [0, 4]
    let badDn : List (Fin 6) := [0, 3]
    let x := crsBefore s n c
    closedUp s.sys.z = false ∧ x.c.lk.st = 7 ∧ potrieOn x.z = true ∧ x.info.fence = 0 ∧ goodGroup (badUp.map (fun l => l.val)) (badDn.map (fun l => l.val)) = none) := by
  refine ⟨?_, ?_, ?_, ?_, ?_, ?_⟩ <;> decide +kernel

/-- The hypotheses of every clause of OneFlitPerCycle can be met. -/
theorem test_one_flit_per_cycle_met :
    (let s : State := (crs { upC with sentAt := some 3 } [])
    let n : Nat := 7500
    let c : CourseId := 0
    let x := crsBefore s n c
    let ready (a : Option Nat) : Bool := match a with | some k => decide (k < x.cyc) | none => true
    closedUp s.sys.z = false ∧ powered x.z c = true ∧ (x.c.lk.st = 2 ∨ x.c.lk.st = 5) ∧ ready x.c.sentAt) ∧
    (let s : State := (crs { upC with lk := { st := 1 } } [])
    let n : Nat := 7500
    let c : CourseId := 0
    let x := crsBefore s n c
    let ready (a : Option Nat) : Bool := match a with | some k => decide (k < x.cyc) | none => true
    closedUp s.sys.z = false ∧ powered x.z c = true ∧ (x.c.lk.st = 1 ∨ x.c.lk.st = 3) ∧ ready x.c.sentAt) ∧
    (let s : State := (crs { upC with sentAt := some 100 } [])
    let n : Nat := 7500
    let c : CourseId := 0
    let x := crsBefore s n c
    closedUp s.sys.z = false ∧ x.c.sentAt = some x.cyc) ∧
    (let s : State := (crs { upC with cb := { down := false } } [])
    let n : Nat := 7500
    let c : CourseId := 0
    let x := crsBefore s n c
    let ready (a : Option Nat) : Bool := match a with | some k => decide (k < x.cyc) | none => true
    closedUp s.sys.z = false ∧ cbLive x = true ∧ ready x.c.cb.sentAt) ∧
    (let s : State := (crs { upC with cb := { down := false, sentAt := some 100 } } [])
    let n : Nat := 7500
    let c : CourseId := 0
    let x := crsBefore s n c
    closedUp s.sys.z = false ∧ x.c.cb.sentAt = some x.cyc) := by
  refine ⟨?_, ?_, ?_, ?_, ?_⟩ <;> decide +kernel

/-- The hypotheses of every clause of FlitsAreReceived can be met. -/
theorem test_flits_are_received_met :
    (let s : State := (crs { upC with lk := { st := 2, up := [pam (upFlit (2 ^ 684))] } } [])
    let n : Nat := 7500
    let c : CourseId := 0
    let eu : UpBits := 0
    let x := crsBefore s n c
    let u : UpBits := (x.c.lk.up).headD 0
    let vu := (scramble 80 x.c.lk.scrRx (pam u ^^^ eu).toNat).2
    closedUp s.sys.z = false ∧ (x.c.lk.up).isEmpty = false ∧ (match rxUp (BitVec.ofNat 800 vu) with | .good g _ _ => decide (1 ≤ slice (g >>> 648) 47 44 ∧ slice (g >>> 648) 47 44 ≤ 3 ∧ slice (g >>> 648) 43 36 = x.c.lk.ends.e) | _ => false) = true) ∧
    (let s : State := (crs { upC with lk := { st := 2, up := [pam (upFlit (2 ^ 684))] } } [])
    let n : Nat := 7500
    let c : CourseId := 0
    let eu : UpBits := 0xFFFF00000000000000FFFF0000000000FFFF000000000FFFF
    let x := crsBefore s n c
    let u : UpBits := (x.c.lk.up).headD 0
    let vu := (scramble 80 x.c.lk.scrRx (pam u ^^^ eu).toNat).2
    closedUp s.sys.z = false ∧ (x.c.lk.st = 2 ∨ x.c.lk.st = 5) ∧ (x.c.lk.up).isEmpty = false ∧ (rxUp (BitVec.ofNat 800 vu) = .fecFail ∨ rxUp (BitVec.ofNat 800 vu) = .crcFail)) ∧
    (let s : State := (crs { upC with lk := { st := 2, dn := [pam (dnFlit (2 ^ 513))] } } [])
    let n : Nat := 7500
    let c : CourseId := 0
    let ed : DnBits := 0
    let x := crsBefore s n c
    let d : DnBits := (x.c.lk.dn).headD 0
    let vd := (scramble 60 x.c.cb.scrRx (pam d ^^^ ed).toNat).2
    closedUp s.sys.z = false ∧ (x.c.lk.dn).isEmpty = false ∧ (match rxDn (BitVec.ofNat 600 vd) with | .good g _ _ => decide (1 ≤ slice (g >>> 492) 23 21 ∧ slice (g >>> 492) 23 21 ≤ 3 ∧ slice (g >>> 492) 20 13 = x.c.cb.ends.e) | _ => false) = true) ∧
    (let s : State := (crs { upC with lk := { st := 2, dn := [pam (dnFlit (2 ^ 513))] } } [])
    let n : Nat := 7500
    let c : CourseId := 0
    let ed : DnBits := 0xFFFF00000000000000FFFF0000000000FFFF000000000FFFF
    let x := crsBefore s n c
    let d : DnBits := (x.c.lk.dn).headD 0
    let vd := (scramble 60 x.c.cb.scrRx (pam d ^^^ ed).toNat).2
    closedUp s.sys.z = false ∧ (x.c.lk.st = 2 ∨ x.c.lk.st = 5) ∧ (x.c.lk.dn).isEmpty = false ∧ (rxDn (BitVec.ofNat 600 vd) = .fecFail ∨ rxDn (BitVec.ofNat 600 vd) = .crcFail)) := by
  refine ⟨?_, ?_, ?_, ?_⟩ <;> decide +kernel

/-- The hypotheses of every clause of LinkTimersRepeat can be met. -/
theorem test_link_timers_repeat_met :
    (let s : State := (crs { upC with lk := { st := 2, ends := { nak := true } } } [])
    let n : Nat := (75 * 2000)
    let c : CourseId := 0
    let x := crsBefore s n c
    let due (e : LEnd) (lim : Nat) : Bool := decide (e.nak = true ∧ e.nakDue = false ∧ e.nakAt + lim ≤ x.cyc)
    closedUp s.sys.z = false ∧ (x.c.lk.st = 2 ∨ x.c.lk.st = 5) ∧ due x.c.lk.ends (x.f 0x0800 10 4)) ∧
    (let s : State := (crs { upC with cb := { down := false, ends := { nak := true } } } [])
    let n : Nat := (75 * 2000)
    let c : CourseId := 0
    let x := crsBefore s n c
    let due (e : LEnd) (lim : Nat) : Bool := decide (e.nak = true ∧ e.nakDue = false ∧ e.nakAt + lim ≤ x.cyc)
    closedUp s.sys.z = false ∧ cbLive x = true ∧ due x.c.cb.ends 64) ∧
    (let s : State := (crs { upC with lk := { st := 2, ends := { buf := [⟨0, ⟨1, 0, 0, 0⟩, 0⟩] } } } [])
    let n : Nat := (75 * 2000)
    let c : CourseId := 0
    let x := crsBefore s n c
    let late (e : LEnd) (lim : Nat) : Bool := match e.buf with | f :: _ => decide (f.at_ + lim ≤ x.cyc ∧ e.rep ≠ e.buf.length) | [] => false
    closedUp s.sys.z = false ∧ (x.c.lk.st = 2 ∨ x.c.lk.st = 5) ∧ late x.c.lk.ends (x.f 0x0800 18 11 * 4)) ∧
    (let s : State := (crs { upC with cb := { down := false, ends := { buf := [⟨0, ⟨1, 0, 0, 0⟩, 0⟩] } } } [])
    let n : Nat := (75 * 2000)
    let c : CourseId := 0
    let x := crsBefore s n c
    let late (e : LEnd) (lim : Nat) : Bool := match e.buf with | f :: _ => decide (f.at_ + lim ≤ x.cyc ∧ e.rep ≠ e.buf.length) | [] => false
    closedUp s.sys.z = false ∧ cbLive x = true ∧ late x.c.cb.ends 256) := by
  refine ⟨?_, ?_, ?_, ?_⟩ <;> decide +kernel

/-- The hypotheses of every clause of AlertsStartRebuilds can be met. -/
theorem test_alerts_start_rebuilds_met :
    (let s : State := (crs { upC with lk := { st := 2, recs := [BitVec.ofNat 80 (2 ^ 72 + 2 ^ 69)] }, retry := Vector.replicate 2 [{ op := 1, sub := 0, lr := 0, stamp := 50 }], banks := [(0, { open_ := some 5 })] } [])
    let n : Nat := 7500
    let c : CourseId := 0
    let x := crsBefore s n c
    let r : BitVec 80 := (x.c.lk.recs).headD 0
    closedUp s.sys.z = false ∧ (x.c.lk.recs).isEmpty = false ∧ recTy r = 1) ∧
    (let s : State := (crs { upC with lk := { st := 2, recs := [BitVec.ofNat 80 (2 * 2 ^ 72 + 2 ^ 69)] }, retry := Vector.replicate 2 [{ op := 1, sub := 0, lr := 0, stamp := 50 }], banks := [(0, { open_ := some 5 })] } [])
    let n : Nat := 7500
    let c : CourseId := 0
    let x := crsBefore s n c
    let r : BitVec 80 := (x.c.lk.recs).headD 0
    closedUp s.sys.z = false ∧ (x.c.lk.recs).isEmpty = false ∧ recTy r = 2) := by
  refine ⟨?_, ?_⟩ <;> decide +kernel

/-- The hypotheses of every clause of AcksAndOverflows can be met. -/
theorem test_acks_and_overflows_met :
    (let s : State := (crs { upC with lk := { st := 2, recs := [BitVec.ofNat 80 (4 * 2 ^ 72 + 60 * 2 ^ 45)] }, retry := Vector.replicate 2 [{ op := 1, sub := 0, lr := 0, stamp := 50 }], banks := [(0, { open_ := some 5 })] } [])
    let n : Nat := 7500
    let c : CourseId := 0
    let x := crsBefore s n c
    let r : BitVec 80 := (x.c.lk.recs).headD 0
    let sub := toSub (slice r.toNat 71 71)
    closedUp s.sys.z = false ∧ (x.c.lk.recs).isEmpty = false ∧ recTy r = 4 ∧ x.c.rb[sub].wait = 0) ∧
    (let s : State := (crs { upC with lk := { st := 2, recs := [BitVec.ofNat 80 (6 * 2 ^ 72 + 50 * 2 ^ 47)] }, outRd := [{ op := 2, sub := 0, lr := 0, stamp := 50, src := .rd 1 }], rdq := [rq 0 1 (.committed 50)] } [])
    let n : Nat := 7500
    let c : CourseId := 0
    let x := crsBefore s n c
    let r : BitVec 80 := (x.c.lk.recs).headD 0
    let b := { op := 2, sub := 0, lr := 0, stamp := 50, src := .rd 1 }
    let o := 1
    closedUp s.sys.z = false ∧ (x.c.lk.recs).isEmpty = false ∧ recTy r = 6 ∧ x.c.outRd.find? (fun b => b.sub == slice r.toNat 71 71 && b.stamp % 2 ^ 24 == slice r.toNat 70 47) = some b ∧ b.src = .rd o) := by
  refine ⟨?_, ?_⟩ <;> decide +kernel

/-- The hypotheses of every clause of MaintenanceEnds can be met. -/
theorem test_maintenance_ends_met :
    (let s : State := (crs { upC with lk := { st := 2, recs := [BitVec.ofNat 80 (5 * 2 ^ 72 + 7 * 2 ^ 64 + 99)], mnt := { st := 1, tag := 7 } } } [])
    let n : Nat := 7500
    let c : CourseId := 0
    let x := crsBefore s n c
    let r : BitVec 80 := (x.c.lk.recs).headD 0
    closedUp s.sys.z = false ∧ (x.c.lk.recs).isEmpty = false ∧ recTy r = 5 ∧ x.c.lk.mnt.st = 1 ∧ x.c.lk.mnt.tag = slice r.toNat 71 64) ∧
    (let s : State := (crs { upC with lk := { st := 2, mnt := { st := 1, tag := 7 } } } [])
    let n : Nat := (20 * tuPerUs)
    let c : CourseId := 0
    let x := crsBefore s n c
    closedUp s.sys.z = false ∧ x.c.lk.mnt.st = 1 ∧ x.c.lk.mnt.at_ + 20 * tuPerUs ≤ x.now) ∧
    (let s : State := (crs { upC with lk := { st := 2, recs := [BitVec.ofNat 80 (7 * 2 ^ 72 + 5 * 2 ^ 56 + 6 * 2 ^ 40)] } } [])
    let n : Nat := 7500
    let c : CourseId := 0
    let x := crsBefore s n c
    let r : BitVec 80 := (x.c.lk.recs).headD 0
    closedUp s.sys.z = false ∧ (x.c.lk.recs).isEmpty = false ∧ recTy r = 7 ∧ x.z.rg.sw = []) := by
  refine ⟨?_, ?_, ?_⟩ <;> decide +kernel

/-- The hypotheses of every clause of ReadDataDecoded can be met. -/
theorem test_read_data_decoded_met :
    (let s : State := (crs { upC with lk := { st := 2, rdata := [(0, 50, 0)] }, outRd := [{ op := 2, sub := 0, lr := 0, stamp := 50, src := .rd 1 }], rdq := [rq 0 1 (.committed 50)] } [])
    let n : Nat := 7500
    let c : CourseId := 0
    let sc : Nat := 0
    let rst : Nat := 50
    let code : Code := 0
    let l : List (Nat × Nat × Code) := []
    let b : Cmd := { op := 2, sub := 0, lr := 0, stamp := 50, src := .rd 1 }
    let o : Nat := 1
    let r : REnt := (rq 0 1 (.committed 50))
    let x := crsBefore s n c
    let v := 0
    closedUp s.sys.z = false ∧ x.c.lk.rdata = (sc, rst, code) :: l ∧ x.c.outRd.find? (fun b => b.sub == sc && b.stamp % 2 ^ 24 == rst) = some b ∧ b.src = .rd o ∧ x.c.rdq.find? (fun r => r.ord == o) = some r ∧ r.ph ≠ .back ∧ (decodeNow x r.line code).1 = .clean v) ∧
    (let s : State := (crs { upC with lk := { st := 2, rdata := [(0, 50, 0x123456789ABCDEF0123456789ABCDEF)] }, outRd := [{ op := 2, sub := 0, lr := 0, stamp := 50, src := .rd 1 }], rdq := [rq 0 1 (.committed 50)] } [])
    let n : Nat := 7500
    let c : CourseId := 0
    let sc : Nat := 0
    let rst : Nat := 50
    let code : Code := 0x123456789ABCDEF0123456789ABCDEF
    let l : List (Nat × Nat × Code) := []
    let b : Cmd := { op := 2, sub := 0, lr := 0, stamp := 50, src := .rd 1 }
    let o : Nat := 1
    let r : REnt := (rq 0 1 (.committed 50))
    let x := crsBefore s n c
    closedUp s.sys.z = false ∧ x.c.lk.rdata = (sc, rst, code) :: l ∧ x.c.outRd.find? (fun b => b.sub == sc && b.stamp % 2 ^ 24 == rst) = some b ∧ b.src = .rd o ∧ x.c.rdq.find? (fun r => r.ord == o) = some r ∧ r.ph ≠ .back ∧ (decodeNow x r.line code).1 = .bad ∧ x.z.mgt.potCyc ≠ x.now / tuSck) := by
  refine ⟨?_, ?_⟩ <;> decide +kernel

/-- The hypotheses of every clause of MaintenanceIsAnswered can be met. -/
theorem test_maintenance_is_answered_met :
    (let s : State := (crs { upC with cb := { down := false, dck := { num := 8, den := 2 }, maint := [⟨1, 7, 0x10, 0, 0⟩] } } [])
    let n : Nat := 7500
    let c : CourseId := 0
    let m : MntReq := ⟨1, 7, 0x10, 0, 0⟩
    let l : List MntReq := []
    let mask : Nat := 0xFF
    let dly : Option (Nat × Nat) := none
    let x := crsBefore s n c
    closedUp s.sys.z = false ∧ x.c.cb.maint = m :: l ∧ m.mop = 1 ∧ cbReg m.addr = some (mask, dly)) ∧
    (let s : State := (crs { upC with cb := { down := false, dck := { num := 8, den := 2 }, maint := [⟨2, 7, 0x10, 0x29, 15⟩] } } [])
    let n : Nat := 7500
    let c : CourseId := 0
    let m : MntReq := ⟨2, 7, 0x10, 0x29, 15⟩
    let l : List MntReq := []
    let mask : Nat := 0xFF
    let x := crsBefore s n c
    closedUp s.sys.z = false ∧ x.c.cb.maint = m :: l ∧ m.mop = 2 ∧ cbReg m.addr = some (mask, none) ∧ m.be = 15) ∧
    (let s : State := (crs { upC with cb := { down := false, dck := { num := 8, den := 2 }, maint := [⟨2, 7, 0xFFFC, 0, 0⟩] } } [])
    let n : Nat := 7500
    let c : CourseId := 0
    let m : MntReq := ⟨2, 7, 0xFFFC, 0, 0⟩
    let l : List MntReq := []
    let x := crsBefore s n c
    closedUp s.sys.z = false ∧ x.c.cb.maint = m :: l ∧ (m.mop = 1 ∨ m.mop = 2) ∧ cbReg m.addr = none) ∧
    (let s : State := (crs { upC with cb := { down := false, dck := { num := 8, den := 2 }, maint := [⟨3, 7, 0x10, 0, 0⟩] } } [])
    let n : Nat := 7500
    let c : CourseId := 0
    let m : MntReq := ⟨3, 7, 0x10, 0, 0⟩
    let l : List MntReq := []
    let x := crsBefore s n c
    closedUp s.sys.z = false ∧ x.c.cb.maint = m :: l ∧ m.mop ≠ 1 ∧ m.mop ≠ 2) := by
  refine ⟨?_, ?_, ?_, ?_⟩ <;> decide +kernel

/-- The hypotheses of every clause of CorbelIssuesAndCaptures can be met. -/
theorem test_corbel_issues_and_captures_met :
    (let s : State := (crs { upC with cb := { down := false, dck := { num := 8, den := 2 }, hold := Vector.replicate 2 [{ op := 1, sub := 0, lr := 0, stamp := 401 }] } } [])
    let n : Nat := 7500
    let c : CourseId := 0
    let sc : SubId := 0
    let b : Cmd := { op := 1, sub := 0, lr := 0, stamp := 401 }
    let x := crsBefore s n c
    closedUp s.sys.z = false ∧ x.c.cb.hold[sc] = [b] ∧ b.stamp < cbDck x (x.cyc + 1)) ∧
    (let s : State := (crs { upC with cb := { down := false, dck := { num := 8, den := 2 }, reads := [⟨0, 0, 300, 5, 0⟩] } } [])
    let n : Nat := 7500
    let c : CourseId := 0
    let sc : SubId := 0
    let r : Burst := ⟨0, 0, 300, 5, 0⟩
    let x := crsBefore s n c
    closedUp s.sys.z = false ∧ x.c.cb.reads.find? (fun r => r.sub == sc.val) = some r ∧ r.stamp + x.cf 0x14 7 0 + 8 ≤ cbDck x x.cyc ∧ x.c.cb.retq.length < rtnDepth c.val) ∧
    (let s : State := (crs { upC with cb := { down := false, dck := { num := 8, den := 2 }, reads := [⟨0, 0, 300, 5, 0⟩], retq := List.replicate 400 ⟨0, 0, 300, 5, 0⟩ } } [])
    let n : Nat := 7500
    let c : CourseId := 0
    let sc : SubId := 0
    let r : Burst := ⟨0, 0, 300, 5, 0⟩
    let x := crsBefore s n c
    closedUp s.sys.z = false ∧ x.c.cb.reads.find? (fun r => r.sub == sc.val) = some r ∧ r.stamp + x.cf 0x14 7 0 + 8 ≤ cbDck x x.cyc ∧ rtnDepth c.val ≤ x.c.cb.retq.length) := by
  refine ⟨?_, ?_, ?_⟩
  · decide +kernel
  · refine ⟨by decide +kernel, by decide +kernel, by decide +kernel, ?_⟩
    exact Nat.lt_of_lt_of_le (show 0 < 96 by decide) (Nat.le_add_right 96 _)
  · refine ⟨by decide +kernel, by decide +kernel, by decide +kernel, ?_⟩
    exact Nat.le_trans (Nat.add_le_add_left (Nat.le_of_lt (Config.rtnExtra _).isLt) 96) (by decide +kernel)

/-- The hypotheses of every clause of AlertDiscardsHeldCommands can be met. -/
theorem test_alert_discards_held_commands_met :
    (let s : State := (crs { upC with cb := { down := false, dck := { num := 8, den := 2 }, reg := [(0x18, 20#32)], hold := Vector.replicate 2 [{ op := 1, sub := 0, lr := 0, stamp := 900 }], unconf := Vector.replicate 2 [{ op := 1, sub := 0, lr := 0, stamp := 401 }] } } [])
    let n : Nat := 7500
    let c : CourseId := 0
    let x := crsBefore s n c
    closedUp s.sys.z = false ∧ x.cf 0x18 6 0 ≠ 0 ∧ x.c.cb.down = false) := by
  decide +kernel

/-- The hypotheses of every clause of CorbelReports can be met. -/
theorem test_corbel_reports_met :
    (let s : State := (crs { upC with cb := { down := false, dck := { num := 8, den := 2 }, conf := [(1, 300)] } } [])
    let n : Nat := 7500
    let c : CourseId := 0
    let sc : SubId := 0
    let e : Fin 4 := 1
    let v : Nat := 300
    let x := crsBefore s n c
    let k := sc.val * 4 + e.val
    closedUp s.sys.z = false ∧ x.c.cb.unconf[(0 : Fin 2)] = [] ∧ x.c.cb.unconf[(1 : Fin 2)] = [] ∧ tblFind x.c.cb.conf k = some v ∧ tblFind x.c.cb.acked k = none ∧ (∀ d : Fin 4, d ≠ e → tblFind x.c.cb.conf (sc.val * 4 + d.val) = none)) ∧
    (let s : State := (crs { upC with cb := { down := false, dck := { num := 8, den := 2 }, reg := [(0x10, 0x29#32)] } } [])
    let n : Nat := (256 * tuPerMs)
    let c : CourseId := 0
    let rank : Fin 4 := 0
    let x := crsBefore s n c
    closedUp s.sys.z = false ∧ x.c.cb.down = false ∧ x.c.cb.asleep = false ∧ rank.val < cbRanks x ∧ x.c.cb.tempAt[rank] + max 1 (x.cf 0x18 18 15) * tuPerMs ≤ x.now) ∧
    (let s : State := (crs { upC with cb := { down := false, dck := { num := 8, den := 2 }, fec := 3 } } [])
    let n : Nat := (65536 * 75)
    let c : CourseId := 0
    let x := crsBefore s n c
    closedUp s.sys.z = false ∧ x.c.cb.down = false ∧ x.c.cb.asleep = false ∧ x.c.cb.statAt + 65536 ≤ x.cyc) ∧
    (let s : State := (crs { upC with cb := { down := false, dck := { num := 8, den := 2 }, sleepRx := true } } [])
    let n : Nat := 7500
    let c : CourseId := 0
    let sc : SubId := 0
    let e : Fin 4 := 1
    let x := crsBefore s n c
    let k := sc.val * 4 + e.val
    closedUp s.sys.z = false ∧ cbLive x = true ∧ (∀ k, x.c.cb.sentAt = some k → k < x.cyc) ∧ sleepReady x = true ∧ x.c.cb.ends.rep = 0) := by
  refine ⟨?_, ?_, ?_, ?_⟩ <;> decide +kernel

/-- The hypotheses of every clause of CorbelActsAlone can be met. -/
theorem test_corbel_acts_alone_met :
    (let s : State := (crs { upC with cb := { down := false, dck := { num := 8, den := 2 }, goodAt := 0 } } [])
    let n : Nat := (2 * tuPerUs)
    let c : CourseId := 0
    let x := crsBefore s n c
    closedUp s.sys.z = false ∧ x.c.cb.down = false ∧ x.c.cb.asleep = false ∧ x.c.cb.sleepRx = false ∧ x.c.cb.safe = false ∧ x.c.lk.st ≠ 4 ∧ x.c.cb.goodAt + 2 * tuPerUs ≤ x.now) ∧
    (let s : State := (crs { upC with cb := { down := false, dck := { num := 8, den := 2 }, pend := Vector.replicate 2 0x33 } } [])
    let n : Nat := 7500
    let c : CourseId := 0
    let sc : SubId := 0
    let rank : Fin 4 := 0
    let x := crsBefore s n c
    closedUp s.sys.z = false ∧ x.c.cb.pend[sc].testBit rank.val = true ∧ x.c.cb.pend[sc].testBit (rank.val + 4) = true ∧ x.c.cb.hold[sc] = [] ∧ x.c.cb.iss[sc] = []) := by
  refine ⟨?_, ?_⟩ <;> decide +kernel

/-- The hypotheses of every clause of CheckersStop can be met. -/
theorem test_checkers_stop_met :
    (let s : State := (crs { upC with tr := { left := 1 } } [(0x2400, 0x21#32)])
    let n : Nat := 7500
    let c : CourseId := 0
    let x := crsBefore s n c
    closedUp s.sys.z = false ∧ x.f 0x2400 0 0 = 1 ∧ x.f 0x2400 12 5 ≠ 0 ∧ x.f 0x2400 12 5 ≤ x.c.tr.left) ∧
    (let s : State := (crs { upC with tr := { dwell := 4096 } } [(0x0580, 3#32)])
    let n : Nat := 7500
    let c : CourseId := 0
    let x := crsBefore s n c
    closedUp s.sys.z = false ∧ x.f 0x0580 0 0 = 1 ∧ x.f 0x0580 9 1 ≠ 0 ∧ x.f 0x0580 9 1 * 4096 ≤ x.c.tr.dwell) ∧
    (let s : State := (crs { upC with cb := { down := false, dck := { num := 8, den := 2 }, dwell := 4096, reg := [(0x280, 3#32)] } } [])
    let n : Nat := 7500
    let c : CourseId := 0
    let x := crsBefore s n c
    closedUp s.sys.z = false ∧ x.cf 0x280 0 0 = 1 ∧ x.cf 0x280 9 1 ≠ 0 ∧ x.cf 0x280 9 1 * 4096 ≤ x.c.cb.dwell) := by
  refine ⟨?_, ?_, ?_⟩ <;> decide +kernel

/-- The hypotheses of every clause of RecentringMovesOneStep can be met. -/
theorem test_recentring_moves_one_step_met :
    (let s : State := (crs upC [])
    let n : Nat := 7500
    let c : CourseId := 0
    let i : Fin 16 := 0
    let x := crsBefore s n c
    closedUp s.sys.z = false ∧ potrieOn x.z = true ∧ tgtUsed x i.val = true ∧ crsUp x = true ∧ x.c.lk.st = 2) ∧
    (let s : State := (crs { upC with tr := { probes := [⟨0, 300, true, true⟩] } } [])
    let n : Nat := 7500
    let c : CourseId := 0
    let i : Fin 16 := 0
    let p : Probe := ⟨0, 300, true, true⟩
    let x := crsBefore s n c
    closedUp s.sys.z = false ∧ x.c.tr.probes.find? (fun p => p.i == i.val) = some p ∧ potrieOn x.z = true ∧ p.done = true ∧ x.c.outRd = [] ∧ p.bad = true) ∧
    (let s : State := (crs { upC with tr := { probes := [⟨0, 300, false, true⟩] } } [])
    let n : Nat := 7500
    let c : CourseId := 0
    let i : Fin 16 := 0
    let p : Probe := ⟨0, 300, false, true⟩
    let k : ProbeCount := ⟨0, 9, 3⟩
    let x := crsBefore s n c
    closedUp s.sys.z = false ∧ x.c.tr.probes.find? (fun p => p.i == i.val) = some p ∧ potrieOn x.z = true ∧ p.done = true ∧ x.c.outRd = [] ∧ p.bad = false ∧ x.f 0x2440 26 16 = 0 ∧ prankOf x (i.val % 8) < 4 ∧ k.right + 4 ≤ k.left ∧ k.right < 32) := by
  refine ⟨?_, ?_, ?_⟩ <;> decide +kernel

/-- The hypotheses of every clause of LanesAreWatched can be met. -/
theorem test_lanes_are_watched_met :
    (let s : State := (crs { upC with tr := { badL := [(0, 1)] } } [])
    let n : Nat := 7500
    let c : CourseId := 0
    let l : Fin 8 := 0
    let e : Nat := 70
    let x := crsBefore s n c
    closedUp s.sys.z = false ∧ potrieOn x.z = true ∧ x.c.lk.st = 2 ∧ crsUp x = true ∧ x.ups.contains l.val = true ∧ 65 < e ∧ x.c.lk.goal = none ∧ (∀ p ∈ x.c.tr.badL, p.2 < 3) ∧ tblGet 0 x.c.tr.badL l.val < 2) ∧
    (let s : State := (crs { upC with tr := { badL := [(0, 2)] } } [])
    let n : Nat := 7500
    let c : CourseId := 0
    let l : Fin 8 := 0
    let e : Nat := 70
    let x := crsBefore s n c
    closedUp s.sys.z = false ∧ potrieOn x.z = true ∧ x.c.lk.st = 2 ∧ crsUp x = true ∧ x.ups.contains l.val = true ∧ 65 < e ∧ x.c.lk.goal = none ∧ (∀ p ∈ x.c.tr.badL, p.2 < 3) ∧ tblGet 0 x.c.tr.badL l.val = 2) := by
  refine ⟨?_, ?_⟩ <;> decide +kernel

/-- The hypotheses of every clause of PointingWalksItsLap can be met. -/
theorem test_pointing_walks_its_lap_met :
    (let s : State := (crs upC [(0x1900, 1#32), (0x1010, 0x103FF#32)])
    let n : Nat := 7500
    let c : CourseId := 0
    let x := crsBefore s n c
    let p := ptNext x (regionCount x + 1) x.c.pt.pos
    closedUp s.sys.z = false ∧ commitOk x = true ∧ x.c.sr.st = 0 ∧ x.c.pt.out.length < 4 ∧ x.f 0x1900 0 0 = 1 ∧ ptQueued x = [] ∧ (∀ a, x.c.pt.lastAt = some a → a + x.f 0x1900 16 1 * 16 * tuPerNs ≤ x.now) ∧ ptHeld x p = false ∧ p + 1 < lineCount x ∧ (ptRead x p none).isSome = true) ∧
    (let s : State := (crs { upC with pt := { ran := 3 * tuPerS } } [(0x1908, 2#32)])
    let n : Nat := 7500
    let c : CourseId := 0
    let x := crsBefore s n c
    closedUp s.sys.z = false ∧ x.f 0x1908 31 0 ≠ 0 ∧ x.f 0x1908 31 0 < lapAge x / tuPerS ∧ x.c.pt.ovr = false ∧ crsUp x = true) ∧
    (let s : State := (crs { upC with pt := { ovr := true } } [])
    let n : Nat := 7500
    let c : CourseId := 0
    let x := crsBefore s n c
    closedUp s.sys.z = false ∧ x.c.pt.ovr = true) := by
  refine ⟨?_, ?_, ?_⟩ <;> decide +kernel

/-- The hypotheses of every clause of TrackerEntriesEnd can be met. -/
theorem test_tracker_entries_end_met :
    (let s : State := (crs { upC with rpt := Vector.replicate 64 { st := 1 } } [(0x1A00, 0x21#32)])
    let n : Nat := (3600 * tuPerS)
    let c : CourseId := 0
    let e : Fin 64 := 0
    let x := crsBefore s n c
    closedUp s.sys.z = false ∧ rptOn x = true ∧ (x.c.rpt[e].st = 1 ∨ x.c.rpt[e].st = 3) ∧ x.f 0x1A00 12 5 ≠ 0 ∧ x.c.rpt[e].corr + x.f 0x1A00 12 5 * 3600 * tuPerS ≤ x.now) ∧
    (let s : State := (crs { upC with rpt := Vector.replicate 64 { st := 4, devs := 1, evt := some [1] } } [(0x1808, 0x80#32)])
    let n : Nat := 7500
    let c : CourseId := 0
    let e : Fin 64 := 0
    let ws : List Word := [1]
    let d : Nat := 0
    let x := crsBefore s n c
    let a := coordOf x x.c.rpt[e].line
    closedUp s.sys.z = false ∧ x.c.rpt[e].st = 4 ∧ x.c.rpt[e].evt = some ws ∧ potrieOn x.z = true ∧ (∀ d ∈ List.range 10, x.c.rpt[e].devs.testBit d = true → markOf x (prankOf x a.lr) a.sub = some d)) ∧
    (let s : State := (crs { upC with rpt := Vector.replicate 64 { st := 4, devs := 1, evt := some [1] } } [])
    let n : Nat := 7500
    let c : CourseId := 0
    let e : Fin 64 := 0
    let ws : List Word := [1]
    let d : Nat := 0
    let x := crsBefore s n c
    let a := coordOf x x.c.rpt[e].line
    closedUp s.sys.z = false ∧ x.c.rpt[e].st = 4 ∧ x.c.rpt[e].evt = some ws ∧ potrieOn x.z = true ∧ markOf x (prankOf x a.lr) a.sub = none ∧ (List.range 10).filter (fun d => x.c.rpt[e].devs.testBit d) = [d] ∧ repairPol x.z &&& 3#32 = 0#32) := by
  refine ⟨?_, ?_, ?_⟩ <;> decide +kernel

/-- The hypotheses of every clause of PortsComeAndGo can be met. -/
theorem test_ports_come_and_go_met :
    (let s : State := (on id)
    let p : PortId := 2
    closedUp s.sys.z = false ∧ p.val < 20) ∧
    (let s : State := (on (fun z => ports { z with homes := Vector.replicate 2 { z.homes[(0 : Fin 2)] with hrq := [hreq .rdCur .mem] } }))
    let p : PortId := 2
    closedUp s.sys.z = false ∧ p.val < 20) ∧
    (let s : State := (on id)
    let p : PortId := 22
    closedUp s.sys.z = false ∧ 21 ≤ p.val) ∧
    (let s : State := (on (fun z => ports z))
    let p : PortId := 22
    closedUp s.sys.z = false ∧ 21 ≤ p.val) := by
  refine ⟨?_, ?_, ?_, ?_⟩ <;> decide +kernel

/-- The hypotheses of every clause of RequestsAreQueued can be met. -/
theorem test_requests_are_queued_met :
    (let s : State := (on mapped)
    let n : Nat := 0
    let r : FabReq := ⟨2, .rdCur, 0x40, 1, 1, 0, 0, 0, 7, 0, false, 0⟩
    let z := (before s n).z
    let h := bayHome r.bay
    let ctl := wordAt z (homeBase h.val + 0x1400 + 0x20 * r.port.val)
    let dest : Option (CourseId × Nat) := if trainCrosses r then none else decodeAddr z h r.addr.toNat
    let b : BayId := match dest with | some (c, _) => bayOf c | none => r.bay
    r.wf = true ∧ homesRun s.sys.z = true ∧ r.port.val < 20 ∧ mirFind z 1 r.addr.toNat = none ∧ mayRequest z r.port b = true ∧ bitsOf ctl 0 0 = 0 ∧ bitsOf ctl 4 4 = 0) ∧
    (let s : State := (on (fun z => mapped { z with bays := Vector.replicate 8 { q := List.replicate 512 (qreq .rdCur) } }))
    let n : Nat := 0
    let r : FabReq := ⟨2, .rdCur, 0x40, 1, 1, 0, 0, 0, 7, 0, false, 0⟩
    let z := (before s n).z
    let h := bayHome r.bay
    let dest := if trainCrosses r then none else decodeAddr z h r.addr.toNat
    let b := match dest with | some (c, _) => bayOf c | none => r.bay
    r.wf = true ∧ homesRun s.sys.z = true ∧ r.port.val < 20 ∧ mirFind z 1 r.addr.toNat = none ∧ mayRequest z r.port b = false) := by
  refine ⟨?_, ?_⟩ <;> decide +kernel

/-- The hypotheses of every clause of LoneReadIsGranted can be met. -/
theorem test_lone_read_is_granted_met :
    (let s : State := (on (fun z => ports { z with bays := Vector.replicate 8 { q := [qreq .rdCur] } }))
    let n : Nat := 100000
    let b : BayId := 0
    let r : QReq := (qreq .rdCur)
    let z := (before s n).z
    let k := fckCyc (before s n).now
    homesRun s.sys.z = true ∧ bayRuns z b = true ∧ z.bays[b].ran = none ∧ z.bays[b].next = none ∧ z.bays[b].data = [] ∧ z.bays[b].q = [r] ∧ fckCyc r.arr < k ∧ liveAtCyc z k r.port = true ∧ r.port.val ≠ 22 ∧ r.lines = 1 ∧ isWr r.kind = false ∧ headOk z (bayHome b) k (k + 1) r = true ∧ crsRoom z r.dest false 1 = true) ∧
    (let s : State := (on (fun z => ports { z with bays := Vector.replicate 8 { ran := some (fckCyc 100000) } }))
    let n : Nat := 100000
    let b : BayId := 0
    let z := (before s n).z
    let k := fckCyc (before s n).now
    homesRun s.sys.z = true ∧ bayRuns z b = true ∧ z.bays[b].ran = some k) := by
  refine ⟨?_, ?_⟩ <;> decide +kernel

/-- The hypotheses of every clause of PatternSwapsAsAWhole can be met. -/
theorem test_pattern_swaps_as_a_whole_met :
    (let s : State := (on (fun z => ports { z with bays := Vector.replicate 8 { armed := some (List.replicate 16 0x01020304#32, 3) } }))
    let n : Nat := (70 * tuFck)
    let b : BayId := 0
    let ws : List Word := List.replicate 16 0x01020304#32
    let at_ : Nat := 3
    let z := (before s n).z
    let k := fckCyc (before s n).now
    homesRun s.sys.z = true ∧ z.bays[b].armed = some (ws, at_) ∧ bayThere z b = true ∧ at_ + 2 ≤ k / 64 * 64) ∧
    (let s : State := (on (fun z => ports { z with bays := Vector.replicate 8 { armed := some (List.replicate 16 0x01020304#32, 63) } }))
    let n : Nat := (70 * tuFck)
    let b : BayId := 0
    let ws : List Word := List.replicate 16 0x01020304#32
    let at_ : Nat := 63
    let z := (before s n).z
    let k := fckCyc (before s n).now
    homesRun s.sys.z = true ∧ z.bays[b].armed = some (ws, at_) ∧ (bayThere z b = false ∨ k / 64 * 64 < at_ + 2)) := by
  refine ⟨?_, ?_⟩ <;> decide +kernel

/-- The hypotheses of every clause of BucketsAreRefilled can be met. -/
theorem test_buckets_are_refilled_met :
    (let s : State := (on (fun z => { z with homes := Vector.replicate 2 { z.homes[(0 : Fin 2)] with bkt := [(3, { tok := -5, rate := 9, wheel := some 0 })] } }))
    let n : Nat := (2 * tuPerUs)
    let h : HomeId := 0
    let z := (before s n).z
    homesRun s.sys.z = true ∧ z.homes[h].sweepAt + tuPerUs ≤ (before s n).now) ∧
    (let s : State := (on (fun z => { z with homes := Vector.replicate 2 { z.homes[(0 : Fin 2)] with bkt := [(3, { tok := -5, rate := 9, wheel := some 0 })] } }))
    homesRun s.sys.z = true) := by
  refine ⟨?_, ?_⟩ <;> decide +kernel

/-- The hypotheses of every clause of GateListsRun can be met. -/
theorem test_gate_lists_run_met :
    (let s : State := (on (fun z => { z with homes := Vector.replicate 2 { z.homes[(0 : Fin 2)] with gates := Vector.replicate 8 { armed := some ⟨0, [(100, 15), (100, 7)], [0, 0, 0, 0], 0, 0, 0⟩ } } }))
    let n : Nat := (200 * tuPerNs)
    let c : CourseId := 0
    let g : GList := ⟨0, [(100, 15), (100, 7)], [0, 0, 0, 0], 0, 0, 0⟩
    let z := (before s n).z
    let ns := locNs z c (before s n).now
    let gt := z.homes[homeOf c].gates[crsIdx c]
    homesRun s.sys.z = true ∧ gt.armed = some g ∧ g.start ≤ ns) ∧
    (let s : State := (on (fun z => { z with homes := Vector.replicate 2 { z.homes[(0 : Fin 2)] with gates := Vector.replicate 8 { again := some ⟨0, [(100, 15), (100, 7)], [0, 0, 0, 0], 0, 0, 0⟩, rsync := true } } }))
    let n : Nat := (200 * tuPerNs)
    let c : CourseId := 0
    let g : GList := ⟨0, [(100, 15), (100, 7)], [0, 0, 0, 0], 0, 0, 0⟩
    let z := (before s n).z
    let ns := locNs z c (before s n).now
    let gt := z.homes[homeOf c].gates[crsIdx c]
    homesRun s.sys.z = true ∧ gt.armed = none ∧ gt.again = some g ∧ g.start ≤ ns) ∧
    (let s : State := (on (fun z => { z with homes := Vector.replicate 2 { z.homes[(0 : Fin 2)] with gates := Vector.replicate 8 { list := some ⟨0, [(100, 15), (100, 7)], [0, 0, 0, 0], 0, 0, 0⟩, endAt := 100 } } }))
    let n : Nat := (200 * tuPerNs)
    let c : CourseId := 0
    let g : GList := ⟨0, [(100, 15), (100, 7)], [0, 0, 0, 0], 0, 0, 0⟩
    let z := (before s n).z
    let ns := locNs z c (before s n).now
    let gt := z.homes[homeOf c].gates[crsIdx c]
    homesRun s.sys.z = true ∧ gt.list = some g ∧ gt.endAt ≤ ns ∧ gt.ovr = none ∧ gt.rsync = false ∧ gt.late = [] ∧ gt.anchor = false) ∧
    (let s : State := (on (fun z => { z with homes := Vector.replicate 2 { z.homes[(0 : Fin 2)] with gates := Vector.replicate 8 { list := some ⟨0, [(100, 15), (100, 7)], [0, 0, 0, 0], 0, 0, 0⟩, endAt := 100, anchor := true } } }))
    let n : Nat := (200 * tuPerNs)
    let c : CourseId := 0
    let g : GList := ⟨0, [(100, 15), (100, 7)], [0, 0, 0, 0], 0, 0, 0⟩
    let z := (before s n).z
    let ns := locNs z c (before s n).now
    let gt := z.homes[homeOf c].gates[crsIdx c]
    homesRun s.sys.z = true ∧ gt.list = some g ∧ gt.endAt ≤ ns ∧ gt.ovr = none ∧ gt.rsync = false ∧ gt.late = [] ∧ gt.anchor = true) ∧
    (let s : State := (on (fun z => { z with homes := Vector.replicate 2 { z.homes[(0 : Fin 2)] with gates := Vector.replicate 8 { list := some ⟨0, [(100, 15), (100, 7)], [0, 0, 0, 0], 0, 0, 0⟩, endAt := 100 } } }))
    let n : Nat := (200 * tuPerNs)
    let c : CourseId := 0
    let cls : Fin 4 := 3
    let g : GList := ⟨0, [(100, 15), (100, 7)], [0, 0, 0, 0], 0, 0, 0⟩
    let z := (before s n).z
    let ns := locNs z c (before s n).now
    let gt := z.homes[homeOf c].gates[crsIdx c]
    let x : Nat := (lintelAt gt cls).getD 0
    homesRun s.sys.z = true ∧ gt.list = some g ∧ g.opens gt.ent cls = true ∧ (lintelAt gt cls).isSome = true ∧ x ≤ ns ∧ cls ∉ gt.lint) ∧
    (let s : State := (on (fun z => { z with homes := Vector.replicate 2 { z.homes[(0 : Fin 2)] with gates := Vector.replicate 8 { list := some ⟨0, [(100, 15), (100, 7)], [0, 0, 0, 0], 0, 0, 0⟩, endAt := 100, late := [⟨7, 3⟩] } } }))
    let n : Nat := (200 * tuPerNs)
    let c : CourseId := 0
    let g : GList := ⟨0, [(100, 15), (100, 7)], [0, 0, 0, 0], 0, 0, 0⟩
    let z := (before s n).z
    let ns := locNs z c (before s n).now
    let gt := z.homes[homeOf c].gates[crsIdx c]
    homesRun s.sys.z = true ∧ gt.list = some g ∧ gt.endAt ≤ ns ∧ gt.ovr = none ∧ gt.rsync = false ∧ gt.late.any (fun l => (closing gt g).contains l.cls) = true) ∧
    (let s : State := (on (fun z => { z with homes := Vector.replicate 2 { z.homes[(0 : Fin 2)] with gates := Vector.replicate 8 { list := some ⟨0, [(100, 15), (100, 7)], [0, 0, 0, 0], 0, 0, 0⟩, endAt := 100, ovr := some ([3], 100) } } }))
    let n : Nat := (200 * tuPerNs)
    let c : CourseId := 0
    let x : Nat := 100
    let cl : List (Fin 4) := [3]
    let z := (before s n).z
    let gt := z.homes[homeOf c].gates[crsIdx c]
    homesRun s.sys.z = true ∧ gt.ovr = some (cl, x) ∧ gt.late.any (fun l => cl.contains l.cls) = false) := by
  refine ⟨?_, ?_, ?_, ?_, ?_, ?_, ?_⟩ <;> decide +kernel

/-- The hypotheses of every clause of HomesSampleAndLatch can be met. -/
theorem test_homes_sample_and_latch_met :
    (let s : State := (on id)
    homesRun s.sys.z = true) ∧
    (let s : State := (on (fun z => put [(homeBase 0 + 0x1A00, 1#32), (homeBase 0 + 0x3C00, 1#32)] { z with homes := Vector.replicate 2 { z.homes[(0 : Fin 2)] with latNew := [(3, 5)] } }))
    let n : Nat := tuPerUs
    let h : HomeId := 0
    let z := (before s n).z
    let now := (before s n).now
    homesRun s.sys.z = true ∧ stepDue z h now z.homes[h].latAt (getF z (homeBase h.val + 0x1A00) 9 0) = true) ∧
    (let s : State := (on (fun z => put [(homeBase 0 + 0x1A00, 1#32), (homeBase 0 + 0x3C00, 1#32)] { z with homes := Vector.replicate 2 { z.homes[(0 : Fin 2)] with latNew := [(3, 5)] } }))
    let n : Nat := tuPerUs
    let h : HomeId := 0
    let z := (before s n).z
    let now := (before s n).now
    homesRun s.sys.z = true ∧ z.hod.frozen = false ∧ stepDue z h now z.homes[h].bwAt (getF z (homeBase h.val + 0x3C00) 15 0) = true) := by
  refine ⟨?_, ?_, ?_⟩ <;> decide +kernel

/-- The hypotheses of every clause of LookupsProceed can be met. -/
theorem test_lookups_proceed_met :
    (let s : State := (on (fun z => mapped { z with homes := Vector.replicate 2 { z.homes[(0 : Fin 2)] with hrq := [hreq .rdCur .look], dir := [(16 * (dirIdx 0 0).1, { tag := (dirIdx 0 0).2, bytes := Vector.replicate 4 0, dirty := false, pend := false })] } }))
    let n : Nat := 7500
    let h : HomeId := 0
    let r : HReq := (hreq .rdCur .look)
    let z := (before s n).z
    let e : DirEnt := ((dirEntry z.homes[h] r.crs r.line).getD (0, { tag := (dirIdx 0 0).2, bytes := Vector.replicate 4 0, dirty := false, pend := false })).2
    homesRun s.sys.z = true ∧ z.homes[h].hrq = [r] ∧ homeOf r.crs = h ∧ z.homes[h].holds = [] ∧ mayLook z (before s n).now r = true ∧ r.mirror = false ∧ r.orphan = false ∧ r.port.val < 21 ∧ z.cinfo[r.crs].fence = 0 ∧ powered z r.crs = true ∧ mirFind z 0 r.addr.toNat = none ∧ r.kind = .rdCur ∧ r.sent = false ∧ r.spec = none ∧ (r.ent = true ∨ z.homes[h].rdFree[crsIdx r.crs] ≠ 0) ∧ (dirEntry z.homes[h] r.crs r.line).isSome = true ∧ e.pend = false ∧ e.bytes[toFin 4 (by decide) (r.line % 4)] = 0) ∧
    (let s : State := (on (fun z => mapped { z with homes := Vector.replicate 2 { z.homes[(0 : Fin 2)] with hrq := [hreq .rdCur .look] }, cinfo := Vector.replicate 16 { fence := 3 } }))
    let n : Nat := 7500
    let h : HomeId := 0
    let r : HReq := (hreq .rdCur .look)
    let z := (before s n).z
    homesRun s.sys.z = true ∧ z.homes[h].hrq = [r] ∧ homeOf r.crs = h ∧ z.homes[h].holds = [] ∧ mayLook z (before s n).now r = true ∧ r.mirror = false ∧ r.orphan = false ∧ r.port.val < 21 ∧ z.cinfo[r.crs].fence ≠ 0 ∧ mirFind z 0 r.addr.toNat = none ∧ isWr r.kind = false) := by
  refine ⟨?_, ?_⟩ <;> decide +kernel

/-- The hypotheses of every clause of FootingDrains can be met. -/
theorem test_footing_drains_met :
    (let s : State := (on (fun z => { z with homes := Vector.replicate 2 { z.homes[(0 : Fin 2)] with ftgs := [⟨5, 0, 77, 0, some (8, false)⟩], fwb := [⟨0, 77, 3, 9, 1, 0⟩] } }))
    let n : Nat := 7500
    let h : HomeId := 0
    let f : FtgRd := ⟨5, 0, 77, 0, some (8, false)⟩
    let d : Line := 8
    let z := (before s n).z
    let m := z.homes[h]
    homesRun s.sys.z = true ∧ m.ftgs.find? (fun f => f.got.isSome) = some f ∧ f.got = some (d, false) ∧ f.rid = 0) ∧
    (let s : State := (on (fun z => { z with homes := Vector.replicate 2 { z.homes[(0 : Fin 2)] with fwb := [⟨0, 77, 3, 9, 2, 0⟩] } }))
    let n : Nat := 7500
    let h : HomeId := 0
    let w : Fwb := ⟨0, 77, 3, 9, 2, 0⟩
    let z := (before s n).z
    let m := z.homes[h]
    homesRun s.sys.z = true ∧ m.fwb.find? (fun x => x.drain == 2 && decide (0 < m.wrFree[crsIdx x.crs])) = some w ∧ homeOf w.crs = h ∧ powered z w.crs = true) ∧
    (let s : State := (on (fun z => { z with homes := Vector.replicate 2 { z.homes[(0 : Fin 2)] with fwb := [⟨0, 77, 3, 9, 0, 0⟩] } }))
    let n : Nat := 7500
    let h : HomeId := 0
    let w : Fwb := ⟨0, 77, 3, 9, 0, 0⟩
    let z := (before s n).z
    let m := z.homes[h]
    let running := m.fwb.filter (fun x => x.drain != 0)
    homesRun s.sys.z = true ∧ m.fwb.find? (fun x => x.drain == 2 && decide (0 < m.wrFree[crsIdx x.crs])) = none ∧ running.length < 4 ∧ m.fwb.find? (fun x => x.drain == 0 && !running.any (fun y => y.crs == x.crs && y.ftg == x.ftg) && z.cinfo[x.crs].fence == 0 && decide (0 < m.rdFree[crsIdx x.crs])) = some w ∧ homeOf w.crs = h) := by
  refine ⟨?_, ?_, ?_⟩ <;> decide +kernel

/-- The hypotheses of every clause of WritebacksMerge can be met. -/
theorem test_writebacks_merge_met :
    (let s : State := (on mapped)
    let n : Nat := 7500
    let p : PortId := 2
    let addr : BitVec 64 := 0x40
    let h : HomeId := 0
    let z := (before s n).z
    homesRun s.sys.z = true ∧ (([0, 1] : List (Fin 2)).find? (fun h => (decodeAddr z h addr.toNat).isSome)).getD 0 = h ∧ liveFinal z p = true ∧ z.homes[h].wbCred[p] ≠ 0 ∧ z.boot.phase = 7) ∧
    (let s : State := (on (fun z => mapped { z with homes := Vector.replicate 2 { z.homes[(0 : Fin 2)] with wbq := [⟨none, 2, .wbClean, 0x40, 0, 0, false, 0⟩], dir := [(16 * (dirIdx 0 0).1, { tag := (dirIdx 0 0).2, bytes := Vector.replicate 4 (dirEnc (.owned 2)), dirty := false, pend := false })] } }))
    let n : Nat := 100000
    let h : HomeId := 0
    let w : WbMsg := ⟨none, 2, .wbClean, 0x40, 0, 0, false, 0⟩
    let c : CourseId := 0
    let loc : Nat := 64
    let b : Byte := (dirEnc (.owned 2))
    let z := (before s n).z
    let now := (before s n).now
    homesRun s.sys.z = true ∧ z.homes[h].wbq = [w] ∧ w.ans = none ∧ w.kind = .wbClean ∧ w.at_ + 6 * tuFck ≤ now ∧ decodeAddr z h w.addr.toNat = some (c, loc) ∧ z.cinfo[c].fence = 0 ∧ dirByte z.homes[h] c (loc / 64) = some b ∧ (dirDec b).1 = .owned w.port ∧ liveFinal z w.port = true) := by
  refine ⟨?_, ?_⟩ <;> decide +kernel

/-- The hypotheses of every clause of SnoopsAndWindowsEnd can be met. -/
theorem test_snoops_and_windows_end_met :
    (let s : State := (on (fun z => mapped { z with homes := Vector.replicate 2 { z.homes[(0 : Fin 2)] with hrq := [{ hreq .rdCur .snoop with snps := [(3, 0), (4, 0)] }] } }))
    let n : Nat := 7500
    let r : HReq := ({ hreq .rdCur .snoop with snps := [(3, 0), (4, 0)] })
    let p : PortId := 3
    let z := (before s n).z
    homesRun s.sys.z = true ∧ z.homes[(0 : Fin 2)].hrq.find? (fun q => q.ph == .snoop && q.addr.toNat / 64 == r.addr.toNat / 64 && q.snps.any (fun x => x.1 == p)) = some r ∧ homeOf r.crs = 0 ∧ r.snps.any (fun x => x.1 != p) = true ∧ z.homes[(0 : Fin 2)].wbCred[p] ≠ 0 ∧ wbHeld z 0 p r.addr = false) ∧
    (let s : State := (on (fun z => mapped { z with homes := Vector.replicate 2 { z.homes[(0 : Fin 2)] with hrq := [{ hreq .rdCur .snoop with snps := [(3, 0)] }] } }))
    let n : Nat := (256 * tuPerUs)
    let h : HomeId := 0
    let r : HReq := ({ hreq .rdCur .snoop with snps := [(3, 0)] })
    let z := (before s n).z
    let now := (before s n).now
    let lim := getF z (homeBase h.val + 0x3000) 21 14 * tuPerUs
    homesRun s.sys.z = true ∧ z.homes[h].hrq.find? (fun q => q.ph == .snoop && q.snps.any (fun x => decide (x.2 + lim ≤ now))) = some r ∧ homeOf r.crs = h ∧ isWr r.kind = false ∧ r.mirror = false ∧ r.orphan = false ∧ mirFind z 0 r.addr.toNat = none) ∧
    (let s : State := (on (fun z => { z with homes := Vector.replicate 2 { z.homes[(0 : Fin 2)] with holds := [⟨0, 9, 2, 50⟩] } }))
    let n : Nat := 7500
    let h : HomeId := 0
    let w : HoldW := ⟨0, 9, 2, 50⟩
    let z := (before s n).z
    let now := (before s n).now
    homesRun s.sys.z = true ∧ z.homes[h].holds.find? (fun q => decide (q.endAt ≤ now)) = some w ∧ homeOf w.crs = h) := by
  refine ⟨?_, ?_, ?_⟩ <;> decide +kernel

/-- The hypotheses of every clause of LinesAndCreditsReturn can be met. -/
theorem test_lines_and_credits_return_met :
    (let s : State := (on (fun z => mapped { z with homes := Vector.replicate 2 { z.homes[(0 : Fin 2)] with hrq := [{ hreq .rdShared .mem with grant := 1 }] }, jdat := Vector.replicate 16 [⟨7, 0, 0, false, false, true⟩] }) (fun c => { c with rdq := [{ rq 0 1 .back with id := 7 }] }))
    let n : Nat := 7500
    let c : CourseId := 0
    let j : JData := ⟨7, 0, 0, false, false, true⟩
    let l : List JData := []
    let z := (before s n).z
    homesRun s.sys.z = true ∧ jointHeld (before s n) c = false ∧ z.jdat[c] = j :: l) ∧
    (let s : State := (on (fun z => { z with homes := Vector.replicate 2 { z.homes[(0 : Fin 2)] with sweepAt := 0 }, jsts := Vector.replicate 16 [.rd] }))
    let n : Nat := 7500
    let c : CourseId := 0
    let m : JStat := .rd
    let k : List JStat := []
    let z := (before s n).z
    homesRun s.sys.z = true ∧ jointHeld (before s n) c = false ∧ z.jsts[c] = m :: k) := by
  refine ⟨?_, ?_⟩ <;> decide +kernel

/-- The hypotheses of every clause of BusAccesses can be met. -/
theorem test_bus_accesses_met :
    (let s : State := (on id)
    let n : Nat := 0
    let o : Orig := 6
    let off : BitVec 24 := 0x10010
    let x := before s n
    closedUp s.sys.z = false ∧ off.toNat % 4 = 0 ∧ 0x10000 ≤ off.toNat ∧ off.toNat % 0x10000 < 0x8000 ∧ backed x.z off.toNat = true ∧ mayWrite x.z o.val off.toNat = false) ∧
    (let s : State := (crs upC [])
    let n : Nat := 0
    let o : Orig := 3
    let off : BitVec 24 := (BitVec.ofNat 24 (crsBase 0 + 0x1010))
    let c : CourseId := 0
    let x := before s n
    closedUp s.sys.z = false ∧ off.toNat = crsBase c.val + 0x1010 ∧ powered x.z c = true ∧ mayWrite x.z o.val off.toNat = true) ∧
    (let s : State := (crs upC [])
    let n : Nat := 0
    let off : BitVec 24 := 0x10048
    let x := before s n
    closedUp s.sys.z = false ∧ off.toNat % 4 = 0 ∧ wideLow (plainOff off.toNat) = true ∧ backed x.z (plainOff off.toNat) = true) := by
  refine ⟨?_, ?_, ?_⟩ <;> decide +kernel

/-- The hypotheses of every clause of SetsApply can be met. -/
theorem test_sets_apply_met :
    (let s : State := (on id)
    let n : Nat := 0
    let o : Orig := 3
    let v : Word := 0x80000
    let x := before s n
    let isl := maskIsl x.z (v.toNat % 2 ^ 25)
    closedUp s.sys.z = false ∧ mayWrite x.z o.val (zmcBase + 0x0010) = true ∧ v.toNat % 2 ^ 25 ≠ 0 ∧ x.z.setu.busy = false ∧ firstFail x isl = none) ∧
    (let s : State := (on (fun z => { z with setu := { busy := true, named := [19] } }))
    let n : Nat := 0
    let o : Orig := 3
    let x := before s n
    closedUp s.sys.z = false ∧ mayWrite x.z o.val (zmcBase + 0x0010) = true ∧ x.z.setu.busy = true) ∧
    (let s : State := (on (fun z => { z with setu := { busy := true, named := [19], snap := [((zmcBase + 0x0C00), 0x421#32)] } }))
    let n : Nat := 0
    let i : IslandId := 19
    let off : Nat := (zmcBase + 0x0C00)
    let w : Word := 0x421
    let x := before s n
    closedUp s.sys.z = false ∧ x.z.setu.busy = true ∧ (setLeft x.z).contains i.val = true ∧ x.z.setu.snap = [(off, w)] ∧ ownerOf off = i.val ∧ patWord off = false ∧ off ≠ zmcBase + 0x0218) ∧
    (let s : State := (on (fun z => { z with setu := { busy := true } }))
    let n : Nat := 0
    let x := before s n
    closedUp s.sys.z = false ∧ x.z.setu.busy = true ∧ setLeft x.z = []) := by
  refine ⟨?_, ?_, ?_, ?_⟩ <;> decide +kernel

/-- The hypotheses of every clause of ConfigurationIsChecked can be met. -/
theorem test_configuration_is_checked_met :
    (let s : State := (on (fun z => put [(zmcBase + 0x0200, 1#32), (zmcBase + 0x0218, 5#32)] z))
    let n : Nat := tuPerMs
    let z := (before s n).z
    let now := (before s n).now
    closedUp s.sys.z = false ∧ getF z (zmcBase + 0x0200) 0 0 = 1 ∧ z.plumb.lapStart + lapTu z ≤ now) ∧
    (let s : State := (on (fun z => put [(zmcBase + 0x0200, 1#32)] z))
    let n : Nat := tuPerMs
    let z := (before s n).z
    let now := (before s n).now
    closedUp s.sys.z = false ∧ getF z (zmcBase + 0x0200) 0 0 = 1 ∧ z.plumb.lastLap + tuPerMs ≤ now) ∧
    (let s : State := (on id)
    let n : Nat := 0
    let i : IslandId := 19
    let off : BitVec 24 := 0x10C00
    let z := (before s n).z
    closedUp s.sys.z = false ∧ islPowered z i.val = true ∧ quoin z = false ∧ (bufWords i.val).contains off.toNat = true) ∧
    (let s : State := (on (fun z => { z with pair := { z.pair with fault := some 0x10C00 }, rg := { z.rg with pend := [(0x10C00, 0x421#32)] } }))
    let n : Nat := 0
    let a : Nat := 0x10C00
    let w : Word := 0x421
    let z := (before s n).z
    closedUp s.sys.z = false ∧ z.pair.fault = some a ∧ (bufWords (ownerOf a)).contains a = true ∧ potrieOn z = true ∧ z.setu.busy = false ∧ islPowered z (ownerOf a) = true ∧ z.rg.pend.filter (fun p => p.1 == a) = [(a, w)] ∧ firstFail (before s n) (maskIsl z (2 ^ ownerOf a)) = none) ∧
    (let s : State := (on (fun z => { z with bond := { z.bond with gen := 2, dirty := true } }))
    let n : Nat := 0
    let z := (before s n).z
    closedUp s.sys.z = false ∧ z.bond.dirty = true ∧ z.bond.gen ≠ 0 ∧ potrieOn z = true ∧ z.boot.hold = 0) := by
  refine ⟨?_, ?_, ?_, ?_, ?_⟩ <;> decide +kernel

/-- The hypotheses of every clause of HeatIsHandled can be met. -/
theorem test_heat_is_handled_met :
    (let s : State := (on id)
    let n : Nat := 0
    let ts : List Int := (List.replicate 25 50)
    let x := before s n
    let z := x.z
    z.boot.pwrGood = true ∧ tempsWf ts = true) ∧
    (let s : State := (on (fun z => put [(zmcBase + 0x0400, 0x11E#32), (zmcBase + 0x0408, 0x21F#32)] z))
    let n : Nat := 0
    let c : CourseId := 2
    let x := before s n
    let z := x.z
    closedUp z = false ∧ 28 < getF z (zmcBase + 0x0408) 7 0 ∧ getF z (zmcBase + 0x0400) 8 8 = 1 ∧ z.therm.thr.contains c = false ∧ getF z (zmcBase + 0x0408) 12 8 = c.val ∧ liveCrs z c = true ∧ potrieOn z = true ∧ z.boot.phase = 7) ∧
    (let s : State := (on (fun z => put [(zmcBase + 0x0408, 0x40000#32)] { z with therm := { z.therm with thr := [2], okRun := 10 } }))
    let n : Nat := 7500
    let c : CourseId := 2
    let x := before s n
    let z := x.z
    closedUp z = false ∧ z.therm.thr = [c] ∧ 10 ≤ z.therm.okRun ∧ potrieOn z = true) ∧
    (let s : State := (on id)
    let n : Nat := 0
    let lowNs : Nat := 1000
    let x := before s n
    let z := x.z
    z.boot.pwrGood = true ∧ 1000 ≤ lowNs) ∧
    (let s : State := (on (fun z => put [] { z with therm := { z.therm with alertOn := true } }))
    let n : Nat := 8400000
    let x := before s n
    let z := x.z
    z.therm.alertOn = true) := by
  refine ⟨?_, ?_, ?_, ?_, ?_⟩ <;> decide +kernel

/-- The hypotheses of every clause of CourseStartBits can be met. -/
theorem test_course_start_bits_met :
    (let s : State := (crs { upC with lk := {} } [])
    let n : Nat := 0
    let o : Orig := 3
    let c : CourseId := 0
    let x := crsBefore s n c
    let may (p : Nat) : Bool := decide (mayWrite x.z o.val (crsBase c.val + p) = true)
    closedUp s.sys.z = false ∧ powered x.z c = true ∧ may 0x0800 ∧ x.c.lk.st = 0) ∧
    (let s : State := (crs upC [])
    let n : Nat := 0
    let o : Orig := 3
    let c : CourseId := 0
    let x := crsBefore s n c
    let may (p : Nat) : Bool := decide (mayWrite x.z o.val (crsBase c.val + p) = true)
    closedUp s.sys.z = false ∧ powered x.z c = true ∧ may 0x0800 ∧ x.c.lk.st = 2) ∧
    (let s : State := (crs upC [])
    let n : Nat := 0
    let o : Orig := 3
    let c : CourseId := 0
    let x := crsBefore s n c
    let may (p : Nat) : Bool := decide (mayWrite x.z o.val (crsBase c.val + p) = true)
    closedUp s.sys.z = false ∧ crsUp x = true ∧ may 0x1410 ∧ x.c.sr.st = 0) ∧
    (let s : State := (crs { upC with sr := { st := 3 } } [])
    let n : Nat := 0
    let o : Orig := 3
    let c : CourseId := 0
    let x := crsBefore s n c
    let may (p : Nat) : Bool := decide (mayWrite x.z o.val (crsBase c.val + p) = true)
    closedUp s.sys.z = false ∧ crsUp x = true ∧ may 0x1410 ∧ x.c.sr.st = 3 ∧ x.c.lk.st = 2) := by
  refine ⟨?_, ?_, ?_, ?_⟩ <;> decide +kernel

/-- The hypotheses of every clause of CourseUnitsTakeRequests can be met. -/
theorem test_course_units_take_requests_met :
    (let s : State := (crs upC [])
    let n : Nat := 0
    let o : Orig := 3
    let c : CourseId := 0
    let v : Word := 0x41
    let x := crsBefore s n c
    let may (p : Nat) : Bool := decide (mayWrite x.z o.val (crsBase c.val + p) = true)
    closedUp s.sys.z = false ∧ powered x.z c = true ∧ may 0x0840 ∧ secOrig x.z o.val = true ∧ bitsOf v 1 0 = 1 ∧ x.c.lk.mnt.st ≠ 1) ∧
    (let s : State := (crs upC [])
    let n : Nat := 0
    let o : Orig := 3
    let c : CourseId := 0
    let v : Word := 0x41
    let x := crsBefore s n c
    let may (p : Nat) : Bool := decide (mayWrite x.z o.val (crsBase c.val + p) = true)
    closedUp s.sys.z = false ∧ powered x.z c = true ∧ may 0x2410 ∧ secOrig x.z o.val = true ∧ bitsOf v 3 0 ≠ 0 ∧ x.c.tr.fifo.length < 16) ∧
    (let s : State := (crs { upC with tr := { fifo := List.replicate 16 ⟨1, 0, 0, 0, 0, 0, false, 0⟩ } } [])
    let n : Nat := 0
    let o : Orig := 3
    let c : CourseId := 0
    let v : Word := 0x41
    let x := crsBefore s n c
    let may (p : Nat) : Bool := decide (mayWrite x.z o.val (crsBase c.val + p) = true)
    closedUp s.sys.z = false ∧ powered x.z c = true ∧ may 0x2410 ∧ secOrig x.z o.val = true ∧ bitsOf v 3 0 ≠ 0 ∧ 16 ≤ x.c.tr.fifo.length) ∧
    (let s : State := (crs upC [] (fun z => { z with boot := { z.boot with ready := false } }))
    let n : Nat := 0
    let o : Orig := 3
    let c : CourseId := 0
    let x := crsBefore s n c
    let may (p : Nat) : Bool := decide (mayWrite x.z o.val (crsBase c.val + p) = true)
    closedUp s.sys.z = false ∧ powered x.z c = true ∧ may 0x2020 ∧ (x.info.fence ≠ 0 ∨ x.z.boot.ready = false)) ∧
    (let s : State := (crs upC [])
    let n : Nat := 0
    let o : Orig := 3
    let c : CourseId := 0
    let x := crsBefore s n c
    let may (p : Nat) : Bool := decide (mayWrite x.z o.val (crsBase c.val + p) = true)
    closedUp s.sys.z = false ∧ powered x.z c = true ∧ may 0x2020 ∧ x.info.fence = 0 ∧ x.z.boot.ready = true) := by
  refine ⟨?_, ?_, ?_, ?_, ?_⟩ <;> decide +kernel

/-- The hypotheses of every clause of SecurityWrites can be met. -/
theorem test_security_writes_met :
    (let s : State := (on (fun z => { z with boot := { z.boot with lc := 2 }, keys := { z.keys with slots := [(5, ⟨[], 1, 2⟩)] } }))
    let n : Nat := 0
    let o : Orig := 3
    let k : Fin 32 := 0
    let z := (before s n).z
    closedUp s.sys.z = false ∧ mayWrite z o.val (secBase + 0x1000 + 4 * k.val) = true ∧ secOrig z o.val = true) ∧
    (let s : State := (on (fun z => { z with boot := { z.boot with lc := 0 }, keys := { z.keys with slots := [(5, ⟨[], 1, 2⟩)] } }))
    let n : Nat := 0
    let o : Orig := 5
    let z := (before s n).z
    closedUp s.sys.z = false ∧ mayWrite z o.val (secBase + 0x2000) = true ∧ z.pwr.st < 2 ∧ z.dbg.zero = none ∧ z.dbg.level = 0 ∧ z.dbg.lockTo = none ∧ attachNeed z.boot.lc 1 = 0) ∧
    (let s : State := (on (fun z => { z with boot := { z.boot with lc := 0 }, keys := { z.keys with slots := [(5, ⟨[], 1, 2⟩)] } }))
    let n : Nat := 0
    let o : Orig := 5
    let z := (before s n).z
    closedUp s.sys.z = false ∧ mayWrite z o.val (secBase + 0x2000) = true ∧ z.pwr.st < 2 ∧ z.dbg.zero = none ∧ z.dbg.level = 0 ∧ z.dbg.lockTo = none ∧ attachNeed z.boot.lc 2 = 0) ∧
    (let s : State := (on (fun z => { z with boot := { z.boot with lc := 4 }, keys := { z.keys with slots := [(5, ⟨[], 1, 2⟩)] } }))
    let n : Nat := 0
    let o : Orig := 5
    let z := (before s n).z
    closedUp s.sys.z = false ∧ mayWrite z o.val (secBase + 0x2000) = true ∧ z.pwr.st < 2 ∧ z.dbg.zero = none ∧ z.dbg.level = 0 ∧ z.dbg.lockTo = none ∧ attachNeed z.boot.lc 2 = 2) ∧
    (let s : State := (on (fun z => { z with dbg := { z.dbg with level := 2 } }))
    let n : Nat := 0
    let o : Orig := 5
    let lvl : Fin 2 := 1
    let z := (before s n).z
    closedUp s.sys.z = false ∧ mayWrite z o.val (secBase + 0x2000) = true ∧ z.pwr.st < 2 ∧ z.dbg.zero = none ∧ lvl.val < z.dbg.level) := by
  refine ⟨?_, ?_, ?_, ?_, ?_⟩ <;> decide +kernel

/-- The hypotheses of every clause of ControlBits can be met. -/
theorem test_control_bits_met :
    (let s : State := (on id)
    let n : Nat := 0
    let o : Orig := 3
    let x := before s n
    let z := x.z
    let may (p : Nat) : Bool := decide (mayWrite z o.val p = true)
    closedUp z = false ∧ may (zmcBase + 0x0600) ∧ z.boot.phase = 7 ∧ z.pwr.st = 0) ∧
    (let s : State := (on (fun z => { z with pwr := { z.pwr with st := 3 } }))
    let n : Nat := 0
    let o : Orig := 3
    let x := before s n
    let z := x.z
    let may (p : Nat) : Bool := decide (mayWrite z o.val p = true)
    z.pwr.st = 3 ∧ z.boot.hold = 0 ∧ z.boot.pwrGood = true ∧ may (zmcBase + 0x0600)) ∧
    (let s : State := (on id)
    let n : Nat := 0
    let o : Orig := 3
    let x := before s n
    let z := x.z
    let may (p : Nat) : Bool := decide (mayWrite z o.val p = true)
    closedUp z = false ∧ may (hodBase + 0x0010)) ∧
    (let s : State := (on (fun z => { z with boot := { z.boot with hodOk := true }, hod := { z.hod with frozen := true } }))
    let n : Nat := 0
    let o : Orig := 3
    let x := before s n
    let z := x.z
    let may (p : Nat) : Bool := decide (mayWrite z o.val p = true)
    closedUp z = false ∧ may (hodBase + 0x0010) ∧ z.hod.busy = false ∧ z.boot.hodOk = true ∧ ((curWord x (hodBase + 0x0010)).getLsbD 0 = true → z.hod.frozen = true)) ∧
    (let s : State := (on (fun z => { z with hod := { z.hod with busy := true } }))
    let n : Nat := 0
    let x := before s n
    let z := x.z
    closedUp z = false ∧ z.hod.busy = true) ∧
    (let s : State := (on id)
    let n : Nat := 0
    let o : Orig := 3
    let h : HomeId := 0
    let v : Word := 0x22
    let x := before s n
    let z := x.z
    let may (p : Nat) : Bool := decide (mayWrite z o.val p = true)
    closedUp z = false ∧ may (homeBase h.val + 0x1A08) ∧ bitsOf v 4 0 < 24) := by
  refine ⟨?_, ?_, ?_, ?_, ?_, ?_⟩ <;> decide +kernel

/-- The hypotheses of every clause of MailboxesRingAndWithdraw can be met. -/
theorem test_mailboxes_ring_and_withdraw_met :
    (let s : State := (on id)
    let n : Nat := 0
    let o : Orig := 1
    let m : MbxId := 0
    let z := (before s n).z
    let b := z.mgt.mbx[m]
    let may : Bool := decide (mayWrite z o.val (mbxBase + 0x0180 + 0x100 * m.val) = true)
    closedUp s.sys.z = false ∧ may ∧ b.ph ≠ .posted ∧ b.ph ≠ .running) ∧
    (let s : State := (ask 0 0x1 [])
    let n : Nat := 0
    let o : Orig := 1
    let m : MbxId := 0
    let z := (before s n).z
    let b := z.mgt.mbx[m]
    let may : Bool := decide (mayWrite z o.val (mbxBase + 0x0180 + 0x100 * m.val) = true)
    closedUp s.sys.z = false ∧ may ∧ (b.ph = .posted ∨ b.ph = .running)) ∧
    (let s : State := (ask 0 0x1 [])
    let n : Nat := 0
    let o : Orig := 1
    let m : MbxId := 0
    let z := (before s n).z
    let b := z.mgt.mbx[m]
    let may : Bool := decide (mayWrite z o.val (mbxBase + 0x0180 + 0x100 * m.val) = true)
    closedUp s.sys.z = false ∧ may ∧ b.ph = .posted) ∧
    (let s : State := (ask 0 0x1 [])
    let n : Nat := (tuPerS)
    let m : MbxId := 0
    let z := (before s n).z
    let now := (before s n).now
    let b := z.mgt.mbx[m]
    closedUp s.sys.z = false ∧ b.ph = .posted ∧ b.rungAt + getF z (mbxBase + 0x10) 7 0 * tuPerMs ≤ now) := by
  refine ⟨?_, ?_, ?_, ?_⟩ <;> decide +kernel

/-- The hypotheses of every clause of RequestsAreAnswered can be met. -/
theorem test_requests_are_answered_met :
    (let s : State := (ask 0 0x7777 [])
    let n : Nat := 0
    let m : MbxId := 0
    let op : Nat := 30583
    let z := (before s n).z
    closedUp s.sys.z = false ∧ Taken z m op ∧ op ∉ knownOps) ∧
    (let s : State := (ask 0 0x1 [])
    let n : Nat := 0
    let m : MbxId := 0
    let z := (before s n).z
    let b := z.mgt.mbx[m]
    closedUp s.sys.z = false ∧ Taken z m 0x0001 ∧ LevelOk z m 6 ∧ frameOk b [] = true) := by
  refine ⟨?_, ?_⟩ <;> decide +kernel

/-- The hypotheses of every clause of KeysAreLoaded can be met. -/
theorem test_keys_are_loaded_met :
    (let s : State := (ask 0 0x102 [256#32, 0#32, 1#32, 2#32, 3#32, 4#32, 5#32, 6#32, 7#32, 8#32])
    let n : Nat := 0
    let m : MbxId := 0
    let z := (before s n).z
    let b := z.mgt.mbx[m]
    let load : Bool := decide (Taken z m 0x0102 ∧ LevelOk z m 6 ∧ m.val < 2 ∧ z.dbg.level ≠ 2 ∧ z.keys.blocked = false ∧ frameOk b ((2, 0x000103FF#32) :: fullWords 3 9) = true ∧ keySlotOf b ≠ 0)
    closedUp s.sys.z = false ∧ load ∧ b.arg 2 16 16 = 0 ∧ b.staged = none) ∧
    (let s : State := (ask 0 0x102 [65792#32, 0#32, 1#32, 2#32, 3#32, 4#32, 5#32, 6#32, 7#32, 8#32] (fun z => { z with mgt := { z.mgt with mbx := z.mgt.mbx.set 0 { staged := some ⟨0x0102, 0x100, 1, [0, 1, 2, 3, 4, 5, 6, 7, 8]⟩ } } }))
    let n : Nat := 0
    let m : MbxId := 0
    let st : Staged := ⟨0x0102, 0x100, 1, [0, 1, 2, 3, 4, 5, 6, 7, 8]⟩
    let z := (before s n).z
    let b := z.mgt.mbx[m]
    let load : Bool := decide (Taken z m 0x0102 ∧ LevelOk z m 6 ∧ m.val < 2 ∧ z.dbg.level ≠ 2 ∧ z.keys.blocked = false ∧ frameOk b ((2, 0x000103FF#32) :: fullWords 3 9) = true ∧ keySlotOf b ≠ 0)
    closedUp s.sys.z = false ∧ load ∧ b.arg 2 16 16 = 1 ∧ b.staged = some st ∧ st.op = 0x0102 ∧ st.obj = keySlotOf b ∧ st.next = 1) ∧
    (let s : State := (ask 0 0x103 [256#32] (fun z => { z with keys := { z.keys with slots := [(0x100, ⟨[], 1, 2⟩)] } }))
    let n : Nat := 0
    let m : MbxId := 0
    let z := (before s n).z
    let b := z.mgt.mbx[m]
    closedUp s.sys.z = false ∧ Taken z m 0x0103 ∧ LevelOk z m 6 ∧ m.val < 2 ∧ frameOk b [(2, 0x3FF)] = true ∧ keySlotOf b ≠ 0) ∧
    (let s : State := (ask 2 0x203 [0#32, 1#32, 2#32, 3#32, 4#32, 5#32, 6#32, 7#32, 8#32, 9#32])
    let n : Nat := 0
    let m : MbxId := 2
    let z := (before s n).z
    let b := z.mgt.mbx[m]
    closedUp s.sys.z = false ∧ Taken z m 0x0203 ∧ LevelOk z m 6 ∧ m.val = 2 ∧ z.rg.sealed = false ∧ z.keys.blocked = false ∧ frameOk b (fullWords 2 10) = true) := by
  refine ⟨?_, ?_, ?_, ?_⟩ <;> decide +kernel

/-- The hypotheses of every clause of GrantsAndReferences can be met. -/
theorem test_grants_and_references_met :
    (let s : State := (ask 0 0x104 [65537#32])
    let n : Nat := 0
    let m : MbxId := 0
    let z := (before s n).z
    let b := z.mgt.mbx[m]
    closedUp s.sys.z = false ∧ Taken z m 0x0104 ∧ LevelOk z m 6 ∧ m.val < 2 ∧ frameOk b [(2, 0x01FFFFFF)] = true ∧ (∀ i ∈ List.range 25, (b.arg 2 24 0).testBit i = true → i ∈ bondIslands z ∧ userOk i = true)) ∧
    (let s : State := (ask 2 0x105 [3932162#32] (fun z => { z with boot := { z.boot with lc := 1 } }))
    let n : Nat := 0
    let m : MbxId := 2
    let z := (before s n).z
    let b := z.mgt.mbx[m]
    let lvl := b.arg 2 1 0
    let secs := b.arg 2 25 16
    closedUp s.sys.z = false ∧ Taken z m 0x0105 ∧ LevelOk z m 6 ∧ m.val < 3 ∧ frameOk b [(2, 0x03FF0003)] = true ∧ 1 ≤ lvl ∧ lvl ≤ 2 ∧ 1 ≤ secs ∧ secs ≤ 600 ∧ attachNeed z.boot.lc lvl = 1 ∧ (m.val = 2 ↔ z.boot.lc = 1)) ∧
    (let s : State := (ask 0 0x106 [0#32, 77#32])
    let n : Nat := 0
    let m : MbxId := 0
    let z := (before s n).z
    let b := z.mgt.mbx[m]
    closedUp s.sys.z = false ∧ Taken z m 0x0106 ∧ LevelOk z m 6 ∧ m.val < 3 ∧ frameOk b ((2, 1) :: fullWords 3 1) = true ∧ b.arg 2 0 0 = 0 ∧ z.plumb.own = []) := by
  refine ⟨?_, ?_, ?_⟩ <;> decide +kernel

/-- The hypotheses of every clause of MasonRestartsAndActivates can be met. -/
theorem test_mason_restarts_and_activates_met :
    (let s : State := (ask 0 0x107 [0#32] (fun z => { z with mgt := { z.mgt with banks := z.mgt.banks.set 1 { valid := true, ver := 2, lvlMin := 6, lvlMax := 7 } } }))
    let n : Nat := 0
    let m : MbxId := 0
    let z := (before s n).z
    let b := z.mgt.mbx[m]
    closedUp s.sys.z = false ∧ Taken z m 0x0107 ∧ LevelOk z m 6 ∧ m.val < 3 ∧ frameOk b [(2, 1)] = true ∧ (inactBank z).valid = true ∧ held z .banks = false ∧ z.pair.heard = []) ∧
    (let s : State := (on (fun z => { z with mgt := { z.mgt with act := some ⟨0, 5, 1, 0, 0, 0, false⟩ } }))
    let n : Nat := 100
    let a : Act := ⟨0, 5, 1, 0, 0, 0, false⟩
    let z := (before s n).z
    let now := (before s n).now
    closedUp s.sys.z = false ∧ z.mgt.act = some a ∧ a.failed = false ∧ now ≤ a.openAt + 20 * tuPerMs) ∧
    (let s : State := (on (fun z => { z with mgt := { z.mgt with act := some ⟨0, 5, 1, 0, 0, 0, false⟩ } }))
    let n : Nat := (20 * tuPerMs)
    let a : Act := ⟨0, 5, 1, 0, 0, 0, false⟩
    let z := (before s n).z
    let now := (before s n).now
    closedUp s.sys.z = false ∧ z.mgt.act = some a ∧ a.failed = false ∧ a.openAt + 20 * tuPerMs ≤ now) ∧
    (let s : State := (on (fun z => { z with mgt := { z.mgt with act := some ⟨0, 5, 1, 0, 0, 0, true⟩ } }))
    let n : Nat := 0
    let a : Act := ⟨0, 5, 1, 0, 0, 0, true⟩
    let z := (before s n).z
    closedUp s.sys.z = false ∧ z.mgt.act = some a ∧ a.failed = true) ∧
    (let s : State := (on (fun z => { z with mgt := { z.mgt with up := false } }))
    let n : Nat := 0
    let z := (before s n).z
    closedUp s.sys.z = false ∧ z.mgt.up = false ∧ masonMayRun z = true) ∧
    (let s : State := (on (fun z => { z with mgt := { z.mgt with mbx := z.mgt.mbx.set 3 { ph := .running } } }))
    let n : Nat := (100 * tuPerMs)
    let z := (before s n).z
    let now := (before s n).now
    closedUp s.sys.z = false ∧ z.mgt.up = true ∧ z.mgt.act = none ∧ z.mgt.wdogAt + 100 * tuPerMs ≤ now) ∧
    (let s : State := (on (fun z => { z with mgt := { z.mgt with coal := [⟨1, 2, 3, 4, 0, 5⟩] } }))
    closedUp s.sys.z = false) := by
  refine ⟨?_, ?_, ?_, ?_, ?_, ?_, ?_⟩ <;> decide +kernel

/-- The hypotheses of every clause of AcceptedWorkEnds can be met. -/
theorem test_accepted_work_ends_met :
    (let s : State := (ask 0 0x108 [1#32] (fun z => { z with mgt := { z.mgt with offers := [⟨1, 3, 1, 0, 0, []⟩] } }))
    let n : Nat := 0
    let m : MbxId := 0
    let o : Offer := ⟨1, 3, 1, 0, 0, []⟩
    let z := (before s n).z
    let b := z.mgt.mbx[m]
    let id := b.arg 2 15 0
    let repair : Bool := decide (Taken z m 0x0108 ∧ LevelOk z m 6 ∧ m.val < 2 ∧ frameOk b [(2, 0x0001FFFF)] = true ∧ z.mgt.offers.find? (fun o => o.id == id) = some o ∧ held z (.course o.crs) = false)
    closedUp s.sys.z = false ∧ repair ∧ b.arg 2 16 16 = 0) ∧
    (let s : State := (ask 0 0x108 [65537#32] (fun z => { z with mgt := { z.mgt with offers := [⟨1, 3, 1, 0, 0, []⟩] } }))
    let n : Nat := 0
    let m : MbxId := 0
    let o : Offer := ⟨1, 3, 1, 0, 0, []⟩
    let z := (before s n).z
    let b := z.mgt.mbx[m]
    let id := b.arg 2 15 0
    let repair : Bool := decide (Taken z m 0x0108 ∧ LevelOk z m 6 ∧ m.val < 2 ∧ frameOk b [(2, 0x0001FFFF)] = true ∧ z.mgt.offers.find? (fun o => o.id == id) = some o ∧ held z (.course o.crs) = false)
    closedUp s.sys.z = false ∧ repair ∧ b.arg 2 16 16 = 1 ∧ o.kind = 1) ∧
    (let s : State := (ask 3 0x303 [255#32] (fun z => { z with boot := { z.boot with spares := [(0x80, ⟨3, false⟩)] } }))
    let n : Nat := 0
    let m : MbxId := 3
    let z := (before s n).z
    let b := z.mgt.mbx[m]
    let soft (mem : Nat) := z.boot.spares.filter (fun p => !p.2.hard && (mem == 0xFF || p.1 / 16 == mem))
    closedUp s.sys.z = false ∧ Taken z m 0x0303 ∧ LevelOk z m 6 ∧ m.val = 3 ∧ frameOk b [(2, 0xFF#32)] = true ∧ (b.arg 2 7 0 = 0xFF ∨ (memWords (b.arg 2 7 0)).isSome = true) ∧ soft (b.arg 2 7 0) ≠ [] ∧ z.boot.fuses + (soft (b.arg 2 7 0)).length ≤ 256 ∧ held z .fuses = false) ∧
    (let s : State := (on (fun z => { z with mgt := { z.mgt with jobs := [⟨3, 0x0303, 9, 1, .fuses, 0xFF, 0xFF, 0, 0⟩] }, boot := { z.boot with spares := [(0x80, ⟨3, false⟩)] } }))
    let n : Nat := 0
    let m : MbxId := 3
    let j : Job := ⟨3, 0x0303, 9, 1, .fuses, 0xFF, 0xFF, 0, 0⟩
    let z := (before s n).z
    closedUp s.sys.z = false ∧ z.mgt.jobs = [j] ∧ j.mbx = m ∧ j.op = 0x0303 ∧ potrieOn z = true) ∧
    (let s : State := (on (fun z => { z with mgt := { z.mgt with jobs := [⟨3, 0x0204, 9, 1, .lifeCycle, 3, 3, 0, 0⟩] } }))
    let n : Nat := 0
    let m : MbxId := 3
    let j : Job := ⟨3, 0x0204, 9, 1, .lifeCycle, 3, 3, 0, 0⟩
    let z := (before s n).z
    closedUp s.sys.z = false ∧ z.mgt.jobs = [j] ∧ j.mbx = m ∧ j.op = 0x0204 ∧ potrieOn z = true) ∧
    (let s : State := (on id)
    let n : Nat := 0
    let z := (before s n).z
    closedUp s.sys.z = false ∧ z.mgt.jobs = []) := by
  refine ⟨?_, ?_, ?_, ?_, ?_, ?_⟩ <;> decide +kernel

/-- The hypotheses of every clause of OperatorAndInstallerCommands can be met. -/
theorem test_operator_and_installer_commands_met :
    (let s : State := (ask 0 0x109 [])
    let n : Nat := 0
    let m : MbxId := 0
    let z := (before s n).z
    let b := z.mgt.mbx[m]
    closedUp s.sys.z = false ∧ Taken z m 0x0109 ∧ LevelOk z m 6 ∧ m.val < 2 ∧ frameOk b [] = true ∧ z.boot.phase = 7 ∧ z.pwr.st = 0) ∧
    (let s : State := (ask 0 0x10A [])
    let n : Nat := 0
    let m : MbxId := 0
    let z := (before s n).z
    let b := z.mgt.mbx[m]
    closedUp s.sys.z = false ∧ Taken z m 0x010A ∧ LevelOk z m 6 ∧ m.val < 2 ∧ frameOk b [] = true ∧ z.pwr.ret = none ∧ z.dbg.level = 0 ∧ held z .all = false) ∧
    (let s : State := (on (fun z => { z with pwr := { z.pwr with st := 2, ret := some ⟨0, 5, 1, 1, 0, []⟩ } }))
    let n : Nat := tuPerS
    let r : RetainSt := ⟨0, 5, 1, 1, 0, []⟩
    let z := (before s n).z
    let now := (before s n).now
    closedUp s.sys.z = false ∧ z.pwr.ret = some r ∧ z.pwr.st = 2 ∧ r.step < 5 ∧ r.t0 + getF z (zmcBase + 0x0600) 27 20 * tuPerMs ≤ now) ∧
    (let s : State := (ask 0 0x10B [5#32, 0#32])
    let n : Nat := 0
    let m : MbxId := 0
    let z := (before s n).z
    let b := z.mgt.mbx[m]
    closedUp s.sys.z = false ∧ Taken z m 0x010B ∧ LevelOk z m 7 ∧ m.val < 2 ∧ frameOk b (fullWords 2 1 ++ [(3, 1)]) = true ∧ b.arg 3 0 0 = 0 ∧ b.staged = none) ∧
    (let s : State := (ask 2 0x201 [])
    let n : Nat := 0
    let m : MbxId := 2
    let z := (before s n).z
    let b := z.mgt.mbx[m]
    closedUp s.sys.z = false ∧ Taken z m 0x0201 ∧ LevelOk z m 6 ∧ m.val = 2 ∧ frameOk b [] = true ∧ z.rg.sealed = false ∧ sealPending z = false) := by
  refine ⟨?_, ?_, ?_, ?_, ?_⟩ <;> decide +kernel

/-- The hypotheses of every clause of InstallerStoresAndTransitions can be met. -/
theorem test_installer_stores_and_transitions_met :
    (let s : State := (ask 2 0x202 [0#32, 4100#32, 7#32])
    let n : Nat := 0
    let m : MbxId := 2
    let z := (before s n).z
    let b := z.mgt.mbx[m]
    let k := b.arg 3 5 0
    let bank := b.arg 3 12 12
    closedUp s.sys.z = false ∧ Taken z m 0x0202 ∧ LevelOk z m 6 ∧ m.val = 2 ∧ 4 ≤ k ∧ k ≤ 48 ∧ k % 4 = 0 ∧ frameOk b ([(2, 0x0007FFFF#32), (3, 0x0000113F#32)] ++ fullWords 4 (k / 4)) = true ∧ b.arg 2 18 0 = 0 ∧ b.arg 3 8 8 = 0 ∧ bank ≠ z.mgt.active ∧ held z .inactiveBank = false) ∧
    (let s : State := (ask 3 0x204 [257#32] (fun z => { z with boot := { z.boot with lcPend := 0 } }))
    let n : Nat := 0
    let m : MbxId := 3
    let z := (before s n).z
    let b := z.mgt.mbx[m]
    closedUp s.sys.z = false ∧ Taken z m 0x0204 ∧ LevelOk z m 6 ∧ m.val = 3 ∧ lcFrame b m = true ∧ b.arg 2 2 0 = 1 ∧ z.boot.lcPend = 0 ∧ held z .lifeCycle = false) ∧
    (let s : State := (ask 2 0x20A [419439200#32, 655552#32, 398368#32])
    let n : Nat := 0
    let m : MbxId := 2
    let z := (before s n).z
    let b := z.mgt.mbx[m]
    let policy (op : Nat) : Bool := decide (Taken z m op ∧ LevelOk z m 6 ∧ m.val = 2 ∧ z.rg.sealed = false)
    closedUp s.sys.z = false ∧ policy 0x020A ∧ frameOk b [(2, 0xFFFFFFFF#32), (3, 0xFFFF01FF#32), (4, 0x00FFFFFF#32)] = true ∧ trainPolOk b = true) ∧
    (let s : State := (ask 2 0x20B [17921#32])
    let n : Nat := 0
    let m : MbxId := 2
    let z := (before s n).z
    let b := z.mgt.mbx[m]
    let policy (op : Nat) : Bool := decide (Taken z m op ∧ LevelOk z m 6 ∧ m.val = 2 ∧ z.rg.sealed = false)
    closedUp s.sys.z = false ∧ policy 0x020B ∧ frameOk b [(2, 0x0000FF03#32)] = true ∧ b.arg 2 1 0 ≤ 2 ∧ 60 ≤ b.arg 2 15 8 ∧ b.arg 2 15 8 ≤ 85) ∧
    (let s : State := (ask 2 0x20C [1#32])
    let n : Nat := 0
    let m : MbxId := 2
    let z := (before s n).z
    let b := z.mgt.mbx[m]
    let policy (op : Nat) : Bool := decide (Taken z m op ∧ LevelOk z m 6 ∧ m.val = 2 ∧ z.rg.sealed = false)
    closedUp s.sys.z = false ∧ policy 0x020C ∧ frameOk b [(2, 3#32)] = true) := by
  refine ⟨?_, ?_, ?_, ?_, ?_⟩ <;> decide +kernel

/-- The hypotheses of every clause of BuildCommandsApplyTheirWords can be met. -/
theorem test_build_commands_apply_their_words_met :
    (let s : State := (ask 2 0x205 [1057#32])
    let n : Nat := 0
    let m : MbxId := 2
    let x := before s n
    let z := x.z
    let b := z.mgt.mbx[m]
    let by_ (op who : Nat) : Bool := decide (Taken z m op ∧ LevelOk z m 6 ∧ m.val = who ∧ z.rg.sealed = false)
    let setup := [pendWith z (zmcBase + 0x0C00) 12 0 (b.arg 2 12 0)]
    closedUp s.sys.z = false ∧ by_ 0x0205 2 ∧ frameOk b [(2, lowMask 13)] = true ∧ SetPasses x setup [19]) ∧
    (let s : State := (ask 2 0x206 [17#32, 0#32, 0#32, 16777216#32, 0#32, 0#32, 0#32] (fun z => put mapW z))
    let n : Nat := 0
    let m : MbxId := 2
    let x := before s n
    let z := x.z
    let b := z.mgt.mbx[m]
    let by_ (op who : Nat) : Bool := decide (Taken z m op ∧ LevelOk z m 6 ∧ m.val = who ∧ z.rg.sealed = false)
    let r := b.arg 2 2 0
    let range := (List.range 6).map (fun i => (zmcBase + 0x0C40 + 32 * r + 4 * i, b.wd (3 + i))) ++ [pendWith z (zmcBase + 0x0C40 + 32 * r + 24) 1 0 (b.arg 2 3 3 + 2 * b.arg 2 4 4)]
    closedUp s.sys.z = false ∧ by_ 0x0206 2 ∧ frameOk b ((2, lowMask 5) :: fullWords 3 6) = true ∧ SetPasses x range [19]) ∧
    (let s : State := (ask 2 0x207 [2052#32, 0#32, 0#32, 1073741824#32, 0#32, 4294967040#32, 4294967295#32, 4294967295#32, 4294967295#32] (fun z => { z with boot := { z.boot with phase := 6 } }))
    let n : Nat := 0
    let m : MbxId := 2
    let x := before s n
    let z := x.z
    let b := z.mgt.mbx[m]
    let by_ (op who : Nat) : Bool := decide (Taken z m op ∧ LevelOk z m 6 ∧ m.val = who ∧ z.rg.sealed = false)
    let ilv := ilvWords b 0 ++ ilvWords b 1
    closedUp s.sys.z = false ∧ by_ 0x0207 2 ∧ frameOk b ((2, 0x00000F7F#32) :: fullWords 3 8) = true ∧ 1 ≤ b.arg 2 6 2 ∧ b.arg 2 6 2 ≤ 16 ∧ 8 ≤ b.arg 2 11 8 ∧ b.arg 2 11 8 ≤ 12 ∧ z.boot.phase < 7 ∧ ilvTooBig z (ilvAsked b) = false ∧ SetPasses x ilv [16, 17]) ∧
    (let s : State := (ask 2 0x208 [65537#32] (fun z => put timW z))
    let n : Nat := 0
    let m : MbxId := 2
    let x := before s n
    let z := x.z
    let b := z.mgt.mbx[m]
    let by_ (op who : Nat) : Bool := decide (Taken z m op ∧ LevelOk z m 6 ∧ m.val = who ∧ z.rg.sealed = false)
    let ecc := (maskCrs (b.arg 2 15 0)).map (fun c => pendWith z (crsBase c + 0x1800) 0 0 (b.arg 2 16 16))
    closedUp s.sys.z = false ∧ by_ 0x0208 2 ∧ frameOk b [(2, lowMask 17)] = true ∧ maskBad z (b.arg 2 15 0) = false ∧ maskHeld z (b.arg 2 15 0) = false ∧ SetPasses x ecc (maskCrs (b.arg 2 15 0)) ∧ ecc ≠ []) ∧
    (let s : State := (ask 2 0x209 [65537#32] (fun z => put timW { z with boot := { z.boot with phase := 6 } }))
    let n : Nat := 0
    let m : MbxId := 2
    let x := before s n
    let z := x.z
    let b := z.mgt.mbx[m]
    let by_ (op who : Nat) : Bool := decide (Taken z m op ∧ LevelOk z m 6 ∧ m.val = who ∧ z.rg.sealed = false)
    let fresh := (maskCrs (b.arg 2 15 0)).map (fun c => pendWith z (crsBase c + 0x2000) 0 0 (b.arg 2 16 16))
    closedUp s.sys.z = false ∧ by_ 0x0209 2 ∧ frameOk b [(2, lowMask 17)] = true ∧ maskBad z (b.arg 2 15 0) = false ∧ maskHeld z (b.arg 2 15 0) = false ∧ z.boot.phase < 7 ∧ SetPasses x fresh (maskCrs (b.arg 2 15 0)) ∧ fresh ≠ []) ∧
    (let s : State := (ask 3 0x304 [403#32])
    let n : Nat := 0
    let m : MbxId := 3
    let x := before s n
    let z := x.z
    let b := z.mgt.mbx[m]
    let by_ (op who : Nat) : Bool := decide (Taken z m op ∧ LevelOk z m 6 ∧ m.val = who ∧ z.rg.sealed = false)
    let hold := ((List.range 2).filter (fun h => (b.arg 2 1 0).testBit h)).map (fun h => pendWith z (homeBase h + 0x3000) 11 0 (b.arg 2 13 2))
    closedUp s.sys.z = false ∧ by_ 0x0304 3 ∧ frameOk b [(2, lowMask 14)] = true ∧ b.arg 2 1 0 ≠ 0 ∧ SetPasses { x with z := { z with rg := { z.rg with holdOk := [0, 1] } } } hold [16, 17]) := by
  refine ⟨?_, ?_, ?_, ?_, ?_, ?_⟩ <;> decide +kernel

/-- The hypotheses of every clause of CourseCommands can be met. -/
theorem test_course_commands_met :
    (let s : State := (ask 2 0x20D [2#32])
    let n : Nat := 0
    let m : MbxId := 2
    let c : CourseId := 2
    let z := (before s n).z
    let b := z.mgt.mbx[m]
    let named (op who : Nat) : Bool := decide (Taken z m op ∧ LevelOk z m 6 ∧ m.val = who ∧ frameOk b [(2, 0xF#32)] = true ∧ b.arg 2 3 0 = c.val)
    closedUp s.sys.z = false ∧ named 0x020D 2 ∧ liveCrs z c = true ∧ held z (.course c.val) = false) ∧
    (let s : State := (ask 2 0x20E [2#32] (fun z => { z with cinfo := z.cinfo.set 2 { z.cinfo[2] with fence := 2 } }))
    let n : Nat := 0
    let m : MbxId := 2
    let c : CourseId := 2
    let z := (before s n).z
    let b := z.mgt.mbx[m]
    let named (op who : Nat) : Bool := decide (Taken z m op ∧ LevelOk z m 6 ∧ m.val = who ∧ frameOk b [(2, 0xF#32)] = true ∧ b.arg 2 3 0 = c.val)
    closedUp s.sys.z = false ∧ named 0x020E 2 ∧ present z.boot.variant c.val = true ∧ (z.cinfo[c].fence = 2 ∨ z.cinfo[c].fence = 3 ∨ z.cinfo[c].fence = 5) ∧ held z (.course c.val) = false) ∧
    (let s : State := (ask 3 0x301 [2#32] (fun z => { z with boot := { z.boot with lc := 3 } }))
    let n : Nat := 0
    let m : MbxId := 3
    let c : CourseId := 2
    let z := (before s n).z
    let b := z.mgt.mbx[m]
    let named (op who : Nat) : Bool := decide (Taken z m op ∧ LevelOk z m 6 ∧ m.val = who ∧ frameOk b [(2, 0xF#32)] = true ∧ b.arg 2 3 0 = c.val)
    closedUp s.sys.z = false ∧ named 0x0301 3 ∧ (z.boot.lc = 0 ∨ z.boot.lc = 3) ∧ present z.boot.variant c.val = true ∧ z.cinfo[c].fence ≠ 1 ∧ held z (.bist c.val) = false) ∧
    (let s : State := (ask 3 0x302 [] (fun z => { z with boot := { z.boot with rtState := 2, rtCourse := 2 } }))
    let n : Nat := 0
    let m : MbxId := 3
    let c : CourseId := 2
    let z := (before s n).z
    let b := z.mgt.mbx[m]
    closedUp s.sys.z = false ∧ Taken z m 0x0302 ∧ LevelOk z m 6 ∧ m.val = 3 ∧ frameOk b [] = true ∧ z.boot.rtState = 2 ∧ z.boot.rtCourse = c.val) := by
  refine ⟨?_, ?_, ?_, ?_⟩ <;> decide +kernel

/-- The hypotheses of every clause of DebuggerPeerAndClearCommands can be met. -/
theorem test_debugger_peer_and_clear_commands_met :
    (let s : State := (ask 4 0x401 [65543#32] (fun z => { z with dbg := { z.dbg with level := 2 } }))
    let n : Nat := 0
    let m : MbxId := 4
    let x := before s n
    let z := x.z
    let b := z.mgt.mbx[m]
    closedUp s.sys.z = false ∧ Taken z m 0x0401 ∧ LevelOk z m 6 ∧ m.val = 4 ∧ frameOk b [(2, lowMask 17)] = true) ∧
    (let s : State := (ask 4 0x402 [3#32] (fun z => { z with dbg := { z.dbg with level := 2 } }))
    let n : Nat := 0
    let m : MbxId := 4
    let x := before s n
    let z := x.z
    let b := z.mgt.mbx[m]
    closedUp s.sys.z = false ∧ Taken z m 0x0402 ∧ LevelOk z m 6 ∧ m.val = 4 ∧ z.dbg.level = 2 ∧ frameOk b [(2, 0xFF#32)] = true ∧ (∀ k ∈ List.range 8, (b.arg 2 7 0).testBit k = true → k ∈ baysBacked z)) ∧
    (let s : State := (ask 5 0x501 [460288#32, 0#32, 0#32, 0#32, 0#32, 0#32, 0#32, 0#32, 0#32])
    let n : Nat := 0
    let m : MbxId := 5
    let x := before s n
    let z := x.z
    let b := z.mgt.mbx[m]
    closedUp s.sys.z = false ∧ Taken z m 0x0501 ∧ LevelOk z m 6 ∧ m.val = 5 ∧ frameOk b ((2, lowMask 19) :: fullWords 3 8) = true ∧ z.pair.heard = [] ∧ max (b.arg 2 7 0) (actBank z).lvlMin ≤ min (b.arg 2 15 8) (actBank z).lvlMax) ∧
    (let s : State := (ask 5 0x502 [0#32, 0#32, 4194304#32, 0#32] (fun z => put (mapW ++ mirW 1) z))
    let n : Nat := 0
    let m : MbxId := 5
    let i : Ilv := (ilvOf (wordAt (put mapW upZ)) 0 0)
    let x := before s n
    let z := x.z
    let b := z.mgt.mbx[m]
    let lo := (clrRange b).1
    let sz := (clrRange b).2
    closedUp s.sys.z = false ∧ Taken z m 0x0502 ∧ LevelOk z m 7 ∧ m.val = 5 ∧ frameOk b (fullWords 2 4) = true ∧ clrRec z lo sz = some i ∧ inCopy z lo sz = true ∧ clrBusy z lo sz = false ∧ (∀ c ∈ i.courses, c < 16 ∧ powered z (toCrs c) = true) ∧ i.courses ≠ [] ∧ (∀ k ∈ z.clrs, k.id ≠ z.clrNext) ∧ clrPeers z lo sz = []) ∧
    (let s : State := (ask 5 0x503 [2#32] (fun z => { z with pair := { z.pair with mirs := Vector.replicate 8 { st := 2 } } }))
    let n : Nat := 0
    let m : MbxId := 5
    let x := before s n
    let z := x.z
    let b := z.mgt.mbx[m]
    closedUp s.sys.z = false ∧ Taken z m 0x0503 ∧ LevelOk z m 6 ∧ m.val = 5 ∧ frameOk b [(2, 0xF#32)] = true ∧ b.arg 2 3 0 = 2 ∧ z.pair.fault = none) ∧
    (let s : State := (ask 0 0x101 [0#32, 0#32, 4194304#32, 0#32] (fun z => put mapW (put ((List.range 16).map (fun c => (crsBase c + 0x2000, 1#32))) z)))
    let n : Nat := 0
    let m : MbxId := 0
    let i : Ilv := (ilvOf (wordAt (put mapW upZ)) 0 0)
    let x := before s n
    let z := x.z
    let b := z.mgt.mbx[m]
    let lo := (clrRange b).1
    let sz := (clrRange b).2
    closedUp s.sys.z = false ∧ Taken z m 0x0101 ∧ LevelOk z m 6 ∧ m.val < 2 ∧ frameOk b (fullWords 2 4) = true ∧ clrRec z lo sz = some i ∧ clrMirs z lo sz = [] ∧ clrBusy z lo sz = false ∧ (∀ c ∈ i.courses, c < 16 ∧ powered z (toCrs c) = true ∧ getF z (crsBase c + 0x2000) 0 0 = 1) ∧ i.courses ≠ [] ∧ (∀ k ∈ z.clrs, k.id ≠ z.clrNext)) := by
  refine ⟨?_, ?_, ?_, ?_, ?_, ?_⟩ <;> decide +kernel

/-- The hypotheses of every clause of DebugPortEvents can be met. -/
theorem test_debug_port_events_met :
    (let s : State := (on (fun z => { z with dbg := { z.dbg with zero := some 10 } }))
    let n : Nat := 10
    let t0 : Nat := 10
    let z := (before s n).z
    let now := (before s n).now
    z.dbg.zero = some t0 ∧ t0 ≤ now) ∧
    (let s : State := (on (fun z => { z with dbg := { z.dbg with zero := some 11 } }))
    let n : Nat := 10
    let t0 : Nat := 11
    let z := (before s n).z
    let now := (before s n).now
    z.dbg.zero = some t0 ∧ now < t0) ∧
    (let ns : Nat := 1000000
    1000000 ≤ ns) ∧
    (let s : State := (on (fun z => { z with dbg := { z.dbg with lockTo := some 10 } }))
    let n : Nat := 10
    let t0 : Nat := 10
    let z := (before s n).z
    z.dbg.lockTo = some t0) ∧
    (let s : State := (on (fun z => { z with dbg := { z.dbg with consent := some ⟨1, 1, 10⟩ } }))
    let n : Nat := 10
    let k : Token := ⟨1, 1, 10⟩
    let z := (before s n).z
    z.dbg.consent = some k) := by
  refine ⟨?_, ?_, ?_, ?_, ?_⟩ <;> decide +kernel

/-- The hypotheses of every clause of PowerStatesMove can be met. -/
theorem test_power_states_move_met :
    (let s : State := (on (fun z => { z with pwr := { z.pwr with doze := true } }) (fun c => { c with sr := { c.sr with st := 3 } }))
    let n : Nat := 0
    let x := before s n
    let z := x.z
    closedUp z = false ∧ z.pwr.st = 0 ∧ z.pwr.doze = true ∧ allAsleep x = true ∧ homesEmpty z = true) ∧
    (let s : State := (on (fun z => put [(zmcBase + 0x600, 0x10)] { z with pwr := { z.pwr with st := 3 } }))
    let n : Nat := tuPerMs
    let x := before s n
    let z := x.z
    let ms := getF z (zmcBase + 0x0600) 19 4
    z.pwr.st = 3 ∧ ms ≠ 0 ∧ z.pwr.inAt + ms * tuPerMs ≤ x.now) ∧
    (let s : State := (on (fun z => { z with pwr := { z.pwr with st := 2, ret := some ⟨0, 0, 1, 1, 0, []⟩ } }))
    let n : Nat := 0
    let r : RetainSt := ⟨0, 0, 1, 1, 0, []⟩
    let x := before s n
    let z := x.z
    closedUp z = false ∧ z.pwr.st = 2 ∧ z.pwr.ret = some r) ∧
    (let s : State := (on (fun z => { z with pwr := { z.pwr with st := 4, save := some ⟨[], []⟩, ret := some ⟨0, 0, 1, 1, 0, []⟩ } }))
    let n : Nat := 0
    let r : RetainSt := ⟨0, 0, 1, 1, 0, []⟩
    let a : SaveArea := ⟨[], []⟩
    let x := before s n
    let z := x.z
    z.pwr.st = 4 ∧ z.pwr.save = some a ∧ z.pwr.ret = some r) := by
  refine ⟨?_, ?_, ?_, ?_⟩ <;> decide +kernel

/-- The hypotheses of every clause of RetestGoesOn can be met. -/
theorem test_retest_goes_on_met :
    (let s : State := (on (fun z => { z with boot := { z.boot with rtCourse := 5, rtState := 1 } }) (fun c => { c with sr := { c.sr with st := 3 }, lk := { c.lk with st := 0 } }))
    let n : Nat := 0
    let c : CourseId := 5
    let x := before s n
    let z := x.z
    closedUp s.sys.z = false ∧ z.boot.rtCourse = c.val ∧ z.boot.rtState = 1 ∧ (z.cinfo[c].fence ≠ 0 ∨ (crsDrained x c = true ∧ crsQuiet x.crs[c] = true))) ∧
    (let s : State := (on (fun z => { z with boot := { z.boot with rtCourse := 5, rtState := 2 } }))
    let n : Nat := 0
    let c : CourseId := 5
    let obs : List BistObs := []
    let x := before s n
    let z := x.z
    let bg := bistBg z
    closedUp s.sys.z = false ∧ z.boot.rtCourse = c.val ∧ z.boot.rtState = 2 ∧ (∀ o ∈ obs, o.rows1 = [] ∧ o.steps = bistLen ((memWords o.mem).getD 0) bg ∧ o.sig = Config.bistRef o.mem bg)) ∧
    (let s : State := (on (fun z => { z with boot := { z.boot with rtCourse := 5, rtState := 2 } }))
    let n : Nat := 0
    let c : CourseId := 5
    let x := before s n
    let z := x.z
    closedUp s.sys.z = false ∧ z.boot.rtCourse = c.val ∧ z.boot.rtState = 2) ∧
    (let s : State := (on (fun z => { z with boot := { z.boot with rtCourse := 5, rtState := 3 } }))
    let n : Nat := 0
    let c : CourseId := 5
    let x := before s n
    let z := x.z
    closedUp s.sys.z = false ∧ z.boot.rtCourse = c.val ∧ z.boot.rtState = 3 ∧ z.cinfo[c].trained = true) ∧
    (let s : State := (on (fun z => { z with boot := { z.boot with rtCourse := 5, rtState := 3 }, cinfo := Vector.replicate 16 {} }))
    let n : Nat := 0
    let c : CourseId := 5
    let x := before s n
    let z := x.z
    closedUp s.sys.z = false ∧ z.boot.rtCourse = c.val ∧ z.boot.rtState = 3 ∧ z.cinfo[c].trained = false) ∧
    (let s : State := (on (fun z => ports { z with boot := { z.boot with rtState := 2 }, bays := Vector.replicate 8 { q := [qreq .rdShared] } }))
    let n : Nat := (2000000 * tuPerUs)
    let c : CourseId := 0
    let b : BayId := 0
    let r : QReq := (qreq .rdShared)
    let loc : Nat := 0
    let x := before s n
    let z := x.z
    closedUp s.sys.z = false ∧ z.boot.rtCourse = c.val ∧ homesRun z = true ∧ z.boot.rtState ≠ 0 ∧ z.bays[b].q = [r] ∧ r.dest = some (c, loc) ∧ liveFinal z r.port = true ∧ isWr r.kind = false ∧ r.lines = 1 ∧ stallFrom z r + getF z (secBase + 0x3020) 19 4 * tuPerUs ≤ x.now) := by
  refine ⟨?_, ?_, ?_, ?_, ?_, ?_⟩ <;> decide +kernel

/-- The hypotheses of every clause of PartnerMessagesAreTaken can be met. -/
theorem test_partner_messages_are_taken_met :
    (let s : State := (on (fun z => put (mapW ++ mirW 1) z))
    let n : Nat := 0
    let addr : BitVec 64 := 0x40
    let lvl : Byte := 7
    let c : CourseId := 0
    let loc : Nat := 64
    let z := (before s n).z
    let ok : Bool := decide (quoin z = true ∧ lvlOk z lvl.toNat = true)
    let b := bayOf c
    homesRun s.sys.z = true ∧ ok ∧ ([0, 1] : List HomeId).findSome? (fun h => (decodeAddr z h addr.toNat).map (fun p => (h, p))) = some (homeOf c, c, loc) ∧ (mirFind z 1 addr.toNat).isSome = true ∧ mayRequest z 20 b = true ∧ bitsOf (wordAt z (polReg (bayHome b) 20)) 0 0 = 0 ∧ bitsOf (wordAt z (polReg (bayHome b) 20)) 4 4 = 0) ∧
    (let s : State := (on (fun z => put (mapW ++ mirW 1) z))
    let n : Nat := 0
    let lvl : Byte := 9
    let z := (before s n).z
    homesRun s.sys.z = true ∧ quoin z = true ∧ lvlOk z lvl.toNat = false) ∧
    (let s : State := (on (fun z => put (mapW ++ mirW 1) z))
    let n : Nat := 0
    let addr : BitVec 64 := 0x40
    let lvl : Byte := 7
    let c : CourseId := 0
    let loc : Nat := 64
    let z := (before s n).z
    let ok : Bool := decide (quoin z = true ∧ lvlOk z lvl.toNat = true)
    homesRun s.sys.z = true ∧ ok ∧ 7 ≤ lvl.toNat ∧ ([0, 1] : List HomeId).findSome? (fun h => decodeAddr z h addr.toNat) = some (c, loc) ∧ (mirFind z 1 addr.toNat).isSome = true) ∧
    (let s : State := (on (fun z => put (mapW ++ mirW 0) { z with pair := { z.pair with mirs := Vector.replicate 8 { st := 1 } } }))
    let n : Nat := 0
    let lvl : Byte := 6
    let z := (before s n).z
    let ok : Bool := decide (quoin z = true ∧ lvlOk z lvl.toNat = true)
    homesRun s.sys.z = true ∧ ok ∧ z.pair.fault = none) ∧
    (let s : State := (on id)
    let n : Nat := 0
    let z := (before s n).z
    homesRun s.sys.z = true ∧ quoin z = false) := by
  refine ⟨?_, ?_, ?_, ?_, ?_⟩ <;> decide +kernel

/-- The hypotheses of every clause of MirroredLinesMove can be met. -/
theorem test_mirrored_lines_move_met :
    (let s : State := (on (fun z => put (mapW ++ mirW 0) { z with pair := { z.pair with acks := [0] }, homes := z.homes.set 0 { z.homes[0] with hrq := [hreq .wrFull .peer] } }))
    let n : Nat := 0
    let addr : BitVec 64 := 0x100000000
    let a : BitVec 64 := 0
    let r : HReq := (hreq .wrFull .peer)
    let z := (before s n).z
    let waits (q : HReq) : Bool := q.ph == .peer && isWr q.kind && q.addr.toNat / 64 == a.toNat / 64
    homesRun s.sys.z = true ∧ z.pair.acks.find? (fun a => atPeer z a == some addr) = some a ∧ z.pair.flight = [] ∧ (∀ i : Fin 8, z.pair.mirs[i].st ≠ 4) ∧ z.homes[(0 : Fin 2)].hrq.find? waits = some r ∧ homeOf r.crs = 0 ∧ r.mirror = false ∧ r.orphan = false) ∧
    (let s : State := (on (fun z => put (mapW ++ mirW 0) { z with pair := { z.pair with reads := [(0, 7, false)] }, homes := z.homes.set 0 { z.homes[0] with hrq := [hreq .rdCur .peer] } }))
    let n : Nat := 0
    let addr : BitVec 64 := 0x100000000
    let r : HReq := (hreq .rdCur .peer)
    let p : BitVec 64 × Nat × Bool := (0, 7, false)
    let z := (before s n).z
    homesRun s.sys.z = true ∧ z.pair.reads.find? (fun p => atPeer z p.1 == some addr) = some p ∧ p.2.1 = r.rid ∧ r.rid ≠ 0 ∧ p.2.2 = false ∧ r.addr = p.1 ∧ homeOf r.crs = 0 ∧ r.mirror = false ∧ r.orphan = false ∧ z.homes[(0 : Fin 2)].hrq.find? (fun q => q.rid == p.2.1 && q.ph == .peer && q.addr == p.1) = some r) ∧
    (let s : State := (on id)
    let n : Nat := 0
    let z := (before s n).z
    homesRun s.sys.z = true ∧ z.pair.reads = []) ∧
    (let s : State := (on (fun z => put (mapW ++ mirW 0) { z with pair := { z.pair with mirs := z.pair.mirs.set 0 { st := 4, pull := true } } }))
    let n : Nat := 0
    let h : HomeId := 0
    let k : Nat := 0
    let o : Nat := 0
    let loc : Nat := 0
    let c : CourseId := 0
    let z := (before s n).z
    homesRun s.sys.z = true ∧ closedUp z = false ∧ (∀ i : Fin 8, z.pair.mirs[i].lose = false) ∧ (List.range 8).find? (fun r => z.pair.mirs[toMir r].st == 4 && decide (z.pair.mirs[toMir r].pos[h] < (mirOf z r).size)) = some k ∧ z.pair.mirs[toMir k].pull = true ∧ z.pair.mirs[toMir k].frs = [] ∧ inFlight z h < getF z (zmcBase + 0x0C00) 11 8 ∧ nextLine z h (mirOf z k) 2048 z.pair.mirs[toMir k].pos[h] = some (o, c, loc) ∧ busyLine z h c (loc / 64) = false ∧ z.cinfo[c].fence = 0) := by
  refine ⟨?_, ?_, ?_, ?_⟩ <;> decide +kernel

/-- The hypotheses of every clause of StepRunsFrontCommand can be met. -/
theorem test_step_runs_front_command_met :
    (let c : Instr := (.query 0 0)
    let s : State := { (ask 0 1 []) with pending := [.query 0 0] }
    let rest : List Instr := []
    s.pending = c :: rest) := by
  decide +kernel

/-- The hypotheses of every clause of QueueAndTimeGoOn can be met. -/
theorem test_queue_and_time_go_on_met :
    (let s : State := { (ask 0 1 []) with pending := [.query 0 0] }
    let c : Instr := (.query 0 0)
    let rest : List Instr := []
    s.pending = c :: rest ∧ (match step s with | .next u => decide (u.pending = rest ∧ s.sys.now ≤ u.sys.now) | _ => false) = true) ∧
    (let s : State := (ask 0 1 [])
    s.pending = []) := by
  refine ⟨?_, ?_⟩ <;> decide +kernel

/-- The hypotheses of every clause of StopsOnlyOnImpossibleOperands can be met. -/
theorem test_stops_only_on_impossible_operands_met :
    (let c : Instr := (.query 0 0)
    c.wf = true) ∧
    (let c : Instr := (.sensorSample 0 [])
    c.wf = false) := by
  refine ⟨?_, ?_⟩ <;> decide +kernel

/-- The hypotheses of every clause of RowsStayInTheirIslands can be met. -/
theorem test_rows_stay_in_their_islands_met :
    (let i : Instr := (.clearRequest 0 0)
    let s : State := (on id)
    let c : CourseId := 0
    let d : CourseId := 1
    (match exec i s with | .next u => decide (u.sys.crs[d] = s.sys.crs[d]) | _ => false) = true ∧ courseOf i = some c ∧ d ≠ c) ∧
    (let i : Instr := (.bayGrant 0 0)
    let s : State := (on id)
    let d : CourseId := 1
    (match exec i s with | .next u => decide (u.sys.crs[d] = s.sys.crs[d]) | _ => false) = true ∧ outsideCourses i = true) := by
  refine ⟨?_, ?_⟩ <;> decide +kernel

/-- The hypotheses of every clause of FusesOnlyBlow can be met. -/
theorem test_fuses_only_blow_met :
    (let s : State := { (on (fun z => { z with mgt := { z.mgt with jobs := [⟨3, 0x0303, 9, 1, .fuses, 0xFF, 0xFF, 0, 0⟩] }, boot := { z.boot with spares := [(0x80, ⟨3, false⟩)] } })) with pending := [.acceptedComplete 0 3 true] }
    (match step s with | .next u => decide (u.fuse ≠ s.fuse ∧ u.fuse.variant = s.fuse.variant) | _ => false) = true) := by
  decide +kernel

/-- The hypotheses of every clause of HeldZmcStaysHeld can be met. -/
theorem test_held_zmc_stays_held_met :
    (let s : State := { (on (fun z => { z with boot := { z.boot with hold := 3 } })) with pending := [.selectCommit 7500 0 0] }
    s.sys.z.boot.hold = 3 ∧ s.sys.z.pwr.st < 3 ∧ (∀ c ∈ s.pending.head?, resetRow c = false) ∧ (match step s with | .next u => decide (u.sys.z.boot = s.sys.z.boot) | _ => false) = true) := by
  decide +kernel

/-- The hypotheses of every clause of DebugRegistersTakeClassFiveOnly can be met. -/
theorem test_debug_registers_take_class_five_only_met :
    (let s : State := (on id)
    let n : Nat := 0
    let o : Orig := 3
    let off : BitVec 24 := (BitVec.ofNat 24 (secBase + 0x2000))
    let z := (before s n).z
    closedUp s.sys.z = false ∧ o ≠ 5 ∧ dbgReg off.toNat = true ∧ off.toNat % 4 = 0 ∧ (regDef off.toNat).isSome = true ∧ swHit z (before s n).now (zmcBase + 0x0100) = false) := by
  decide +kernel

/-- The hypotheses of every clause of EmptyMaskChangesNothing can be met. -/
theorem test_empty_mask_changes_nothing_met :
    (let s : State := (on id)
    let n : Nat := 0
    let o : Orig := 3
    let v : BitVec 64 := 0x5
    let x := before s n
    closedUp s.sys.z = false ∧ mayWrite x.z o.val (zmcBase + 0x0058) = true ∧ v.extractLsb' 16 16 = 0 ∧ x.z.plumb.own = []) := by
  decide +kernel

/-- The hypotheses of every clause of IslandBistFencesOrHolds can be met. -/
theorem test_island_bist_fences_or_holds_met :
    (let s : State := (on (fun z => { z with boot := { z.boot with phase := 3 } }))
    let n : Nat := 0
    let obs : List BistObs := []
    let bad : List CourseId := [3]
    let eng : List HomeId := []
    let z := (before s n).z
    closedUp s.sys.z = false ∧ s.sys.z.boot.phase = 3 ∧ (∀ o ∈ obs, o.rows1 = [] ∧ o.steps = bistLen ((memWords o.mem).getD 0) 2 ∧ o.sig = Config.bistRef o.mem 2) ∧ eng = [] ∧ (∃ e : CourseId, liveCrs z e = true ∧ e ∉ bad)) ∧
    (let s : State := (on (fun z => { z with boot := { z.boot with phase := 3 } }))
    let obs : List BistObs := []
    let eng : List HomeId := [1]
    closedUp s.sys.z = false ∧ s.sys.z.boot.phase = 3 ∧ (∀ o ∈ obs, o.rows1 = [] ∧ o.steps = bistLen ((memWords o.mem).getD 0) 2 ∧ o.sig = Config.bistRef o.mem 2) ∧ eng ≠ []) := by
  refine ⟨?_, ?_⟩ <;> decide +kernel

/-- The hypotheses of every clause of CoursesTrain can be met. -/
theorem test_courses_train_met :
    (let s : State := (on (fun z => { z with boot := { z.boot with phase := 5 }, cinfo := Vector.replicate 16 {} }))
    let n : Nat := 0
    let c : CourseId := 2
    let o : TrainObs := ⟨true, [], [], [], [], 2, 1, 16, [], [], [], [], 40⟩
    let z := (before s n).z
    closedUp s.sys.z = false ∧ s.sys.z.boot.phase = 5 ∧ liveCrs s.sys.z c = true ∧ s.sys.z.cinfo[c].trained = false ∧ potrieOn s.sys.z = true ∧ restoreJob s.sys.z c.val = none ∧ o.linkUp = true ∧ topoOk o = true ∧ o.badUp = [] ∧ o.badDn = [] ∧ o.slowUp = [] ∧ o.slowDn = [] ∧ o.badCa = [] ∧ o.badDev = [] ∧ (∀ w ∈ o.sweeps, sweepOk z w = true) ∧ trainF z 0 15 0 = 8800 ∧ trainF z 0 31 16 ≤ 8800 ∧ (∀ (pr : Fin 4) (sub : Fin 2), markOf (crsBefore s n c) pr.val sub.val = none)) ∧
    (let s : State := (on (fun z => { z with boot := { z.boot with phase := 5 }, cinfo := Vector.replicate 16 {} }))
    let n : Nat := 0
    let c : CourseId := 2
    let d : CourseId := 1
    let o : TrainObs := ⟨false, [], [], [], [], 2, 1, 16, [], [], [], [], 40⟩
    let z := (before s n).z
    closedUp s.sys.z = false ∧ s.sys.z.boot.phase = 5 ∧ liveCrs s.sys.z c = true ∧ s.sys.z.cinfo[c].trained = false ∧ potrieOn s.sys.z = true ∧ restoreJob s.sys.z c.val = none ∧ o.linkUp = false ∧ d ≠ c ∧ liveCrs z d = true) ∧
    (let s : State := (on (fun z => { z with boot := { z.boot with phase := 5 }, cinfo := Vector.replicate 16 {} }))
    let n : Nat := (500 * tuPerMs)
    let c : CourseId := 2
    let d : CourseId := 1
    let z := (before s n).z
    closedUp s.sys.z = false ∧ s.sys.z.boot.phase = 5 ∧ liveCrs s.sys.z c = true ∧ s.sys.z.cinfo[c].trained = false ∧ potrieOn s.sys.z = true ∧ restoreJob s.sys.z c.val = none ∧ z.boot.trainAt + trainF z 1 31 16 * tuPerMs ≤ (before s n).now ∧ d ≠ c ∧ liveCrs z d = true) := by
  refine ⟨?_, ?_, ?_⟩ <;> decide +kernel

/-- The hypotheses of every clause of MemoryErrors can be met. -/
theorem test_memory_errors_met :
    (let s : State := (on id)
    let n : Nat := 0
    let mem : Nat := 192
    let x := before s n
    let z := x.z
    memRuns z mem = true) ∧
    (let s : State := (on id)
    let n : Nat := 0
    let mem : Nat := 126
    let c : CourseId := 15
    let x := before s n
    let z := x.z
    memRuns z mem = true ∧ mem < 128 ∧ mem / 8 = c.val ∧ z.cinfo[c].fence = 0) ∧
    (let s : State := (on id)
    let n : Nat := 0
    let mem : Nat := 168
    let x := before s n
    let z := x.z
    memRuns z mem = true ∧ mem = 168) ∧
    (let s : State := (on id)
    let n : Nat := 0
    let mem : Nat := 129
    let x := before s n
    let z := x.z
    memRuns z mem = true ∧ mem = 129) := by
  refine ⟨?_, ?_, ?_, ?_⟩ <;> decide +kernel

end Sys2Proof.Tests
end

/-! SUPPORT. A write to a register of MSK fields with no mask bit set: it leaves only the record that the word was written (R32, R44). -/

namespace Sys2Proof.Machine

@[simp] theorem mix_self (w m : Word) : mix w w m = w := by
  unfold mix
  rw [← BitVec.and_or_distrib_left, BitVec.or_comm, BitVec.or_not_self, BitVec.and_allOnes]

/-! ### Any register of MSK fields -/

/-- Every class may write a field that is not SEC, outside the backgrounds of a re-test. -/
theorem secField_of_ne_sec (z : Zmc) (o : Nat) {off : Nat} {f : Fld} (ho : off ≠ secBase + 0x3020) (hf : f.cls ≠ .sec) :
    secField z o off f = true := by
  simp [secField, ho, hf]

/-- An MSK field takes nothing from a write with no mask bit, and refuses nothing. -/
theorem wrField_msk_noMask (z : Zmc) (o : Nat) {off : Nat} {v : Word} (clr : Bool) (a : WrRes) {f : Fld} (ho : off ≠ secBase + 0x3020)
    (hf : f.cls = .msk) (hv : v >>> 16 = 0) : wrField z o off v clr a f = a := by
  have hs : secField z o off f = true := secField_of_ne_sec z o ho (by simp [hf])
  simp [wrField, hf, hs, hv]

/-- The result of a write that leaves the word at `off` and its pending value as they are, and that nothing refuses. -/
def WrRes.keep (z : Zmc) (off : Nat) : WrRes := { act := wordAt z off, pend := pendWord z off }

section
variable {off : Nat} {d : RegDef} (hd : regDef off = some d) (hf : ∀ f ∈ d.flds, f.cls = .msk)
include hd hf

theorem wrRes_msk_noMask (z : Zmc) (now o : Nat) {v : Word} (ho : off ≠ secBase + 0x3020) (hv : v >>> 16 = 0) :
    wrRes z now o off v = .keep z off := by
  simp only [wrRes, hd]
  exact (List.foldl_ext _ (fun a _ => a) _ (fun a f hm => wrField_msk_noMask z o _ a ho (hf f hm) hv)).trans (List.foldl_fixed _)

/-- A word that a write keeps is only noted as written: a register of MSK fields has no count to lose. -/
theorem putRes_msk_keep (z : Zmc) (now o : Nat) : putRes z now o off (.keep z off) = logSw z now off 0 := by
  have hc : d.flds.any (fun f => f.cls == .cnt) = false := List.any_eq_false.2 (fun f hm => by simp [hf f hm])
  simp [putRes, WrRes.keep, hd, hc]

theorem takeWord_msk_noMask (x : Sys) (o : Nat) {v : Word} (ho : off ≠ secBase + 0x3020) (hv : v >>> 16 = 0) (hm : mntBusy x off v = false) :
    takeWord x o off v = onZmc x (fun z now => logSw z now off 0) := by
  have hi : (WrRes.keep x.z off).imm = false := rfl
  simp [takeWord, hm, wrRes_msk_noMask hd hf x.z x.now o ho hv, hi, onZmc, putRes_msk_keep hd hf]

theorem takeWords_msk_noMask (x : Sys) (o : Nat) {v : Word} (ho : off ≠ secBase + 0x3020) (hv : v >>> 16 = 0) (hm : mntBusy x off v = false) :
    takeWords x o off [(off, v)] = onZmc x (fun z now => logSw z now off 0) := by
  have hw : (WrRes.keep x.z off).why = [] := rfl
  simp [takeWords, wrRes_msk_noMask hd hf x.z x.now o ho hv, hw, dropWhy, takeWord_msk_noMask hd hf x o ho hv hm]

end

/-! ### The MSK register of the ZMC block -/

theorem blockOf_zmcMsk : blockOf (zmcBase + 0x0058) = some (1, 0, 0x010000) := by decide
theorem regDef_zmcMsk : regDef (zmcBase + 0x0058) = some (w 0x0058 [⟨31, 0, .msk, 0, false⟩]) := by decide

@[simp] theorem backed_zmcMsk (z : Zmc) : backed z (zmcBase + 0x0058) = true := by
  simp [backed, blockOf_zmcMsk, regDef_zmcMsk]

@[simp] theorem mntBusy_zmcMsk (x : Sys) (v : Word) : mntBusy x (zmcBase + 0x0058) v = false := by
  simp [mntBusy, blockOf_zmcMsk]

theorem wordWrite_zmcMsk (x : Sys) (o : Orig) (v : Word) (hu : closedUp x.z = false) (hw : mayWrite x.z o.val (zmcBase + 0x0058) = true) :
    wordWrite x o (zmcBase + 0x0058) v = takeWords x o.val (zmcBase + 0x0058) [(zmcBase + 0x0058, v)] := by
  have hm : mbxAt (zmcBase + 0x0058) = none := by decide
  have hl : wideLow (zmcBase + 0x0058) = false := by simp [wideLow, regDef_zmcMsk, w]
  have hh : wideHigh (zmcBase + 0x0058) = false := by decide
  simp only [wordWrite, hu, hw, hm, hl, hh, backed_zmcMsk, regDef_zmcMsk]
  simp [zmcBase, mbxBase]

/-- The mask bits of a 32-bit write are bits [31:16] of its data. -/
theorem lowWord_shift_of_noMask {v : BitVec 64} (hv : v.extractLsb' 16 16 = 0) : v.extractLsb' 0 32 >>> 16 = 0 := by
  have hn : v.toNat / 2 ^ 16 % 2 ^ 16 = 0 := by simpa [Nat.shiftRight_eq_div_pow] using congrArg BitVec.toNat hv
  have hz : v.toNat % 2 ^ 32 / 2 ^ 16 = 0 := by omega
  exact BitVec.eq_of_toNat_eq (by simpa [Nat.shiftRight_eq_div_pow] using hz)

/-- The whole of a permitted write with no mask bit to the MSK register: the record that the word was written. -/
theorem busWrite_zmcMsk_noMask (x : Sys) (o : Orig) {v : BitVec 64} (hu : closedUp x.z = false) (hw : mayWrite x.z o.val (zmcBase + 0x0058) = true)
    (hv : v.extractLsb' 16 16 = 0) :
    busWrite x o (zmcBase + 0x0058) .b4 v = onZmc x (fun z now => logSw z now (zmcBase + 0x0058) 0) := by
  have hz : v.extractLsb' 0 32 >>> 16 = 0 := lowWord_shift_of_noMask hv
  calc busWrite x o (zmcBase + 0x0058) .b4 v
      = wordWrite x o (zmcBase + 0x0058) (v.extractLsb' 0 32) := by simp [busWrite, accBytes, zmcBase]
    _ = takeWords x o.val (zmcBase + 0x0058) [(zmcBase + 0x0058, v.extractLsb' 0 32)] := wordWrite_zmcMsk x o _ hu hw
    _ = onZmc x (fun z now => logSw z now (zmcBase + 0x0058) 0) :=
        takeWords_msk_noMask regDef_zmcMsk (by simp [w]) x o.val (by decide) hz (mntBusy_zmcMsk x _)

/-! ### The end of the command -/

theorem newFences_of_cinfo_eq {x y : Sys} (h : y.z.cinfo = x.z.cinfo) : newFences x y = [] := by
  simp [newFences, h]

end Sys2Proof.Machine

/-! SUPPORT. Chapter 2, register behaviour: the statements settled. -/

namespace Sys2Proof.Proofs
open Sys2Proof.Machine

/-- Settles O9: the write adds only to the record of software writes, so the command ends as it stands. -/
theorem emptyMaskChangesNothing : Obligations.EmptyMaskChangesNothing := by
  unfold Obligations.EmptyMaskChangesNothing
  intro s n o v hu x hw hv hown
  have hx : closedUp x.z = false := by simpa [x, before_eq] using hu
  have hoff : (BitVec.ofNat 24 (zmcBase + 0x0058)).toNat = zmcBase + 0x0058 := by decide
  have hend : closeCmd x (onZmc x (fun z now => logSw z now (zmcBase + 0x0058) 0)) = onZmc x (fun z now => logSw z now (zmcBase + 0x0058) 0) :=
    closeCmd_id (newFences_of_cinfo_eq rfl) hown
  refine gives_cmd (exec_registerWrite n o _ .b4 v s) ?_
  rw [hoff, busWrite_zmcMsk_noMask (before s n) o hx hw hv, hend]
  exact ⟨fun _ => rfl, rfl, rfl, rfl, rfl, rfl⟩

end Sys2Proof.Proofs

/-! SUPPORT. What a course reports to its home, and the reads and writes whose stamps dck_now has reached (R118, R145, R146). -/

namespace Sys2Proof.Machine

/-! ### The joints to the home -/

@[simp] theorem sendStat_n (x : Cx) (m : JStat) : (sendStat x m).n = x.n := rfl
@[simp] theorem sendStat_c (x : Cx) (m : JStat) : (sendStat x m).c = x.c := rfl
@[simp] theorem sendStat_jdat (x : Cx) (m : JStat) : (sendStat x m).z.jdat = x.z.jdat := rfl
@[simp] theorem sendData_n (x : Cx) (j : JData) : (sendData x j).n = x.n := rfl
@[simp] theorem sendData_c (x : Cx) (j : JData) : (sendData x j).c = x.c := rfl
@[simp] theorem sendData_jsts (x : Cx) (j : JData) : (sendData x j).z.jsts = x.z.jsts := rfl

@[simp] theorem sendStat_jsts {x : Cx} {c : CourseId} (m : JStat) (h : x.n = c) : (sendStat x m).z.jsts[c.val] = x.z.jsts[c.val] ++ [m] := by
  subst h; exact modV_same ..

@[simp] theorem sendData_jdat {x : Cx} {c : CourseId} (j : JData) (h : x.n = c) : (sendData x j).z.jdat[c.val] = x.z.jdat[c.val] ++ [j] := by
  subst h; exact modV_same ..

@[simp] theorem foldl_sendStat_n (l : List JStat) (x : Cx) : (l.foldl sendStat x).n = x.n := by
  induction l generalizing x with
  | nil => rfl
  | cons m l ih => exact ih (sendStat x m)

@[simp] theorem foldl_sendStat_c (l : List JStat) (x : Cx) : (l.foldl sendStat x).c = x.c := by
  induction l generalizing x with
  | nil => rfl
  | cons m l ih => exact ih (sendStat x m)

theorem foldl_sendStat_jsts (l : List JStat) (x : Cx) : (l.foldl sendStat x).z.jsts[x.n.val] = x.z.jsts[x.n.val] ++ l := by
  induction l generalizing x with
  | nil => simp
  | cons m l ih =>
    calc (l.foldl sendStat (sendStat x m)).z.jsts[x.n.val]
        = (sendStat x m).z.jsts[x.n.val] ++ l := ih (sendStat x m)
      _ = x.z.jsts[x.n.val] ++ m :: l := by simp

/-! ### Stamps reached -/

/-- The column command of an entry in this phase has been committed, and its stamp is `d` or before. -/
def QPh.reached (d : Nat) : QPh → Bool
  | .committed s => decide (s ≤ d)
  | _ => false

theorem QPh.reached_iff {d : Nat} {p : QPh} : p.reached d = true ↔ ∃ s, p = .committed s ∧ s ≤ d := by
  cases p <;> simp [QPh.reached]

/-- What a write that leaves its entry reports: its credit, and that it is served. -/
def WEnt.reports (w : WEnt) : List JStat := [if w.wb then .wb else .wr, .served w.id]

theorem served_mem_reports {w : WEnt} {id : Nat} : JStat.served id ∈ w.reports ↔ w.id = id := by
  cases h : w.wb <;> simp [WEnt.reports, h, eq_comm]

/-- What a course reports when dck_now is `d`: the writes that leave their entries, then the reads not yet reported. -/
def CourseSt.reports (c : CourseSt) (d : Nat) : List JStat :=
  (c.wrq.filter (fun w => w.ph.reached d)).flatMap WEnt.reports ++
    (c.rdq.filter (fun r => r.ph.reached d && !r.srv)).map (fun r => .served r.id)

theorem served_mem_course_reports {c : CourseSt} {d id : Nat} : JStat.served id ∈ c.reports d ↔
    (∃ w ∈ c.wrq, w.id = id ∧ w.ph.reached d = true) ∨ ∃ r ∈ c.rdq, r.id = id ∧ r.srv = false ∧ r.ph.reached d = true := by
  simp only [CourseSt.reports, List.mem_append, List.mem_flatMap, List.mem_filter, served_mem_reports, List.mem_map, JStat.served.injEq,
    Bool.and_eq_true, Bool.not_eq_true']
  grind

/-- What STAMP_REACHED does: the course reports, the writes leave their entries, the reads keep theirs and stand as reported. Beside this it counts
rows closed by an emergency, forgets tags and stamps that are past, and notes since when its queues are empty. -/
theorem stampReached_eq (x : Cx) : ∃ k tags rows out empty, stampReached x =
    (((x.c.reports x.dck).foldl sendStat x).cntN 0x1240 k).onC (fun c => { c with
      wrq := c.wrq.filter (fun w => !w.ph.reached x.dck)
      rdq := c.rdq.map (fun r => if r.ph.reached x.dck then { r with srv := true } else r)
      tags := tags
      preRows := rows
      engOut := out
      emptyAt := empty }) := by
  simp only [CourseSt.reports, List.foldl_append, List.foldl_flatMap, List.foldl_map]
  exact ⟨_, _, _, _, _, rfl⟩

theorem stampReached_jsts (x : Cx) : (stampReached x).z.jsts[x.n.val] = x.z.jsts[x.n.val] ++ x.c.reports x.dck := by
  obtain ⟨k, _, _, _, _, hx⟩ := stampReached_eq x
  simp [hx, foldl_sendStat_jsts]

theorem stampReached_wrq (x : Cx) : (stampReached x).c.wrq = x.c.wrq.filter (fun w => !w.ph.reached x.dck) := by
  obtain ⟨k, _, _, _, _, hx⟩ := stampReached_eq x
  simp [hx]

theorem stampReached_rdq (x : Cx) :
    (stampReached x).c.rdq = x.c.rdq.map (fun r => if r.ph.reached x.dck then { r with srv := true } else r) := by
  obtain ⟨k, _, _, _, _, hx⟩ := stampReached_eq x
  simp [hx]

theorem stampReached_retry (x : Cx) : (stampReached x).c.retry = x.c.retry := by
  obtain ⟨k, _, _, _, _, hx⟩ := stampReached_eq x
  simp [hx]

theorem stampReached_cal (x : Cx) : (stampReached x).c.cal = x.c.cal := by
  obtain ⟨k, _, _, _, _, hx⟩ := stampReached_eq x
  simp [hx]

/-- Every read keeps its entry and its phase (R145: its line has still to cross). -/
theorem stampReached_rdq_kept (x : Cx) :
    (stampReached x).c.rdq.map (fun r => (r.ent, r.id, r.ph)) = x.c.rdq.map (fun r => (r.ent, r.id, r.ph)) := by
  rw [stampReached_rdq, List.map_map]
  refine List.map_congr_left (fun r _ => ?_)
  simp only [Function.comp_apply]
  split <;> rfl

/-- A read whose stamp has been reached stands as reported. -/
theorem stampReached_srv {x : Cx} {r : REnt} (hr : r ∈ (stampReached x).c.rdq) (hp : r.ph.reached x.dck = true) : r.srv = true := by
  rw [stampReached_rdq, List.mem_map] at hr
  obtain ⟨q, _, rfl⟩ := hr
  by_cases hq : q.ph.reached x.dck = true
  · simp [hq]
  · simp [hq] at hp

end Sys2Proof.Machine

/-! SUPPORT. A read of a FRESH region that enters the course: a line of zeros answers it, and nothing is queued for the DRAM (R264, R146). -/

namespace Sys2Proof.Machine

theorem rgOnly_forceDrain (x : Cx) : RgOnly x.z (forceDrain x).z := rgOnly_cxCnt (x.onC (fun c => { c with mode := 2 })) 0x1228
@[simp] theorem forceDrain_c (x : Cx) : (forceDrain x).c = { x.c with mode := 2 } := rfl

/-- Table 8-9 at an enqueue: outside the course only counters change, and of the course only the mode. -/
theorem modeOnEnq_only (x : Cx) (read : Bool) :
    RgOnly x.z (modeOnEnq x read).z ∧ ∃ m, (modeOnEnq x read).c = { x.c with mode := m } := by
  obtain ⟨m, hm⟩ : ∃ m, (if x.c.mode = 1 ∧ read = true then x.onC (fun c => { c with mode := 0 }) else x) = x.onC (fun c => { c with mode := m }) := by
    split
    · exact ⟨0, rfl⟩
    · exact ⟨x.c.mode, rfl⟩
  have hd : RgOnly x.z (forceDrain (x.onC (fun c => { c with mode := m }))).z := rgOnly_forceDrain (x.onC (fun c => { c with mode := m }))
  simp only [modeOnEnq, hm]
  split
  · exact ⟨.refl _, m, rfl⟩
  · split
    · exact ⟨hd, 2, rfl⟩
    · split
      · exact ⟨hd, 2, rfl⟩
      · exact ⟨.refl _, m, rfl⟩

/-- From `x` to `y` the course has answered a read with a line of zeros and reported it served; it has planned nothing for the DRAM, and its fresh
map is as it was. -/
structure ZerosSent (x y : Cx) (id line : Nat) : Prop where
  jdat : y.z.jdat[x.n.val] = x.z.jdat[x.n.val] ++ [⟨id, line, 0, false, false, true⟩]
  jsts : y.z.jsts[x.n.val] = x.z.jsts[x.n.val] ++ [.served id]
  plan : y.c.plan = x.c.plan
  cal : y.c.cal = x.c.cal
  fm : y.c.fm = x.c.fm

/-- A line of zeros is a count, two messages, and an entry whose line is in the joint. -/
theorem zeroRead_eq (x : Cx) (r : REnt) : zeroRead x r =
    (sendStat (sendData (x.cnt 0x2080) ⟨r.id, r.line, 0, false, false, true⟩) (.served r.id)).onC (fun c => { c with
      rdq := replaceFirst (fun e => e.ord == r.ord) (fun e => { e with ph := .back, srv := true }) c.rdq }) := by
  unfold zeroRead
  rfl

theorem zeroRead_c (x : Cx) (r : REnt) : (zeroRead x r).c =
    { x.c with rdq := replaceFirst (fun e => e.ord == r.ord) (fun e => { e with ph := .back, srv := true }) x.c.rdq } := by
  rw [zeroRead_eq, Cx.onC_c, sendStat_c, sendData_c, Cx.cnt_c]

theorem zeroRead_sends (x : Cx) (r : REnt) : ZerosSent x (zeroRead x r) r.id r.line := by
  have hn : (x.cnt 0x2080).n = x.n := Cx.cnt_n ..
  constructor
  · rw [zeroRead_eq, Cx.onC_z, sendStat_jdat, sendData_jdat _ hn, Cx.cnt_z_jdat]
  · rw [zeroRead_eq, Cx.onC_z, sendStat_jsts _ ((sendData_n ..).trans hn), sendData_jsts, Cx.cnt_z_jsts]
  all_goals rw [zeroRead_c]

/-- The modes of Table 8-9 touch neither the joints nor what is planned for the DRAM nor the fresh map. -/
theorem ZerosSent.modeOnEnq {x y : Cx} {id line : Nat} (h : ZerosSent x y id line) (read : Bool) : ZerosSent x (modeOnEnq y read) id line := by
  obtain ⟨hz, m, hm⟩ := modeOnEnq_only y read
  constructor
  · rw [hz.jdat, h.jdat]
  · rw [hz.jsts, h.jsts]
  · rw [hm, h.plan]
  · rw [hm, h.cal]
  · rw [hm, h.fm]

theorem decideRd_of_fresh {x : Cx} {r : REnt} (hf : freshOn x = true) (hr : regionOf x (r.line >>> 16) = .fresh) : decideRd x r = zeroRead x r := by
  simp [decideRd, hf, hr]

/-- The instant of a demand is noted, and the course is not idle (R183, R319). -/
def Cx.noteDemand (x : Cx) : Cx := x.onC (fun c => { c with sr := { c.sr with demand := x.now }, idle := false })

theorem srDemand_of_awake {x : Cx} (h : x.c.sr.st = 0) : srDemand x = (x.noteDemand, false) := by
  simp [srDemand, Cx.noteDemand, Cx.onC, h]

/-- The entry that a read makes when it comes to a course (R144). -/
def rdEntry (x : Cx) (j : JReq) (ent : Nat) (wait : Bool) : REnt :=
  { ent := ent, ord := x.c.ord, id := j.id, line := j.line, at_ := coordOf x j.line, port := j.port, ftg := j.ftg, enq := x.cyc,
    ph := .held, wait := if wait then some x.dck else none, srv := false }

/-- The course with that entry in its read queue. -/
def withRead (x : Cx) (r : REnt) : Cx := x.onC (fun c => { c with ord := c.ord + 1, rdq := c.rdq ++ [r] })

/-- A read is held where a clear or a claim affects its region (R269, R271), and decided at once elsewhere; then the mode may change. -/
theorem enqRead_eq (x : Cx) (j : JReq) (ent : Nat) (wait : Bool) : ∃ demand, enqRead x j ent wait =
    modeOnEnq (if freshOn x && (clearing x (j.line >>> 16) || regionOf x (j.line >>> 16) == .claimed)
      then (withRead x (rdEntry x j ent wait)).cnt 0x20A0
      else decideRd (withRead x (rdEntry x j ent wait)) (rdEntry x j ent wait)) demand := ⟨_, rfl⟩

theorem enqRead_of_fresh {x : Cx} {j : JReq} (hf : freshOn x = true) (hc : clearing x (j.line >>> 16) = false)
    (hr : regionOf x (j.line >>> 16) = .fresh) (ent : Nat) (wait : Bool) : ZerosSent x (enqRead x j ent wait) j.id j.line := by
  obtain ⟨demand, hd⟩ := enqRead_eq x j ent wait
  have hx : ZerosSent x (decideRd (withRead x (rdEntry x j ent wait)) (rdEntry x j ent wait)) j.id j.line := by
    rw [decideRd_of_fresh (x := withRead x (rdEntry x j ent wait)) (r := rdEntry x j ent wait) hf hr]
    have hz := zeroRead_sends (withRead x (rdEntry x j ent wait)) (rdEntry x j ent wait)
    exact ⟨hz.jdat, hz.jsts, hz.plan, hz.cal, hz.fm⟩
  rw [hd]
  simpa [hc, hr] using hx.modeOnEnq demand

/-- The request at the head of the course's joint is taken; `l` stays. -/
def Cx.popReq (x : Cx) (l : List JReq) : Cx := x.onZ (fun z => { z with jreq := modV z.jreq x.n (fun _ => l) })

/-- A read that finds a free entry of its queue enters it, in the wake of what it does to self-refresh. -/
theorem courseEnqueue_read {x : Cx} {j : JReq} {l : List JReq} {e : Nat} (hu : crsUp x = true) (hlk : x.c.lk.st ≠ 4) (hj : x.z.jreq[x.n] = j :: l)
    (hw : j.write = false) (he : lowFree 192 (x.c.rdq.map (fun r => r.ent)) = some e) :
    courseEnqueue x = enqRead (srDemand (x.popReq l)).1 j e (srDemand (x.popReq l)).2 := by
  have hlive : x.info.fence = 0 := by
    simp only [crsUp, liveCrs, Bool.and_eq_true, beq_iff_eq] at hu
    exact hu.1.2
  simp [courseEnqueue, hj, hlive, hlk, hu, hw, he, Cx.popReq]

/-- A read of a FRESH region that a course not in self-refresh takes from its joint. -/
theorem courseEnqueue_of_fresh {x : Cx} {j : JReq} {l : List JReq} {e : Nat} (hu : crsUp x = true) (hlk : x.c.lk.st ≠ 4) (hj : x.z.jreq[x.n] = j :: l)
    (hw : j.write = false) (he : lowFree 192 (x.c.rdq.map (fun r => r.ent)) = some e) (hf : freshOn x = true)
    (hc : clearing x (j.line >>> 16) = false) (hr : regionOf x (j.line >>> 16) = .fresh) (hs : x.c.sr.st = 0) :
    ZerosSent x (courseEnqueue x) j.id j.line := by
  rw [courseEnqueue_read hu hlk hj hw he, srDemand_of_awake (x := x.popReq l) hs]
  have hz := enqRead_of_fresh (x := (x.popReq l).noteDemand) hf hc hr e false
  exact ⟨hz.jdat, hz.jsts, hz.plan, hz.cal, hz.fm⟩

end Sys2Proof.Machine

/-! SUPPORT. Chapter 8, the course and its scheduler: the statements settled. -/

namespace Sys2Proof.Proofs
open Sys2Proof.Machine

/-- Settles O39: a read of a FRESH region is answered as it enters; what a course reports at its stamps are the writes and reads whose stamps
dck_now has reached. -/
theorem servedAtTheStamp : Obligations.ServedAtTheStamp := by
  unfold Obligations.ServedAtTheStamp
  refine ⟨?_, ?_⟩
  · intro s n c j l e hup x hu hlk hj hw he hf hc hr hs
    refine gives_crs (exec_courseEnqueue n c s) hup (fun t _ ht hz _ => ?_)
    have hx : ZerosSent x (courseEnqueue x) j.id j.line := courseEnqueue_of_fresh hu hlk hj hw he hf hc hr hs
    rw [hz.jdat, hz.jsts, ht]
    exact ⟨hx.jdat, hx.jsts, hx.plan, hx.cal, hx.fm⟩
  · intro s n c hup x
    refine gives_crs (exec_stampReached n c s) hup (fun t _ ht hz _ => ?_)
    have hjsts : (stampReached x).z.jsts[c] = x.z.jsts[c] ++ x.c.reports x.dck := stampReached_jsts x
    rw [hz.jsts, ht, hjsts]
    simp only [List.mem_append, served_mem_course_reports, QPh.reached_iff]
    refine ⟨?_, ?_, ?_, ?_, ?_, ?_, stampReached_retry x, stampReached_cal x⟩
    · rw [stampReached_wrq]
      exact List.filter_congr (fun w _ => by cases w.ph <;> rfl)
    · exact stampReached_rdq_kept x
    · intro r hr d hd hle
      exact stampReached_srv hr (QPh.reached_iff.2 ⟨d, hd, hle⟩)
    · exact fun r hr d hd hle hs => .inr (.inr ⟨r, hr, rfl, hs, d, hd, hle⟩)
    · exact fun _ h => h
    · exact fun w hw d hd hle => .inr (.inl ⟨w, hw, rfl, d, hd, hle⟩)

end Sys2Proof.Proofs

/-! SUPPORT. An access that R46 drops, and what a count leaves of the registers above the counters: the registers of the debug access port
among them (R44 to R46, R310, R341). -/

namespace Sys2Proof.Machine

/-! ### Words above every block status register, and above a counter group -/

/-- The Security, Debug and BIST block is the last of the window. -/
theorem blkBase_le (o : Nat) : blkBase o ≤ secBase := by
  unfold blkBase blockOf secBase
  split
  · exact Nat.zero_le _
  · rename_i k i b h
    split_ifs at h <;> simp only [Option.some.injEq, Prod.mk.injEq] at h <;> omega

theorem wordAt_cntLost_above (z : Zmc) (n o : Nat) {q : Nat} (hs : secBase + 8 < q) : wordAt (cntLost z n o) q = wordAt z q := by
  have hb : blkBase o ≤ secBase := blkBase_le o
  exact wordAt_post_ne _ _ _ (by omega)

/-! The controls, counts and status registers of island `i`'s counters all stand in the 0x1000 bytes of its group. -/

section
variable {i q : Nat} (hc : ctrBase i + 0x1000 ≤ q)
include hc

theorem wordAt_ctrSts_above (z : Zmc) (n b : Nat) {k : Nat} (hk : k < ctrNum i) : wordAt (ctrSts z n i k b) q = wordAt z q := by
  have hn : ctrNum i ≤ 32 := ctrNum_le i
  exact wordAt_post_ne _ _ _ (by omega)

theorem wordAt_add48_above (z : Zmc) (n w : Nat) {k : Nat} (hk : k < ctrNum i) :
    wordAt (add48 z n (ctrBase i + 16 * k + 8) w).1 q = wordAt z q := by
  have hn : ctrNum i ≤ 32 := ctrNum_le i
  exact wordAt_add48_ne _ _ _ (by omega) (by omega)

variable (hs : secBase + 8 < q)
include hs

theorem wordAt_ctrCarry_above (z : Zmc) (n w : Nat) {k : Nat} (hk : k < ctrNum i) : wordAt (ctrCarry z n i k w) q = wordAt z q := by
  unfold ctrCarry
  simp only
  split_ifs <;> simp [wordAt_ctrSts_above hc _ n _ hk, wordAt_add48_above hc z n w hk, wordAt_cntLost_above _ n _ hs]

theorem wordAt_ctrAdd_above (z : Zmc) (n w : Nat) {k : Nat} (hk : k < ctrNum i) : wordAt (ctrAdd z n i k w) q = wordAt z q := by
  have hodd : k % 2 = 0 → k + 1 < ctrNum i := fun h => by have := ctrNum_even i; omega
  unfold ctrAdd
  simp only
  split_ifs with _ _ _ he
  · rfl
  · exact wordAt_cntLost_above z n _ hs
  · exact wordAt_add48_above hc z n w hk
  · rw [wordAt_ctrCarry_above hc hs _ n _ (hodd he), wordAt_ctrSts_above hc _ n _ hk, wordAt_add48_above hc z n w hk]
  · rw [wordAt_ctrSts_above hc _ n _ hk, wordAt_add48_above hc z n w hk]

theorem wordAt_edgeCtrs_above (z : Zmc) (n o l w : Nat) : wordAt (edgeCtrs z n i o l w) q = wordAt z q := by
  unfold edgeCtrs
  split
  · rfl
  · refine List.foldlRecOn (motive := fun y => wordAt y q = wordAt z q) _ _ rfl (fun y hy k hk => ?_)
    simp only
    split
    · rw [wordAt_ctrAdd_above hc hs y n w (List.mem_range.1 hk), hy]
    · exact hy

end

/-- Counting an event leaves the other words above the block status registers and above the owner's counters as they are: also those that
`wordAt_bumpN_ne` leaves open, at an offset of 8 in their page. -/
theorem wordAt_bumpN_above (z : Zmc) (n l w : Nat) {o q : Nat} (e : q ≠ o) (hs : secBase + 8 < q) (hc : ctrBase (ownerOf o) + 0x1000 ≤ q) :
    wordAt (bumpN z n o l w) q = wordAt z q := by
  unfold bumpN
  simp only
  rw [wordAt_edgeCtrs_above hc hs]
  split
  · rfl
  · split
    · exact wordAt_cntLost_above z n o hs
    · rw [wordAt_setF_ne _ _ _ _ e, wordAt_logHw]

/-! ### A field that saturates -/

/-- A count that meets no software write of its word reads as the sum, or as all ones where the sum is more than the field holds (R28). -/
theorem getF_bumpN_sat {z : Zmc} {n o k : Nat} {f : Fld} (hf : cntFld o f.lo = some f) (hsat : f.flag = true) (hhi : f.hi < 32) (hlo : f.lo ≤ f.hi)
    (hsw : swHit z n o = false) (hcalm : calm (ownerOf o) o) :
    getF (bumpN z n o f.lo k) o f.hi f.lo = min (getF z o f.hi f.lo + k) (2 ^ (f.hi + 1 - f.lo) - 1) := by
  have hlt : min (getF z o f.hi f.lo + k) (2 ^ (f.hi + 1 - f.lo) - 1) < 2 ^ (f.hi + 1 - f.lo) := by
    have : 0 < 2 ^ (f.hi + 1 - f.lo) := Nat.two_pow_pos _
    omega
  have hlog : getF (logHw z n o) o f.hi f.lo = getF z o f.hi f.lo := by rw [getF, wordAt_logHw, getF]
  have hedge (y : Zmc) : getF (edgeCtrs y n (ownerOf o) o f.lo k) o f.hi f.lo = getF y o f.hi f.lo := by
    rw [getF, wordAt_edgeCtrs_ne _ _ _ _ _ hcalm, getF]
  simp only [bumpN, hf, hsw, hsat, hedge, hlog]
  simp [hhi, hlo, Nat.mod_eq_of_lt hlt]

/-! ### The access counter -/

theorem ownerOf_accCnt : ownerOf (zmcBase + 0x0100) = 19 := by decide
theorem cntFld_accCnt_sec : cntFld (zmcBase + 0x0100) 16 = some (fSat 23 16) := by decide

theorem calm_accCnt : calm (ownerOf (zmcBase + 0x0100)) (zmcBase + 0x0100) := by
  rw [ownerOf_accCnt]
  unfold calm
  decide

/-- A drop for reason 3 adds to sec_cnt and is the last access recorded. -/
theorem dropAcc_sec (z : Zmc) (now off o : Nat) :
    dropAcc z now off 3 o = putWord (bumpN z now (zmcBase + 0x0100) 16 1) (zmcBase + 0x0108) (BitVec.ofNat 32 (off % 2 ^ 24 + 3 * 2 ^ 24 + o * 2 ^ 27)) := rfl

/-- sec_cnt counts a drop for reason 3 and saturates (R46), unless software writes the counter in the same cycle (R44). -/
theorem getF_dropAcc_secCnt {z : Zmc} {now : Nat} (off o : Nat) (hsw : swHit z now (zmcBase + 0x0100) = false) :
    getF (dropAcc z now off 3 o) (zmcBase + 0x0100) 23 16 = min 255 (getF z (zmcBase + 0x0100) 23 16 + 1) := by
  have hbump : getF (bumpN z now (zmcBase + 0x0100) 16 1) (zmcBase + 0x0100) 23 16 = min (getF z (zmcBase + 0x0100) 23 16 + 1) 255 :=
    getF_bumpN_sat (f := fSat 23 16) cntFld_accCnt_sec rfl (by decide) (by decide) hsw calm_accCnt
  rw [dropAcc_sec, getF, wordAt_put_ne _ _ (by decide), ← getF, hbump, Nat.min_comm]

/-- A drop for reason 3 leaves every word above the block status registers. -/
theorem wordAt_dropAcc_sec_above (z : Zmc) (now off o : Nat) {q : Nat} (hs : secBase + 8 < q) :
    wordAt (dropAcc z now off 3 o) q = wordAt z q := by
  have hz : zmcBase + 0x0108 < secBase := by decide
  have hc : ctrBase 19 + 0x1000 ≤ secBase := by decide
  rw [dropAcc_sec, wordAt_put_ne _ _ (by omega), wordAt_bumpN_above _ _ _ _ (by omega) hs (by rw [ownerOf_accCnt]; omega)]

theorem pendWord_congr {y z : Zmc} {off : Nat} (hp : y.rg.pend = z.rg.pend) (hw : wordAt y off = wordAt z off) : pendWord y off = pendWord z off := by
  simp only [pendWord, hp, hw]

/-! ### A write that the class may not make -/

/-- A backed register takes nothing from a class that may not write it: the write is dropped for reason 3 (R46, R64). -/
theorem wordWrite_refused {x : Sys} {o : Orig} {off : Nat} (v : Word) (hu : closedUp x.z = false) (hreg : 0x10000 ≤ off)
    (hact : off % 0x10000 < 0x8000) (hb : backed x.z off = true) (hw : mayWrite x.z o.val off = false) :
    wordWrite x o off v = onZmc x (fun z now => dropAcc z now off 3 o.val) := by
  have hwin : ¬ off < 0x10000 := by omega
  have hview : off % 0x10000 / 0x8000 ≠ 1 := by omega
  simp [wordWrite, hu, hwin, hview, hb, hw]

theorem busWrite_b4 (x : Sys) (o : Orig) {off : Nat} (v : BitVec 64) (ha : off % 4 = 0) :
    busWrite x o off .b4 v = wordWrite x o off (v.extractLsb' 0 32) := by
  simp [busWrite, accBytes, ha]

theorem dbgReg_iff {off : Nat} : dbgReg off = true ↔ secBase + 0x2000 ≤ off ∧ off < secBase + 0x3000 := decide_eq_true_iff

/-- Only class 5 may write a DBG_ register (R310). -/
theorem mayWrite_dbgReg (z : Zmc) {o off : Nat} (hd : dbgReg off = true) (ho : o ≠ 5) : mayWrite z o off = false := by
  obtain ⟨hlo, hhi⟩ := dbgReg_iff.1 hd
  have hm : mbxAt off = none := by
    have : mbxBase + 0x0700 ≤ secBase := by decide
    exact if_neg (by omega)
  simp [mayWrite, hm, hd, ho]

/-- A register that the map of the Security block lists is backed in every part. -/
theorem backed_dbgReg (z : Zmc) {off : Nat} (hd : dbgReg off = true) (hr : (regDef off).isSome = true) : backed z off = true := by
  obtain ⟨hlo, hhi⟩ := dbgReg_iff.1 hd
  have hb : blockOf off = some (7, 0, 0xC00000) := by
    unfold secBase at hlo hhi
    unfold blockOf
    rw [if_neg (by omega), if_neg (by omega), if_neg (by omega), if_neg (by omega), if_neg (by omega), if_neg (by omega), if_pos (by omega)]
  simp [backed, hb, hr]

/-- What a 32-bit write to a DBG_ register by a class other than 5 does: it is dropped for reason 3 (R310). -/
theorem busWrite_dbgReg {x : Sys} {o : Orig} {off : Nat} (v : BitVec 64) (hu : closedUp x.z = false) (ho : o ≠ 5) (hd : dbgReg off = true)
    (ha : off % 4 = 0) (hr : (regDef off).isSome = true) :
    busWrite x o off .b4 v = onZmc x (fun z now => dropAcc z now off 3 o.val) := by
  obtain ⟨hlo, hhi⟩ := dbgReg_iff.1 hd
  unfold secBase at hlo hhi
  have hclass : o.val ≠ 5 := fun h => ho (Fin.ext h)
  rw [busWrite_b4 x o v ha]
  exact wordWrite_refused _ hu (by omega) (by omega) (backed_dbgReg x.z hd hr) (mayWrite_dbgReg x.z hd hclass)

end Sys2Proof.Machine

/-! SUPPORT. Chapter 15, life cycle, debug and power: the statements settled. -/

namespace Sys2Proof.Proofs
open Sys2Proof.Machine

/-- Settles O8: the whole write is a drop for reason 3, which changes only the access counter, the last access recorded and the
Register island's counters that watch it. -/
theorem debugRegistersTakeClassFiveOnly : Obligations.DebugRegistersTakeClassFiveOnly := by
  unfold Obligations.DebugRegistersTakeClassFiveOnly
  intro s n o off v hu ho hd ha hr z hsw
  have hx : closedUp (before s n).z = false := by simpa [before_eq] using hu
  obtain ⟨hlo, _⟩ := dbgReg_iff.1 hd
  have href : off.toNat ≠ zmcBase + 0x0218 := by unfold zmcBase; unfold secBase at hlo; omega
  refine gives_cmd (exec_registerWrite n o off .b4 v s) ?_
  rw [busWrite_dbgReg v hx ho hd ha hr]
  have hword : wordAt (closeCmd (before s n) (onZmc (before s n) (fun z now => dropAcc z now off.toNat 3 o.val))).z off.toNat =
      wordAt z off.toNat := by
    rw [closeCmd_wordAt _ _ href, onZmc_z, wordAt_dropAcc_sec_above _ _ _ _ (by omega)]
  refine ⟨?_, hword, pendWord_congr ?_ hword, ?_⟩
  · rw [closeCmd_dbg, onZmc_z, dropAcc_dbg]
  · rw [closeCmd_rg_pend, onZmc_z, dropAcc_rg_pend]
  · rw [closeCmd_getF _ _ (by decide), onZmc_z, getF_dropAcc_secCnt _ _ hsw]

end Sys2Proof.Proofs

/-! SUPPORT. What every command keeps: its outcome is a next state with the queue it began with, only ACCEPTED_COMPLETE works on the fuses, and a
row of one island leaves the courses of the others. -/

namespace Sys2Proof.Machine

/-! ### The queue and the fuses -/

/-- The outcome is a next state in which only the block has changed: the queue and the fuses are as they were. -/
def OnlySys (s : State) (o : Out) : Prop := ∃ x, o = .next { s with sys := x }

theorem onlySys_cmd (s : State) (n : Nat) (f : Sys → Sys) : OnlySys s (cmd s n f) := ⟨_, rfl⟩

theorem OnlySys.fuse_eq {s t : State} {o : Out} (h : OnlySys s o) (e : o = .next t) : t.fuse = s.fuse := by
  obtain ⟨x, rfl⟩ := h
  cases e
  rfl

/-- Every command that its environment can supply, but ACCEPTED_COMPLETE, changes the block alone. -/
theorem exec_onlySys {i : Instr} (s : State) (hw : i.wf = true) (hi : ∀ n m ok, i ≠ .acceptedComplete n m ok) : OnlySys s (exec i s) := by
  cases i
  case acceptedComplete n m ok => exact absurd rfl (hi n m ok)
  case fabricRequest n r =>
    have hr : r.wf = true := hw
    rw [exec_fabricRequest, if_pos hr]
    exact onlySys_cmd ..
  case sensorSample n ts =>
    have ht : tempsWf ts = true := hw
    rw [exec_sensorSample, if_pos ht]
    exact onlySys_cmd ..
  all_goals exact ⟨_, rfl⟩

theorem exec_illFormed {i : Instr} (s : State) (hw : i.wf = false) : exec i s = .fault .illFormed := by
  cases i
  case fabricRequest n r =>
    have hr : r.wf = false := hw
    rw [exec_fabricRequest, hr]
    rfl
  case sensorSample n ts =>
    have ht : tempsWf ts = false := hw
    rw [exec_sensorSample, ht]
    rfl
  all_goals exact absurd hw (by simp [Instr.wf])

theorem wf_of_exec_next {i : Instr} {s t : State} (e : exec i s = .next t) : i.wf = true := by
  by_contra hw
  rw [exec_illFormed s (by simpa using hw)] at e
  cases e

/-! ### The end of ACCEPTED work -/

/-- From `f` to `g` fuses have been blown: hard repairs are added, the life-cycle state is written, and nothing else changes. -/
structure Blown (f g : Fuse) : Prop where
  variant : g.variant = f.variant
  uid : g.uid = f.uid
  hard : ∃ k, g.hard = f.hard ++ k

theorem Blown.refl (f : Fuse) : Blown f f := ⟨rfl, rfl, [], by simp⟩

theorem burn_blown (x : Sys) (f : Fuse) (mem : Nat) (ok : Bool) : Blown f (burn x f mem ok).2 := ⟨rfl, rfl, _, rfl⟩

theorem acceptedComplete_blown (x : Sys) (f : Fuse) (m : MbxId) (ok : Bool) : Blown f (acceptedComplete x f m ok).2 := by
  unfold acceptedComplete
  split
  · exact .refl f
  · split_ifs
    · exact .refl f
    · exact .refl f
    · split <;> exact .refl f
    · exact .refl f
    · exact ⟨rfl, rfl, [], by simp⟩
    · exact .refl f
    · exact .refl f
    · exact .refl f
    · exact burn_blown ..
    · exact burn_blown ..

theorem exec_blown {i : Instr} {s t : State} (e : exec i s = .next t) : Blown s.fuse t.fuse := by
  by_cases hi : ∀ n m ok, i ≠ .acceptedComplete n m ok
  · rw [(exec_onlySys s (wf_of_exec_next e) hi).fuse_eq e]
    exact .refl _
  · push Not at hi
    obtain ⟨n, m, ok, rfl⟩ := hi
    rw [exec_acceptedComplete] at e
    cases e
    simp only
    split
    · exact .refl _
    · exact acceptedComplete_blown ..

/-! ### Rows of one course, and rows outside the courses -/

/-- A row of one course runs on that course and its Corbel. -/
theorem exec_of_courseOf {i : Instr} {c : CourseId} (h : courseOf i = some c) (s : State) : ∃ n f, exec i s = cmd s n (ifCrs c f) := by
  cases i <;> simp only [courseOf, Option.some.injEq, reduceCtorEq] at h
  all_goals subst h; exact ⟨_, _, rfl⟩

theorem ifCrs_crs_ne (f : Cx → Cx) (x : Sys) {c d : CourseId} (hd : d ≠ c) : (ifCrs c f x).crs[d] = x.crs[d] := by
  by_cases hu : closedUp x.z = true
  · simp [ifCrs, ifUp, hu]
  · rw [ifCrs_run (by simpa using hu)]
    exact modV_other _ _ _ _ hd.symm

theorem ifZ_crs (f : Zmc → Nat → Zmc) (x : Sys) : (ifZ f x).crs = x.crs := by unfold ifZ ifUp; split <;> rfl
theorem ifHome_crs (f : Zmc → Nat → Zmc) (x : Sys) : (ifHome f x).crs = x.crs := by unfold ifHome; split <;> rfl
theorem ifJoint_crs (c : CourseId) (f : Zmc → Nat → Zmc) (x : Sys) : (ifJoint c f x).crs = x.crs := by
  unfold ifJoint
  split
  · rfl
  · exact ifHome_crs f x

/-- The effect of a row of the homes, the bays and the rest of the block is one outside the courses. -/
theorem exec_of_outsideCourses {i : Instr} (h : outsideCourses i = true) (s : State) :
    ∃ n f, exec i s = cmd s n f ∧ ∀ x, (f x).crs = x.crs := by
  cases i <;> simp only [outsideCourses, reduceCtorEq] at h
  case courseCredit n c => exact ⟨n, _, exec_courseCredit n c s, ifJoint_crs c _⟩
  case portLiveRise n p => exact ⟨n, _, exec_portLiveRise n p s, fun x => onZmc_crs x _⟩
  case portLiveFall n p => exact ⟨n, _, exec_portLiveFall n p s, fun x => onZmc_crs x _⟩
  case image | publish | plumbLapEnd | plumbStall | parityCheck | bondRegenerate | watchdogExpiry | mbxTimeout | auditCoalesceClose |
      activationDone | activationTimeout | snapDone | masonRestartDone | creditParkReturn => exact ⟨_, _, rfl, ifZ_crs _⟩
  all_goals exact ⟨_, _, rfl, ifHome_crs _⟩

end Sys2Proof.Machine

/-! SUPPORT. The statements about every command: chapters 0, 1, 15 and 22. -/

namespace Sys2Proof.Proofs
open Sys2Proof.Machine

/-- Settles O1, by the definition of a step. -/
theorem stepRunsFrontCommand : Obligations.StepRunsFrontCommand := by
  unfold Obligations.StepRunsFrontCommand
  intro c s rest h
  simp [step, h]

/-- Settles O3: no word is stored after reset, so each reads its reset word. -/
theorem resetLeaves : Obligations.ResetLeaves := by
  unfold Obligations.ResetLeaves
  exact ⟨fun _ => rfl, rfl, rfl, rfl, rfl, rfl, rfl, rfl, rfl, rfl, rfl, rfl⟩

/-- Settles O4: a fault is raised for the operands that `Instr.wf` leaves out, and for nothing else. -/
theorem stopsOnlyOnImpossibleOperands : Obligations.StopsOnlyOnImpossibleOperands := by
  unfold Obligations.StopsOnlyOnImpossibleOperands
  refine fun i s => ⟨fun hw => ?_, exec_illFormed s⟩
  by_cases hi : ∀ n m ok, i ≠ .acceptedComplete n m ok
  · obtain ⟨x, hx⟩ := exec_onlySys s hw hi
    exact ⟨_, hx⟩
  · push Not at hi
    obtain ⟨n, m, ok, rfl⟩ := hi
    exact ⟨_, exec_acceptedComplete n m ok s⟩

/-- Settles O5: a row of one course is an effect on that course, and the end of a command leaves the courses. -/
theorem rowsStayInTheirIslands : Obligations.RowsStayInTheirIslands := by
  unfold Obligations.RowsStayInTheirIslands
  intro i s t c d e
  constructor
  · intro hc hd
    obtain ⟨n, f, hf⟩ := exec_of_courseOf hc s
    rw [hf] at e
    cases e
    simp [-Fin.getElem_fin, ifCrs_crs_ne _ _ hd]
  · intro ho
    obtain ⟨n, f, hf, hcrs⟩ := exec_of_outsideCourses ho s
    rw [hf] at e
    cases e
    simp [hcrs]

/-- Settles O6: fuses are only blown, never restored, and by ACCEPTED_COMPLETE alone. -/
theorem fusesOnlyBlow : Obligations.FusesOnlyBlow := by
  unfold Obligations.FusesOnlyBlow
  intro v u l inv s t ⟨hv, hu, k, hk⟩ hs
  cases hp : s.pending with
  | nil =>
    simp only [step, hp] at hs
    cases hs
    exact ⟨⟨hv, hu, k, hk⟩, fun h => absurd rfl h⟩
  | cons i rest =>
    simp only [step, hp] at hs
    obtain ⟨hvar, huid, j, hj⟩ := exec_blown hs
    refine ⟨⟨hvar.trans hv, huid.trans hu, k ++ j, by simp [hj, hk]⟩, fun hne => ?_⟩
    by_contra hi
    push Not at hi
    exact hne ((exec_onlySys { s with pending := rest } (wf_of_exec_next hs) (fun n m ok h => hi n m ok rest (by rw [h]))).fuse_eq hs)

end Sys2Proof.Proofs

/-! SUPPORT. No effect sets the clock: each operation on the block keeps the time at which its command takes place. -/

namespace Sys2Proof.Machine

/-- A fold of effects that keep the time keeps it. -/
@[simp] theorem foldl_now {α : Type} {f : Sys → α → Sys} (hf : ∀ x a, (f x a).now = x.now) (l : List α) (x : Sys) : (l.foldl f x).now = x.now := by
  induction l generalizing x with
  | nil => rfl
  | cons a l ih => exact (ih (f x a)).trans (hf x a)

/-- A choice between two effects that keep the time keeps it. -/
theorem ite_now {p : Prop} [Decidable p] {a b x : Sys} (ha : a.now = x.now) (hb : b.now = x.now) : (if p then a else b).now = x.now := by
  split
  · exact ha
  · exact hb

@[simp] theorem onCrs_now (x : Sys) (n : CourseId) (f : Cx → Cx) : (onCrs x n f).now = x.now := by simp [onCrs]

theorem readWord_now (x : Sys) (o : Orig) (off : Nat) : (readWord x o off).1.now = x.now := by
  unfold readWord
  simp only
  split_ifs <;> rfl

@[simp] theorem busRead_now (x : Sys) (o : Orig) (off : Nat) (s : AccSize) : (busRead x o off s).now = x.now := by
  unfold busRead
  simp only
  split_ifs
  · rfl
  · split <;> simp [readWord_now]

@[simp] theorem setAccept_now (x : Sys) (orig src mask : Nat) (isl : List Nat) : (setAccept x orig src mask isl).now = x.now := by simp [setAccept]
@[simp] theorem setReject_now (x : Sys) (orig src mask : Nat) (f : Nat × Nat × Nat) : (setReject x orig src mask f).now = x.now := by simp [setReject]

@[simp] theorem setWrite_now (x : Sys) (orig src : Nat) (v : Word) : (setWrite x orig src v).now = x.now := by
  unfold setWrite
  simp only
  (repeat' split) <;> simp

@[simp] theorem applyIsl_now (x : Sys) (i : Nat) : (applyIsl x i).now = x.now := by
  unfold applyIsl
  simp only
  split_ifs <;> simp

@[simp] theorem setFinish_now (x : Sys) : (setFinish x).now = x.now := by simp [setFinish]

@[simp] theorem setApplyAt_now (x : Sys) (i : Nat) : (setApplyAt x i).now = x.now := by
  unfold setApplyAt
  split <;> simp

@[simp] theorem setCompleteNow_now (x : Sys) : (setCompleteNow x).now = x.now := by
  unfold setCompleteNow
  split <;> simp

@[simp] theorem setDrain_now (x : Sys) : (setDrain x).now = x.now := by
  unfold setDrain
  split <;> simp
theorem potSetNow_now (x : Sys) (src mask : Nat) : (potSetNow x src mask).1.now = x.now := by simp [potSetNow]

@[simp] theorem helloRange_now (x : Sys) (digs : List Word) (r : Nat) : (helloRange x digs r).now = x.now := by
  unfold helloRange
  simp only
  split_ifs <;> simp

@[simp] theorem takeHello_now (x : Sys) (lmin lmax pkg : Nat) (digs : List Word) : (takeHello x lmin lmax pkg digs).now = x.now := by
  unfold takeHello
  refine ite_now (onZmc_now ..) (ite_now ?_ (onZmc_now ..))
  rw [foldl_now (fun y r => helloRange_now y digs r)]
  simp only [onZmc_now]

@[simp] theorem reapply_now (x : Sys) : (reapply x).now = x.now := by
  unfold reapply
  split
  · rfl
  · simp only
    split_ifs <;> simp [potSetNow_now]

@[simp] theorem resyncTake_now (x : Sys) (h : HomeId) (r : Nat) : (resyncTake x h r).now = x.now := by
  unfold resyncTake
  simp only
  (repeat' split) <;> simp

@[simp] theorem resyncLine_now (x : Sys) (h : HomeId) : (resyncLine x h).now = x.now := by
  unfold resyncLine
  simp only
  (repeat' split) <;> simp

@[simp] theorem resetCourses_now (x : Sys) : (resetCourses x).now = x.now := by simp [resetCourses]
@[simp] theorem coldReset_now (x : Sys) (f : Fuse) (good : Bool) : (coldReset x f good).now = x.now := by simp [coldReset]
@[simp] theorem warmReset_now (x : Sys) : (warmReset x).now = x.now := by simp [warmReset]
theorem pulseSeen_now (x : Sys) (lowNs : Nat) : (pulseSeen x lowNs).1.now = x.now := by unfold pulseSeen; split <;> rfl

@[simp] theorem coldRelease_now (x : Sys) (f : Fuse) (lowNs : Nat) : (coldRelease x f lowNs).now = x.now := by
  unfold coldRelease
  split_ifs
  · rfl
  · simp only
    split <;> simp [pulseSeen_now]

@[simp] theorem warmRelease_now (x : Sys) (lowNs : Nat) : (warmRelease x lowNs).now = x.now := by
  unfold warmRelease
  split_ifs
  · rfl
  · simp only
    split <;> simp [pulseSeen_now]

@[simp] theorem powerRise_now (x : Sys) (f : Fuse) : (powerRise x f).now = x.now := by
  unfold powerRise
  split <;> simp

@[simp] theorem powerFall_now (x : Sys) (f : Fuse) : (powerFall x f).now = x.now := by
  unfold powerFall
  simp only
  split_ifs <;> simp

@[simp] theorem islandBistEnd_now (x : Sys) (obs : List BistObs) (badDec : List CourseId) (badEng : List HomeId) : (islandBistEnd x obs badDec badEng).now = x.now := by
  unfold islandBistEnd
  simp only
  (repeat' split) <;> simp

@[simp] theorem trainBoot_now (x : Sys) (c : CourseId) (o : TrainObs) : (trainBoot x c o).now = x.now := by
  unfold trainBoot
  split <;> simp

@[simp] theorem allFenced_now (x : Sys) : (allFenced x).now = x.now := by
  unfold allFenced
  split <;> simp

@[simp] theorem trainTimeout_now (x : Sys) (c : CourseId) : (trainTimeout x c).now = x.now := by
  unfold trainTimeout
  split <;> simp

@[simp] theorem freshEnd_now (x : Sys) : (freshEnd x).now = x.now := by
  unfold freshEnd
  split <;> simp

@[simp] theorem released_now (x : Sys) : (released x).now = x.now := by
  unfold released
  split <;> simp

@[simp] theorem dozeStart_now (x : Sys) : (dozeStart x).now = x.now := by
  unfold dozeStart
  split <;> simp

@[simp] theorem dozeEntered_now (x : Sys) : (dozeEntered x).now = x.now := by
  unfold dozeEntered
  split <;> simp

@[simp] theorem retainBegin_now (x : Sys) (m : MbxId) (seq orig : Nat) : (retainBegin x m seq orig).now = x.now := by simp [retainBegin]

@[simp] theorem retainAbandon_now (x : Sys) (status : Nat) : (retainAbandon x status).now = x.now := by
  unfold retainAbandon
  split <;> simp

@[simp] theorem retainTimeout_now (x : Sys) : (retainTimeout x).now = x.now := by
  unfold retainTimeout
  (repeat' split) <;> simp

@[simp] theorem retainTo_now (x : Sys) (k : Nat) : (retainTo x k).now = x.now := by simp [retainTo]
@[simp] theorem retainSave_now (x : Sys) : (retainSave x).now = x.now := by simp [retainSave]

@[simp] theorem retainWake_now (x : Sys) (src : Nat) : (retainWake x src).now = x.now := by
  unfold retainWake
  split <;> simp

@[simp] theorem retainStep_now (x : Sys) : (retainStep x).now = x.now := by
  unfold retainStep
  simp only
  (repeat' split) <;> simp

@[simp] theorem wakeTimer_now (x : Sys) : (wakeTimer x).now = x.now := by
  unfold wakeTimer
  simp only
  split <;> simp

@[simp] theorem exitRegs_now (x : Sys) (s : SaveArea) : (exitRegs x s).now = x.now := by simp [exitRegs]

@[simp] theorem retainExit_now (x : Sys) (dead : List CourseId) : (retainExit x dead).now = x.now := by
  unfold retainExit
  split <;> simp

@[simp] theorem dbgLevelWrite_now (x : Sys) (lvl : Nat) : (dbgLevelWrite x lvl).now = x.now := by
  unfold dbgLevelWrite
  simp only
  split_ifs <;> simp

@[simp] theorem gapThrottle_now (x : Sys) : (gapThrottle x).now = x.now := by
  unfold gapThrottle
  simp only
  split <;> simp

@[simp] theorem gapReturn_now (x : Sys) (c : CourseId) : (gapReturn x c).now = x.now := by
  unfold gapReturn
  split <;> simp

@[simp] theorem gapUnthrottle_now (x : Sys) : (gapUnthrottle x).now = x.now := by
  unfold gapUnthrottle
  split <;> simp

@[simp] theorem alertAssert_now (x : Sys) (lowNs : Nat) : (alertAssert x lowNs).now = x.now := by
  unfold alertAssert
  split_ifs
  · rfl
  · simp only
    split <;> simp [pulseSeen_now]

@[simp] theorem laneClockLoss_now (x : Sys) (k : HomeId) : (laneClockLoss x k).now = x.now := by
  unfold laneClockLoss
  refine (foldl_now (fun y j => ?_) _ _).trans (onZmc_now ..)
  simp only
  split <;> simp

@[simp] theorem critAction_now (x : Sys) (c : CourseId) : (critAction x c).now = x.now := by
  unfold critAction
  simp only
  split <;> simp

@[simp] theorem critRelease_now (x : Sys) (c : CourseId) : (critRelease x c).now = x.now := by
  unfold critRelease
  simp only
  (repeat' split) <;> simp

@[simp] theorem runHold_now (x : Sys) (mem word b : Nat) : (runHold x mem word b).now = x.now := by simp [runHold]

@[simp] theorem ramDamaged_now (x : Sys) (word b : Nat) : (ramDamaged x word b).now = x.now := by
  unfold ramDamaged
  (repeat' split) <;> simp

@[simp] theorem memConsequence_now (x : Sys) (mem word b : Nat) : (memConsequence x mem word b).now = x.now := by
  unfold memConsequence
  split_ifs <;> simp

@[simp] theorem memDoubleBit_now (x : Sys) (mem word b : Nat) : (memDoubleBit x mem word b).now = x.now := by
  unfold memDoubleBit
  split <;> simp

@[simp] theorem fenceStep_now (x : Sys) (j : Job) : (fenceStep x j).now = x.now := by
  unfold fenceStep
  simp only
  split_ifs <;> simp

@[simp] theorem repairStep_now (x : Sys) (j : Job) (o : Offer) (ok : Bool) : (repairStep x j o ok).now = x.now := by
  unfold repairStep
  simp only
  (repeat' split) <;> simp

@[simp] theorem restoreEnd_now (x : Sys) (j : Job) (c : CourseId) (o : TrainObs) : (restoreEnd x j c o).now = x.now := by
  unfold restoreEnd
  simp only
  split <;> simp

@[simp] theorem trainRow_now (x : Sys) (c : CourseId) (o : TrainObs) : (trainRow x c o).now = x.now := by
  unfold trainRow
  (repeat' split) <;> simp

@[simp] theorem retestDrain_now (x : Sys) : (retestDrain x).now = x.now := by
  unfold retestDrain
  simp only
  split_ifs <;> simp

@[simp] theorem retestEnd_now (x : Sys) (status : Nat) : (retestEnd x status).now = x.now := by simp [retestEnd]
@[simp] theorem retestFail_now (x : Sys) (cause : Nat) : (retestFail x cause).now = x.now := by simp [retestFail]

@[simp] theorem retestTest_now (x : Sys) (obs : List BistObs) (decOk : Bool) : (retestTest x obs decOk).now = x.now := by
  unfold retestTest
  simp only
  split_ifs <;> simp

@[simp] theorem retestAbort_now (x : Sys) : (retestAbort x).now = x.now := by simp [retestAbort]

@[simp] theorem retestRestore_now (x : Sys) : (retestRestore x).now = x.now := by
  unfold retestRestore
  simp only
  split_ifs <;> simp

@[simp] theorem cmdDone_now (x : Sys) (m : MbxId) (status : Nat) (res : List Word) (tg : Nat) (old new : Word) : (cmdDone x m status res tg old new).now = x.now := by simp [cmdDone]
@[simp] theorem cmdRefuse_now (x : Sys) (m : MbxId) (status tg : Nat) : (cmdRefuse x m status tg).now = x.now := by simp [cmdRefuse]
@[simp] theorem cmdOk_now (x : Sys) (m : MbxId) (res : List Word) (tg : Nat) : (cmdOk x m res tg).now = x.now := by simp [cmdOk]
@[simp] theorem cmdRepeat_now (x : Sys) (m : MbxId) : (cmdRepeat x m).now = x.now := by simp [cmdRepeat]

@[simp] theorem takeCmd_now (x0 : Sys) (m : MbxId) (hit : Nat → Bool) (run : Sys → Mbx → Sys) (hrun : ∀ y b, (run y b).now = y.now) : (takeCmd x0 m hit run).now = x0.now := by
  unfold takeCmd
  simp only
  split_ifs <;> simp [hrun]

@[simp] theorem command_now (x : Sys) (m : MbxId) (op : Nat) (tg : Mbx → Nat) (rules : Sys → Mbx → Rules) (run : Sys → Mbx → Sys) (hrun : ∀ y b, (run y b).now = y.now) : (command x m op tg rules run).now = x.now := by
  refine takeCmd_now _ _ _ _ (fun y b => ?_)
  split
  · rw [hrun, onZmc_now]
  · rw [cmdRefuse_now]

@[simp] theorem cmdAccept_now (x : Sys) (m : MbxId) (r : Rsrc) (arg tg : Nat) : (cmdAccept x m r arg tg).now = x.now := by simp [cmdAccept]
@[simp] theorem cmdWrote_now (x : Sys) (m : MbxId) (offs : List Nat) (old : List Word) (tg : Nat) (res : List Word) : (cmdWrote x m offs old tg res).now = x.now := by simp [cmdWrote]

@[simp] theorem bufCmd_now (x : Sys) (m : MbxId) (tg : Nat) (ws : List (Nat × Word)) (isl : List Nat) (after : Sys → Sys) (hafter : ∀ y, (after y).now = y.now) : (bufCmd x m tg ws isl after).now = x.now := by
  unfold bufCmd
  simp only
  split
  · rw [cmdWrote_now, hafter, potSetNow_now, onZmc_now]
  · rw [cmdRefuse_now, onZmc_now, potSetNow_now, onZmc_now]

@[simp] theorem partPut_now (x : Sys) (m : MbxId) (op obj part : Nat) (ws : List Word) : (partPut x m op obj part ws).now = x.now := by simp [partPut]
@[simp] theorem partDrop_now (x : Sys) (m : MbxId) : (partDrop x m).now = x.now := by simp [partDrop]
@[simp] theorem cmdQuery_now (x : Sys) (m : MbxId) : (cmdQuery x m).now = x.now := by simp [cmdQuery]
@[simp] theorem cmdUnknown_now (x : Sys) (m : MbxId) : (cmdUnknown x m).now = x.now := by simp [cmdUnknown]
@[simp] theorem clrStart_now (x : Sys) (m : MbxId) (i : Ilv) (base size : Nat) : (clrStart x m i base size).now = x.now := by simp [clrStart]

@[simp] theorem cmdRegionClear_now (x : Sys) (m : MbxId) : (cmdRegionClear x m).now = x.now := by
  unfold cmdRegionClear
  refine ite_now ?_ (command_now _ _ _ _ _ _ (fun y b => ?_))
  · split
    · exact cmdAccept_now ..
    · rfl
  · simp only
    split
    · exact cmdRefuse_now ..
    · exact ite_now (cmdRefuse_now ..) (ite_now (cmdRefuse_now ..) (ite_now (cmdRefuse_now ..) (clrStart_now ..)))

@[simp] theorem keyLoadEnd_now (x : Sys) (m : MbxId) (slot : Nat) : (keyLoadEnd x m slot).now = x.now := by
  unfold keyLoadEnd
  simp only
  (repeat' split) <;> simp

@[simp] theorem cmdKeyLoad_now (x : Sys) (m : MbxId) : (cmdKeyLoad x m).now = x.now := by
  unfold cmdKeyLoad
  refine command_now _ _ _ _ _ _ (fun y b => ?_)
  simp only
  split_ifs <;> simp

@[simp] theorem cmdKeyErase_now (x : Sys) (m : MbxId) : (cmdKeyErase x m).now = x.now := by simp [cmdKeyErase]

@[simp] theorem cmdCounterGrant_now (x : Sys) (m : MbxId) : (cmdCounterGrant x m).now = x.now := by
  unfold cmdCounterGrant
  refine command_now _ _ _ _ _ _ (fun y b => ?_)
  simp only
  split_ifs <;> simp

@[simp] theorem cmdDebugConsent_now (x : Sys) (m : MbxId) : (cmdDebugConsent x m).now = x.now := by
  unfold cmdDebugConsent
  refine command_now _ _ _ _ _ _ (fun y b => ?_)
  simp only
  split_ifs <;> simp

@[simp] theorem cmdPlumbRef_now (x : Sys) (m : MbxId) (lap : Bool) : (cmdPlumbRef x m lap).now = x.now := by
  unfold cmdPlumbRef
  refine command_now _ _ _ _ _ _ (fun y b => ?_)
  simp only
  split_ifs <;> simp

@[simp] theorem cmdActivate_now (x : Sys) (m : MbxId) : (cmdActivate x m).now = x.now := by
  unfold cmdActivate
  refine command_now _ _ _ _ _ _ (fun y b => ?_)
  simp only
  split_ifs <;> simp

@[simp] theorem markCmd_now (x : Sys) (m : MbxId) (o : Offer) : (markCmd x m o).now = x.now := by simp [markCmd]

@[simp] theorem cmdRepair_now (x : Sys) (m : MbxId) : (cmdRepair x m).now = x.now := by
  unfold cmdRepair
  refine command_now _ _ _ _ _ _ (fun y b => ?_)
  simp only
  split
  · exact cmdRefuse_now ..
  · refine ite_now (cmdRefuse_now ..) (ite_now ?_ (ite_now ?_ ?_))
    · rw [cmdOk_now, onZmc_now]
    · rw [onCrs_now, cmdAccept_now]
    · rw [onZmc_now, markCmd_now]

@[simp] theorem cmdPowerDoze_now (x : Sys) (m : MbxId) : (cmdPowerDoze x m).now = x.now := by simp [cmdPowerDoze]

@[simp] theorem cmdRetain_now (x : Sys) (m : MbxId) : (cmdRetain x m).now = x.now := by
  unfold cmdRetain
  refine ite_now (retainStep_now x) (command_now _ _ _ _ _ _ (fun y b => ?_))
  exact ite_now (cmdRefuse_now ..) (ite_now (cmdRefuse_now ..) ((retainBegin_now ..).trans (cmdDone_now ..)))

@[simp] theorem cmdAuditHead_now (x : Sys) (m : MbxId) : (cmdAuditHead x m).now = x.now := by
  unfold cmdAuditHead
  refine command_now _ _ _ _ _ _ (fun y b => ?_)
  simp only
  split_ifs <;> simp

@[simp] theorem cmdSeal_now (x : Sys) (m : MbxId) : (cmdSeal x m).now = x.now := by
  unfold cmdSeal
  refine command_now _ _ _ _ _ _ (fun y b => ?_)
  simp only
  split_ifs <;> simp

@[simp] theorem cmdImageWrite_now (x : Sys) (m : MbxId) : (cmdImageWrite x m).now = x.now := by
  unfold cmdImageWrite
  refine command_now _ _ _ _ _ _ (fun y b => ?_)
  simp only
  split_ifs <;> simp
/-- KEK_SET keeps the time whatever unwraps the key: said of every unwrapping, so that no AES is evaluated here. -/
theorem kekSetWith_now (x : Sys) (m : MbxId) (unwrap : BitVec 256 → Nat → List Byte → Option (List Byte)) :
    (command x m 0x0203 (fun _ => 0) (fun x b => ⟨[2], 6, !x.z.keys.blocked, true, frameOk b (fullWords 2 10)⟩)
      (fun x b =>
        match unwrap Config.deviceKey 4 (((List.range 10).map (fun i => b.wd (2 + i))).flatMap wordBytes) with
        | none => cmdRefuse x m 0x0B 0
        | some l => cmdOk (onZmc x (fun z _ => { z with keys := { z.keys with kek := some (BitVec.ofNat 256 (bytesNat l)) } })) m [] 0)).now = x.now := by
  refine command_now _ _ _ _ _ _ (fun y b => ?_)
  generalize unwrap _ _ _ = l
  cases l with
  | none => exact cmdRefuse_now ..
  | some l => exact (cmdOk_now ..).trans (onZmc_now ..)

@[simp] theorem cmdKekSet_now (x : Sys) (m : MbxId) : (cmdKekSet x m).now = x.now := kekSetWith_now x m keyUnwrap

@[simp] theorem cmdLcTransition_now (x : Sys) (m : MbxId) : (cmdLcTransition x m).now = x.now := by
  unfold cmdLcTransition
  refine command_now _ _ _ _ _ _ (fun y b => ?_)
  simp only
  split_ifs <;> simp

@[simp] theorem cmdPairSetup_now (x : Sys) (m : MbxId) : (cmdPairSetup x m).now = x.now := by
  unfold cmdPairSetup
  exact command_now _ _ _ _ _ _ (fun _ _ => bufCmd_now _ _ _ _ _ _ (fun _ => rfl))

@[simp] theorem cmdPairRange_now (x : Sys) (m : MbxId) : (cmdPairRange x m).now = x.now := by
  unfold cmdPairRange
  exact command_now _ _ _ _ _ _ (fun _ _ => bufCmd_now _ _ _ _ _ _ (fun _ => rfl))

@[simp] theorem cmdInterleave_now (x : Sys) (m : MbxId) : (cmdInterleave x m).now = x.now := by
  unfold cmdInterleave
  refine command_now _ _ _ _ _ _ (fun y b => ?_)
  simp only
  split_ifs
  · simp
  · simp
  · exact bufCmd_now _ _ _ _ _ _ (fun _ => rfl)

@[simp] theorem cmdEccMode_now (x : Sys) (m : MbxId) : (cmdEccMode x m).now = x.now := by
  unfold cmdEccMode
  refine command_now _ _ _ _ _ _ (fun y b => ?_)
  simp only
  split_ifs <;> simp

@[simp] theorem cmdFreshMode_now (x : Sys) (m : MbxId) : (cmdFreshMode x m).now = x.now := by
  unfold cmdFreshMode
  refine command_now _ _ _ _ _ _ (fun y b => ?_)
  simp only
  split_ifs <;> simp

@[simp] theorem setPolicy_now (x : Sys) (m : MbxId) (op : Nat) (ws : List Word) : (setPolicy x m op ws).now = x.now := by simp [setPolicy]
@[simp] theorem cmdTrainPolicy_now (x : Sys) (m : MbxId) : (cmdTrainPolicy x m).now = x.now := by simp [cmdTrainPolicy]
@[simp] theorem cmdThermalPolicy_now (x : Sys) (m : MbxId) : (cmdThermalPolicy x m).now = x.now := by simp [cmdThermalPolicy]
@[simp] theorem cmdRepairPolicy_now (x : Sys) (m : MbxId) : (cmdRepairPolicy x m).now = x.now := by simp [cmdRepairPolicy]

@[simp] theorem cmdCourseFence_now (x : Sys) (m : MbxId) : (cmdCourseFence x m).now = x.now := by
  unfold cmdCourseFence
  refine command_now _ _ _ _ _ _ (fun y b => ?_)
  simp only
  split_ifs <;> simp

@[simp] theorem cmdCourseRestore_now (x : Sys) (m : MbxId) : (cmdCourseRestore x m).now = x.now := by
  unfold cmdCourseRestore
  refine command_now _ _ _ _ _ _ (fun y b => ?_)
  simp only
  split_ifs <;> simp

@[simp] theorem cmdCourseRetest_now (x : Sys) (m : MbxId) : (cmdCourseRetest x m).now = x.now := by
  unfold cmdCourseRetest
  refine command_now _ _ _ _ _ _ (fun y b => ?_)
  simp only
  split_ifs <;> simp

@[simp] theorem cmdBistAbort_now (x : Sys) (m : MbxId) : (cmdBistAbort x m).now = x.now := by
  unfold cmdBistAbort
  refine command_now _ _ _ _ _ _ (fun y b => ?_)
  (repeat' split) <;> simp

@[simp] theorem cmdHardRepair_now (x : Sys) (m : MbxId) : (cmdHardRepair x m).now = x.now := by
  unfold cmdHardRepair
  refine command_now _ _ _ _ _ _ (fun y b => ?_)
  simp only
  split_ifs <;> simp

@[simp] theorem cmdHoldSet_now (x : Sys) (m : MbxId) : (cmdHoldSet x m).now = x.now := by
  unfold cmdHoldSet
  refine command_now _ _ _ _ _ _ (fun y b => ?_)
  simp only
  split_ifs <;> simp

@[simp] theorem cmdDbgTrace_now (x : Sys) (m : MbxId) : (cmdDbgTrace x m).now = x.now := by simp [cmdDbgTrace]

@[simp] theorem cmdDbgPreempt_now (x : Sys) (m : MbxId) : (cmdDbgPreempt x m).now = x.now := by
  unfold cmdDbgPreempt
  refine command_now _ _ _ _ _ _ (fun y b => ?_)
  simp only
  split_ifs <;> simp

@[simp] theorem cmdPairHello_now (x : Sys) (m : MbxId) : (cmdPairHello x m).now = x.now := by simp [cmdPairHello]

@[simp] theorem cmdPeerClear_now (x : Sys) (m : MbxId) : (cmdPeerClear x m).now = x.now := by
  unfold cmdPeerClear
  refine command_now _ _ _ _ _ _ (fun y b => ?_)
  simp only
  (repeat' split) <;> simp

@[simp] theorem cmdPeerNotice_now (x : Sys) (m : MbxId) : (cmdPeerNotice x m).now = x.now := by simp [cmdPeerNotice]

@[simp] theorem regHook_now (x : Sys) (off : Nat) (old v : Word) : (regHook x off old v).now = x.now := by
  unfold regHook
  simp only
  (repeat' split) <;> simp

@[simp] theorem unbacked_now (x : Sys) (o off : Nat) : (unbacked x o off).now = x.now := by simp [unbacked]

@[simp] theorem takeWord_now (x : Sys) (o off : Nat) (v : Word) : (takeWord x o off v).now = x.now := by
  unfold takeWord
  simp only
  split_ifs <;> simp

@[simp] theorem takeWords_now (x : Sys) (o off : Nat) (ws : List (Nat × Word)) : (takeWords x o off ws).now = x.now := by
  unfold takeWords
  simp only
  split <;> simp

@[simp] theorem shadowPut_now (x : Sys) (o : Orig) (off : Nat) (v : Word) : (shadowPut x o off v).now = x.now := by simp [shadowPut]

@[simp] theorem lowWrite_now (x : Sys) (o : Orig) (off : Nat) (v : Word) : (lowWrite x o off v).now = x.now := by
  unfold lowWrite
  split <;> simp

@[simp] theorem shadowDrop_now (x : Sys) (o : Orig) : (shadowDrop x o).now = x.now := by simp [shadowDrop]

@[simp] theorem commitWide_now (x : Sys) (o : Orig) (off : Nat) (v : Word) : (commitWide x o off v).now = x.now := by
  unfold commitWide
  simp only
  split_ifs <;> simp

@[simp] theorem mbxWrite_now (x : Sys) (o : Nat) (m : MbxId) (p off : Nat) (v : Word) : (mbxWrite x o m p off v).now = x.now := by
  unfold mbxWrite
  simp only
  split_ifs <;> simp

@[simp] theorem closedWrite_now (x : Sys) (o : Orig) (off : Nat) (v : Word) : (closedWrite x o off v).now = x.now := by
  unfold closedWrite
  split_ifs <;> simp

@[simp] theorem wordWrite_now (x : Sys) (o : Orig) (off : Nat) (v : Word) : (wordWrite x o off v).now = x.now := by
  unfold wordWrite
  refine ite_now (closedWrite_now ..) (ite_now (ite_now (onZmc_now ..) (unbacked_now ..))
    (ite_now (onZmc_now ..) (ite_now (unbacked_now ..) (ite_now (onZmc_now ..) ?_))))
  split
  · exact mbxWrite_now ..
  · exact ite_now (ite_now (onZmc_now ..) (unbacked_now ..)) (ite_now (ite_now (onZmc_now ..) (unbacked_now ..)) (ite_now rfl
      (ite_now (setWrite_now ..) (ite_now (lowWrite_now ..) (ite_now (commitWide_now ..) (takeWords_now ..))))))

@[simp] theorem busWrite_now (x : Sys) (o : Orig) (off : Nat) (s : AccSize) (v : BitVec 64) : (busWrite x o off s v).now = x.now := by
  unfold busWrite
  simp only
  (repeat' split) <;> simp

@[simp] theorem bitsWrite_now (x : Sys) (o : Orig) (off : Nat) (m v : Word) : (bitsWrite x o off m v).now = x.now := by simp [bitsWrite]

@[simp] theorem ifUp_now (f : Sys → Sys) (x : Sys) (hf : ∀ y, (f y).now = y.now) : (ifUp f x).now = x.now := by
  unfold ifUp
  split
  · rfl
  · exact hf x

@[simp] theorem ifCrs_now (c : CourseId) (f : Cx → Cx) (x : Sys) : (ifCrs c f x).now = x.now := ifUp_now _ _ (fun _ => rfl)
@[simp] theorem ifZ_now (f : Zmc → Nat → Zmc) (x : Sys) : (ifZ f x).now = x.now := ifUp_now _ _ (fun _ => rfl)

@[simp] theorem ifHome_now (f : Zmc → Nat → Zmc) (x : Sys) : (ifHome f x).now = x.now := by
  unfold ifHome
  split <;> simp

@[simp] theorem clearPointAt_now (x : Sys) (c : CourseId) : (clearPointAt x c).now = x.now := by
  unfold clearPointAt
  simp only
  split <;> simp

@[simp] theorem ifJoint_now (c : CourseId) (f : Zmc → Nat → Zmc) (x : Sys) : (ifJoint c f x).now = x.now := by
  unfold ifJoint
  split <;> simp

@[simp] theorem dataBack_now (x : Sys) (c : CourseId) : (dataBack x c).now = x.now := by
  unfold dataBack
  simp only
  split <;> simp

@[simp] theorem keysZeroed_now (x : Sys) : (keysZeroed x).now = x.now := by
  unfold keysZeroed
  simp only
  split <;> simp

/-- A choice between two effects on the block and the fuses that keep the time keeps it. -/
theorem fst_now {p : Prop} [Decidable p] {a b : Sys × Fuse} {x : Sys} (ha : a.1.now = x.now) (hb : b.1.now = x.now) :
    (if p then a else b).1.now = x.now := by
  split
  · exact ha
  · exact hb

theorem acceptedComplete_now (x : Sys) (f : Fuse) (m : MbxId) (ok : Bool) : (acceptedComplete x f m ok).1.now = x.now := by
  unfold acceptedComplete
  split
  · rfl
  · refine fst_now rfl (fst_now (onZmc_now ..) (fst_now ?_ (fst_now (onZmc_now ..) (fst_now (fst_now (onZmc_now ..) (onZmc_now ..))
      (fst_now (fst_now (fenceStep_now ..) ?_) ?_)))))
    · split
      · rfl
      · exact repairStep_now ..
    · rw [onZmc_now, onCrs_now]
    · exact onZmc_now ..

/-! ### Every command -/

/-- In the command's outcome the queue is as it was, and the time has not gone back. -/
def GoesOn (s : State) (o : Out) : Prop := ∀ t, o = .next t → t.pending = s.pending ∧ s.sys.now ≤ t.sys.now

theorem cmd_goesOn (s : State) (n : Nat) {f : Sys → Sys} (hf : ∀ x, (f x).now = x.now) : GoesOn s (cmd s n f) := by
  intro t e
  cases e
  refine ⟨rfl, ?_⟩
  simp [hf]

theorem busWrite_goesOn (s : State) (n : Nat) (o : Orig) (off : Nat) (z : AccSize) (v : BitVec 64) :
    GoesOn s (cmd s n fun x => busWrite x o off z v) := cmd_goesOn s n fun x => busWrite_now x o off z v

theorem bitsWrite_goesOn (s : State) (n : Nat) (o : Orig) (off : Nat) (m v : Word) :
    GoesOn s (cmd s n fun x => bitsWrite x o off m v) := cmd_goesOn s n fun x => bitsWrite_now x o off m v

theorem onZmc_goesOn (s : State) (n : Nat) (f : Zmc → Nat → Zmc) : GoesOn s (cmd s n fun x => onZmc x f) :=
  cmd_goesOn s n fun x => onZmc_now x f

/-- Every command leaves the queue, and package time never goes back. -/
theorem exec_goesOn (i : Instr) (s : State) : GoesOn s (exec i s) := by
  cases i
  case acceptedComplete n m ok =>
    intro t e
    rw [exec_acceptedComplete] at e
    cases e
    refine ⟨rfl, ?_⟩
    simp only [closeCmd_now]
    split <;> simp [acceptedComplete_now]
  case fabricRequest n r =>
    intro t e
    have hr : r.wf = true := wf_of_exec_next e
    rw [exec_fabricRequest, if_pos hr] at e
    exact cmd_goesOn s n (fun x => ifHome_now _ x) t e
  case sensorSample n ts =>
    intro t e
    have ht : tempsWf ts = true := wf_of_exec_next e
    rw [exec_sensorSample, if_pos ht] at e
    exact onZmc_goesOn s n (fun z now => Sys2Proof.Machine.sensorSample z now ts) t e
  case courseEnqueue | selectCommit | downstreamFlit | stampReached | writeAgeDrain | pageIdleTimeout | pdIdleEntry | refreshTick |
      catchupTimerExpiry | tempReport | tempStale | srIdleTimeout | srQuiesceDone | srEntered | srExitDone | upstreamFlit |
      corbelFlitReceive | corbelUpstreamFlit | nakTimerExpiry | ackTimeout | rdata | lateAlert | caParityAlert | issueAcknowledgement |
      maintenanceResponse | returnOverflow | linkStatus | corbelLinkStatusSend | alignComplete | wakeTimeout | recoverTimeout | rate |
      rateComplete | rateTimeout | sleepStart | sleepAck | corbelSleepAckSend | corbelSafeTimeout | linkFailedResponse | mntTimeout |
      corbelMaintRequest | corbelIssue | readBurstCapture | alertNSampled | issueAckSend | corbelTempRead | corbelStagedApply | dchkDone |
      lchkDwellEnd | recentreArm | recentreAdjust | laneMonitor | pointingRead | lapOverdue | rtWatchExpiry | hardLineHandling |
      clearRequest | laneLockLoss | courseIdle =>
    exact cmd_goesOn s _ (ifCrs_now _ _)
  case image | publish | plumbLapEnd | plumbStall | parityCheck | bondRegenerate | watchdogExpiry | mbxTimeout | auditCoalesceClose |
      activationDone | activationTimeout | snapDone | masonRestartDone | creditParkReturn =>
    exact cmd_goesOn s _ (ifZ_now _)
  case bayGrant | patternSwap | shaperSweep | wheelExpiry | gateListStart | gateEntryStart | lintelStart | gateClose | overrunEnd |
      gateResync | latSample | requestLookup | footingDataReturn | footingDrain | writeback | writebackMerge | snoopResponse | snoopTimeout
      | holdWindowEnd | retestStallExpiry | bwWindowClose | mirrorWrite | mirrorAck | mirrorRead | mirrorReadData | faultNotice |
      regionFresh =>
    exact cmd_goesOn s _ (ifHome_now _)
  case registerWrite => exact exec_registerWrite .. ▸ busWrite_goesOn _ _ _ _ _ _
  case setIssue => exact exec_setIssue .. ▸ busWrite_goesOn _ _ _ _ _ _
  case mbxRing => exact exec_mbxRing .. ▸ busWrite_goesOn _ _ _ _ _ _
  case mbxCancel => exact exec_mbxCancel .. ▸ busWrite_goesOn _ _ _ _ _ _
  case latSelCopy => exact exec_latSelCopy .. ▸ busWrite_goesOn _ _ _ _ _ _
  case mntReq => exact exec_mntReq .. ▸ busWrite_goesOn _ _ _ _ _ _
  case tcmd => exact exec_tcmd .. ▸ busWrite_goesOn _ _ _ _ _ _
  case keyValidErase => exact exec_keyValidErase .. ▸ busWrite_goesOn _ _ _ _ _ _
  case freshInit => exact exec_freshInit .. ▸ busWrite_goesOn _ _ _ _ _ _
  case debugAttach => exact exec_debugAttach .. ▸ busWrite_goesOn _ _ _ _ _ _
  case debugLower => exact exec_debugLower .. ▸ busWrite_goesOn _ _ _ _ _ _
  case srReq => exact exec_srReq .. ▸ bitsWrite_goesOn _ _ _ _ _ _
  case srExit => exact exec_srExit .. ▸ bitsWrite_goesOn _ _ _ _ _ _
  case linkStart => exact exec_linkStart .. ▸ bitsWrite_goesOn _ _ _ _ _ _
  case linkStop => exact exec_linkStop .. ▸ bitsWrite_goesOn _ _ _ _ _ _
  case dozeReq => exact exec_dozeReq .. ▸ bitsWrite_goesOn _ _ _ _ _ _
  case wake => exact exec_wake .. ▸ bitsWrite_goesOn _ _ _ _ _ _
  case hodFreeze => exact exec_hodFreeze .. ▸ bitsWrite_goesOn _ _ _ _ _ _
  case hodUnfreeze => exact exec_hodUnfreeze .. ▸ bitsWrite_goesOn _ _ _ _ _ _
  case snap => exact exec_snap .. ▸ bitsWrite_goesOn _ _ _ _ _ _
  case memSingleBitError => exact exec_memSingleBitError .. ▸ onZmc_goesOn _ _ _
  case thermAlertRelease => exact exec_thermAlertRelease .. ▸ onZmc_goesOn _ _ _
  case portLiveRise => exact exec_portLiveRise .. ▸ onZmc_goesOn _ _ _
  case portLiveFall => exact exec_portLiveFall .. ▸ onZmc_goesOn _ _ _
  case debugClockLoss => exact exec_debugClockLoss .. ▸ onZmc_goesOn _ _ _
  case lockoutExpiry => exact exec_lockoutExpiry .. ▸ onZmc_goesOn _ _ _
  case tokenExpiry => exact exec_tokenExpiry .. ▸ onZmc_goesOn _ _ _
  case powerGoodRise n => exact exec_powerGoodRise .. ▸ cmd_goesOn s n (fun x => powerRise_now x _)
  case powerGoodFall n => exact exec_powerGoodFall .. ▸ cmd_goesOn s n (fun x => powerFall_now x _)
  case coldRstRelease n l => exact exec_coldRstRelease .. ▸ cmd_goesOn s n (fun x => coldRelease_now x _ l)
  case warmRstRelease n l => exact exec_warmRstRelease .. ▸ cmd_goesOn s n (fun x => warmRelease_now x l)
  case memDoubleBitError n mem w b => exact exec_memDoubleBitError .. ▸ cmd_goesOn s n (fun x => memDoubleBit_now x mem w b)
  case lowWordRead n o off sz => exact exec_lowWordRead .. ▸ cmd_goesOn s n (fun x => busRead_now x o _ sz)
  case thermAlertAssert n l => exact exec_thermAlertAssert .. ▸ cmd_goesOn s n (fun x => alertAssert_now x l)
  case laneClockLoss n k => exact exec_laneClockLoss .. ▸ cmd_goesOn s n (fun x => laneClockLoss_now x k)
  case readDataReturn n c => exact exec_readDataReturn .. ▸ cmd_goesOn s n (fun x => ite_now (dataBack_now x c) rfl)
  case keyZeroDone n => exact exec_keyZeroDone .. ▸ cmd_goesOn s n (fun x => keysZeroed_now x)
  case retainWakeTimer n => exact exec_retainWakeTimer .. ▸ cmd_goesOn s n (fun x => wakeTimer_now x)
  case retainExit n dead => exact exec_retainExit .. ▸ cmd_goesOn s n (fun x => retainExit_now x dead)
  case courseCredit n c => exact exec_courseCredit .. ▸ cmd_goesOn s n (fun x => ifJoint_now c _ x)
  case mgtBist n obs => exact exec_mgtBist .. ▸ cmd_goesOn s n (fun x => ifUp_now _ x (fun y => onZmc_now y _))
  all_goals exact cmd_goesOn s _ (fun x => ifUp_now _ x (fun y => by simp))

end Sys2Proof.Machine

/-! SUPPORT. Chapters 0 and 1: the statement about the queue and the time. -/

namespace Sys2Proof.Proofs
open Sys2Proof.Machine

/-- Settles O2: a step runs the front command on the queue's rest, and no command touches the queue or sets the time back. -/
theorem queueAndTimeGoOn : Obligations.QueueAndTimeGoOn := by
  unfold Obligations.QueueAndTimeGoOn
  constructor
  · intro s t c rest hp e
    rw [step, hp] at e
    exact exec_goesOn c _ t e
  · intro s hp
    simp [step, hp]

end Sys2Proof.Proofs

/-! SUPPORT. Chapter 16 (R331): what a hold of the ZMC keeps, under each operation that is not switched off by it. -/

namespace Sys2Proof.Machine

/-- From `a` to `b` all that a hold keeps has stayed: the bring-up state, what the bays hold and have decided, the Bond table's generation, and a
supply that is not in RETAIN. -/
structure HoldKept (a b : Zmc) : Prop where
  boot : b.boot = a.boot
  pwr : a.pwr.st < 3 → b.pwr.st < 3
  gen : b.bond.gen = a.bond.gen
  q : ∀ i : BayId, b.bays[i].q = a.bays[i].q
  next : ∀ i : BayId, b.bays[i].next = a.bays[i].next

theorem HoldKept.trans {a b c : Zmc} (h : HoldKept a b) (k : HoldKept b c) : HoldKept a c where
  boot := k.boot.trans h.boot
  pwr u := k.pwr (h.pwr u)
  gen := k.gen.trans h.gen
  q i := (k.q i).trans (h.q i)
  next i := (k.next i).trans (h.next i)

theorem HoldKept.of_eq {a b : Zmc} (boot : b.boot = a.boot := by rfl) (pwr : b.pwr = a.pwr := by rfl)
    (bond : b.bond = a.bond := by rfl) (bays : b.bays = a.bays := by rfl) : HoldKept a b where
  boot := boot
  pwr u := by rw [pwr]; exact u
  gen := by rw [bond]
  q i := by rw [bays]
  next i := by rw [bays]

theorem HoldKept.refl (a : Zmc) : HoldKept a a := .of_eq

theorem holdKept_foldl {α : Type} {f : Zmc → α → Zmc} (hf : ∀ z a, HoldKept z (f z a)) (l : List α) (z : Zmc) : HoldKept z (l.foldl f z) := by
  induction l generalizing z with
  | nil => exact .refl z
  | cons a l ih => exact (hf z a).trans (ih (f z a))

/-- A choice between two states that keep it all keeps it all. -/
theorem HoldKept.ite {p : Prop} [Decidable p] {a b c : Zmc} (h : HoldKept a b) (k : HoldKept a c) : HoldKept a (if p then b else c) := by
  split
  · exact h
  · exact k

theorem HoldKept.evPost {a z : Zmc} (h : HoldKept a z) (now c i k : Nat) (d : List Word) : HoldKept a (evPost z now c i k d) :=
  h.trans (.of_eq (by simp) (by simp) (by simp) (by simp))

theorem HoldKept.post {a z : Zmc} (h : HoldKept a z) (now off b : Nat) : HoldKept a (post z now off b) :=
  h.trans (.of_eq (by simp) (by simp) (by simp) (by simp))

theorem CloseOnly.holdKept {a b : Zmc} (h : CloseOnly a b) : HoldKept a b := .of_eq h.boot h.pwr h.bond h.bays

/-! ### The operations of the debug port, the pins and the sensors -/

theorem modBay_holdKept (z : Zmc) (b : BayId) (f : BaySt → BaySt) (hq : ∀ y, (f y).q = y.q) (hn : ∀ y, (f y).next = y.next) : HoldKept z (modBay z b f) where
  boot := rfl
  pwr u := u
  gen := rfl
  q i := by simp only [modBay, modV_get]; split <;> simp_all
  next i := by simp only [modBay, modV_get]; split <;> simp_all

theorem orphanAll_holdKept (z : Zmc) (p : PortId) : HoldKept z (orphanAll z p) := by
  unfold orphanAll
  exact .trans (holdKept_foldl (fun _ _ => .of_eq) _ z)
    (holdKept_foldl (fun z b => modBay_holdKept z b _ (by intro; rfl) (by intro; rfl)) _ _)

theorem endHolds_holdKept (z : Zmc) (p : PortId) : HoldKept z (endHolds z p) := by
  unfold endHolds
  exact holdKept_foldl (fun _ _ => holdKept_foldl (fun _ _ => .of_eq) _ _) _ z

theorem liveFall_holdKept (z : Zmc) (now : Nat) (p : PortId) : HoldKept z (liveFall z now p) := by
  unfold liveFall
  split
  · exact (HoldKept.of_eq : HoldKept z (setLive z now p false)).trans ((orphanAll_holdKept _ p).trans (endHolds_holdKept _ p))
  · exact .refl z

theorem liveRise_holdKept (z : Zmc) (now : Nat) (p : PortId) : HoldKept z (liveRise z now p) := by
  unfold liveRise
  split
  · exact .refl z
  · exact .of_eq

theorem needBond_holdKept (z : Zmc) : HoldKept z (needBond z) := ⟨rfl, id, rfl, fun _ => rfl, fun _ => rfl⟩

theorem setLevel_holdKept (z : Zmc) (now lvl : Nat) : HoldKept z (setLevel z now lvl) := by
  have h : HoldKept z { z with dbg := { z.dbg with level := lvl } } := .of_eq
  unfold setLevel
  simp only
  have k : HoldKept z (if (z.dbg.level = 0) ≠ (lvl = 0) then needBond { z with dbg := { z.dbg with level := lvl } }
      else { z with dbg := { z.dbg with level := lvl } }) := by
    split
    · exact h.trans (needBond_holdKept _)
    · exact h
  split
  · exact k.trans (liveFall_holdKept ..)
  · split
    · exact k.trans (liveRise_holdKept ..)
    · exact k

theorem clockLoss_holdKept (z : Zmc) (now ns : Nat) : HoldKept z (clockLoss z now ns) := by
  have h : HoldKept z (if z.dbg.zero.isSome then { z with dbg := { z.dbg with cancel := true } } else z) :=
    .ite (.of_eq) (.refl z)
  exact .ite (.refl z) (.ite h (h.trans (setLevel_holdKept ..)))

theorem attachLog_holdKept (z : Zmc) (now lvl res : Nat) (g e : Bool) : HoldKept z (attachLog z now lvl res g e) :=
  .of_eq (by simp [attachLog]) (by simp [attachLog]) (by simp [attachLog]) (by simp [attachLog])

theorem keyZeroDone_holdKept (z : Zmc) (now : Nat) : HoldKept z (keyZeroDone z now) := by
  have h : HoldKept z (post (keyZero { z with dbg := { z.dbg with zero := none, cancel := false } }) now (secBase + 0x2010) 4) :=
    HoldKept.post (.of_eq) _ _ _
  unfold keyZeroDone
  split
  · exact .refl z
  · exact .ite (.refl z) (.ite (h.trans (attachLog_holdKept ..))
      ((h.trans (setLevel_holdKept ..)).post _ _ _ |>.trans (attachLog_holdKept ..)))

theorem lockoutEnd_holdKept (z : Zmc) (now : Nat) : HoldKept z (lockoutEnd z now) := by
  unfold lockoutEnd
  split
  · split
    · exact .of_eq
    · exact .refl z
  · exact .refl z

theorem tokenEnd_holdKept (z : Zmc) (now : Nat) : HoldKept z (tokenEnd z now) := by
  unfold tokenEnd
  split
  · split
    · exact .of_eq
    · exact .refl z
  · exact .refl z

theorem alertRelease_holdKept (z : Zmc) (now ns : Nat) : HoldKept z (alertRelease z now ns) := by
  unfold alertRelease
  split
  · exact .of_eq
  · exact .refl z

theorem portRise_holdKept {z : Zmc} (h : closedUp z = true) (now : Nat) (p : PortId) : HoldKept z (portRise z now p) := by
  have hp : closedUp { z with pins := modV z.pins p (fun _ => true) } = true := h
  unfold portRise
  split
  · exact .refl z
  · simp only [hp, if_true]
    exact .of_eq

theorem portFall_holdKept {z : Zmc} (h : closedUp z = true) (now : Nat) (p : PortId) : HoldKept z (portFall z now p) := by
  have hp : closedUp { z with pins := modV z.pins p (fun _ => false) } = true := h
  unfold portFall
  split
  · exact .refl z
  · simp only [hp, if_true]
    exact .of_eq

theorem gapSample_holdKept (z : Zmc) (now : Nat) (ts : List Int) : HoldKept z (gapSample z now ts) :=
  .ite (.evPost (.of_eq) ..) (.of_eq)

theorem hotSample_holdKept (z : Zmc) (now : Nat) (ts : List Int) : HoldKept z (hotSample z now ts) := by
  unfold hotSample
  simp only
  have h (n : Nat) : HoldKept z (post { (setF (setF z (zmcBase + 0x0E08) 7 0 ((hottest z ts).1 % 256).toNat) (zmcBase + 0x0E08) 12 8 (hottest z ts).2) with
      therm := { z.therm with hotOut := true } } now (zmcBase + 0x0E08) n) := .post (.of_eq) _ _ _
  exact .ite (.ite (h 15) ((h 15).evPost ..)) (.ite (.of_eq) (.of_eq))

theorem sensorSample_holdKept (z : Zmc) (now : Nat) (ts : List Int) : HoldKept z (sensorSample z now ts) := by
  unfold sensorSample
  split
  · exact .refl z
  · exact (HoldKept.of_eq : HoldKept z { z with therm := { z.therm with temps := ts } }).trans
      ((gapSample_holdKept ..).trans (hotSample_holdKept ..))

/-! ### The effects of a command on a held block -/

/-- From `x` to `y` all that a hold keeps has stayed, and no course did anything. -/
def HoldStays (x y : Sys) : Prop := y.crs = x.crs ∧ HoldKept x.z y.z

theorem HoldStays.refl (x : Sys) : HoldStays x x := ⟨rfl, .refl x.z⟩

theorem HoldStays.trans {x y w : Sys} (h : HoldStays x y) (k : HoldStays y w) : HoldStays x w := ⟨k.1.trans h.1, h.2.trans k.2⟩

theorem onZmc_holdStays {f : Zmc → Nat → Zmc} (x : Sys) (h : HoldKept x.z (f x.z x.now)) : HoldStays x (onZmc x f) := ⟨rfl, h⟩

theorem startAt_holdStays (x : Sys) (n : Nat) : HoldStays x (startAt x n) := ⟨by simp, .of_eq (by simp) (by simp) (by simp) (by simp)⟩

theorem closeCmd_holdStays (x y : Sys) : HoldStays y (closeCmd x y) := ⟨by simp, (closeCmd_only x y).holdKept⟩

theorem closedUp_of_hold {z : Zmc} (h : z.boot.hold ≠ 0) : closedUp z = true := by simp [closedUp, h]

theorem homesRun_of_hold {z : Zmc} (h : z.boot.hold ≠ 0) : homesRun z = false := by simp [homesRun, h]

theorem ifUp_held {f : Sys → Sys} {x : Sys} (h : x.z.boot.hold ≠ 0) : ifUp f x = x := by simp [ifUp, closedUp_of_hold h]

theorem ifHome_held {f : Zmc → Nat → Zmc} {x : Sys} (h : x.z.boot.hold ≠ 0) : ifHome f x = x := by simp [ifHome, homesRun_of_hold h]

theorem ifJoint_held {c : CourseId} {f : Zmc → Nat → Zmc} {x : Sys} (h : x.z.boot.hold ≠ 0) : ifJoint c f x = x := by simp [ifJoint, ifHome_held h]

theorem wordWrite_held {x : Sys} (h : x.z.boot.hold ≠ 0) (o : Orig) (off : Nat) (v : Word) : wordWrite x o off v = x := by
  unfold wordWrite
  simp [closedUp_of_hold h, closedWrite, h]

theorem busWrite_held {x : Sys} (h : x.z.boot.hold ≠ 0) (o : Orig) (off : Nat) (sz : AccSize) (v : BitVec 64) : busWrite x o off sz v = x := by
  unfold busWrite
  simp only [closedUp_of_hold h, if_true]
  split
  · rfl
  · cases sz <;> simp [wordWrite_held h]

theorem bitsWrite_held {x : Sys} (h : x.z.boot.hold ≠ 0) (o : Orig) (off : Nat) (m v : Word) : bitsWrite x o off m v = x := busWrite_held h ..

theorem memRuns_held {z : Zmc} (h : z.boot.hold ≠ 0) (mem : Nat) : memRuns z mem = false := by simp [memRuns, closedUp_of_hold h]

theorem onZmc_memSingleBit_held {x : Sys} (h : x.z.boot.hold ≠ 0) (mem w b : Nat) : onZmc x (fun z now => memSingleBit z now mem w b) = x := by
  simp only [onZmc, memSingleBit, memRuns_held h, Bool.false_eq_true, if_false]

theorem readWord_holdStays (x : Sys) (o : Orig) (off : Nat) : HoldStays x (readWord x o off).1 := by
  unfold readWord
  simp only
  split
  · exact .refl x
  · split
    · exact ⟨rfl, .of_eq⟩
    · split
      · exact .refl x
      · exact .refl x

theorem busPut_holdStays (x : Sys) (v : BitVec 64) : HoldStays x { x with z := { x.z with bus := v } } := ⟨rfl, .of_eq⟩

theorem busRead_holdStays (x : Sys) (o : Orig) (off : Nat) (sz : AccSize) : HoldStays x (busRead x o off sz) := by
  unfold busRead
  simp only
  split
  · exact busPut_holdStays ..
  · cases sz
    case b8 => exact (readWord_holdStays x o off).trans ((readWord_holdStays _ o (off + 4)).trans (busPut_holdStays ..))
    all_goals exact (readWord_holdStays x o _).trans (busPut_holdStays ..)

theorem pulseSeen_holdStays (x : Sys) (ns : Nat) : HoldStays x (pulseSeen x ns).1 := by
  unfold pulseSeen
  split
  · exact .refl x
  · exact ⟨rfl, .refl x.z⟩

theorem alertPost_holdKept (z : Zmc) (now : Nat) (d : List Word) : HoldKept z
    (let z' := post { z with therm := { z.therm with alertOn := true } } now (zmcBase + 0x0E08) 14
     if closedUp z' then z' else evPost z' now 0x12 20 255 d) := by
  simp only
  split
  · exact .of_eq (by simp) (by simp) (by simp) (by simp)
  · exact .of_eq (by simp) (by simp) (by simp) (by simp)

theorem alertAssert_holdStays (x : Sys) (ns : Nat) : HoldStays x (alertAssert x ns) := by
  unfold alertAssert
  split
  · exact .refl x
  · simp only
    split
    · exact (pulseSeen_holdStays x ns).trans (onZmc_holdStays _ (alertPost_holdKept ..))
    · exact pulseSeen_holdStays x ns

theorem retainAbandon_holdStays (x : Sys) (status : Nat) : HoldStays x (retainAbandon x status) := by
  unfold retainAbandon
  split
  · exact .refl x
  next r _ =>
    refine onZmc_holdStays x ?_
    have st : bit (allAsleep x && homesEmpty x.z) < 3 := by unfold bit; split <;> omega
    refine ⟨?_, fun _ => ?_, ?_, fun i => ?_, fun i => ?_⟩
    all_goals
      simp only [retainEnd, audit_boot, potPost_boot, audit_pwr, potPost_pwr, audit_bond, potPost_bond, audit_bays, potPost_bays]
      split
      all_goals simp [gateHomes, st]

theorem keysZeroed_holdStays (x : Sys) : HoldStays x (keysZeroed x) := by
  have h : HoldStays x (onZmc x keyZeroDone) := onZmc_holdStays x (keyZeroDone_holdKept ..)
  unfold keysZeroed
  simp only
  split
  · exact h.trans (retainAbandon_holdStays ..)
  · exact h

theorem wakeTimer_held {x : Sys} (h : x.z.pwr.st < 3) : wakeTimer x = x := by
  unfold wakeTimer
  exact if_neg fun e => by omega

theorem retainExit_held {x : Sys} (h : x.z.pwr.st < 3) (dead : List CourseId) : retainExit x dead = x := by
  unfold retainExit
  split
  next e _ _ => omega
  · rfl

/-! ### Every command -/

/-- In the command's outcome all that a hold keeps has stayed, and so have the courses and the fuses. -/
def Held (s : State) (o : Out) : Prop := ∀ t, o = .next t → HoldStays s.sys t.sys ∧ t.fuse = s.fuse

theorem cmd_held {s : State} (n : Nat) {f : Sys → Sys} (hf : HoldStays (startAt s.sys n) (f (startAt s.sys n))) : Held s (cmd s n f) := by
  intro t e
  cases e
  exact ⟨(startAt_holdStays ..).trans (hf.trans (closeCmd_holdStays ..)), rfl⟩

/-- An effect that a hold switches off. -/
theorem cmd_held_of_id {s : State} (n : Nat) {f : Sys → Sys} (hf : f (startAt s.sys n) = startAt s.sys n) : Held s (cmd s n f) :=
  cmd_held n (by rw [hf]; exact .refl _)

section
variable {s : State} (hold : s.sys.z.boot.hold ≠ 0)
include hold

theorem startAt_hold (n : Nat) : (startAt s.sys n).z.boot.hold ≠ 0 := by simpa using hold

theorem ifUp_cmd_held (n : Nat) (f : Sys → Sys) : Held s (cmd s n (ifUp f)) := cmd_held_of_id n (ifUp_held (startAt_hold hold n))

theorem ifHome_cmd_held (n : Nat) (f : Zmc → Nat → Zmc) : Held s (cmd s n (ifHome f)) := cmd_held_of_id n (ifHome_held (startAt_hold hold n))

theorem busWrite_cmd_held (n : Nat) (o : Orig) (off : Nat) (sz : AccSize) (v : BitVec 64) : Held s (cmd s n fun x => busWrite x o off sz v) :=
  cmd_held_of_id n (busWrite_held (startAt_hold hold n) ..)

theorem bitsWrite_cmd_held (n : Nat) (o : Orig) (off : Nat) (m v : Word) : Held s (cmd s n fun x => bitsWrite x o off m v) :=
  cmd_held_of_id n (bitsWrite_held (startAt_hold hold n) ..)

/-- Every command but those of the supplies, the reset pins and a lost lane reference. -/
theorem exec_held (hst : s.sys.z.pwr.st < 3) (i : Instr) (hr : resetRow i = false) : Held s (exec i s) := by
  have st (n : Nat) : (startAt s.sys n).z.pwr.st < 3 := by simpa using hst
  cases i
  case powerGoodRise | powerGoodFall | coldRstRelease | warmRstRelease | laneClockLoss => cases hr
  case courseEnqueue | selectCommit | downstreamFlit | stampReached | writeAgeDrain | pageIdleTimeout | pdIdleEntry | refreshTick |
      catchupTimerExpiry | tempReport | tempStale | srIdleTimeout | srQuiesceDone | srEntered | srExitDone | upstreamFlit |
      corbelFlitReceive | corbelUpstreamFlit | nakTimerExpiry | ackTimeout | rdata | lateAlert | caParityAlert | issueAcknowledgement |
      maintenanceResponse | returnOverflow | linkStatus | corbelLinkStatusSend | alignComplete | wakeTimeout | recoverTimeout | rate |
      rateComplete | rateTimeout | sleepStart | sleepAck | corbelSleepAckSend | corbelSafeTimeout | linkFailedResponse | mntTimeout |
      corbelMaintRequest | corbelIssue | readBurstCapture | alertNSampled | issueAckSend | corbelTempRead | corbelStagedApply | dchkDone |
      lchkDwellEnd | recentreArm | recentreAdjust | laneMonitor | pointingRead | lapOverdue | rtWatchExpiry | hardLineHandling |
      clearRequest | laneLockLoss | courseIdle =>
    exact ifUp_cmd_held hold _ _
  case image | publish | plumbLapEnd | plumbStall | parityCheck | bondRegenerate | watchdogExpiry | mbxTimeout | auditCoalesceClose |
      activationDone | activationTimeout | snapDone | masonRestartDone | creditParkReturn =>
    exact ifUp_cmd_held hold _ _
  case bayGrant | patternSwap | shaperSweep | wheelExpiry | gateListStart | gateEntryStart | lintelStart | gateClose | overrunEnd |
      gateResync | latSample | requestLookup | footingDataReturn | footingDrain | writeback | writebackMerge | snoopResponse | snoopTimeout
      | holdWindowEnd | retestStallExpiry | bwWindowClose | mirrorWrite | mirrorAck | mirrorRead | mirrorReadData | faultNotice |
      regionFresh =>
    exact ifHome_cmd_held hold _ _
  case registerWrite => exact exec_registerWrite .. ▸ busWrite_cmd_held hold _ _ _ _ _
  case setIssue => exact exec_setIssue .. ▸ busWrite_cmd_held hold _ _ _ _ _
  case mbxRing => exact exec_mbxRing .. ▸ busWrite_cmd_held hold _ _ _ _ _
  case mbxCancel => exact exec_mbxCancel .. ▸ busWrite_cmd_held hold _ _ _ _ _
  case latSelCopy => exact exec_latSelCopy .. ▸ busWrite_cmd_held hold _ _ _ _ _
  case mntReq => exact exec_mntReq .. ▸ busWrite_cmd_held hold _ _ _ _ _
  case tcmd => exact exec_tcmd .. ▸ busWrite_cmd_held hold _ _ _ _ _
  case keyValidErase => exact exec_keyValidErase .. ▸ busWrite_cmd_held hold _ _ _ _ _
  case freshInit => exact exec_freshInit .. ▸ busWrite_cmd_held hold _ _ _ _ _
  case debugAttach => exact exec_debugAttach .. ▸ busWrite_cmd_held hold _ _ _ _ _
  case debugLower => exact exec_debugLower .. ▸ busWrite_cmd_held hold _ _ _ _ _
  case srReq => exact exec_srReq .. ▸ bitsWrite_cmd_held hold _ _ _ _ _
  case srExit => exact exec_srExit .. ▸ bitsWrite_cmd_held hold _ _ _ _ _
  case linkStart => exact exec_linkStart .. ▸ bitsWrite_cmd_held hold _ _ _ _ _
  case linkStop => exact exec_linkStop .. ▸ bitsWrite_cmd_held hold _ _ _ _ _
  case dozeReq => exact exec_dozeReq .. ▸ bitsWrite_cmd_held hold _ _ _ _ _
  case wake => exact exec_wake .. ▸ bitsWrite_cmd_held hold _ _ _ _ _
  case hodFreeze => exact exec_hodFreeze .. ▸ bitsWrite_cmd_held hold _ _ _ _ _
  case hodUnfreeze => exact exec_hodUnfreeze .. ▸ bitsWrite_cmd_held hold _ _ _ _ _
  case snap => exact exec_snap .. ▸ bitsWrite_cmd_held hold _ _ _ _ _
  case courseCredit n c => exact exec_courseCredit .. ▸ cmd_held_of_id n (ifJoint_held (startAt_hold hold n))
  case readDataReturn n c => exact exec_readDataReturn .. ▸ cmd_held_of_id n (by simp [homesRun_of_hold hold])
  case lowWordRead n o off sz => exact exec_lowWordRead .. ▸ cmd_held n (busRead_holdStays ..)
  case memSingleBitError n mem w b =>
    exact exec_memSingleBitError .. ▸ cmd_held_of_id n (onZmc_memSingleBit_held (startAt_hold hold n) ..)
  case memDoubleBitError n mem w b => exact exec_memDoubleBitError .. ▸ cmd_held_of_id n (by simp [memDoubleBit, memRuns_held (startAt_hold hold n)])
  case sensorSample n ts =>
    intro t e
    have ht : tempsWf ts = true := wf_of_exec_next e
    rw [exec_sensorSample, if_pos ht] at e
    exact cmd_held n (onZmc_holdStays _ (sensorSample_holdKept ..)) t e
  case fabricRequest n r =>
    intro t e
    have hw : r.wf = true := wf_of_exec_next e
    rw [exec_fabricRequest, if_pos hw] at e
    exact ifHome_cmd_held hold n _ t e
  case acceptedComplete n m ok =>
    intro t e
    rw [exec_acceptedComplete, cmdFuse] at e
    simp only [startAt_closedUp, closedUp_of_hold hold, if_true] at e
    cases e
    exact ⟨(startAt_holdStays ..).trans (closeCmd_holdStays ..), rfl⟩
  case thermAlertAssert n ns => exact exec_thermAlertAssert .. ▸ cmd_held n (alertAssert_holdStays ..)
  case thermAlertRelease n ns => exact exec_thermAlertRelease .. ▸ cmd_held n (onZmc_holdStays _ (alertRelease_holdKept ..))
  case portLiveRise n p => exact exec_portLiveRise .. ▸ cmd_held n (onZmc_holdStays _ (portRise_holdKept (closedUp_of_hold (startAt_hold hold n)) ..))
  case portLiveFall n p => exact exec_portLiveFall .. ▸ cmd_held n (onZmc_holdStays _ (portFall_holdKept (closedUp_of_hold (startAt_hold hold n)) ..))
  case keyZeroDone n => exact exec_keyZeroDone .. ▸ cmd_held n (keysZeroed_holdStays _)
  case debugClockLoss n ns => exact exec_debugClockLoss .. ▸ cmd_held n (onZmc_holdStays _ (clockLoss_holdKept ..))
  case lockoutExpiry n => exact exec_lockoutExpiry .. ▸ cmd_held n (onZmc_holdStays _ (lockoutEnd_holdKept ..))
  case tokenExpiry n => exact exec_tokenExpiry .. ▸ cmd_held n (onZmc_holdStays _ (tokenEnd_holdKept ..))
  case retainWakeTimer n => exact exec_retainWakeTimer .. ▸ cmd_held_of_id n (wakeTimer_held (st n))
  case retainExit n dead => exact exec_retainExit .. ▸ cmd_held_of_id n (retainExit_held (st n) dead)
  all_goals exact ifUp_cmd_held hold _ _

end

end Sys2Proof.Machine

/-! SUPPORT. Chapter 16: the statement about a held ZMC. -/

namespace Sys2Proof.Proofs
open Sys2Proof.Machine

/-- Settles O7: a hold switches off every command that could change what it keeps, and the rest leave it alone. -/
theorem heldZmcStaysHeld : Obligations.HeldZmcStaysHeld := by
  unfold Obligations.HeldZmcStaysHeld
  intro k hk inv s t ⟨hold, hst⟩ hr e
  have main : HoldStays s.sys t.sys ∧ t.fuse = s.fuse := by
    cases hp : s.pending with
    | nil =>
      simp only [step, hp] at e
      cases e
      exact ⟨.refl s.sys, rfl⟩
    | cons c rest =>
      rw [step, hp] at e
      exact exec_held (s := { s with pending := rest }) (hold ▸ hk) hst c (hr c (by simp [hp])) t e
  obtain ⟨⟨crs, kept⟩, fuse⟩ := main
  exact ⟨⟨kept.boot ▸ hold, kept.pwr hst⟩, kept.boot, crs, fun b => ⟨kept.q b, kept.next b⟩, kept.gen, fuse⟩

end Sys2Proof.Proofs

/-! SUPPORT. Chapter 16 (R322, Table 16-1): what the resets leave. -/

namespace Sys2Proof.Machine

@[simp] theorem resetCourses_z (x : Sys) : (resetCourses x).z = x.z := by
  have fold : ∀ (l : List CourseId) (x : Sys), (l.foldl (fun x c => onCrs x c resetCrs) x).z = x.z := by
    intro l
    induction l with
    | nil => intro x; rfl
    | cons c l ih => intro x; exact (ih _).trans rfl
  exact fold _ x

@[simp] theorem coldReset_z (x : Sys) (f : Fuse) (good : Bool) : (coldReset x f good).z = coldZmc x.z x.now f good := by simp [coldReset]

@[simp] theorem warmReset_z (x : Sys) : (warmReset x).z = warmZmc x.z x.now := by simp [warmReset]

/-- A block whose courses are all in service and in which Potrie has nothing to commit: a command ends there as it stands. -/
theorem closeCmd_z_of_calm {x y : Sys} (h : ∀ c : CourseId, y.z.cinfo[c].fence = 0) (k : y.z.plumb.own = []) : closeCmd x y = y :=
  closeCmd_id (List.filter_eq_nil_iff.mpr fun c _ => by rw [h c]; simp) k

theorem coldZmc_calm (z : Zmc) (now : Nat) (f : Fuse) (good : Bool) (c : CourseId) : (coldZmc z now f good).cinfo[c].fence = 0 := by
  simp [coldZmc]

@[simp] theorem closeCmd_coldReset (x y : Sys) (f : Fuse) (good : Bool) : closeCmd y (coldReset x f good) = coldReset x f good :=
  closeCmd_z_of_calm (fun c => by rw [coldReset_z]; exact coldZmc_calm ..) (by rw [coldReset_z]; rfl)

/-- What a cold reset leaves of the block, whatever it was before. -/
structure ColdZmc (f : Fuse) (good : Bool) (z : Zmc) : Prop where
  phase : z.boot.phase = 0
  hold : z.boot.hold = 0
  ready : z.boot.ready = false
  pwrGood : z.boot.pwrGood = good
  variant : z.boot.variant = f.variant
  uid : z.boot.uid = f.uid
  lc : z.boot.lc = f.lc
  fuses : z.boot.fuses = f.hard.length
  slots : z.keys.slots = []
  kek : z.keys.kek = none
  unsealed : z.rg.sealed = false
  evq : z.mgt.evq = []
  evtNext : z.mgt.evtNext = 1
  aud : z.mgt.aud = []
  level : z.dbg.level = 0
  up : z.mgt.up = false
  out : z.out = []
  words : ∀ off, wordAt z off = rstWord off

theorem coldZmc_leaves (z : Zmc) (now : Nat) (f : Fuse) (good : Bool) : ColdZmc f good (coldZmc z now f good) := by
  constructor
  case words => exact fun off => rfl
  all_goals rfl

@[simp] theorem keepNoHold_boot (old z : Zmc) : (keepNoHold old z).boot = z.boot := by simp only [keepNoHold, List.foldl]; split <;> split <;> rfl
@[simp] theorem keepNoHold_keys (old z : Zmc) : (keepNoHold old z).keys = z.keys := by simp only [keepNoHold, List.foldl]; split <;> split <;> rfl
@[simp] theorem keepNoHold_mgt (old z : Zmc) : (keepNoHold old z).mgt = z.mgt := by simp only [keepNoHold, List.foldl]; split <;> split <;> rfl
@[simp] theorem keepNoHold_dbg (old z : Zmc) : (keepNoHold old z).dbg = z.dbg := by simp only [keepNoHold, List.foldl]; split <;> split <;> rfl
@[simp] theorem keepNoHold_plumb (old z : Zmc) : (keepNoHold old z).plumb = z.plumb := by simp only [keepNoHold, List.foldl]; split <;> split <;> rfl
@[simp] theorem keepNoHold_cinfo (old z : Zmc) : (keepNoHold old z).cinfo = z.cinfo := by simp only [keepNoHold, List.foldl]; split <;> split <;> rfl
@[simp] theorem keepNoHold_sealed (old z : Zmc) : (keepNoHold old z).rg.sealed = z.rg.sealed := by simp only [keepNoHold, List.foldl]; split <;> split <;> rfl

/-- What a warm reset keeps of the block `a` and what it begins anew in `b` (Table 16-1). -/
structure WarmZmc (a b : Zmc) : Prop where
  phase : b.boot.phase = 0
  hold : b.boot.hold = 0
  ready : b.boot.ready = false
  warm : b.boot.warm = true
  lc : b.boot.lc = a.boot.lc
  lcPend : b.boot.lcPend = a.boot.lcPend
  variant : b.boot.variant = a.boot.variant
  slots : b.keys.slots = a.keys.slots
  kek : b.keys.kek = a.keys.kek
  blocked : b.keys.blocked = a.keys.blocked
  evq : b.mgt.evq = a.mgt.evq
  evtNext : b.mgt.evtNext = a.mgt.evtNext
  aud : b.mgt.aud = a.mgt.aud
  chain : b.mgt.chain = a.mgt.chain
  unsealed : b.rg.sealed = a.rg.sealed
  level : b.dbg.level = 0
  up : b.mgt.up = false

theorem warmZmc_leaves (z : Zmc) (now : Nat) : WarmZmc z (warmZmc z now) := by
  constructor <;> simp [warmZmc, setF]

@[simp] theorem closeCmd_warmReset (x y : Sys) : closeCmd y (warmReset x) = warmReset x :=
  closeCmd_z_of_calm (fun c => by simp [warmZmc]) (by simp [warmZmc])

theorem pulseSeen_long {ns : Nat} (h : 1000 ≤ ns) (x : Sys) : pulseSeen x ns = (x, true) := by simp [pulseSeen, h]

theorem warmRelease_off {x : Sys} (h : x.z.boot.pwrGood = false ∨ x.z.pwr.st = 3) (ns : Nat) : warmRelease x ns = x := by simp [warmRelease, h]

theorem warmRelease_long {x : Sys} {ns : Nat} (hg : x.z.boot.pwrGood = true) (hst : x.z.pwr.st ≠ 3) (h : 1000 ≤ ns) : warmRelease x ns = warmReset x := by
  simp [warmRelease, hg, hst, pulseSeen_long h]

theorem coldRelease_long {x : Sys} {ns : Nat} (hg : x.z.boot.pwrGood = true) (h : 1000 ≤ ns) (f : Fuse) : coldRelease x f ns = coldReset x f true := by
  simp [coldRelease, hg, pulseSeen_long h]

theorem powerRise_off {x : Sys} (hg : x.z.boot.pwrGood = false) (f : Fuse) : powerRise x f = coldReset x f true := by simp [powerRise, hg]

theorem powerFall_z {x : Sys} (hg : x.z.boot.pwrGood = true) (f : Fuse) : (powerFall x f).z = coldZmc x.z x.now f false := by
  simp only [powerFall, hg, Bool.true_eq_false, if_false]
  split <;> simp

end Sys2Proof.Machine

/-! SUPPORT. Chapter 16: the statements about the resets. -/

namespace Sys2Proof.Proofs
open Sys2Proof.Machine

/-- Settles O10: both ways into a cold reset end in `coldReset`, which builds the block from the fuses alone. -/
theorem coldResetStarts : Obligations.ColdResetStarts := by
  unfold Obligations.ColdResetStarts
  intro s n ns cold
  have leaves : cold { s with sys := coldReset (before s n) s.fuse true } := by
    obtain ⟨phase, hold, ready, pwrGood, variant, uid, lc, fuses, slots, kek, unsealed, evq, evtNext, aud, level, -, -, words⟩ :=
      coldZmc_leaves (before s n).z (before s n).now s.fuse true
    rw [← coldReset_z] at phase hold ready pwrGood variant uid lc fuses slots kek unsealed evq evtNext aud level words
    exact ⟨phase, hold, ready, pwrGood, variant, uid, lc, fuses, slots, kek, unsealed, evq, evtNext, aud, level, words, rfl⟩
  refine ⟨fun hg => gives_cmd (exec_powerGoodRise n s) ?_, fun hg hns => gives_cmd (exec_coldRstRelease n ns s) ?_⟩
  · rw [powerRise_off (by simpa [before_eq] using hg), closeCmd_coldReset]
    exact leaves
  · rw [coldRelease_long (by simpa [before_eq] using hg) hns, closeCmd_coldReset]
    exact leaves

/-- Settles O11: a warm reset keeps what Table 16-1 lists, and the loss of the supply leaves the block of a cold reset without power. -/
theorem warmResetAndOff : Obligations.WarmResetAndOff := by
  unfold Obligations.WarmResetAndOff
  refine ⟨fun s n ns => ⟨fun hg hst hns => gives_cmd (exec_warmRstRelease n ns s) ?_, fun h => gives_cmd (exec_warmRstRelease n ns s) ?_⟩,
    fun s n hg => gives_cmd (exec_powerGoodFall n s) ?_⟩
  · rw [warmRelease_long (by simpa [before_eq] using hg) (by simpa [before_eq] using hst) hns, closeCmd_warmReset]
    obtain ⟨phase, hold, ready, warm, lc, lcPend, variant, slots, kek, blocked, evq, evtNext, aud, chain, unsealed, level, up⟩ :=
      warmZmc_leaves (before s n).z (before s n).now
    simp only [before_eq] at *
    simp_all
  · rw [warmRelease_off (by simpa [before_eq] using h)]
    simp [before_eq]
  · have hz := powerFall_z (x := before s n) (by simpa [before_eq] using hg) s.fuse
    rw [closeCmd_z_of_calm (fun c => by rw [hz]; exact coldZmc_calm ..) (by rw [hz]; rfl)]
    obtain ⟨phase, -, ready, pwrGood, -, -, -, -, slots, kek, -, evq, -, aud, -, up, out, words⟩ :=
      coldZmc_leaves (before s n).z (before s n).now s.fuse false
    rw [← hz] at phase ready pwrGood slots kek evq aud up out words
    exact ⟨pwrGood, ready, phase, slots, kek, evq, aud, up, out, words, rfl⟩

end Sys2Proof.Proofs

/-! SUPPORT. Chapter 5 (R84 to R86): a state whose Home-0 holds a window on a course of Home-1. -/

namespace Sys2Proof.Machine

/-- A powered block with every port live; Home-0 holds a window of P0 on a line of Course-8, which is a course of Home-1. -/
def strayHold : State :=
  { sys := { z := { boot := { pwrGood := true }, live := Vector.replicate 24 true, homes := #v[{ holds := [⟨8, 0, 0, 0⟩] }, {}] } } }

theorem strayHold_up : closedUp strayHold.sys.z = false := rfl

theorem strayHold_live : liveFinal (before strayHold 0).z 0 = true := rfl

/-- The end of the windows of P0 looks for this one at the home of its course, and so does not find it. -/
theorem strayHold_stays : ⟨8, 0, 0, 0⟩ ∈ (closeCmd (before strayHold 0) (onZmc (before strayHold 0) (fun z now => portFall z now 0))).z.homes[0].holds := by
  rw [closeCmd_homes]
  decide

end Sys2Proof.Machine

/-! SUPPORT. Chapter 5: the statement about the ports. -/

namespace Sys2Proof.Proofs
open Sys2Proof.Machine

/-- Refutes O30: a hold window kept at a home that is not its course's does not end when its port goes. -/
theorem not_portsComeAndGo : ¬ Obligations.PortsComeAndGo := by
  unfold Obligations.PortsComeAndGo
  intro h
  obtain ⟨-, fall, -⟩ := h strayHold 0 0 strayHold_up
  obtain ⟨t, e, -, -, -, -, holds⟩ := fall (by decide)
  rw [exec_portLiveFall, cmd] at e
  cases e
  exact holds strayHold_live 0 _ strayHold_stays rfl

end Sys2Proof.Proofs

/-! SUPPORT. Chapter 15 (R305 to R309): what the debug port's own events do to the port and to the key store. -/

namespace Sys2Proof.Machine

/-- From `a` to `b` the debug port and the key store have stayed. -/
structure DbgKept (a b : Zmc) : Prop where
  dbg : b.dbg = a.dbg
  keys : b.keys = a.keys

theorem DbgKept.refl (a : Zmc) : DbgKept a a := ⟨rfl, rfl⟩

theorem DbgKept.trans {a b c : Zmc} (h : DbgKept a b) (k : DbgKept b c) : DbgKept a c := ⟨k.dbg.trans h.dbg, k.keys.trans h.keys⟩

theorem dbgKept_foldl {α : Type} {f : Zmc → α → Zmc} (hf : ∀ z a, DbgKept z (f z a)) (l : List α) (z : Zmc) : DbgKept z (l.foldl f z) := by
  induction l generalizing z with
  | nil => exact .refl z
  | cons a l ih => exact (hf z a).trans (ih (f z a))

theorem liveRise_dbgKept (z : Zmc) (now : Nat) (p : PortId) : DbgKept z (liveRise z now p) := by
  unfold liveRise
  split <;> exact ⟨rfl, rfl⟩

theorem orphanAll_dbgKept (z : Zmc) (p : PortId) : DbgKept z (orphanAll z p) := by
  unfold orphanAll
  exact .trans (dbgKept_foldl (fun _ _ => ⟨by rfl, by rfl⟩) _ z) (dbgKept_foldl (fun _ _ => ⟨by rfl, by rfl⟩) _ _)

theorem endHolds_dbgKept (z : Zmc) (p : PortId) : DbgKept z (endHolds z p) := by
  unfold endHolds
  exact dbgKept_foldl (fun _ _ => dbgKept_foldl (fun _ _ => ⟨by rfl, by rfl⟩) _ _) _ z

theorem liveFall_dbgKept (z : Zmc) (now : Nat) (p : PortId) : DbgKept z (liveFall z now p) := by
  unfold liveFall
  split
  · exact (⟨rfl, rfl⟩ : DbgKept z (setLive z now p false)).trans ((orphanAll_dbgKept _ p).trans (endHolds_dbgKept _ p))
  · exact .refl z

/-- A change of the debug level touches, of the port and the key store, the level alone. -/
theorem setLevel_dbgKept (z : Zmc) (now lvl : Nat) : DbgKept { z with dbg := { z.dbg with level := lvl } } (setLevel z now lvl) := by
  unfold setLevel
  simp only
  have k : DbgKept { z with dbg := { z.dbg with level := lvl } } (if (z.dbg.level = 0) ≠ (lvl = 0)
      then needBond { z with dbg := { z.dbg with level := lvl } } else { z with dbg := { z.dbg with level := lvl } }) := by
    split <;> exact ⟨rfl, rfl⟩
  split
  · exact k.trans (liveFall_dbgKept ..)
  · split
    · exact k.trans (liveRise_dbgKept ..)
    · exact k

@[simp] theorem setLevel_dbg (z : Zmc) (now lvl : Nat) : (setLevel z now lvl).dbg = { z.dbg with level := lvl } := (setLevel_dbgKept z now lvl).dbg

@[simp] theorem setLevel_keys (z : Zmc) (now lvl : Nat) : (setLevel z now lvl).keys = z.keys := (setLevel_dbgKept z now lvl).keys

@[simp] theorem attachLog_dbg (z : Zmc) (now lvl res : Nat) (g e : Bool) : (attachLog z now lvl res g e).dbg = z.dbg := by simp [attachLog]

@[simp] theorem attachLog_keys (z : Zmc) (now lvl res : Nat) (g e : Bool) : (attachLog z now lvl res g e).keys = z.keys := by simp [attachLog]

/-- The zeroing ends: no longer running nor cancelled, and INVASIVE unless it was cancelled. -/
theorem keyZeroDone_dbg {z : Zmc} {now t0 : Nat} (h : z.dbg.zero = some t0) (ht : t0 ≤ now) : (keyZeroDone z now).dbg =
    { z.dbg with zero := none, cancel := false, level := if z.dbg.cancel then z.dbg.level else 2 } := by
  have hn : ¬ now < t0 := by omega
  cases hc : z.dbg.cancel <;> simp [keyZeroDone, h, hn, hc, keyZero]

theorem keyZeroDone_keys {z : Zmc} {now t0 : Nat} (h : z.dbg.zero = some t0) (ht : t0 ≤ now) : (keyZeroDone z now).keys = (keyZero z).keys := by
  have hn : ¬ now < t0 := by omega
  cases hc : z.dbg.cancel <;> simp [keyZeroDone, h, hn, hc, keyZero]

theorem keyZeroDone_early {z : Zmc} {now t0 : Nat} (h : z.dbg.zero = some t0) (ht : now < t0) : keyZeroDone z now = z := by
  simp [keyZeroDone, h, ht]

theorem retainAbandon_dbgKept (x : Sys) (status : Nat) : DbgKept x.z (retainAbandon x status).z := by
  unfold retainAbandon
  split
  · exact .refl x.z
  · constructor <;> simp only [onZmc, retainEnd, audit_dbg, audit_keys, potPost_dbg, potPost_keys, post_dbg, post_keys] <;> split <;> rfl

theorem keysZeroed_dbgKept (x : Sys) : DbgKept (keyZeroDone x.z x.now) (keysZeroed x).z := by
  unfold keysZeroed
  simp only
  split
  · exact retainAbandon_dbgKept (onZmc x keyZeroDone) 6
  · exact .refl _

theorem clockLoss_level {z : Zmc} {now ns : Nat} (h : 1000000 ≤ ns) : (clockLoss z now ns).dbg.level = 0 := by
  have hn : ¬ ns < 1000000 := by omega
  by_cases hl : z.dbg.level = 0 <;> cases hz : z.dbg.zero <;> simp [clockLoss, hn, hz, hl]

theorem clockLoss_cancel {z : Zmc} {now ns t0 : Nat} (h : 1000000 ≤ ns) (hz : z.dbg.zero = some t0) : (clockLoss z now ns).dbg.cancel = true := by
  have hn : ¬ ns < 1000000 := by omega
  by_cases hl : z.dbg.level = 0 <;> simp [clockLoss, hn, hz, hl]

theorem clockLoss_keys (z : Zmc) (now ns : Nat) : (clockLoss z now ns).keys = z.keys := by
  unfold clockLoss
  simp only
  split
  · rfl
  · split <;> split <;> simp

theorem lockoutEnd_dbg {z : Zmc} {t0 : Nat} (h : z.dbg.lockTo = some t0) (now : Nat) :
    (lockoutEnd z now).dbg = { z.dbg with lockTo := if t0 ≤ now then none else some t0 } := by
  simp only [lockoutEnd, h]
  split <;> simp [← h]

theorem tokenEnd_dbg {z : Zmc} {k : Token} (h : z.dbg.consent = some k) (now : Nat) :
    (tokenEnd z now).dbg = { z.dbg with consent := if k.exp ≤ now then none else some k } := by
  simp only [tokenEnd, h]
  split <;> simp [← h]

end Sys2Proof.Machine

/-! SUPPORT. Chapter 15: the statement about the debug port's own events. -/

namespace Sys2Proof.Proofs
open Sys2Proof.Machine

/-- Settles O57: each event of the debug port changes the port as its rule says, and no command's end touches the port or the keys. -/
theorem debugPortEvents : Obligations.DebugPortEvents := by
  unfold Obligations.DebugPortEvents
  intro s n ns t0 k z now
  refine ⟨fun h ht => gives_cmd (exec_keyZeroDone n s) ?_, fun h ht => gives_cmd (exec_keyZeroDone n s) ?_,
    fun hns => gives_cmd (exec_debugClockLoss n ns s) ?_, fun h => gives_cmd (exec_lockoutExpiry n s) ?_,
    fun h => gives_cmd (exec_tokenExpiry n s) ?_⟩
  · obtain ⟨dbg, keys⟩ := keysZeroed_dbgKept (before s n)
    rw [closeCmd_dbg, closeCmd_keys, dbg, keys, keyZeroDone_dbg h ht, keyZeroDone_keys h ht]
    exact ⟨rfl, rfl, rfl, rfl, rfl⟩
  · obtain ⟨dbg, keys⟩ := keysZeroed_dbgKept (before s n)
    rw [closeCmd_dbg, closeCmd_keys, dbg, keys, keyZeroDone_early h ht]
    exact ⟨rfl, rfl⟩
  · rw [closeCmd_dbg, closeCmd_keys]
    exact ⟨clockLoss_level hns, clockLoss_cancel hns, clockLoss_keys ..⟩
  · rw [closeCmd_dbg]
    exact lockoutEnd_dbg h _
  · rw [closeCmd_dbg]
    exact tokenEnd_dbg h _

end Sys2Proof.Proofs

/-! SUPPORT. Chapter 10 (R204, R205, R209): the time limits of the link. -/

namespace Sys2Proof.Machine

/-- A link that fails: FAILED from now on, and Potrie is told. -/
theorem linkFail_lk (x : Cx) : (linkFail x).c.lk = { x.c.lk with st := 7, since := x.now, dn := [], up := [], slp := false } := rfl

theorem linkFail_failed (x : Cx) : (linkFail x).z.cinfo[x.n].failed = true := by
  have h : (linkFail x).z.cinfo = modV x.z.cinfo x.n (fun i => { i with failed := true }) := by simp [linkFail, Cx.onInfo, modInfo]
  simp [h]

theorem wakeLimit (d : Bool) : (if d then 100000 else 1500) * tuPerNs = if d then 100 * tuPerUs else 126000 := by cases d <;> rfl

theorem wakeTimeout_late {x : Cx} (hst : x.c.lk.st = 1) (h : x.c.lk.since + (if x.c.lk.fromDown then 100000 else 1500) * tuPerNs < x.now) :
    wakeTimeout x = linkFail x := by
  rw [wakeLimit] at h
  exact if_pos ⟨hst, h⟩

theorem recoverTimeout_late {x : Cx} (hst : x.c.lk.st = 3) (h : x.c.lk.since + 2 * tuPerUs < x.now) : recoverTimeout x = recoverMiss x := if_pos ⟨hst, h⟩

theorem rateTimeout_late {x : Cx} (hst : x.c.lk.st = 4) (h : x.c.lk.since + 2 * tuPerUs < x.now) : rateTimeout x = linkFail x := if_pos ⟨hst, h⟩

theorem nakExpired_iff (e : LEnd) (cyc lim : Nat) : e.nakExpired cyc lim = true ↔ e.nak = true ∧ e.nakDue = false ∧ e.nakAt + lim ≤ cyc := by
  simp [LEnd.nakExpired, and_assoc]

theorem ackExpired_iff (e : LEnd) (cyc lim : Nat) :
    e.ackExpired cyc lim = true ↔ ∃ f l, e.buf = f :: l ∧ f.at_ + lim ≤ cyc ∧ e.rep ≠ e.buf.length := by
  unfold LEnd.ackExpired
  split <;> simp_all

/-- What holds of a link in RECOVER and of one that stays holds after a move to RECOVER. -/
theorem enterRecover_cases {P : Cx → Prop} (x : Cx) (stay : P x) (move : P (((x.onL (fun l => { l with
    st := 3, since := x.now, tries := 0, replays := [], alGood := 0 })).onB (fun b => { b with alGood := 0 })).cnt 0x08B8)) : P (enterRecover x) := by
  unfold enterRecover
  split
  · exact move
  · exact stay

theorem enterRecover_ends (x : Cx) : (enterRecover x).c.lk.ends = x.c.lk.ends := by
  refine enterRecover_cases (P := fun y => y.c.lk.ends = x.c.lk.ends) x rfl ?_
  rw [Cx.cnt_c]; rfl

/-- A rewind is not noted twice in a cycle; a noted one may be one too many. -/
theorem courseRewound_cases {P : Cx → Prop} (x : Cx) (stay : P x) (note : ∀ l, P ((x.onL (fun k => { k with replays := l })).cnt 0x08A0))
    (move : ∀ l, P (enterRecover ((x.onL (fun k => { k with replays := l })).cnt 0x08A0))) : P (courseRewound x) := by
  unfold courseRewound
  split
  · exact stay
  · exact iteInduction (fun _ => move _) (fun _ => note _)

theorem courseRewound_ends (x : Cx) : (courseRewound x).c.lk.ends = x.c.lk.ends := by
  refine courseRewound_cases (P := fun y => y.c.lk.ends = x.c.lk.ends) x rfl (fun l => ?_) (fun l => ?_)
  · rw [Cx.cnt_c]; rfl
  · rw [enterRecover_ends, Cx.cnt_c]; rfl

end Sys2Proof.Machine

/-! SUPPORT. Chapter 10: the statement about the link's time limits. -/

namespace Sys2Proof.Proofs
open Sys2Proof.Machine

/-- Settles O45: each time limit is one guarded update of the link, and its guard is the limit. -/
theorem linkTimers : Obligations.LinkTimers := by
  unfold Obligations.LinkTimers
  constructor
  · intro s n c hu x failed
    have fails {i : Instr} {f : Cx → Cx} (e : exec i s = cmd s n (ifCrs c f)) (hf : f x = linkFail x) : ∃ t, exec i s = .next t ∧ failed t :=
      gives_crs e hu fun t hn hc hz _ => by
        rw [show crsBefore s n c = x from rfl, hf] at hc hz
        refine ⟨by rw [hc, linkFail_lk], by rw [hc, linkFail_lk], ?_⟩
        rw [hz.cinfo]
        exact linkFail_failed x
    refine ⟨fun hst h => fails (exec_wakeTimeout n c s) (wakeTimeout_late hst h),
      fun hst h k => fails (exec_recoverTimeout n c s) ((recoverTimeout_late hst h).trans (if_pos k)),
      fun hst h k => gives_crs (exec_recoverTimeout n c s) hu fun t _ hc hz _ => ?_,
      fun hst h => fails (exec_rateTimeout n c s) (rateTimeout_late hst h)⟩
    have hf : recoverTimeout x = x.onL (fun l => { l with st := 3, tries := x.c.lk.tries + 1, since := x.now }) :=
      (recoverTimeout_late hst h).trans (if_neg (by omega))
    rw [show crsBefore s n c = x from rfl, hf] at hc hz
    rw [hc, hz.cinfo]
    exact ⟨rfl, rfl, rfl, startAt_cinfo ..⟩
  · intro s n c hu x due late
    refine ⟨fun hst h => gives_crs (exec_nakTimerExpiry n c false s) hu fun t _ hc _ _ => ?_,
      fun hl h => gives_crs (exec_nakTimerExpiry n c true s) hu fun t _ hc _ _ => ?_,
      fun hst h => gives_crs (exec_ackTimeout n c false s) hu fun t _ hc _ _ => ?_,
      fun hl h => gives_crs (exec_ackTimeout n c true s) hu fun t _ hc _ _ => ?_⟩
    · have hf : courseNakExpiry x = _ := if_pos ⟨hst, (nakExpired_iff ..).2 h⟩
      rw [hc]
      exact congrArg (fun y : Cx => y.c.lk.ends) hf
    · have hf : cbNakExpiry x = _ := if_pos ⟨hl, (nakExpired_iff ..).2 h⟩
      rw [hc]
      exact congrArg (fun y : Cx => y.c.cb.ends) hf
    · have hf : courseAckTimeout x = _ := if_pos ⟨hst, (ackExpired_iff ..).2 h⟩
      rw [hc]
      refine (congrArg (fun y : Cx => y.c.lk.ends) hf).trans ?_
      rw [courseRewound_ends, Cx.cnt_c]; rfl
    · have hf : cbAckTimeout x = x.onB (fun b => { b with ends := { b.ends with rep := b.ends.buf.length } }) := if_pos ⟨hl, (ackExpired_iff ..).2 h⟩
      rw [hc, if_pos rfl, show cbAckTimeout (crsBefore s n c) = _ from hf]
      exact ⟨rfl, rfl⟩

end Sys2Proof.Proofs

/-! SUPPORT. What Potrie's own write of a field (R49) leaves alone, and what the other fields of a word read after one is driven. -/

namespace Sys2Proof.Machine

/-- A field that shares no bit with a driven one reads as before. -/
theorem bitsOf_setBits_disjoint (w : Word) {hi lo h l : Nat} (v : Nat) (hh : h < 32) (hl : l ≤ h) (d : h < lo ∨ hi < l) (k : hi < 32) :
    bitsOf (setBits w hi lo v) h l = bitsOf w h l := by
  unfold bitsOf
  apply Nat.eq_of_testBit_eq
  intro i
  rw [Nat.testBit_mod_two_pow, Nat.testBit_mod_two_pow, Nat.testBit_shiftRight, Nat.testBit_shiftRight, BitVec.testBit_toNat, BitVec.testBit_toNat]
  by_cases hi' : i < h + 1 - l
  · have hb : l + i < 32 := by omega
    have out : ¬ (lo ≤ l + i ∧ l + i - lo < hi + 1 - lo) := by omega
    simp only [setBits, BitVec.getLsbD_or, BitVec.getLsbD_and, BitVec.getLsbD_not, BitVec.getLsbD_shiftLeft, BitVec.getLsbD_ofNat, Nat.testBit_two_pow_sub_one]
    by_cases hlo : lo ≤ l + i
    · have : ¬ l + i - lo < hi + 1 - lo := fun e => out ⟨hlo, e⟩
      simp [hb, this]
    · simp [hb, Nat.lt_of_not_le hlo]
  · simp [hi']

theorem getF_setF_disjoint (z : Zmc) (o : Nat) {hi lo h l : Nat} (v : Nat) (hh : h < 32) (hl : l ≤ h) (d : h < lo ∨ hi < l) (k : hi < 32) :
    getF (setF z o hi lo v) o h l = getF z o h l := by
  unfold getF; rw [wordAt_setF, bitsOf_setBits_disjoint _ v hh hl d k]

@[simp] theorem wordAt_pendPut (z : Zmc) (o : Nat) (v : Word) (q : Nat) : wordAt (pendPut z o v) q = wordAt z q := rfl

theorem wordAt_potField (z : Zmc) (o hi lo v q : Nat) : wordAt (potField z o hi lo v) q = wordAt (setF z o hi lo v) q := rfl

theorem getF_potField_ne (z : Zmc) (hi lo v h l : Nat) {o q : Nat} (e : q ≠ o) : getF (potField z o hi lo v) q h l = getF z q h l := by
  unfold getF; rw [wordAt_potField, wordAt_setF_ne _ _ _ _ e]

theorem getF_potField (z : Zmc) (o : Nat) {hi lo : Nat} (v : Nat) (h : hi < 32) (l : lo ≤ hi) : getF (potField z o hi lo v) o hi lo = v % 2 ^ (hi + 1 - lo) := by
  rw [getF, wordAt_potField, ← getF, getF_setF _ _ _ h l]

theorem getF_potField_disjoint (z : Zmc) (o : Nat) {hi lo h l : Nat} (v : Nat) (hh : h < 32) (hl : l ≤ h) (d : h < lo ∨ hi < l) (k : hi < 32) :
    getF (potField z o hi lo v) o h l = getF z o h l := by
  rw [getF, wordAt_potField, ← getF, getF_setF_disjoint _ _ _ hh hl d k]

@[simp] theorem potField_setu (z : Zmc) (off hi lo v : Nat) : (potField z off hi lo v).setu = z.setu := rfl
@[simp] theorem potField_bond (z : Zmc) (off hi lo v : Nat) : (potField z off hi lo v).bond = z.bond := rfl
@[simp] theorem potField_mgt (z : Zmc) (off hi lo v : Nat) : (potField z off hi lo v).mgt = z.mgt := rfl
@[simp] theorem potField_keys (z : Zmc) (off hi lo v : Nat) : (potField z off hi lo v).keys = z.keys := rfl
@[simp] theorem potField_dbg (z : Zmc) (off hi lo v : Nat) : (potField z off hi lo v).dbg = z.dbg := rfl
@[simp] theorem potField_boot (z : Zmc) (off hi lo v : Nat) : (potField z off hi lo v).boot = z.boot := rfl
@[simp] theorem potField_pwr (z : Zmc) (off hi lo v : Nat) : (potField z off hi lo v).pwr = z.pwr := rfl
@[simp] theorem potField_therm (z : Zmc) (off hi lo v : Nat) : (potField z off hi lo v).therm = z.therm := rfl
@[simp] theorem potField_hod (z : Zmc) (off hi lo v : Nat) : (potField z off hi lo v).hod = z.hod := rfl
@[simp] theorem potField_pair (z : Zmc) (off hi lo v : Nat) : (potField z off hi lo v).pair = z.pair := rfl
@[simp] theorem potField_pkg0 (z : Zmc) (off hi lo v : Nat) : (potField z off hi lo v).pkg0 = z.pkg0 := rfl
@[simp] theorem potField_pins (z : Zmc) (off hi lo v : Nat) : (potField z off hi lo v).pins = z.pins := rfl
@[simp] theorem potField_liveAt (z : Zmc) (off hi lo v : Nat) : (potField z off hi lo v).liveAt = z.liveAt := rfl
@[simp] theorem potField_live (z : Zmc) (off hi lo v : Nat) : (potField z off hi lo v).live = z.live := rfl
@[simp] theorem potField_homes (z : Zmc) (off hi lo v : Nat) : (potField z off hi lo v).homes = z.homes := rfl
@[simp] theorem potField_bays (z : Zmc) (off hi lo v : Nat) : (potField z off hi lo v).bays = z.bays := rfl
@[simp] theorem potField_cinfo (z : Zmc) (off hi lo v : Nat) : (potField z off hi lo v).cinfo = z.cinfo := rfl
@[simp] theorem potField_jreq (z : Zmc) (off hi lo v : Nat) : (potField z off hi lo v).jreq = z.jreq := rfl
@[simp] theorem potField_jdat (z : Zmc) (off hi lo v : Nat) : (potField z off hi lo v).jdat = z.jdat := rfl
@[simp] theorem potField_jsts (z : Zmc) (off hi lo v : Nat) : (potField z off hi lo v).jsts = z.jsts := rfl
@[simp] theorem potField_jclr (z : Zmc) (off hi lo v : Nat) : (potField z off hi lo v).jclr = z.jclr := rfl
@[simp] theorem potField_clrs (z : Zmc) (off hi lo v : Nat) : (potField z off hi lo v).clrs = z.clrs := rfl
@[simp] theorem potField_clrNext (z : Zmc) (off hi lo v : Nat) : (potField z off hi lo v).clrNext = z.clrNext := rfl
@[simp] theorem potField_out (z : Zmc) (off hi lo v : Nat) : (potField z off hi lo v).out = z.out := rfl
@[simp] theorem potField_bus (z : Zmc) (off hi lo v : Nat) : (potField z off hi lo v).bus = z.bus := rfl

@[simp] theorem Cx.potSet_now (x : Cx) (o hi lo v : Nat) : (x.potSet o hi lo v).now = x.now := rfl
@[simp] theorem Cx.potSet_free (x : Cx) (o hi lo v : Nat) : (x.potSet o hi lo v).free = x.free := rfl
@[simp] theorem Cx.potSet_n (x : Cx) (o hi lo v : Nat) : (x.potSet o hi lo v).n = x.n := rfl
@[simp] theorem Cx.potSet_c (x : Cx) (o hi lo v : Nat) : (x.potSet o hi lo v).c = x.c := rfl
@[simp] theorem Cx.potSet_z_setu (x : Cx) (o hi lo v : Nat) : (x.potSet o hi lo v).z.setu = x.z.setu := rfl
@[simp] theorem Cx.potSet_z_bond (x : Cx) (o hi lo v : Nat) : (x.potSet o hi lo v).z.bond = x.z.bond := rfl
@[simp] theorem Cx.potSet_z_mgt (x : Cx) (o hi lo v : Nat) : (x.potSet o hi lo v).z.mgt = x.z.mgt := rfl
@[simp] theorem Cx.potSet_z_keys (x : Cx) (o hi lo v : Nat) : (x.potSet o hi lo v).z.keys = x.z.keys := rfl
@[simp] theorem Cx.potSet_z_dbg (x : Cx) (o hi lo v : Nat) : (x.potSet o hi lo v).z.dbg = x.z.dbg := rfl
@[simp] theorem Cx.potSet_z_boot (x : Cx) (o hi lo v : Nat) : (x.potSet o hi lo v).z.boot = x.z.boot := rfl
@[simp] theorem Cx.potSet_z_pwr (x : Cx) (o hi lo v : Nat) : (x.potSet o hi lo v).z.pwr = x.z.pwr := rfl
@[simp] theorem Cx.potSet_z_therm (x : Cx) (o hi lo v : Nat) : (x.potSet o hi lo v).z.therm = x.z.therm := rfl
@[simp] theorem Cx.potSet_z_hod (x : Cx) (o hi lo v : Nat) : (x.potSet o hi lo v).z.hod = x.z.hod := rfl
@[simp] theorem Cx.potSet_z_pair (x : Cx) (o hi lo v : Nat) : (x.potSet o hi lo v).z.pair = x.z.pair := rfl
@[simp] theorem Cx.potSet_z_pkg0 (x : Cx) (o hi lo v : Nat) : (x.potSet o hi lo v).z.pkg0 = x.z.pkg0 := rfl
@[simp] theorem Cx.potSet_z_pins (x : Cx) (o hi lo v : Nat) : (x.potSet o hi lo v).z.pins = x.z.pins := rfl
@[simp] theorem Cx.potSet_z_liveAt (x : Cx) (o hi lo v : Nat) : (x.potSet o hi lo v).z.liveAt = x.z.liveAt := rfl
@[simp] theorem Cx.potSet_z_live (x : Cx) (o hi lo v : Nat) : (x.potSet o hi lo v).z.live = x.z.live := rfl
@[simp] theorem Cx.potSet_z_homes (x : Cx) (o hi lo v : Nat) : (x.potSet o hi lo v).z.homes = x.z.homes := rfl
@[simp] theorem Cx.potSet_z_bays (x : Cx) (o hi lo v : Nat) : (x.potSet o hi lo v).z.bays = x.z.bays := rfl
@[simp] theorem Cx.potSet_z_cinfo (x : Cx) (o hi lo v : Nat) : (x.potSet o hi lo v).z.cinfo = x.z.cinfo := rfl
@[simp] theorem Cx.potSet_z_jreq (x : Cx) (o hi lo v : Nat) : (x.potSet o hi lo v).z.jreq = x.z.jreq := rfl
@[simp] theorem Cx.potSet_z_jdat (x : Cx) (o hi lo v : Nat) : (x.potSet o hi lo v).z.jdat = x.z.jdat := rfl
@[simp] theorem Cx.potSet_z_jsts (x : Cx) (o hi lo v : Nat) : (x.potSet o hi lo v).z.jsts = x.z.jsts := rfl
@[simp] theorem Cx.potSet_z_jclr (x : Cx) (o hi lo v : Nat) : (x.potSet o hi lo v).z.jclr = x.z.jclr := rfl
@[simp] theorem Cx.potSet_z_clrs (x : Cx) (o hi lo v : Nat) : (x.potSet o hi lo v).z.clrs = x.z.clrs := rfl
@[simp] theorem Cx.potSet_z_clrNext (x : Cx) (o hi lo v : Nat) : (x.potSet o hi lo v).z.clrNext = x.z.clrNext := rfl
@[simp] theorem Cx.potSet_z_out (x : Cx) (o hi lo v : Nat) : (x.potSet o hi lo v).z.out = x.z.out := rfl
@[simp] theorem Cx.potSet_z_bus (x : Cx) (o hi lo v : Nat) : (x.potSet o hi lo v).z.bus = x.z.bus := rfl

theorem Cx.f_potSet (x : Cx) (o : Nat) {hi lo : Nat} (v : Nat) (h : hi < 32) (l : lo ≤ hi) : (x.potSet o hi lo v).f o hi lo = v % 2 ^ (hi + 1 - lo) :=
  getF_potField _ _ _ h l

theorem Cx.f_potSet_ne (x : Cx) (hi lo v h l : Nat) {o q : Nat} (e : q ≠ o) : (x.potSet o hi lo v).f q h l = x.f q h l :=
  getF_potField_ne _ _ _ _ _ _ (by unfold Cx.off; simp only [Cx.potSet_n]; omega)

theorem Cx.f_potSet_disjoint (x : Cx) (o : Nat) {hi lo h l : Nat} (v : Nat) (hh : h < 32) (hl : l ≤ h) (d : h < lo ∨ hi < l) (k : hi < 32) :
    (x.potSet o hi lo v).f o h l = x.f o h l := getF_potField_disjoint _ _ _ hh hl d k

end Sys2Proof.Machine

/-! SUPPORT. Chapter 10 (R206, R209, R213, R214): the moves of the link. -/

namespace Sys2Proof.Machine

/-! ### Sleep, and a lost lane -/

theorem enterRecover_active {x : Cx} (h : x.c.lk.st = 2) : (enterRecover x).c.lk =
    { x.c.lk with st := 3, since := x.now, tries := 0, replays := [], alGood := 0 } := by
  rw [enterRecover, if_pos h, Cx.cnt_c]; rfl

theorem laneLockLoss_up {x : Cx} {l : Nat} (hl : l < 8) (hu : x.ups.contains l = true) (hst : x.c.lk.st = 2) : (laneLockLoss x l).c.lk =
    { x.c.lk with lock := x.c.lk.lock &&& (255 ^^^ 2 ^ l), up := [], st := 3, since := x.now, tries := 0, replays := [], alGood := 0 } := by
  have e : laneLockLoss x l = enterRecover ((x.onL (fun k => { k with lock := k.lock &&& (255 ^^^ 2 ^ l) })).onL (fun k => { k with up := [] })) := by
    rw [laneLockLoss, if_pos hl, if_pos hu]
    exact if_pos hst
  rw [e, enterRecover_active (by exact hst)]
  rfl

theorem laneLockLoss_dn {x : Cx} {l : Nat} (hl : 8 ≤ l) (hd : x.dns.contains (l - 8) = true) (hst : x.c.lk.st = 2) : (laneLockLoss x l).c.lk =
    { x.c.lk with dn := [], st := 3, since := x.now, tries := 0, replays := [], alGood := 0 } := by
  have e : laneLockLoss x l = enterRecover ((x.onB (fun b => { b with lost := b.lost ||| 2 ^ (l - 8) })).onL (fun k => { k with dn := [] })) := by
    rw [laneLockLoss, if_neg (by omega), if_pos hd]
    exact if_pos hst
  rw [e, enterRecover_active (by exact hst)]
  rfl

/-! ### A change of mode by Potrie -/

/-- `y` is the course `x` after Potrie has put the mode `m` and the lane group `sel` into its registers. -/
structure ModeSet (x : Cx) (m sel : Nat) (y : Cx) : Prop where
  c : y.c = x.c
  n : y.n = x.n
  now : y.now = x.now
  cinfo : y.z.cinfo = x.z.cinfo
  boot : y.z.boot = x.z.boot
  mode : y.f 0x0800 1 0 = m % 4
  sel : y.f 0x0800 2 2 = sel % 2

theorem ModeSet.potSet {x y : Cx} {m sel o : Nat} (h : ModeSet x m sel y) (e : o ≠ 0x0800) (hi lo v : Nat) : ModeSet x m sel (y.potSet o hi lo v) where
  c := h.c
  n := h.n
  now := h.now
  cinfo := h.cinfo
  boot := h.boot
  mode := (Cx.f_potSet_ne _ _ _ _ _ _ e.symm).trans h.mode
  sel := (Cx.f_potSet_ne _ _ _ _ _ _ e.symm).trans h.sel

theorem modeSet_potSet (x : Cx) (m sel : Nat) : ModeSet x m sel ((x.potSet 0x0800 1 0 m).potSet 0x0800 2 2 sel) where
  c := rfl
  n := rfl
  now := rfl
  cinfo := rfl
  boot := rfl
  mode := (Cx.f_potSet_disjoint _ _ _ (by omega) (by omega) (by omega) (by omega)).trans (Cx.f_potSet _ _ _ (by omega) (by omega))
  sel := Cx.f_potSet _ _ _ (by omega) (by omega)

/-- A change of mode puts the mode into the registers and marks the link and the Bond table. -/
theorem potrieMode_cases {P : Cx → Prop} (x : Cx) (m sel : Nat)
    (h : ∀ y, ModeSet x m sel y → P ((y.onL (fun l => { l with rate := true, armed := true })).onZ needBond)) : P (potrieMode x m sel) := by
  unfold potrieMode
  have k (a b : Nat) := ((modeSet_potSet x m sel).potSet (o := 0x1020) (by omega) 7 0 a).potSet (o := 0x1020) (by omega) 15 8 b
  exact iteInduction (motive := fun y : Cx => P ((y.onL (fun l => { l with rate := true, armed := true })).onZ needBond))
    (fun _ => h _ ((k _ _).potSet (by omega) _ _ _)) (fun _ => h _ (k _ _))

theorem potrieMode_lk (x : Cx) (m sel : Nat) : (potrieMode x m sel).c = { x.c with lk := { x.c.lk with rate := true, armed := true } } :=
  potrieMode_cases (P := fun y => y.c = { x.c with lk := { x.c.lk with rate := true, armed := true } }) x m sel (fun y h => by
    rw [← h.c]; rfl)

/-- The course's mode is the one in its register once the link takes it. -/
theorem setMode_cases {P : Cx → Prop} (x : Cx) (t : Nat) (h : ∀ y : Cx, y.n = x.n → y.z.cinfo[x.n] = { x.info with mode := x.f 0x0800 1 0 } →
    (∀ d, d ≠ x.n → y.z.cinfo[d] = x.z.cinfo[d]) → y.z.boot = x.z.boot → y.c.lk.st = x.c.lk.st → y.c.lk.since = x.c.lk.since → y.now = x.now →
    y.c.lk.sel = x.f 0x0800 2 2 → (x.c.cb.dck = x.c.dck → y.c.cb.dck = y.c.dck) → P y) : P (setMode x t) := by
  unfold setMode
  refine iteInduction (fun e => h _ rfl ?_ (fun _ _ => rfl) rfl rfl rfl rfl rfl ?_) (fun _ => h _ rfl ?_ (fun d hd => ?_) rfl rfl rfl rfl rfl ?_)
  · have e' : x.info.mode = x.f 0x0800 1 0 := e
    rw [← e']; rfl
  · intro d
    show DckCnt.change _ _ _ _ _ _ = DckCnt.change _ _ _ _ _ _
    rw [d]
  · exact modV_same ..
  · exact modV_other _ _ _ _ (Ne.symm hd)
  · intro d
    show DckCnt.change _ _ _ _ _ _ = DckCnt.change _ _ _ _ _ _
    rw [d]

/-! ### The end of an ALIGN exchange -/

/-- From `x` to `y` the link, the replay buffer and presence of the Corbel and the rest of the block have stayed. -/
structure LinkKept (x y : Cx) : Prop where
  lk : y.c.lk = x.c.lk
  ends : y.c.cb.ends = x.c.cb.ends
  down : y.c.cb.down = x.c.cb.down
  n : y.n = x.n
  z : y.z = x.z

theorem LinkKept.refl (x : Cx) : LinkKept x x := ⟨rfl, rfl, rfl, rfl, rfl⟩

theorem LinkKept.trans {x y w : Cx} (h : LinkKept x y) (k : LinkKept y w) : LinkKept x w :=
  ⟨k.lk.trans h.lk, k.ends.trans h.ends, k.down.trans h.down, k.n.trans h.n, k.z.trans h.z⟩

theorem linkKept_foldl {α : Type} {f : Cx → α → Cx} (hf : ∀ x a, LinkKept x (f x a)) (l : List α) (x : Cx) : LinkKept x (l.foldl f x) := by
  induction l generalizing x with
  | nil => exact .refl x
  | cons a l ih => exact (hf x a).trans (ih (f x a))

theorem safeReturn_kept (x : Cx) (confs : List Nat) : LinkKept x (safeReturn x confs) := by
  have recs (r : List RecQ) : LinkKept x (x.onB (fun b => { b with recs := r ++ b.recs })) := ⟨rfl, rfl, rfl, rfl, rfl⟩
  exact (recs _).trans (linkKept_foldl (fun _ _ => ⟨by rfl, by rfl, by rfl, by rfl, by rfl⟩) _ _)

/-- A link brought up after a wake: ACTIVE, with the exchange's round trip and a Corbel that is there. -/
structure Woken (oneWay : Nat) (y : Cx) : Prop where
  st : y.c.lk.st = 2
  rtt : y.c.lk.rtt = 2 * oneWay + 1
  down : y.c.cb.down = false

theorem Woken.kept {oneWay : Nat} {x y : Cx} (h : Woken oneWay x) (k : LinkKept x y) : Woken oneWay y :=
  ⟨by rw [k.lk]; exact h.st, by rw [k.lk]; exact h.rtt, k.down.trans h.down⟩

theorem linkSync_woken {oneWay : Nat} {x : Cx} (h : x.c.lk.rtt = 2 * oneWay + 1) : Woken oneWay (linkSync x) := ⟨rfl, h, rfl⟩

theorem onL_onZ_rtt (x : Cx) (f : CLink → CLink) (g : Zmc → Zmc) : ((x.onL f).onZ g).c.lk.rtt = (f x.c.lk).rtt := rfl

theorem alignWake_woken (x : Cx) (oneWay : Nat) : Woken oneWay (alignWake x oneWay) := by
  unfold alignWake
  refine iteInduction (fun _ => Woken.kept (linkSync_woken ?_) (safeReturn_kept ..)) (fun _ => linkSync_woken ?_)
  · rw [onL_onZ_rtt]
  · rw [onL_onZ_rtt]

theorem cbWrite_woken {oneWay : Nat} {x : Cx} (h : Woken oneWay x) (off m : Nat) (v : Word) (be : Nat) : Woken oneWay (cbWrite x off m none v be) := by
  unfold cbWrite
  exact iteInduction (fun _ => ⟨h.st, h.rtt, h.down⟩) (fun _ => iteInduction (fun _ => ⟨h.st, h.rtt, h.down⟩)
    (fun _ => iteInduction (fun _ => ⟨h.st, h.rtt, h.down⟩) (fun _ => ⟨h.st, h.rtt, h.down⟩)))

theorem potrieMode_woken {oneWay : Nat} {x : Cx} (h : Woken oneWay x) (m sel : Nat) : Woken oneWay (potrieMode x m sel) := by
  obtain ⟨st, rtt, down⟩ := h
  constructor <;> rw [potrieMode_lk]
  · exact st
  · exact rtt
  · exact down

theorem wakeTarget_woken {oneWay : Nat} {x : Cx} (h : Woken oneWay x) : Woken oneWay (wakeTarget x) := by
  unfold wakeTarget
  split
  · exact h
  · have k := potrieMode_woken h
    exact iteInduction (fun _ => ⟨(k _ _).st, (k _ _).rtt, (k _ _).down⟩) (fun _ => h)

theorem nakGaps_woken {oneWay : Nat} {x : Cx} (h : Woken oneWay x) (v : Nat) : Woken oneWay (nakGaps x v) := ⟨h.st, h.rtt, h.down⟩

theorem wakeDone_woken {oneWay : Nat} {x : Cx} (h : Woken oneWay x) : Woken oneWay (wakeDone x) := by
  unfold wakeDone
  refine iteInduction (fun _ => h) (fun _ => wakeTarget_woken (nakGaps_woken ?_ _))
  obtain ⟨st, rtt, down⟩ := cbWrite_woken h 0x14 0x1FFFFFFF (setBits (cbWord x 0x14) 21 16 (x.c.lk.rtt / 2)) 15
  exact ⟨st, rtt, down⟩

/-- A WAKE whose exchange completes in time brings the link up. -/
theorem linkAligned_wake {x : Cx} (hp : powered x.z x.n = true) (hst : x.c.lk.st = 1)
    (ht : x.now ≤ x.c.lk.since + (if x.c.lk.fromDown then 100 * tuPerUs else 126000)) (oneWay : Nat) : Woken oneWay (linkAligned x oneWay) := by
  have e : alignComplete x oneWay = alignWake x oneWay := by
    rw [alignComplete, if_neg (by simp [hp])]
    exact if_pos ⟨hst, ht⟩
  rw [linkAligned, e]
  exact iteInduction (fun _ => wakeDone_woken (alignWake_woken x oneWay)) (fun _ => alignWake_woken x oneWay)

/-- An exchange that finds both DCK counters equal: the link is ACTIVE again, and each end has taken the other's ack and sends the rest again. -/
structure Realigned (x y : Cx) : Prop where
  st : y.c.lk.st = 2
  buf : y.c.lk.ends.buf = (x.c.lk.ends.free x.c.cb.ends.ack).buf
  rep : y.c.lk.ends.rep = y.c.lk.ends.buf.length
  cbBuf : y.c.cb.ends.buf = (x.c.cb.ends.free x.c.lk.ends.ack).buf
  cbRep : y.c.cb.ends.rep = y.c.cb.ends.buf.length
  sel : y.c.lk.sel = x.c.lk.sel
  n : y.n = x.n
  cinfo : y.z.cinfo = x.z.cinfo

theorem ite_cnt_c {p : Prop} [Decidable p] (x : Cx) (o : Nat) : (if p then x else x.cnt o).c = x.c :=
  iteInduction (motive := fun y : Cx => y.c = x.c) (fun _ => rfl) (fun _ => Cx.cnt_c ..)
theorem ite_cnt_n {p : Prop} [Decidable p] (x : Cx) (o : Nat) : (if p then x else x.cnt o).n = x.n :=
  iteInduction (motive := fun y : Cx => y.n = x.n) (fun _ => rfl) (fun _ => Cx.cnt_n ..)
theorem ite_cnt_cinfo {p : Prop} [Decidable p] (x : Cx) (o : Nat) : (if p then x else x.cnt o).z.cinfo = x.z.cinfo :=
  iteInduction (motive := fun y : Cx => y.z.cinfo = x.z.cinfo) (fun _ => rfl) (fun _ => Cx.cnt_z_cinfo ..)

/-- The course while the exchange runs. -/
def alignRun (x : Cx) : Cx := x.onL (fun l => { l with safe := x.c.cb.safe, alDn := alignDn x false 0 true, alUp := alignUp x true 0 true })

/-- Both ends have taken each other's ack (R209). -/
def alignTaken (x : Cx) : Cx :=
  ((alignRun x).onL (fun l => { l with newAt := none, ends := l.ends.free x.c.cb.ends.ack })).onB (fun b => { b with ends := b.ends.free x.c.lk.ends.ack })

/-- Both ends send again what is left of their buffers, and the link is in step. -/
def alignResend (y : Cx) (bit : Nat) : Cx :=
  (linkSync (y.onC (fun c => { c with
    lk := { c.lk with tries := 0, ends := { c.lk.ends with rep := c.lk.ends.buf.length } }
    cb := { c.cb with ends := { c.cb.ends with rep := c.cb.ends.buf.length } } }))).sts 0x0808 bit

theorem alignResend_realigned {x y : Cx} (hc : y.c = (alignTaken x).c) (hn : y.n = x.n) (hi : y.z.cinfo = x.z.cinfo) (bit : Nat) :
    Realigned x (alignResend y bit) := by
  unfold alignResend
  constructor
  case n => rw [Cx.sts_n]; exact hn
  case cinfo => rw [Cx.sts_z_cinfo]; exact hi
  case buf | cbBuf | sel =>
    rw [Cx.sts_c]
    simp only [linkSync, Cx.onC, hc]
    rfl
  all_goals
    rw [Cx.sts_c]
    simp only [linkSync, Cx.onC]

theorem Realigned.kept {x y w : Cx} (h : Realigned x y) (k : LinkKept y w) : Realigned x w := by
  obtain ⟨st, buf, rep, cbBuf, cbRep, sel, n, cinfo⟩ := h
  constructor
  · rw [k.lk, st]
  · rw [k.lk, buf]
  · rw [k.lk, rep]
  · rw [k.ends, cbBuf]
  · rw [k.ends, cbRep]
  · rw [k.lk, sel]
  · rw [k.n, n]
  · rw [k.z, cinfo]

/-- With equal counters the exchange ends in `alignResend`, and in the return from the safe state where the Corbel was in it. -/
theorem alignKeep_cases {P : Cx → Prop} {x : Cx} (hd : x.c.cb.dck = x.c.dck) (bit : Nat)
    (h : ∀ y, y.c = (alignTaken x).c → y.n = x.n → y.z.cinfo = x.z.cinfo → P (alignResend y bit) ∧ ∀ confs, P (safeReturn (alignResend y bit) confs)) :
    P (alignKeep x bit) := by
  have ok : (x.c.cb.dck.at x.cyc == x.c.dck.at x.cyc) = true := by rw [hd]; exact beq_self_eq_true _
  have k (p : Prop) [Decidable p] := h (if p then alignTaken x else (alignTaken x).cnt 0x08A0) (ite_cnt_c ..) (ite_cnt_n ..) (ite_cnt_cinfo ..)
  unfold alignKeep
  simp only [ok, Bool.not_true, Bool.false_eq_true, if_false]
  exact iteInduction (fun _ => (k _).2 _) (fun _ => (k _).1)

theorem alignKeep_realigned {x : Cx} (hd : x.c.cb.dck = x.c.dck) (bit : Nat) : Realigned x (alignKeep x bit) :=
  alignKeep_cases hd bit fun _ hc hn hi =>
    ⟨alignResend_realigned hc hn hi bit, fun _ => (alignResend_realigned hc hn hi bit).kept (safeReturn_kept ..)⟩

theorem linkAligned_recover {x : Cx} (hp : powered x.z x.n = true) (hst : x.c.lk.st = 3) (ht : x.now ≤ x.c.lk.since + 2 * tuPerUs)
    (hd : x.c.cb.dck = x.c.dck) (oneWay : Nat) : Realigned x (linkAligned x oneWay) := by
  have e : alignComplete x oneWay = alignKeep x 0 := by
    rw [alignComplete, if_neg (by simp [hp])]
    exact (if_neg (fun h => by omega)).trans (if_pos ⟨hst, ht⟩)
  rw [linkAligned, e, if_neg (fun h => by omega)]
  exact alignKeep_realigned hd 0

/-! ### The end of RATE -/

/-- `y` is the course `x`, in RATE, once it has entered the mode of its register. -/
structure RateEntered (x y : Cx) : Prop where
  n : y.n = x.n
  now : y.now = x.now
  st : y.c.lk.st = x.c.lk.st
  since : y.c.lk.since = x.c.lk.since
  sel : y.c.lk.sel = x.f 0x0800 2 2
  mode : y.z.cinfo[x.n].mode = x.f 0x0800 1 0
  dck : y.c.cb.dck = y.c.dck

theorem setMode_entered {x : Cx} (hd : x.c.cb.dck = x.c.dck) (t : Nat) : RateEntered x (setMode x t) :=
  setMode_cases (P := RateEntered x) x t fun _ hn hi _ _ hst hsince hnow hsel hdck => ⟨hn, hnow, hst, hsince, hsel, by rw [hi], hdck hd⟩

theorem applyRatio_entered {x y : Cx} (h : RateEntered x y) (k : Nat) : RateEntered x (applyRatio y k) := by
  obtain ⟨n, now, st, since, sel, mode, dck⟩ := h
  have main : RateEntered x (y.onC (fun c => { c with
      dck := (c.dck.at k).ratio (y.f 0x1020 7 0) (y.f 0x1020 15 8)
      lk := { c.lk with armed := false }
      cb := { c.cb with dck := (c.cb.dck.at k).ratio (y.f 0x1020 7 0) (y.f 0x1020 15 8) } })) :=
    ⟨n, now, st, since, sel, mode, by show DckCnt.ratio _ _ _ = DckCnt.ratio _ _ _; rw [dck]⟩
  obtain ⟨n, now, st, since, sel, mode, dck⟩ := main
  unfold applyRatio
  refine iteInduction (fun _ => ⟨?_, ?_, ?_, ?_, ?_, ?_, ?_⟩) (fun _ => ⟨n, now, st, since, sel, mode, dck⟩)
  · rw [Cx.sts_n]; exact n
  · rw [Cx.sts_now]; exact now
  · rw [Cx.sts_c]; exact st
  · rw [Cx.sts_c]; exact since
  · rw [Cx.sts_c]; exact sel
  · rw [Cx.sts_z_cinfo]; exact mode
  · rw [Cx.sts_c]; exact dck

theorem rateEnter_due {x : Cx} (hst : x.c.lk.st = 4) (hnew : x.c.lk.newAt = none) (ht : x.c.lk.since + 64 * x.lck ≤ x.now) (hd : x.c.cb.dck = x.c.dck) :
    RateEntered x (rateEnter x) ∧ (rateEnter x).c.lk.newAt ≠ none := by
  have e : rateEnter x = _ := if_pos ⟨hst, hnew, ht⟩
  obtain ⟨n, now, st, since, sel, mode, dck⟩ := applyRatio_entered (setMode_entered hd (x.c.lk.since + 64 * x.lck))
    ((x.c.lk.since + 64 * x.lck) / (setMode x (x.c.lk.since + 64 * x.lck)).lck)
  rw [e]
  exact ⟨⟨n, now, st, since, sel, mode, dck⟩, nofun⟩

theorem nakGaps_lk (x : Cx) (v : Nat) : (nakGaps x v).c.lk = x.c.lk := rfl

theorem nakGaps_cinfo (x : Cx) (v : Nat) : (nakGaps x v).z.cinfo = x.z.cinfo := rfl

/-- RATE that ends in time: the link is ACTIVE in the mode and the lane group of its register. -/
theorem rateDone_due {x : Cx} (hst : x.c.lk.st = 4) (hnew : x.c.lk.newAt = none) (ht : x.c.lk.since + 64 * x.lck ≤ x.now)
    (hin : x.now ≤ x.c.lk.since + 2 * tuPerUs) (hd : x.c.cb.dck = x.c.dck) :
    (rateDone x).c.lk.st = 2 ∧ (rateDone x).z.cinfo[x.n].mode = x.f 0x0800 1 0 ∧ (rateDone x).c.lk.sel = x.f 0x0800 2 2 := by
  obtain ⟨⟨n, now, st, since, sel, mode, dck⟩, hne⟩ := rateEnter_due hst hnew ht hd
  have e : rateComplete x = alignKeep (rateEnter x) 3 := if_pos ⟨st.trans hst, hne, by rw [now, since]; exact hin⟩
  have r := alignKeep_realigned dck 3
  have main : (rateComplete x).c.lk.st = 2 ∧ (rateComplete x).z.cinfo[x.n].mode = x.f 0x0800 1 0 ∧ (rateComplete x).c.lk.sel = x.f 0x0800 2 2 := by
    rw [e]
    exact ⟨r.st, by rw [r.cinfo]; exact mode, r.sel.trans sel⟩
  unfold rateDone
  refine iteInduction (motive := fun y : Cx => y.c.lk.st = 2 ∧ y.z.cinfo[x.n].mode = x.f 0x0800 1 0 ∧ y.c.lk.sel = x.f 0x0800 2 2) (fun _ => ?_) (fun _ => main)
  rw [nakGaps_lk, nakGaps_cinfo]
  exact main

/-! ### Potrie's answer to a FAILED link -/

theorem wakeMode_lt (m sel : Nat) : (wakeMode m sel).1 % 4 = (wakeMode m sel).1 := by
  unfold wakeMode
  split <;> rfl

/-- A FAILED link of a powered course wakes from DOWN in the mode for waking. -/
theorem wakeLink_failed {x : Cx} (hst : x.c.lk.st = 7) (hp : powered x.z x.n = true) (m sel : Nat) :
    let y := wakeLink x m sel
    y.c.lk.st = 1 ∧ y.c.lk.fromDown = true ∧ y.z.cinfo[x.n] = { x.info with mode := (wakeMode m sel).1, failed := false } := by
  let w := wakeMode m sel
  have main (y : Cx) (h : ModeSet x w.1 w.2 y) :
      (linkStart ((y.onL (fun l => { l with rate := true, armed := true })).onZ needBond)).c.lk.st = 1 ∧
      (linkStart ((y.onL (fun l => { l with rate := true, armed := true })).onZ needBond)).c.lk.fromDown = true ∧
      (linkStart ((y.onL (fun l => { l with rate := true, armed := true })).onZ needBond)).z.cinfo[x.n] =
        { x.info with mode := w.1, failed := false } := by
    generalize hv : (y.onL (fun l => { l with rate := true, armed := true })).onZ needBond = v
    have vn : v.n = x.n := by rw [← hv]; exact h.n
    have vst : v.c.lk.st = 7 := by rw [← hv]; exact (congrArg (fun c : CourseSt => c.lk.st) h.c).trans hst
    have vi : v.z.cinfo = x.z.cinfo := by rw [← hv]; exact h.cinfo
    have vb : v.z.boot = x.z.boot := by rw [← hv]; exact h.boot
    have vm : v.f 0x0800 1 0 = w.1 := by rw [← hv]; exact h.mode.trans (wakeMode_lt m sel)
    have vp : powered v.z v.n = true := by rw [vn, powered, vb, vi]; exact hp
    rw [linkStart, if_pos ⟨vp, .inr vst⟩]
    refine setMode_cases (P := fun u => (linkWake (u.onInfo (fun i => { i with failed := false })) true).c.lk.st = 1 ∧
      (linkWake (u.onInfo (fun i => { i with failed := false })) true).c.lk.fromDown = true ∧
      (linkWake (u.onInfo (fun i => { i with failed := false })) true).z.cinfo[x.n] = { x.info with mode := w.1, failed := false }) v v.now ?_
    intro u un ui _ _ _ _ _ _ _
    refine ⟨rfl, rfl, ?_⟩
    have ui' : u.z.cinfo[x.n] = { x.info with mode := w.1 } := by
      simp only [vm, Cx.info, vi, vn] at ui
      exact ui
    show (modV u.z.cinfo u.n (fun i => { i with failed := false }))[x.n] = _
    rw [un, vn, modV_same, ui']
  exact potrieMode_cases (P := fun v => (linkStart v).c.lk.st = 1 ∧ (linkStart v).c.lk.fromDown = true ∧
    (linkStart v).z.cinfo[x.n] = { x.info with mode := w.1, failed := false }) x w.1 w.2 main

theorem goodGroup_none {up dn : List Nat} (h : goodGroup up dn = none) : ¬ (up = [] ∧ dn = []) := by
  rintro ⟨rfl, rfl⟩
  cases h

theorem linkFailedResponse_retry {x : Cx} (hst : x.c.lk.st = 7) (hp : potrieOn x.z = true) (hf : x.info.fence = 0) :
    linkFailedResponse x [] [] = wakeLink x (wakeGoal x).1 (wakeGoal x).2 := by simp [linkFailedResponse, hst, hp, hf]

theorem linkFailedResponse_group {x : Cx} {up dn : List Nat} {g : Nat} (hst : x.c.lk.st = 7) (hp : potrieOn x.z = true) (hf : x.info.fence = 0)
    (hbad : ¬ (up = [] ∧ dn = [])) (hg : goodGroup up dn = some g) :
    linkFailedResponse x up dn = wakeLink (x.onInfo (fun i => { i with degraded := true })) (if 2 ≤ x.info.mode then 3 else 1) g := by
  rw [linkFailedResponse, if_neg (by simp [hst, hp, hf]), if_neg hbad, hg]

theorem linkFailedResponse_fence {x : Cx} {up dn : List Nat} (hst : x.c.lk.st = 7) (hp : potrieOn x.z = true) (hf : x.info.fence = 0)
    (hg : goodGroup up dn = none) : linkFailedResponse x up dn = potFence x 3 := by
  rw [linkFailedResponse, if_neg (by simp [hst, hp, hf]), if_neg (goodGroup_none hg), hg]

/-- From `a` to `b` only the joints towards a home and register words have changed. -/
def JointOnly (a b : Zmc) : Prop := b = { a with jdat := b.jdat, jsts := b.jsts, rg := { a.rg with reg := b.rg.reg, hw := b.rg.hw } }

theorem JointOnly.refl (a : Zmc) : JointOnly a a := rfl

theorem JointOnly.trans {a b c : Zmc} (h : JointOnly a b) (k : JointOnly b c) : JointOnly a c := by
  unfold JointOnly at *
  rw [h] at k
  exact k

theorem RgOnly.jointOnly {a b : Zmc} (h : RgOnly a b) : JointOnly a b := by
  unfold RgOnly at h
  rw [h]; rfl

theorem JointOnly.cinfo {a b : Zmc} (h : JointOnly a b) : b.cinfo = a.cinfo := by rw [h]
theorem JointOnly.boot {a b : Zmc} (h : JointOnly a b) : b.boot = a.boot := by rw [h]
theorem JointOnly.mgt {a b : Zmc} (h : JointOnly a b) : b.mgt = a.mgt := by rw [h]
theorem JointOnly.keys {a b : Zmc} (h : JointOnly a b) : b.keys = a.keys := by rw [h]

theorem sendData_jointOnly (x : Cx) (j : JData) : JointOnly x.z (sendData x j).z := rfl

theorem sendStat_jointOnly (x : Cx) (m : JStat) : JointOnly x.z (sendStat x m).z := rfl

theorem poisonRead_jointOnly (x : Cx) (r : REnt) : JointOnly x.z (poisonRead x r).z := by
  unfold poisonRead
  split
  · exact .refl x.z
  · exact iteInduction (motive := fun y : Cx => JointOnly x.z y.z) (fun _ => sendData_jointOnly ..)
      (fun _ => (sendData_jointOnly ..).trans (sendStat_jointOnly ..))

theorem onZ_bumpN_jointOnly (x : Cx) (o l k : Nat) : JointOnly x.z (x.onZ (fun z => bumpN z x.now o l k)).z := (rgOnly_bumpN ..).jointOnly

theorem loseWrite_jointOnly (x : Cx) (w : WEnt) : JointOnly x.z (loseWrite x w).z := by
  unfold loseWrite
  exact .trans (onZ_bumpN_jointOnly ..) ((sendStat_jointOnly _ _).trans (sendStat_jointOnly _ _))

theorem jointOnly_foldl {α : Type} {f : Cx → α → Cx} (hf : ∀ x a, JointOnly x.z (f x a).z) (l : List α) (x : Cx) : JointOnly x.z (l.foldl f x).z := by
  induction l generalizing x with
  | nil => exact .refl x.z
  | cons a l ih => exact (hf x a).trans (ih (f x a))

theorem foldl_n {α : Type} {f : Cx → α → Cx} (hf : ∀ x a, (f x a).n = x.n) (l : List α) (x : Cx) : (l.foldl f x).n = x.n := by
  induction l generalizing x with
  | nil => rfl
  | cons a l ih => exact (ih (f x a)).trans (hf x a)

theorem dropWork_jointOnly (x : Cx) : JointOnly x.z (dropWork x).z :=
  ((jointOnly_foldl poisonRead_jointOnly x.c.rdq x).trans (jointOnly_foldl loseWrite_jointOnly _ _)).trans (rgOnly_setF ..).jointOnly

theorem ptPause_z (x : Cx) : (ptPause x).z = x.z := by unfold ptPause; split <;> rfl

theorem ptPause_wrq (x : Cx) : (ptPause x).c.wrq = x.c.wrq := by unfold ptPause; split <;> rfl

/-- A fence of a course in service: its record, an empty write queue and a Bond table to be written anew; the rest of the block stays but for the
joints, register words and the event. -/
structure Fenced (x : Cx) (cause : Nat) (y : Cx) : Prop where
  cinfo : y.z.cinfo = modV x.z.cinfo x.n (fun i => { i with fence := cause, draining := false })
  wrq : y.c.wrq = []
  dirty : y.z.bond.dirty = true
  boot : y.z.boot = x.z.boot
  keys : y.z.keys = x.z.keys

theorem fenceCrs_fenced {x : Cx} (h : x.info.fence = 0) (cause : Nat) : Fenced x cause (fenceCrs x cause) := by
  have j := dropWork_jointOnly (x.onInfo (fun i => { i with fence := cause, draining := false }))
  unfold fenceCrs
  rw [if_neg (by simp [h])]
  constructor
  · rw [Cx.pev_z_cinfo]
    exact (congrArg Zmc.cinfo (ptPause_z _)).trans j.cinfo
  · rw [Cx.pev_c]
    exact ptPause_wrq _
  · rw [Cx.pev_z_bond]; rfl
  · rw [Cx.pev_z_boot]
    exact (congrArg Zmc.boot (ptPause_z _)).trans j.boot
  · rw [Cx.pev_z_keys]
    exact (congrArg Zmc.keys (ptPause_z _)).trans j.keys

theorem potFence_fenced {x : Cx} (h : x.info.fence = 0) (cause : Nat) : Fenced x cause (potFence x cause) := by
  obtain ⟨cinfo, wrq, dirty, boot, keys⟩ := fenceCrs_fenced h cause
  unfold potFence
  rw [if_neg (by simp [h])]
  refine ⟨?_, wrq, ?_, ?_, ?_⟩
  · rw [← cinfo]; exact audit_cinfo ..
  · rw [← dirty]; exact congrArg Bond.dirty (audit_bond ..)
  · rw [← boot]; exact audit_boot ..
  · rw [← keys]; exact audit_keys ..

end Sys2Proof.Machine

/-! SUPPORT. Chapter 10: the statement about the states of the link. -/

namespace Sys2Proof.Proofs
open Sys2Proof.Machine

/-- Settles O46: each move of the link is one guarded update; the ends of WAKE, RECOVER and RATE go through the lemmas on the ALIGN exchange. -/
theorem linkMoves : Obligations.LinkMoves := by
  unfold Obligations.LinkMoves
  constructor
  · intro s n c l hu x
    refine ⟨fun hst hr hb hp => gives_crs (exec_rate n c s) hu fun t _ hc hz _ => ?_,
      fun hst hsr hf hb hp hm => gives_crs (exec_sleepStart n c s) hu fun t _ hc _ _ => ?_,
      fun hst hs hstop hsr => gives_crs (exec_sleepAck n c s) hu fun t _ hc _ _ => ?_,
      fun hst hs hstop => gives_crs (exec_sleepAck n c s) hu fun t _ hc _ _ => ?_,
      fun hst hl hup => gives_crs (exec_laneLockLoss n c l s) hu fun t _ hc _ _ => ?_,
      fun hst hl hdn => gives_crs (exec_laneLockLoss n c l s) hu fun t _ hc _ _ => ?_⟩
    · rw [show rateStart (crsBefore s n c) = _ from if_pos ⟨hst, hr, hb, hp⟩] at hc hz
      rw [hc, hz.cinfo]
      exact ⟨rfl, rfl, rfl, startAt_cinfo ..⟩
    · rw [show sleepStart (crsBefore s n c) = _ from if_pos ⟨hst, hsr, hf, hb, hp, hm⟩] at hc
      rw [hc]
      exact ⟨rfl, rfl, rfl⟩
    · have e : sleepAck (crsBefore s n c) = _ := (if_pos ⟨hst, hs⟩).trans (if_neg (Bool.eq_false_iff.1 hstop))
      have hsr' : (crsBefore s n c).c.sr.st = 3 := hsr
      simp only [Cx.onL, hsr'] at e
      rw [e] at hc
      rw [hc]
      exact ⟨rfl, rfl, rfl⟩
    · rw [show sleepAck (crsBefore s n c) = _ from (if_pos ⟨hst, hs⟩).trans (if_pos hstop)] at hc
      rw [hc]
      exact ⟨rfl, rfl, rfl, rfl, rfl⟩
    · rw [hc, show (laneLockLoss (crsBefore s n c) l.val).c.lk = _ from laneLockLoss_up hl hup hst]
      exact ⟨rfl, rfl, rfl, rfl, rfl⟩
    · rw [hc, show (laneLockLoss (crsBefore s n c) l.val).c.lk = _ from laneLockLoss_dn hl hdn hst]
      exact ⟨rfl, rfl, rfl, rfl, rfl⟩
  · intro s n c oneWay badUp badDn hu x
    have pw (hpres : present x.z.boot.variant c = true) (hf : x.info.fence = 0) : powered x.z x.n = true := by
      have hf' : x.z.cinfo[x.n].fence = 0 := hf
      rw [powered, show present x.z.boot.variant x.n = true from hpres, hf']
      rfl
    refine ⟨fun hp hst ht => gives_crs (exec_alignComplete n c oneWay s) hu fun t _ hc _ _ => ?_,
      fun hp hst ht hd => gives_crs (exec_alignComplete n c oneWay s) hu fun t _ hc _ _ => ?_,
      fun hst hnew ht hin hd => gives_crs (exec_rateComplete n c s) hu fun t _ hc hz _ => ?_,
      fun hst hp hf hpres => gives_crs (exec_linkFailedResponse n c [] [] s) hu fun t _ hc hz _ => ?_,
      fun hst hp hf hpres hbad hg => gives_crs (exec_linkFailedResponse n c badUp badDn s) hu fun t _ hc hz _ => ?_,
      fun hst hp hf hg => gives_crs (exec_linkFailedResponse n c badUp badDn s) hu fun t _ hc hz _ => ?_⟩
    · obtain ⟨st, rtt, down⟩ := linkAligned_wake (x := x) hp hst (by rw [← wakeLimit]; exact ht) oneWay
      rw [hc]
      exact ⟨st, rtt, down⟩
    · obtain ⟨st, buf, rep, cbBuf, cbRep, -, -, -⟩ := linkAligned_recover (x := x) hp hst ht hd oneWay
      rw [hc]
      exact ⟨st, buf, rep, cbBuf, cbRep⟩
    · obtain ⟨st, mode, sel⟩ := rateDone_due (x := x) hst hnew ht hin hd
      rw [hc, hz.cinfo]
      exact ⟨st, mode, sel⟩
    · obtain ⟨st, down, info⟩ := wakeLink_failed hst (pw hpres hf) (wakeGoal x).1 (wakeGoal x).2
      rw [← linkFailedResponse_retry hst hp hf] at st down info
      rw [hc, hz.cinfo]
      exact ⟨st, down, (congrArg CInfo.mode info).trans rfl, (congrArg CInfo.failed info).trans rfl⟩
    · obtain ⟨g, hg⟩ := Option.isSome_iff_exists.1 hg
      have hb : ¬ (badUp.map (fun l => l.val) = [] ∧ badDn.map (fun l => l.val) = []) := by
        rintro ⟨hu, hd⟩
        exact hbad.elim (fun k => k (List.map_eq_nil_iff.1 hu)) (fun k => k (List.map_eq_nil_iff.1 hd))
      have hp' := pw hpres hf
      obtain ⟨st, down, info⟩ := wakeLink_failed (x := x.onInfo (fun i => { i with degraded := true })) hst
        (by simpa [powered, Cx.onInfo, Cx.onZ, modInfo] using hp') (if 2 ≤ x.info.mode then 3 else 1) g
      rw [← linkFailedResponse_group hst hp hf hb hg] at st down info
      rw [hc, hz.cinfo]
      refine ⟨st, down, (congrArg CInfo.mode info).trans ?_, (congrArg CInfo.degraded info).trans ?_, (congrArg CInfo.failed info).trans rfl⟩
      · by_cases hm : 2 ≤ x.info.mode <;> simp [hm, wakeMode, halfWidth]
      · exact congrArg CInfo.degraded (modV_same x.z.cinfo x.n (fun i => { i with degraded := true }))
    · obtain ⟨cinfo, wrq, dirty, -, -⟩ := potFence_fenced hf 3
      rw [← linkFailedResponse_fence hst hp hf hg] at cinfo wrq dirty
      rw [hc, hz.cinfo, hz.bond]
      refine ⟨?_, wrq, dirty⟩
      rw [show (linkFailedResponse (crsBefore s n c) _ _).z.cinfo = _ from cinfo]
      exact congrArg CInfo.fence (modV_same x.z.cinfo x.n (fun i => { i with fence := 3, draining := false }))

end Sys2Proof.Proofs

/-! SUPPORT. Chapters 10 and 11 (R201, R215, R237): maintenance requests and the Corbel's counts. -/

namespace Sys2Proof.Machine

theorem removeFirst_cons {α : Type} {p : α → Bool} {a : α} (h : p a = true) (l : List α) : removeFirst p (a :: l) = l := by simp [removeFirst, h]

/-- The oldest record of its kind is taken when it stands at the front. -/
theorem popRec_head {x : Cx} {r : BitVec 80} {l : List (BitVec 80)} (h : x.c.lk.recs = r :: l) {grp : List Nat} (hg : grp.contains (recTy r) = true) :
    popRec x grp (recTy r) = some (r.toNat, x.onL (fun k => { k with recs := l })) := by
  have hf : x.c.lk.recs.find? (fun q => grp.contains (recTy q)) = some r := by rw [h, List.find?_cons, hg]
  have hr : removeFirst (fun q => q == r) x.c.lk.recs = l := by rw [h, removeFirst_cons (p := fun q => q == r) (beq_self_eq_true r)]
  simp only [popRec, hf, if_true, Cx.onL, hr]

/-- The words of a course are not the Plumb reference. -/
theorem crsBase_ne_ref (c : CourseId) (o : Nat) : crsBase c.val + o ≠ zmcBase + 0x0218 := by unfold crsBase zmcBase; omega

/-- After a command's end the block shows the course's fields as the effect left them. -/
theorem CloseOnly.crsField {y : Cx} {b : Zmc} {c : CourseId} (h : CloseOnly y.z b) (hn : y.n = c) (o hi lo : Nat) :
    getF b (crsBase c.val + o) hi lo = y.f o hi lo := by
  rw [getF, h.2 _ (crsBase_ne_ref c o), Cx.f, Cx.off, hn, getF]

theorem wordAt_mntPut_status (x : Cx) (st res tag : Nat) (d : Word) :
    wordAt (mntPut x st res tag d).z (x.off 0x0858) = BitVec.ofNat 32 (st + res * 4 + tag * 16) := by
  refine (wordAt_put_ne _ _ ?_).trans (wordAt_put ..)
  unfold Cx.off; omega

theorem wordAt_mntPut_data (x : Cx) (st res tag : Nat) (d : Word) : wordAt (mntPut x st res tag d).z (x.off 0x0850) = d := wordAt_put ..

theorem mntPut_c (x : Cx) (st res tag : Nat) (d : Word) : (mntPut x st res tag d).c = x.c := rfl

/-! ### Counts that wrap -/

/-- A count of a wrapping counter that meets no software write reads as the sum, cut to the field's width (R28). -/
theorem getF_bumpN_wrap {z : Zmc} {n o k : Nat} {f : Fld} (hf : cntFld o f.lo = some f) (hwrap : f.flag = false) (hhi : f.hi < 32) (hlo : f.lo ≤ f.hi)
    (hsw : swHit z n o = false) (hcalm : calm (ownerOf o) o) :
    getF (bumpN z n o f.lo k) o f.hi f.lo = (getF z o f.hi f.lo + k) % 2 ^ (f.hi + 1 - f.lo) := by
  have hlog : getF (logHw z n o) o f.hi f.lo = getF z o f.hi f.lo := by rw [getF, wordAt_logHw, getF]
  have hedge (y : Zmc) : getF (edgeCtrs y n (ownerOf o) o f.lo k) o f.hi f.lo = getF y o f.hi f.lo := by
    rw [getF, wordAt_edgeCtrs_ne _ _ _ _ _ hcalm, getF]
  simp only [bumpN, hf, hsw, hwrap, hedge, hlog]
  simp [hhi, hlo]

theorem cntFld_fec (c : CourseId) : cntFld (crsBase c.val + 0x08D0) 0 = some (fCnt 31 0) := by revert c; decide
theorem cntFld_crc (c : CourseId) : cntFld (crsBase c.val + 0x08D8) 0 = some (fCnt 31 0) := by revert c; decide

theorem Cx.f_onZ (x : Cx) (g : Zmc → Zmc) (o hi lo : Nat) : (x.onZ g).f o hi lo = getF (g x.z) (x.off o) hi lo := rfl

/-- A course's wrapping counter after a count in a cycle without software writes. -/
theorem Cx.f_cntN_wrap {x : Cx} {o : Nat} (hf : cntFld (crsBase x.n.val + o) 0 = some (fCnt 31 0)) (ho : o < 0x3000) (h8 : o % 0x1000 ≠ 8)
    (hsw : x.z.rg.sw = []) (k : Nat) : (x.cntN o k).f o 31 0 = (x.f o 31 0 + k) % 2 ^ 32 := by
  by_cases h : k = 0
  · have lt : x.f o 31 0 < 2 ^ 32 := Nat.mod_lt _ (Nat.two_pow_pos 32)
    rw [Cx.cntN, if_pos h, h, Nat.add_zero, Nat.mod_eq_of_lt lt]
  · have hcalm : calm (ownerOf (x.off o)) (x.off o) := by
      unfold Cx.off
      rw [ownerOf_crs x.n.isLt (by omega)]
      exact calm_crs x.n.isLt ho h8
    rw [Cx.cntN, if_neg h, Cx.f_onZ]
    exact getF_bumpN_wrap (f := fCnt 31 0) hf rfl (by decide) (by decide) (by simp [swHit, hsw]) hcalm

theorem Cx.cntN_sw (x : Cx) (o k : Nat) : (x.cntN o k).z.rg.sw = x.z.rg.sw := by
  have h := rgOnly_cxCntN x o k
  unfold RgOnly at h
  rw [h]

/-! ### The Corbel's registers -/

/-- Taking a request out of the queue is nothing that the Corbel's registers read. -/
theorem cbSample_maint (x : Cx) (l : List MntReq) : cbSample (x.onB (fun b => { b with maint := l })) = (cbSample x).onB (fun b => { b with maint := l }) := by
  have fold : ∀ (due : List (Nat × Nat × BitVec 40)) (x : Cx), due.foldl (fun x p => cbPut (cbPut x (0x12108 + 0x8000 * p.1) (p.2.2.extractLsb' 0 32))
      (0x12108 + 0x8000 * p.1 + 4) ((p.2.2.extractLsb' 32 8).setWidth 32)) (x.onB (fun b => { b with maint := l })) =
      (due.foldl (fun x p => cbPut (cbPut x (0x12108 + 0x8000 * p.1) (p.2.2.extractLsb' 0 32))
        (0x12108 + 0x8000 * p.1 + 4) ((p.2.2.extractLsb' 32 8).setWidth 32)) x).onB (fun b => { b with maint := l }) := by
    intro due
    induction due with
    | nil => intro x; rfl
    | cons p due ih => intro x; rw [List.foldl_cons, List.foldl_cons, ← ih]; rfl
  unfold cbSample
  simp only
  erw [fold]
  rfl

theorem cbRead_maint (x : Cx) (l : List MntReq) (off : Nat) : cbRead (x.onB (fun b => { b with maint := l })) off = cbRead x off := by
  unfold cbRead
  rw [cbSample_maint]
  rfl

/-- A write of all four bytes puts the data under the register's writable bits. -/
theorem cbWrite_all (x : Cx) (off mask : Nat) (v : Word) :
    (cbWrite x off mask none v 15).c.cb.reg = tblPut x.c.cb.reg off ((cbWord x off &&& ~~~BitVec.ofNat 32 mask) ||| (v &&& BitVec.ofNat 32 mask)) ∧
    (cbWrite x off mask none v 15).c.cb.maint = x.c.cb.maint ∧ (cbWrite x off mask none v 15).c.cb.recs = x.c.cb.recs ∧
    (cbWrite x off mask none v 15).cyc = x.cyc := by
  have hm : BitVec.ofNat 32 (mask &&& (List.range 4).foldl (fun a i => if (15 : Nat).testBit i then a + 0xFF * 256 ^ i else a) 0) = BitVec.ofNat 32 mask := by
    rw [show (List.range 4).foldl (fun a i => if (15 : Nat).testBit i then a + 0xFF * 256 ^ i else a) 0 = 2 ^ 32 - 1 by decide, Nat.and_two_pow_sub_one_eq_mod]
    exact BitVec.eq_of_toNat_eq (by simp)
  unfold cbWrite
  simp only [hm]
  refine iteInduction (motive := fun y : Cx => y.c.cb.reg = _ ∧ y.c.cb.maint = _ ∧ y.c.cb.recs = _ ∧ y.cyc = _) (fun _ => ⟨rfl, rfl, rfl, rfl⟩) (fun _ =>
    iteInduction (motive := fun y : Cx => y.c.cb.reg = _ ∧ y.c.cb.maint = _ ∧ y.c.cb.recs = _ ∧ y.cyc = _) (fun _ => ⟨rfl, rfl, rfl, rfl⟩) (fun _ =>
    iteInduction (motive := fun y : Cx => y.c.cb.reg = _ ∧ y.c.cb.maint = _ ∧ y.c.cb.recs = _ ∧ y.cyc = _) (fun _ => ⟨rfl, rfl, rfl, rfl⟩)
      (fun _ => ⟨rfl, rfl, rfl, rfl⟩)))

end Sys2Proof.Machine

/-! SUPPORT. Chapters 10 and 11: the statement about maintenance. -/

namespace Sys2Proof.Proofs
open Sys2Proof.Machine

/-- Settles O49: a response, a time limit and the Corbel's answer each write their registers, and the counts wrap. -/
theorem maintenance : Obligations.Maintenance := by
  unfold Obligations.Maintenance
  constructor
  · intro s n c r l hu x
    refine ⟨fun hr ht hst htag => gives_crs (exec_maintenanceResponse n c s) hu fun t _ hc hz _ => ?_,
      fun hst hdue => gives_crs (exec_mntTimeout n c s) hu fun t _ hc hz _ => ?_,
      fun hr ht hsw => gives_crs (exec_linkStatus n c s) hu fun t _ hc hz _ => ?_⟩
    · have e : mntResponse (crsBefore s n c) = mntPut ((x.onL (fun k => { k with recs := l })).onL (fun l => { l with mnt := { l.mnt with st := 2 } }))
          2 (slice r.toNat 63 62) (slice r.toNat 71 64) (BitVec.ofNat 32 (slice r.toNat 31 0)) := by
        have p : popRec x [5] 5 = _ := ht ▸ popRec_head hr (by simp [ht])
        rw [mntResponse, show popRec (crsBefore s n c) [5] 5 = _ from p]
        exact if_pos ⟨hst, htag⟩
      rw [e] at hc hz
      rw [hc, mntPut_c, hz.2 _ (crsBase_ne_ref c _), hz.2 _ (crsBase_ne_ref c _)]
      exact ⟨rfl, rfl, wordAt_mntPut_status .., wordAt_mntPut_data ..⟩
    · rw [show mntTimeout (crsBefore s n c) = _ from if_pos ⟨hst, hdue⟩] at hc hz
      rw [hc, mntPut_c, hz.2 _ (crsBase_ne_ref c _)]
      exact ⟨rfl, rfl, wordAt_mntPut_status ..⟩
    · have e : linkStatus (crsBefore s n c) = ((x.onL (fun k => { k with recs := l })).cntN 0x08D0 (slice r.toNat 71 56)).cntN 0x08D8 (slice r.toNat 55 40) := by
        have p : popRec x [7] 7 = _ := ht ▸ popRec_head hr (by simp [ht])
        rw [linkStatus, show popRec (crsBefore s n c) [7] 7 = _ from p]
      generalize hv : x.onL (fun k => { k with recs := l }) = v at e
      have vn : v.n = c := by rw [← hv]; rfl
      have vsw : v.z.rg.sw = [] := by rw [← hv]; exact hsw
      have vf (o : Nat) : v.f o 31 0 = x.f o 31 0 := by rw [← hv]; rfl
      have vr : v.c.lk.recs = l := by rw [← hv]; rfl
      rw [e] at hc hz
      rw [hc, hz.crsField (by rw [Cx.cntN_n, Cx.cntN_n, vn]), hz.crsField (by rw [Cx.cntN_n, Cx.cntN_n, vn])]
      refine ⟨by rw [Cx.cntN_c, Cx.cntN_c, vr], ?_, ?_⟩
      · rw [Cx.f_cntN _ (by omega) (by omega) (by omega) (by omega), Cx.f_cntN_wrap (by rw [vn]; exact cntFld_fec c) (by omega) (by omega) vsw, vf]
      · rw [Cx.f_cntN_wrap (by rw [Cx.cntN_n, vn]; exact cntFld_crc c) (by omega) (by omega) (by rw [Cx.cntN_sw, vsw]),
          Cx.f_cntN _ (by omega) (by omega) (by omega) (by omega), vf]
  · intro s n c m l mask dly hu x answer hm
    have hm' : (crsBefore s n c).c.cb.maint = m :: l := hm
    refine ⟨fun hop hreg => gives_crs (exec_corbelMaintRequest n c s) hu fun t _ hc _ _ => ?_,
      fun hop hreg hbe => gives_crs (exec_corbelMaintRequest n c s) hu fun t _ hc _ _ => ?_,
      fun hop hreg => gives_crs (exec_corbelMaintRequest n c s) hu fun t _ hc _ _ => ?_,
      fun h1 h2 => gives_crs (exec_corbelMaintRequest n c s) hu fun t _ hc _ _ => ?_⟩
    · have e : cbMaint (crsBefore s n c) = cbRec (x.onB (fun b => { b with maint := l })) 5 (m.tag * 2 ^ 64 + 0 * 2 ^ 62 + (cbRead x m.addr).toNat) := by
        simp only [cbMaint, hm', hreg, hop, cbRead_maint]
        rfl
      rw [hc, e]
      rfl
    · have e : cbMaint (crsBefore s n c) = cbRec (cbWrite (x.onB (fun b => { b with maint := l })) m.addr mask none m.data 15) 5 (m.tag * 2 ^ 64 + 0 * 2 ^ 62 + 0) := by
        simp only [cbMaint, hm', hreg, hop, hbe]
        rfl
      obtain ⟨reg, mt, recs, cyc⟩ := cbWrite_all (x.onB (fun b => { b with maint := l })) m.addr mask m.data
      rw [hc, e]
      refine ⟨reg, mt, ?_⟩
      show (cbWrite _ _ _ _ _ _).c.cb.recs ++ [⟨_, (cbWrite _ _ _ _ _ _).cyc⟩] = _
      rw [recs, cyc]
      rfl
    · have e : cbMaint (crsBefore s n c) = cbRec (x.onB (fun b => { b with maint := l })) 5 (m.tag * 2 ^ 64 + 1 * 2 ^ 62 + 0) := by
        have h : ¬ (m.mop ≠ 1 ∧ m.mop ≠ 2) := by omega
        simp only [cbMaint, hm', hreg, if_neg h]
        rfl
      rw [hc, e]
      rfl
    · have e : cbMaint (crsBefore s n c) = cbRec (x.onB (fun b => { b with maint := l })) 5 (m.tag * 2 ^ 64 + 2 * 2 ^ 62 + 0) := by
        simp only [cbMaint, hm', if_pos (And.intro h1 h2)]
        rfl
      rw [hc, e]
      rfl

end Sys2Proof.Proofs

/-! SUPPORT. Chapters 10 and 11 (R208, R219, R221): the Corbel issues a command and captures a burst. -/

namespace Sys2Proof.Machine

/-- From `x` to `y` the hold queues, the issued commands, the link and the retry buffers have stayed. -/
structure HoldsKept (x y : Cx) : Prop where
  hold : y.c.cb.hold = x.c.cb.hold
  iss : y.c.cb.iss = x.c.cb.iss
  lk : y.c.lk = x.c.lk
  retry : y.c.retry = x.c.retry

theorem HoldsKept.refl (x : Cx) : HoldsKept x x := ⟨rfl, rfl, rfl, rfl⟩

theorem HoldsKept.trans {x y w : Cx} (h : HoldsKept x y) (k : HoldsKept y w) : HoldsKept x w :=
  ⟨k.hold.trans h.hold, k.iss.trans h.iss, k.lk.trans h.lk, k.retry.trans h.retry⟩

theorem HoldsKept.ite {p : Prop} [Decidable p] {x y w : Cx} (h : HoldsKept x y) (k : HoldsKept x w) : HoldsKept x (if p then y else w) :=
  iteInduction (fun _ => h) (fun _ => k)

theorem holdsKept_foldl {α : Type} {f : Cx → α → Cx} (hf : ∀ x a, HoldsKept x (f x a)) (l : List α) (x : Cx) : HoldsKept x (l.foldl f x) := by
  induction l generalizing x with
  | nil => exact .refl x
  | cons a l ih => exact (hf x a).trans (ih (f x a))

/-- A change of the Corbel that keeps its hold queues and issued commands. -/
theorem HoldsKept.onB {x y : Cx} (h : HoldsKept x y) {f : Corbel → Corbel} (hh : ∀ b, (f b).hold = b.hold) (hi : ∀ b, (f b).iss = b.iss) :
    HoldsKept x (y.onB f) := ⟨(hh _).trans h.hold, (hi _).trans h.iss, h.lk, h.retry⟩

/-- What a command does to the DRAM. -/
theorem dramExec_kept (x : Cx) (b : Cmd) : HoldsKept x (dramExec x b) := by
  have r := HoldsKept.refl x
  have o {y : Cx} (h : HoldsKept x y) {f : Corbel → Corbel} (hh : ∀ b, (f b).hold = b.hold := by intro; rfl)
      (hi : ∀ b, (f b).iss = b.iss := by intro; rfl) : HoldsKept x (y.onB f) := h.onB hh hi
  have burst (c : Code) : HoldsKept x (if x.cf 0x14 7 0 = 0 then x else x.onB (fun k => { k with reads := k.reads ++ [{ sub := b.sub, lr := b.lr, stamp := b.stamp, code := c }] })) :=
    .ite r (o r)
  have store : HoldsKept x (match tblFind x.c.cb.wbuf (b.arg / 8 % 128) with
      | some d => if x.cf 0x14 15 8 = 0 then x else x.onB (fun c => { c with dram := tblPut c.dram (dramCol x b) d, wbuf := tblDel c.wbuf (b.arg / 8 % 128) })
      | none => x) := by
    split
    · exact .ite r (o r)
    · exact r
  unfold dramExec
  refine .ite (o r) (.ite (.ite (o (burst _)) (burst _)) (.ite ?_ (.ite ?_ (.ite (o r) (.ite (o r) (.ite (o r) r))))))
  · exact .ite (o store) store
  · exact holdsKept_foldl (fun y k => (HoldsKept.refl y).onB (by intro; rfl) (by intro; rfl)) _ x

theorem cbSample_kept (x : Cx) : HoldsKept x (cbSample x) := by
  unfold cbSample
  exact (holdsKept_foldl (fun y p => ((HoldsKept.refl y).onB (by intro; rfl) (by intro; rfl)).onB (by intro; rfl) (by intro; rfl)) _ x).onB (by intro; rfl) (by intro; rfl)

theorem cbConfirm_kept (x : Cx) (b : Cmd) : HoldsKept x (cbConfirm x b) := ⟨rfl, rfl, rfl, rfl⟩

/-- The command has left its hold queue and stands first among the issued ones. -/
def cbTake (x : Cx) (s : Fin 2) (b : Cmd) : Cx :=
  x.onB (fun c => { c with
    hold := modV c.hold s (fun h => removeFirst (fun k => k == b) h)
    iss := modV c.iss s (fun l => b :: l.filter (fun k => decide (cbDck x (x.cyc + 1) ≤ k.stamp + 8192)))
    pend := if b.op = 9 then modV c.pend s (fun p => if p.testBit (cbPrank x b.lr) then p ||| 2 ^ (cbPrank x b.lr + 4) else p) else c.pend })

theorem cbIssueCmd_kept (x : Cx) (s : Fin 2) (b : Cmd) (fb : Option (BitVec 40)) : HoldsKept (cbTake x s b) (cbIssueCmd x s b fb) := by
  have d := dramExec_kept (cbTake x s b) b
  have fbq (at_ : Nat) : HoldsKept (cbTake x s b) (match fb with
      | some v => (cbSample (dramExec (cbTake x s b) b)).onB (fun c => { c with tfbq := c.tfbq ++ [(s.val, at_, v)] })
      | none => dramExec (cbTake x s b) b) := by
    split
    · exact (d.trans (cbSample_kept _)).onB (fun _ => rfl) (fun _ => rfl)
    · exact d
  unfold cbIssueCmd
  exact .ite (fbq _) (.ite ((fbq _).trans (cbConfirm_kept ..)) ((fbq _).onB (fun _ => rfl) (fun _ => rfl)))

theorem cbIssue_lone {x : Cx} {s : Fin 2} {b : Cmd} (h : x.c.cb.hold[s] = [b]) (hd : b.stamp < cbDck x (x.cyc + 1)) (fb : Option (BitVec 40)) :
    cbIssue x s fb = cbIssueCmd x s b fb := by
  have m : minBy (fun b : Cmd => b.stamp) ((x.c.cb.hold[s]).filter (fun b => decide (b.stamp < cbDck x (x.cyc + 1)))) = some b := by
    rw [h]; simp [hd, minBy]
  simp only [cbIssue, m]

/-- The oldest read whose burst has ended has left the list of reads. -/
def burstTaken (x : Cx) (r : Burst) : Cx := x.onB (fun c => { c with reads := removeFirst (fun q => q == r) c.reads })

theorem burstCapture_room {x : Cx} {s : Fin 2} {r : Burst} (h : x.c.cb.reads.find? (fun r => r.sub == s.val) = some r)
    (hd : r.stamp + x.cf 0x14 7 0 + 8 ≤ cbDck x x.cyc) (hq : x.c.cb.retq.length < rtnDepth x.n.val) (errs : Code) :
    ∃ due, burstCapture x s errs = (burstTaken x r).onB (fun c => { c with retq := c.retq ++ [{ r with code := r.code ^^^ errs, due := due }] }) := by
  refine ⟨x.cyc + (budget x.info.mode).2.2 - (budget x.info.mode).1, ?_⟩
  simp only [burstCapture, h, if_neg (Nat.not_lt.2 hd)]
  exact if_neg (Nat.not_le.2 hq)

theorem burstCapture_full {x : Cx} {s : Fin 2} {r : Burst} (h : x.c.cb.reads.find? (fun r => r.sub == s.val) = some r)
    (hd : r.stamp + x.cf 0x14 7 0 + 8 ≤ cbDck x x.cyc) (hq : rtnDepth x.n.val ≤ x.c.cb.retq.length) (errs : Code) :
    burstCapture x s errs = cbRec (burstTaken x r) 6 (s.val * 2 ^ 71 + r.stamp % 2 ^ 24 * 2 ^ 47) := by
  simp only [burstCapture, h, if_neg (Nat.not_lt.2 hd)]
  exact if_pos hq

end Sys2Proof.Machine

/-! SUPPORT. Chapters 10 and 11: the statement about commands and bursts of the Corbel. -/

namespace Sys2Proof.Proofs
open Sys2Proof.Machine

/-- Settles O51: the lone due command is the one issued, and what it does to the DRAM leaves the queues; a captured burst is queued or reported. -/
theorem corbelIssuesAndCaptures : Obligations.CorbelIssuesAndCaptures := by
  unfold Obligations.CorbelIssuesAndCaptures
  intro s n c sc fb errs b r hu x
  refine ⟨fun h hd => gives_crs (exec_corbelIssue n c sc fb s) hu fun t _ hc _ _ => ?_,
    fun h hd hq => gives_crs (exec_readBurstCapture n c sc errs s) hu fun t _ hc _ _ => ?_,
    fun h hd hq => gives_crs (exec_readBurstCapture n c sc errs s) hu fun t _ hc _ _ => ?_⟩
  · obtain ⟨hold, iss, lk, retry⟩ := cbIssueCmd_kept x sc b fb
    rw [show cbIssue (crsBefore s n c) sc fb = _ from cbIssue_lone h hd fb] at hc
    rw [hc, hold, iss, lk, retry]
    refine ⟨?_, ?_, fun d hne => ⟨modV_other _ _ _ _ (Ne.symm hne), modV_other _ _ _ _ (Ne.symm hne)⟩, rfl, rfl⟩
    · refine (modV_same x.c.cb.hold sc _).trans ?_
      rw [h]
      exact removeFirst_cons (p := fun k => k == b) (beq_self_eq_true b) []
    · exact (congrArg List.head? (modV_same x.c.cb.iss sc _)).trans rfl
  · obtain ⟨due, e⟩ := burstCapture_room h hd hq errs
    rw [show burstCapture (crsBefore s n c) sc errs = _ from e] at hc
    rw [hc]
    exact ⟨rfl, List.map_append, rfl⟩
  · rw [show burstCapture (crsBefore s n c) sc errs = _ from burstCapture_full h hd hq errs] at hc
    rw [hc]
    exact ⟨rfl, rfl⟩

end Sys2Proof.Proofs

/-! SUPPORT. Chapter 8 (R144, R145): a request at the head of its joint enters its queue. -/

namespace Sys2Proof.Machine

theorem replaceFirst_map {α β : Type} (p : α → Bool) (f : α → α) (g : α → β) (h : ∀ a, g (f a) = g a) (l : List α) :
    (replaceFirst p f l).map g = l.map g := by
  induction l with
  | nil => rfl
  | cons a l ih =>
    unfold replaceFirst
    split
    · rw [List.map_cons, List.map_cons, h]
    · rw [List.map_cons, List.map_cons, ih]

/-- What names a read of the queue: its entry, its request and its line. -/
def REnt.name (r : REnt) : Nat × Nat × Nat := (r.ent, r.id, r.line)

/-- What names a write of the queue. -/
def WEnt.name (w : WEnt) : Nat × Nat × Nat := (w.ent, w.id, w.line)

/-- From `x` to `y` every entry of the two queues has kept its request, in order, and the joints into the courses have stayed. -/
structure QueuesKept (x y : Cx) : Prop where
  rdq : y.c.rdq.map REnt.name = x.c.rdq.map REnt.name
  wrq : y.c.wrq.map WEnt.name = x.c.wrq.map WEnt.name
  jreq : y.z.jreq = x.z.jreq

namespace QueuesKept

theorem refl (x : Cx) : QueuesKept x x := ⟨rfl, rfl, rfl⟩

theorem trans {x y w : Cx} (h : QueuesKept x y) (k : QueuesKept y w) : QueuesKept x w :=
  ⟨k.rdq.trans h.rdq, k.wrq.trans h.wrq, k.jreq.trans h.jreq⟩

theorem ite {p : Prop} [Decidable p] {x y w : Cx} (h : QueuesKept x y) (k : QueuesKept x w) : QueuesKept x (if p then y else w) :=
  iteInduction (fun _ => h) (fun _ => k)

theorem foldl {α : Type} {f : Cx → α → Cx} (hf : ∀ x a, QueuesKept x (f x a)) (l : List α) (x : Cx) : QueuesKept x (l.foldl f x) := by
  induction l generalizing x with
  | nil => exact .refl x
  | cons a l ih => exact (hf x a).trans (ih (f x a))

theorem cnt {x y : Cx} (h : QueuesKept x y) (o : Nat) : QueuesKept x (y.cnt o) := by
  refine ⟨?_, ?_, ?_⟩
  · rw [Cx.cnt_c]; exact h.rdq
  · rw [Cx.cnt_c]; exact h.wrq
  · rw [Cx.cnt_z_jreq]; exact h.jreq

theorem sts {x y : Cx} (h : QueuesKept x y) (o b : Nat) : QueuesKept x (y.sts o b) := by
  refine ⟨?_, ?_, ?_⟩
  · rw [Cx.sts_c]; exact h.rdq
  · rw [Cx.sts_c]; exact h.wrq
  · rw [Cx.sts_z_jreq]; exact h.jreq

theorem setf {x y : Cx} (h : QueuesKept x y) (o hi lo v : Nat) : QueuesKept x (y.setf o hi lo v) := by
  refine ⟨?_, ?_, ?_⟩
  · rw [Cx.setf_c]; exact h.rdq
  · rw [Cx.setf_c]; exact h.wrq
  · rw [Cx.setf_z_jreq]; exact h.jreq

theorem onZ {x y : Cx} (h : QueuesKept x y) {f : Zmc → Zmc} (hf : (f y.z).jreq = y.z.jreq) : QueuesKept x (y.onZ f) :=
  ⟨h.rdq, h.wrq, hf.trans h.jreq⟩

theorem onC {x y : Cx} (h : QueuesKept x y) {f : CourseSt → CourseSt} (hr : (f y.c).rdq.map REnt.name = y.c.rdq.map REnt.name)
    (hw : (f y.c).wrq.map WEnt.name = y.c.wrq.map WEnt.name) : QueuesKept x (y.onC f) :=
  ⟨hr.trans h.rdq, hw.trans h.wrq, h.jreq⟩

/-- A change of the course that leaves both queues. -/
theorem onRest {x y : Cx} (h : QueuesKept x y) {f : CourseSt → CourseSt} (hr : ∀ c, (f c).rdq = c.rdq) (hw : ∀ c, (f c).wrq = c.wrq) :
    QueuesKept x (y.onC f) := h.onC (by rw [hr]) (by rw [hw])

/-- The first read that `p` picks changes and keeps its name. -/
theorem onRead {x y : Cx} (h : QueuesKept x y) (p : REnt → Bool) {g : REnt → REnt} (hg : ∀ r, (g r).name = r.name) :
    QueuesKept x (y.onC (fun c => { c with rdq := replaceFirst p g c.rdq })) := h.onC (replaceFirst_map p g _ hg _) rfl

/-- The first write that `p` picks changes and keeps its name. -/
theorem onWrite {x y : Cx} (h : QueuesKept x y) (p : WEnt → Bool) {g : WEnt → WEnt} (hg : ∀ r, (g r).name = r.name) :
    QueuesKept x (y.onC (fun c => { c with wrq := replaceFirst p g c.wrq })) := h.onC rfl (replaceFirst_map p g _ hg _)

end QueuesKept

theorem modBank_rdq (c : CourseSt) (k : Nat) (f : BankSt → BankSt) : (modBank c k f).rdq = c.rdq := rfl
theorem modBank_wrq (c : CourseSt) (k : Nat) (f : BankSt → BankSt) : (modBank c k f).wrq = c.wrq := rfl

theorem predict_queues (x : Cx) (a : Coord) : QueuesKept x (predict x a) :=
  (QueuesKept.refl x).onRest (fun c => modBank_rdq c ..) (fun c => modBank_wrq c ..)

theorem enterInOrder_queues (x : Cx) (a : Coord) : QueuesKept x (enterInOrder x a) := by
  unfold enterInOrder
  split
  · exact .refl x
  · exact (QueuesKept.ite ((QueuesKept.refl x).cnt _) (.refl x)).onRest (fun c => modBank_rdq c ..) (fun c => modBank_wrq c ..)

theorem queueRd_queues (x : Cx) (r : REnt) : QueuesKept x (queueRd x r) :=
  ((predict_queues x r.at_).trans (enterInOrder_queues _ r.at_)).onRead _ (by intro; rfl)

theorem queueWr_queues (x : Cx) (w : WEnt) : QueuesKept x (queueWr x w) :=
  (predict_queues x w.at_).onWrite _ (by intro; rfl)

theorem setRegion_queues (x : Cx) (r : Nat) (s : RState) : QueuesKept x (setRegion x r s) :=
  (QueuesKept.refl x).onRest (by intro; rfl) (by intro; rfl)

theorem startRender_queues {x y : Cx} {r : Nat} (h : startRender x r = some y) : QueuesKept x y := by
  unfold startRender at h
  split at h
  · cases h
  · cases h
    exact ((setRegion_queues x r .rendering).cnt _).onRest (by intro; rfl) (by intro; rfl)

theorem markWritten_queues (x : Cx) (line : Nat) : QueuesKept x (markWritten x line) := by
  unfold markWritten
  split
  · exact .refl x
  · exact (QueuesKept.refl x).onRest (by intro; rfl) (by intro; rfl)

theorem sendData_queues {x y : Cx} (h : QueuesKept x y) (j : JData) : QueuesKept x (sendData y j) := h.onZ rfl
theorem sendStat_queues {x y : Cx} (h : QueuesKept x y) (m : JStat) : QueuesKept x (sendStat y m) := h.onZ rfl

theorem zeroRead_queues (x : Cx) (r : REnt) : QueuesKept x (zeroRead x r) := by
  rw [zeroRead_eq]
  exact (sendStat_queues (sendData_queues ((QueuesKept.refl x).cnt _) _) _).onRead _ (by intro; rfl)

/-- A line of zeros that has not left the joint is taken back. -/
theorem unzero_queues (x : Cx) (r : REnt) : QueuesKept x (unzero x r) := by
  unfold unzero
  refine .ite (QueuesKept.onRead (.setf (QueuesKept.onZ (.refl x) ?_) _ _ _ _) _ (by intro; rfl)) (.refl x)
  rfl

theorem decideRd_queues (x : Cx) (r : REnt) : QueuesKept x (decideRd x r) := by
  have hq := queueRd_queues x r
  have hz := zeroRead_queues x r
  unfold decideRd
  refine .ite hq ?_
  split
  · exact hz
  · split
    · exact .ite hq hz
    · exact hq
  · exact hq
  · exact .refl x

theorem decideWr_queues (x : Cx) (w : WEnt) : QueuesKept x (decideWr x w) := by
  have hq := queueWr_queues x w
  have hm (y : Cx) : QueuesKept y (queueWr (markWritten y w.line) w) := (markWritten_queues y w.line).trans (queueWr_queues _ w)
  unfold decideWr
  refine .ite hq ?_
  split
  · split
    · next hs => exact (startRender_queues hs).trans (hm _)
    · exact (setRegion_queues x _ .claimed).onRest (by intro; rfl) (by intro; rfl)
  · exact hm x
  · exact hq
  · exact .refl x

theorem readAgain_queues (x : Cx) (ord : Nat) (zero : Bool) : QueuesKept x (readAgain x ord zero) := by
  unfold readAgain
  split
  · exact .refl x
  · exact .ite (enterInOrder_queues x _) (.ite (.ite ((QueuesKept.refl x).cnt _) (decideRd_queues x _)) (.refl x))

theorem modeOnEnq_queues (x : Cx) (read : Bool) : QueuesKept x (modeOnEnq x read) := by
  obtain ⟨hz, m, hm⟩ := modeOnEnq_only x read
  exact ⟨by rw [hm], by rw [hm], hz.jreq⟩

theorem linkWake_queues (x : Cx) (d : Bool) : QueuesKept x (linkWake x d) := ⟨rfl, rfl, rfl⟩

/-- A demand may take a course out of self-refresh; its queues stay (R183). -/
theorem srDemand_queues (x : Cx) : QueuesKept x (srDemand x).1 := by
  have hn : QueuesKept x x.noteDemand := ⟨rfl, rfl, rfl⟩
  have habort (y : Cx) : QueuesKept y (ptResume (srAbort y)) :=
    QueuesKept.onRest (.sts (.cnt (.setf (QueuesKept.onRest (.refl y) (by intro; rfl) (by intro; rfl)) _ _ _ _) _) _ _) (by intro; rfl) (by intro; rfl)
  have hleave (y : Cx) : QueuesKept y ((srLeave y).cnt 0x14B8) :=
    .cnt (QueuesKept.onRest (.ite (linkWake_queues y false) (.refl y)) (by intro; rfl) (by intro; rfl)) _
  unfold srDemand
  simp only
  split
  · exact hn
  · exact hn.trans (habort _)
  · exact hn.cnt _
  · exact hn.trans (hleave _)

theorem enqRead_queues (x : Cx) (j : JReq) (ent : Nat) (wait : Bool) :
    QueuesKept (withRead x (rdEntry x j ent wait)) (enqRead x j ent wait) := by
  obtain ⟨demand, hd⟩ := enqRead_eq x j ent wait
  rw [hd]
  exact (QueuesKept.ite ((QueuesKept.refl _).cnt _) (decideRd_queues _ _)).trans (modeOnEnq_queues _ _)

theorem lineWritten_queues (x : Cx) (line : Nat) : QueuesKept x (lineWritten x line) := by
  unfold lineWritten
  exact (QueuesKept.refl x).onRest (by intro; rfl) (by intro; rfl)

/-- The course with a write in its queue. -/
def withWrite (x : Cx) (w : WEnt) : Cx := x.onC (fun c => { c with ord := c.ord + 1, wrq := c.wrq ++ [w] })

/-- The place in the order that a read moves to when a write enters behind the reads `rs` of its row: that of the next of them, or the top. -/
def upOrder (rs : List REnt) (top o : Nat) : Nat := (rs.filter (fun r => decide (o < r.ord))).foldl (fun m r => min m r.ord) top

/-- The reads `rs` move up in the order. -/
def moveUp (x : Cx) (rs : List REnt) : Cx :=
  x.onC (fun c => { c with rdq := c.rdq.map (fun r => if rs.any (fun q => q.ord == r.ord) then { r with ord := upOrder rs x.c.ord r.ord } else r) })

theorem moveUp_queues (x : Cx) (rs : List REnt) : QueuesKept x (moveUp x rs) := by
  refine QueuesKept.onC (.refl x) ?_ rfl
  rw [List.map_map]
  refine List.map_congr_left (fun r _ => ?_)
  rw [Function.comp_apply]
  split <;> rfl

/-- What a write that has entered its queue does to its region: a held one is counted, another one is decided (R266, R269, R271). -/
def decideEntered (x : Cx) (w : WEnt) : Cx :=
  let g := w.line >>> 16
  if freshOn x && (clearing x g || regionOf x g == .claimed) then x.cnt 0x20A0
  else if freshOn (decideWr x w) && regionOf (decideWr x w) g == .claimed then (decideWr x w).cnt 0x20A0 else decideWr x w

theorem decideEntered_queues (x : Cx) (w : WEnt) : QueuesKept x (decideEntered x w) :=
  .ite ((QueuesKept.refl x).cnt _) (.ite ((decideWr_queues x w).cnt _) (decideWr_queues x w))

/-- A write enters in front of the reads of its row, which are then decided again (R146, R266). -/
theorem enqWrite_eq (x : Cx) (j : JReq) (ent : Nat) (wait : Bool) : ∃ (rs : List REnt) (zeros : List Nat) (w : WEnt), w.name = (ent, j.id, j.line) ∧
    enqWrite x j ent wait = modeOnEnq (rs.foldl (fun y r => readAgain y (upOrder rs (rs.foldl unzero x).c.ord r.ord) (zeros.contains r.id))
      (decideEntered (lineWritten (withWrite (moveUp (rs.foldl unzero x) rs) w) j.line) w)) false :=
  ⟨rowReads x (coordOf x j.line), _, _, rfl, rfl⟩

theorem enqWrite_queues (x : Cx) (j : JReq) (ent : Nat) (wait : Bool) : ∃ y w, QueuesKept x y ∧ w.name = (ent, j.id, j.line) ∧
    QueuesKept (withWrite y w) (enqWrite x j ent wait) := by
  obtain ⟨rs, zeros, w, hw, he⟩ := enqWrite_eq x j ent wait
  refine ⟨moveUp (rs.foldl unzero x) rs, w, (QueuesKept.foldl unzero_queues rs x).trans (moveUp_queues _ rs), hw, ?_⟩
  rw [he]
  exact ((lineWritten_queues _ _).trans (decideEntered_queues _ w)).trans
    ((QueuesKept.foldl (fun y r => readAgain_queues y _ _) rs _).trans (modeOnEnq_queues _ false))

/-- A write that finds a free entry of its queue enters it, in the wake of what it does to self-refresh. -/
theorem courseEnqueue_write {x : Cx} {j : JReq} {l : List JReq} {e : Nat} (hu : crsUp x = true) (hlk : x.c.lk.st ≠ 4) (hj : x.z.jreq[x.n] = j :: l)
    (hw : j.write = true) (he : lowFree 128 (x.c.wrq.map (fun w => w.ent)) = some e) :
    courseEnqueue x = enqWrite (srDemand (x.popReq l)).1 j e (srDemand (x.popReq l)).2 := by
  have hlive : x.info.fence = 0 := by
    simp only [crsUp, liveCrs, Bool.and_eq_true, beq_iff_eq] at hu
    exact hu.1.2
  simp [courseEnqueue, hj, hlive, hlk, hu, hw, he, Cx.popReq]

/-- The request has left the joint, and no entry of the queues has changed its request. -/
theorem popReq_demand (x : Cx) (l : List JReq) : (srDemand (x.popReq l)).1.c.rdq.map REnt.name = x.c.rdq.map REnt.name ∧
    (srDemand (x.popReq l)).1.c.wrq.map WEnt.name = x.c.wrq.map WEnt.name ∧ (srDemand (x.popReq l)).1.z.jreq[x.n] = l := by
  obtain ⟨hr, hw, hj⟩ := srDemand_queues (x.popReq l)
  exact ⟨hr, hw, by rw [hj]; exact modV_same ..⟩

end Sys2Proof.Machine

/-! SUPPORT. Chapter 8, the queues of a course: the statement settled. -/

namespace Sys2Proof.Proofs
open Sys2Proof.Machine

/-- Settles O38: a request takes the lowest free entry of its queue, and what follows in the same command renames no entry. -/
theorem requestsEnterTheQueue : Obligations.RequestsEnterTheQueue := by
  unfold Obligations.RequestsEnterTheQueue
  intro s n c j l e hup x hu hlk hj
  obtain ⟨hr, hw, hl⟩ := popReq_demand x l
  refine ⟨fun hjw he => gives_crs (exec_courseEnqueue n c s) hup (fun t _ ht hz _ => ?_),
    fun hjw he => gives_crs (exec_courseEnqueue n c s) hup (fun t _ ht hz _ => ?_)⟩
  · obtain ⟨qr, qw, qj⟩ := enqRead_queues (srDemand (x.popReq l)).1 j e (srDemand (x.popReq l)).2
    rw [← courseEnqueue_read hu hlk hj hjw he] at qr qw qj
    rw [hz.jreq, ht]
    refine ⟨?_, qw.trans hw, by rw [qj]; exact hl⟩
    exact qr.trans ((List.map_append ..).trans (congrArg (· ++ _) hr))
  · obtain ⟨y, w, hy, hn, q⟩ := enqWrite_queues (srDemand (x.popReq l)).1 j e (srDemand (x.popReq l)).2
    rw [← courseEnqueue_write hu hlk hj hjw he] at q
    rw [hz.jreq, ht]
    refine ⟨?_, q.rdq.trans (hy.rdq.trans hr), by rw [q.jreq]; exact (congrArg (·[c]) hy.jreq).trans hl⟩
    rw [← hn]
    exact q.wrq.trans ((List.map_append ..).trans (congrArg (· ++ _) (hy.wrq.trans hw)))

end Sys2Proof.Proofs

/-! SUPPORT. Chapter 13 (R271): a clear reaches a course and has its clear point. -/

namespace Sys2Proof.Machine

/-- From `x` to `y`, which has fresh map exceptions `ex`, the queues, the claims (none), the default of the map and the course records have stayed. -/
structure MapMoved (x : Cx) (ex : Tbl RState) (y : Cx) : Prop where
  n : y.n = x.n
  cinfo : y.z.cinfo = x.z.cinfo
  wrq : y.c.wrq = x.c.wrq
  rdq : y.c.rdq = x.c.rdq
  clrs : y.c.clrs = x.c.clrs
  claims : y.c.claims = []
  dflt : y.c.fm.dflt = x.c.fm.dflt
  ex : y.c.fm.ex = ex

theorem MapMoved.regionCount {x y : Cx} {ex : Tbl RState} (h : MapMoved x ex y) : regionCount y = regionCount x := by
  obtain ⟨hn, hi, -⟩ := h
  simp only [Machine.regionCount, Cx.info, hi, hn]

theorem MapMoved.trans {x y w : Cx} {ex fx : Tbl RState} (h : MapMoved x ex y) (k : MapMoved y fx w) : MapMoved x fx w :=
  ⟨k.n.trans h.n, k.cinfo.trans h.cinfo, k.wrq.trans h.wrq, k.rdq.trans h.rdq, k.clrs.trans h.clrs, k.claims, k.dflt.trans h.dflt, k.ex⟩

/-- A change that leaves the course and the course records. -/
theorem MapMoved.onRegs {x y w : Cx} {ex : Tbl RState} (h : MapMoved x ex y) (hc : w.c = y.c) (hn : w.n = y.n) (hi : w.z.cinfo = y.z.cinfo) :
    MapMoved x ex w :=
  ⟨hn.trans h.n, hi.trans h.cinfo, by rw [hc]; exact h.wrq, by rw [hc]; exact h.rdq, by rw [hc]; exact h.clrs, by rw [hc]; exact h.claims,
    by rw [hc]; exact h.dflt, by rw [hc]; exact h.ex⟩

theorem MapMoved.sts {x y : Cx} {ex : Tbl RState} (h : MapMoved x ex y) (o b : Nat) : MapMoved x ex (y.sts o b) :=
  h.onRegs (Cx.sts_c ..) (Cx.sts_n ..) (Cx.sts_z_cinfo ..)

theorem MapMoved.cnt {x y : Cx} {ex : Tbl RState} (h : MapMoved x ex y) (o : Nat) : MapMoved x ex (y.cnt o) :=
  h.onRegs (Cx.cnt_c ..) (Cx.cnt_n ..) (Cx.cnt_z_cinfo ..)

/-- The engine that renders a region, if one does, is stopped. -/
def stopEngine (x : Cx) (r : Nat) : Cx :=
  match engineOf x r with
  | some e => (x.onC (fun c => { c with eng := modV c.eng e (fun _ => none) })).sts 0x2008 2
  | none => x

/-- Table 13-1: claims, tracker entries and rewrites of a region end. -/
def endRegionWork (x : Cx) (r : Nat) : Cx :=
  x.onC (fun c => { c with
    claims := c.claims.filter (fun g => g != r)
    rpt := c.rpt.map (fun e => if e.line >>> 16 == r && (e.st == 1 || e.st == 2 || e.st == 3) then { e with st := 0, since := x.now } else e)
    pt := { c.pt with
      out := c.pt.out.map (fun p => if p.1 >>> 16 = r then (p.1, p.2.1, true) else p)
      rw := c.pt.rw.map (fun p => if p.line >>> 16 = r then { p with drop := true } else p) } })

theorem clearRegion_eq (x : Cx) (r : Nat) : clearRegion x r =
    if regionCount x ≤ r then x else (setRegion (endRegionWork (stopEngine x r) r) r .fresh).cnt 0x20A8 := rfl

theorem stopEngine_moved {x : Cx} (h : x.c.claims = []) (r : Nat) : MapMoved x x.c.fm.ex (stopEngine x r) := by
  unfold stopEngine
  split
  · refine MapMoved.sts ?_ _ _
    exact ⟨rfl, rfl, rfl, rfl, rfl, h, rfl, rfl⟩
  · exact ⟨rfl, rfl, rfl, rfl, rfl, h, rfl, rfl⟩

theorem endRegionWork_moved {x : Cx} (h : x.c.claims = []) (r : Nat) : MapMoved x x.c.fm.ex (endRegionWork x r) :=
  ⟨rfl, rfl, rfl, rfl, rfl, (congrArg (List.filter _) h).trans List.filter_nil, rfl, rfl⟩

theorem clearRegion_moved {x : Cx} (h : x.c.claims = []) (r : Nat) :
    MapMoved x (if regionCount x ≤ r then x.c.fm.ex else tblStore x.c.fm.dflt x.c.fm.ex r .fresh) (clearRegion x r) := by
  rw [clearRegion_eq]
  split
  · exact ⟨rfl, rfl, rfl, rfl, rfl, h, rfl, rfl⟩
  · have hs := stopEngine_moved h r
    have he := hs.trans (endRegionWork_moved hs.claims r)
    refine MapMoved.cnt (y := setRegion (endRegionWork (stopEngine x r) r) r .fresh) (he.trans ⟨rfl, rfl, rfl, rfl, rfl, he.claims, rfl, ?_⟩) _
    exact congrArg₂ (fun d m => tblStore d m r .fresh) he.dflt (he.ex.trans hs.ex)

/-- The regions of a clear become FRESH; the others keep their state. -/
theorem foldl_clearRegion_moved (lo : Nat) (l : List Nat) {x : Cx} (h : x.c.claims = []) :
    MapMoved x (l.foldl (fun m i => if regionCount x ≤ lo + i then m else tblStore x.c.fm.dflt m (lo + i) .fresh) x.c.fm.ex)
      (l.foldl (fun x i => clearRegion x (lo + i)) x) := by
  induction l generalizing x with
  | nil => exact ⟨rfl, rfl, rfl, rfl, rfl, h, rfl, rfl⟩
  | cons a l ih =>
    have ha := clearRegion_moved h (lo + a)
    have hl := ha.trans (ih ha.claims)
    rwa [ha.regionCount, ha.dflt, ha.ex] at hl

theorem handleHeld_of_none {x : Cx} (hw : ∀ w ∈ x.c.wrq, w.ph ≠ .held) (hr : ∀ r ∈ x.c.rdq, r.ph ≠ .held) (pick : Nat → Nat → Bool) :
    handleHeld x pick = x := by
  have hrs : x.c.rdq.filter (fun r => r.ph == .held && pick r.line r.ord) = [] :=
    List.filter_eq_nil_iff.2 (fun r hm => by simp [hr r hm])
  have hws : x.c.wrq.filter (fun w => w.ph == .held && pick w.line w.ord) = [] :=
    List.filter_eq_nil_iff.2 (fun w hm => by simp [hw w hm])
  simp [handleHeld, hrs, hws]

theorem dropHeldWr_of_none {x : Cx} (hw : ∀ w ∈ x.c.wrq, w.ph ≠ .held) (k : ClrSt) : dropHeldWr x k = x := by
  have hg : x.c.wrq.filter (fun w => w.ph == .held && decide (w.ord < k.ord) && decide (k.lo ≤ w.line >>> 16 ∧ w.line >>> 16 < k.hi)) = [] :=
    List.filter_eq_nil_iff.2 (fun w hm => by simp [hw w hm])
  have hk : x.c.wrq.filter (fun w => !(w.ph == .held && decide (w.ord < k.ord) && decide (k.lo ≤ w.line >>> 16 ∧ w.line >>> 16 < k.hi))) = x.c.wrq :=
    List.filter_eq_self.2 (fun w hm => by simp [hw w hm])
  simp only [dropHeldWr, hg, List.foldl_nil, Cx.onC, hk]

theorem takeClaim_of_none {x : Cx} (h : x.c.claims = []) : takeClaim x = x := by simp [takeClaim, h]

/-- The one clear of a course, ready, with nothing held or claimed, takes effect. -/
theorem clearPoint_alone {x : Cx} {q : ClrSt} (h1 : x.c.clrs = [q]) (hq : clearReady x q = true) (hc : x.c.claims = [])
    (hw : ∀ w ∈ x.c.wrq, w.ph ≠ .held) (hr : ∀ r ∈ x.c.rdq, r.ph ≠ .held) :
    clearPoint x = (((List.range (q.hi - q.lo)).foldl (fun x i => clearRegion x (q.lo + i)) (x.onC (fun c => { c with clrs := [] }))).sts 0x2008 1, some q.job) := by
  have hm := foldl_clearRegion_moved q.lo (List.range (q.hi - q.lo)) (x := x.onC (fun c => { c with clrs := [] })) hc
  generalize hy : (List.range (q.hi - q.lo)).foldl (fun x i => clearRegion x (q.lo + i)) (x.onC (fun c => { c with clrs := [] })) = y at hm ⊢
  have hyw : ∀ w ∈ y.c.wrq, w.ph ≠ .held := by rw [hm.wrq]; exact hw
  have hyr : ∀ r ∈ y.c.rdq, r.ph ≠ .held := by rw [hm.rdq]; exact hr
  have hpop : removeFirst (fun k => k == q) x.c.clrs = [] := by simp [h1, removeFirst]
  have hx : x.onC (fun c => { c with clrs := removeFirst (fun k => k == q) c.clrs }) = x.onC (fun c => { c with clrs := [] }) := by
    simp only [Cx.onC, hpop]
  have hfind : x.c.clrs.find? (clearReady x) = some q := by simp [h1, hq]
  unfold clearPoint
  simp only [hfind, hx, hy, dropHeldWr_of_none hyw, handleHeld_of_none hyw hyr]
  simp [List.range_succ, takeClaim_of_none hm.claims]

end Sys2Proof.Machine

/-! SUPPORT. Chapter 13, clears: the statement settled. -/

namespace Sys2Proof.Proofs
open Sys2Proof.Machine

/-- Settles O40: a clear takes its regions of the fresh map one by one; with nothing held or claimed its clear point does nothing more. -/
theorem clearsMakeRegionsFresh : Obligations.ClearsMakeRegionsFresh := by
  unfold Obligations.ClearsMakeRegionsFresh
  intro s n c k l q hup x
  refine ⟨fun hj hlk => gives_crs (exec_clearRequest n c s) hup (fun t _ ht hz _ => ?_), fun h1 hq hc hw hr => gives_cmd (exec_clearPoint n c s) ?_⟩
  · have harrive : clearArrive x = (x.onZ (fun z => { z with jclr := modV z.jclr x.n (fun _ => l) })).onC (fun v => { v with
        clrs := v.clrs ++ [⟨k.job, k.lo, k.hi, v.ord⟩]
        wrq := v.wrq.map (fun w => if w.ph == .queued && decide (k.lo ≤ w.line >>> 16 ∧ w.line >>> 16 < k.hi) then { w with clr := true } else w) }) := by
      unfold clearArrive
      rw [show x.z.jclr[x.n] = k :: l from hj]
      exact if_neg hlk
    rw [hz.jclr, ht, show clearArrive (crsBefore s n c) = _ from harrive]
    refine ⟨modV_same .., rfl, rfl, fun w hmem hph hlo hhi => ?_⟩
    obtain ⟨w', _, rfl⟩ := List.mem_map.1 hmem
    by_cases hhit : (w'.ph == .queued && decide (k.lo ≤ w'.line >>> 16 ∧ w'.line >>> 16 < k.hi)) = true
    · rw [if_pos hhit]
    · rw [if_neg hhit] at hph hlo hhi
      exact absurd (by simp [hph, hlo, hhi]) hhit
  · have hm := (foldl_clearRegion_moved q.lo (List.range (q.hi - q.lo)) (x := x.onC (fun c => { c with clrs := [] })) hc).sts 0x2008 1
    have hp := clearPoint_alone h1 hq hc hw hr
    rw [ifUp_run (by simpa [before] using hup)]
    have hcrs : (closeCmd (before s n) (clearPointAt (before s n) c)).crs[c] = (clearPoint x).1.c := by
      rw [closeCmd_crs]
      unfold clearPointAt
      simp only
      split <;> exact modV_same ..
    simp only [hcrs, hp]
    exact ⟨hm.clrs, hm.dflt, hm.ex, hm.wrq, hm.rdq⟩

end Sys2Proof.Proofs

/-! SUPPORT. Chapter 8 (R152, R156): what placing a chain says of its stamps, and what committing it changes. -/

namespace Sys2Proof.Machine

/-! ### Placed chains -/

theorem firstLegal_bounds {t : Tim} {cal other : List Cmd} {b : Cmd} {n lo s : Nat} (h : firstLegal t cal other b n lo = some s) : lo ≤ s ∧ s < lo + n := by
  induction n generalizing lo with
  | zero => simp [firstLegal] at h
  | succ n ih =>
    unfold firstLegal at h
    split at h
    · cases h; omega
    · have := ih h; omega

/-- `b` is the command `q` of a chain, placed at or above `q`'s bound and not above `lim`. -/
structure PlacedAt (lim : Nat) (q : Cmd × Nat) (b : Cmd) : Prop where
  cmd : b = { q.1 with stamp := b.stamp }
  lo : q.2 ≤ b.stamp
  hi : b.stamp ≤ lim

theorem placeChain_placed {t : Tim} {other : List Cmd} {lim : Nat} {items : List (Cmd × Nat)} {cal : List Cmd} {act prev : Nat} {l : List Cmd}
    (h : placeChain t other lim cal act items prev = some l) : List.Forall₂ (PlacedAt lim) items l := by
  induction items generalizing cal act prev l with
  | nil =>
    cases h
    exact .nil
  | cons q items ih =>
    obtain ⟨b, base⟩ := q
    unfold placeChain at h
    simp only at h
    split at h
    · cases h
    · next s hs =>
      obtain ⟨r, hr, rfl⟩ := Option.map_eq_some_iff.1 h
      have hb := firstLegal_bounds hs
      exact .cons ⟨rfl, le_trans (le_max_left ..) hb.1, by simp only; omega⟩ (ih hr)

/-- `p` is the command `q.1` of a chain in the flit of cycle `q.2`, its stamp inside the window of that cycle (R152, R156). -/
structure InWindow (x : Cx) (floor : Nat) (q p : Cmd × Nat) : Prop where
  cmd : p.1 = { q.1 with stamp := p.1.stamp }
  cyc : p.2 = q.2
  base : baseOf x p.2 ≤ p.1.stamp
  span : p.1.stamp ≤ x.dck + 2047
  floor : floor ≤ p.1.stamp

/-- The commands of a placed chain, with their cycles. -/
theorem inWindow_zip {x : Cx} {floor lim : Nat} {f : Cmd × Nat → Nat} (hlim : lim = x.dck + 2047)
    (hf : ∀ q, baseOf x q.2 ≤ f q ∧ floor ≤ f q) : ∀ {bs : List Cmd} {cys : List Nat} {l : List Cmd},
    List.Forall₂ (PlacedAt lim) ((bs.zip cys).map (fun q => (q.1, f q))) l → List.Forall₂ (InWindow x floor) (bs.zip cys) (l.zip cys)
  | [], _, _, h => by cases h; exact .nil
  | _ :: _, [], _, h => by cases h; exact .nil
  | b :: bs, cy :: cys, _, h => by
    cases h with
    | cons hd tl =>
      exact .cons ⟨hd.cmd, rfl, le_trans (hf (b, cy)).1 hd.lo, hlim ▸ hd.hi, le_trans (hf (b, cy)).2 hd.lo⟩ (inWindow_zip hlim hf tl)

theorem tryChain_inWindow {x : Cx} {sc : Fin 2} {bs : List Cmd} {cys : List Nat} {floor : Nat} {hz : Option Nat} {l : List (Cmd × Nat)}
    (h : tryChain x sc bs cys floor hz = some l) : List.Forall₂ (InWindow x floor) (bs.zip cys) l := by
  unfold tryChain at h
  split at h
  · cases h
  simp only at h
  split at h
  · cases h
  next l' hl =>
  obtain ⟨-, he⟩ := Option.ite_none_right_eq_some.1 h
  cases he
  exact inWindow_zip rfl (fun q => ⟨le_trans (le_max_left ..) (le_trans (le_max_left ..) (le_max_left ..)),
    le_trans (le_max_left floor _) (le_trans (le_max_right _ _) (le_max_left ..))⟩) (placeChain_placed hl)

theorem shareSlots_mem {x : Cx} {o : Fin 2} {cys : List Nat} {want cy : Nat} (h : cy ∈ shareSlots x o cys want) : cy ∈ cys := by
  induction cys generalizing want with
  | nil => simp [shareSlots] at h
  | cons a l ih =>
    rcases List.mem_append.1 h with h | h
    · exact (List.eq_of_mem_replicate h).symm ▸ List.mem_cons_self ..
    · exact List.mem_cons_of_mem _ (ih h)

theorem takeSlots_some {x : Cx} {s : Fin 2} {cys : List Nat} {k : Nat} {l : List Nat} (h : takeSlots x s cys k = some l) :
    l.length = k ∧ ∀ cy ∈ l, cy ∈ cys := by
  unfold takeSlots at h
  obtain ⟨hl, he⟩ := Option.ite_none_right_eq_some.1 h
  cases he
  exact ⟨hl, fun cy hcy => shareSlots_mem (List.mem_of_mem_take hcy)⟩

/-- The count does not fall from one cycle to a later one. -/
theorem dckIn_mono (x : Cx) {a b : Nat} (h : a ≤ b) : dckIn x a ≤ dckIn x b := by
  unfold dckIn DckCnt.at
  split
  · exact le_refl _
  · have hs : x.c.dck.acc + (a - x.c.dck.cyc) * x.c.dck.num ≤ x.c.dck.acc + (b - x.c.dck.cyc) * x.c.dck.num :=
      Nat.add_le_add_left (Nat.mul_le_mul_right _ (Nat.sub_le_sub_right h _)) _
    have hd := Nat.div_le_div_right (c := x.c.dck.den) hs
    exact Int.toNat_le_toNat (by simp only; omega)

/-- A placed command of a chain without line data. -/
structure Placed (x : Cx) (b : Cmd) (p : Cmd × Nat) : Prop where
  cmd : p.1 = { b with stamp := p.1.stamp }
  now : x.dck ≤ p.1.stamp

theorem placed_of_inWindow {x : Cx} {floor : Nat} : ∀ {bs : List Cmd} {cys : List Nat} {l : List (Cmd × Nat)}, cys.length = bs.length →
    (∀ cy ∈ cys, x.cyc ≤ cy) → List.Forall₂ (InWindow x floor) (bs.zip cys) l → List.Forall₂ (Placed x) bs l
  | [], [], _, _, _, h => by cases h; exact .nil
  | b :: bs, cy :: cys, _, hl, hc, h => by
    cases h with
    | cons hd tl =>
      refine .cons ⟨hd.cmd, le_trans (le_trans (dckIn_mono x ?_) (Nat.le_add_right _ (cureDck x))) hd.base⟩
        (placed_of_inWindow (by simpa using hl) (fun k hk => hc k (List.mem_cons_of_mem _ hk)) tl)
      exact hd.cyc ▸ hc cy (List.mem_cons_self ..)

theorem tryCmds_placed {x : Cx} {s : Fin 2} {bs : List Cmd} {floor : Nat} {hz : Option Nat} {l : List (Cmd × Nat)}
    (h : tryCmds x s bs floor hz = some l) : List.Forall₂ (Placed x) bs l := by
  unfold tryCmds at h
  split at h
  · cases h
  · next cys hcys =>
    obtain ⟨hl, hm⟩ := takeSlots_some hcys
    refine placed_of_inWindow hl (fun cy hcy => ?_) (tryChain_inWindow h)
    have := hm cy hcy
    simp only [cmdCycs, List.mem_cons, List.not_mem_nil, or_false] at this
    omega

/-! ### Commitments -/

theorem foldl_modBank_eq (g : BankSt → BankSt) (l : List Nat) (c : CourseSt) :
    l.foldl (fun c k => modBank c k g) c = { c with banks := (l.foldl (fun c k => modBank c k g) c).banks } := by
  induction l generalizing c with
  | nil => rfl
  | cons a l ih =>
    exact ih (modBank c a g)

/-- A commitment changes the bank slots alone of what Table 8-3 speaks of. -/
theorem noteBank_eq (t : Tim) (c : CourseSt) (b : Cmd) : noteBank t c b = { c with banks := (noteBank t c b).banks } := by
  unfold noteBank
  simp only
  split
  · rfl
  · split
    · rfl
    · split
      · exact foldl_modBank_eq _ _ c
      · split
        · exact foldl_modBank_eq _ _ c
        · rfl

theorem foldl_modBank_banks (g : BankSt → BankSt) (l : List Nat) {c d : CourseSt} (h : c.banks = d.banks) :
    (l.foldl (fun c k => modBank c k g) c).banks = (l.foldl (fun c k => modBank c k g) d).banks := by
  induction l generalizing c d with
  | nil => exact h
  | cons a l ih => exact ih (by simp only [modBank, bankAt, h])

theorem noteBank_banks (t : Tim) (b : Cmd) {c d : CourseSt} (h : c.banks = d.banks) : (noteBank t c b).banks = (noteBank t d b).banks := by
  unfold noteBank
  simp only
  split
  · simp only [modBank, bankAt, h]
  · split
    · simp only [modBank, bankAt, h]
    · split
      · exact foldl_modBank_banks _ _ h
      · split
        · exact foldl_modBank_banks _ _ h
        · exact h

/-- The power-down states after a commitment. -/
def pdAfter (x : Cx) (b : Cmd) (pd : List (Nat × Nat)) : List (Nat × Nat) :=
  if isPwr b 0 then (b.sub, prankOf x b.lr) :: pd.filter (fun p => p != (b.sub, prankOf x b.lr))
  else if isPwr b 1 then pd.filter (fun p => p != (b.sub, prankOf x b.lr)) else pd

theorem notePd_eq (x : Cx) (b : Cmd) (c : CourseSt) : notePd x b c = { c with pd := pdAfter x b c.pd } := by
  unfold notePd pdAfter
  split
  · rfl
  · split <;> rfl

/-- From `x` to `y` the course may differ, and of the rest counters and the trace. -/
structure NotedOnly (x y : Cx) : Prop where
  n : y.n = x.n
  now : y.now = x.now
  cinfo : y.z.cinfo = x.z.cinfo

namespace NotedOnly

theorem refl (x : Cx) : NotedOnly x x := ⟨rfl, rfl, rfl⟩

theorem trans {x y w : Cx} (h : NotedOnly x y) (k : NotedOnly y w) : NotedOnly x w :=
  ⟨k.n.trans h.n, k.now.trans h.now, k.cinfo.trans h.cinfo⟩

theorem ite {p : Prop} [Decidable p] {x y w : Cx} (h : NotedOnly x y) (k : NotedOnly x w) : NotedOnly x (if p then y else w) :=
  iteInduction (fun _ => h) (fun _ => k)

theorem foldl {α : Type} {f : Cx → α → Cx} (hf : ∀ x a, NotedOnly x (f x a)) (l : List α) (x : Cx) : NotedOnly x (l.foldl f x) := by
  induction l generalizing x with
  | nil => exact .refl x
  | cons a l ih => exact (hf x a).trans (ih (f x a))

theorem cnt {x y : Cx} (h : NotedOnly x y) (o : Nat) : NotedOnly x (y.cnt o) :=
  ⟨(Cx.cnt_n ..).trans h.n, (Cx.cnt_now ..).trans h.now, (Cx.cnt_z_cinfo ..).trans h.cinfo⟩

theorem sts {x y : Cx} (h : NotedOnly x y) (o b : Nat) : NotedOnly x (y.sts o b) :=
  ⟨(Cx.sts_n ..).trans h.n, (Cx.sts_now ..).trans h.now, (Cx.sts_z_cinfo ..).trans h.cinfo⟩

theorem onC {x y : Cx} (h : NotedOnly x y) (f : CourseSt → CourseSt) : NotedOnly x (y.onC f) := ⟨h.n, h.now, h.cinfo⟩

theorem onZ {x y : Cx} (h : NotedOnly x y) {f : Zmc → Zmc} (hf : (f y.z).cinfo = y.z.cinfo) : NotedOnly x (y.onZ f) :=
  ⟨h.n, h.now, hf.trans h.cinfo⟩

/-- The LCK cycle is that of before. -/
theorem cyc {x y : Cx} (h : NotedOnly x y) : y.cyc = x.cyc := by
  obtain ⟨hn, ht, hi⟩ := h
  simp only [Cx.cyc, Cx.lck, Cx.info, hn, ht, hi]

end NotedOnly

theorem tracePump_cinfo (now : Nat) (h : Fin 2) (k : Nat) (z : Zmc) : (tracePump now h k z).cinfo = z.cinfo := by
  induction k generalizing z with
  | zero => rfl
  | succ k ih =>
    have hput (z : Zmc) (e : TraceEnt) : (tracePut z now e).cinfo = z.cinfo := by
      unfold tracePut
      simp only
      generalize hw : secBase + 0x2050 = o
      exact iteInduction (motive := fun y : Zmc => y.cinfo = z.cinfo) (fun _ => (rgOnly_bump ..).cinfo) (fun _ => rfl)
    unfold tracePump
    split
    · rfl
    · exact iteInduction (motive := fun y : Zmc => y.cinfo = z.cinfo) (fun _ => rfl) (fun _ => (ih _).trans (hput ..))

theorem traceCmd_noted (x : Cx) (b : Cmd) (r : Bool) : NotedOnly x (traceCmd x b r) := by
  unfold traceCmd
  generalize secBase + 0x2050 = o
  refine .ite (.onZ (.refl x) ?_) (.refl x)
  refine iteInduction (motive := fun y : Zmc => y.cinfo = x.z.cinfo) (fun _ => ?_) (fun _ => ?_)
  · exact ((rgOnly_bump ..).cinfo).trans (tracePump_cinfo ..)
  · exact tracePump_cinfo ..

theorem traceCmd_c (x : Cx) (b : Cmd) (r : Bool) : (traceCmd x b r).c = x.c := by
  unfold traceCmd
  exact iteInduction (motive := fun y : Cx => y.c = x.c) (fun _ => rfl) (fun _ => rfl)

theorem planPut_eq (x : Cx) (cy : Nat) (b : Cmd) : ∃ plan, planPut x cy b = x.onC (fun c => { c with plan := plan }) := by
  unfold planPut
  split
  · exact ⟨_, rfl⟩
  · exact ⟨_, rfl⟩

/-- The counters of a commitment (Tables 8-14, 9-8, 11-9). -/
def countCmd (x : Cx) (b : Cmd) (rebuilt : Bool) : Cx :=
  let x := if isRd b.op then x.cnt 0x1200 else if isWrOp b.op then x.cnt 0x1208 else if b.op = 9 then x.cnt 0x1480 else if b.op = 10 then x.cnt 0x1488 else x
  if rebuilt then (if b.op = 9 ∨ b.op = 10 then (x.cnt 0x0C50).cnt 0x14A0 else x.cnt 0x0C50) else x

theorem countCmd_noted (x : Cx) (b : Cmd) (r : Bool) : NotedOnly x (countCmd x b r) := by
  have h : NotedOnly x (if isRd b.op then x.cnt 0x1200 else if isWrOp b.op then x.cnt 0x1208 else if b.op = 9 then x.cnt 0x1480
      else if b.op = 10 then x.cnt 0x1488 else x) :=
    .ite (.cnt (.refl x) _) (.ite (.cnt (.refl x) _) (.ite (.cnt (.refl x) _) (.ite (.cnt (.refl x) _) (.refl x))))
  exact .ite (.ite ((h.cnt _).cnt _) (h.cnt _)) h

theorem countCmd_c (x : Cx) (b : Cmd) (r : Bool) : (countCmd x b r).c = x.c := by
  have m (o : Nat) {y : Cx} (h : y.c = x.c) : (y.cnt o).c = x.c := (Cx.cnt_c ..).trans h
  have i {p : Prop} [Decidable p] {y w : Cx} (h : y.c = x.c) (k : w.c = x.c) : (if p then y else w).c = x.c :=
    iteInduction (motive := fun v : Cx => v.c = x.c) (fun _ => h) (fun _ => k)
  have h := i (p := isRd b.op = true) (m 0x1200 rfl) (i (p := isWrOp b.op = true) (m 0x1208 rfl) (i (p := b.op = 9) (m 0x1480 rfl) (i (p := b.op = 10) (m 0x1488 rfl) rfl)))
  exact i (i (m _ (m _ h)) (m _ h)) h

/-- A command as it is committed: with the order and the epoch it has taken. -/
def committedCmd (x : Cx) (b : Cmd) : Cmd := { b with epoch := x.c.epoch[toSub b.sub], ord := x.c.ord }

/-- The calendar and the retry buffer of a command's subchannel, and the outstanding reads, once it is committed. -/
def commitLists (x : Cx) (b : Cmd) : Cx :=
  let act := (bankAt x.c (bankKey b.sub b.lr b.bg b.bk)).act
  x.onC (fun c => { c with
    ord := c.ord + 1
    cal := modV c.cal (toSub b.sub) (fun l => calOf (timOf x) act (committedCmd x b) ++ l)
    retry := modV c.retry (toSub b.sub) (fun l => l ++ [committedCmd x b])
    outRd := if isRd b.op ∨ b.op = 12 then c.outRd ++ [committedCmd x b] else c.outRd })

/-- The state of a committed command's bank and rank. -/
def commitBank (x : Cx) (t : Tim) (b : Cmd) : Cx :=
  let y := x.onC (fun c => notePd x b (noteBank t c b))
  y.onC (fun c => { c with
    lastCmd := tblPut c.lastCmd (4 * (toSub b.sub).val + prankOf y b.lr) (max b.stamp ((tblFind c.lastCmd (4 * (toSub b.sub).val + prankOf y b.lr)).getD 0)) })

theorem commitCmd_parts (x : Cx) (b : Cmd) (cy : Nat) (r : Bool) : commitCmd x b cy r =
    traceCmd (countCmd (planPut (commitBank (commitLists x b) (timOf x) (committedCmd x b)) cy (committedCmd x b)) (committedCmd x b) r) (committedCmd x b) r := rfl

theorem commitBank_eq (x : Cx) (t : Tim) (b : Cmd) : ∃ lastCmd, commitBank x t b =
    x.onC (fun c => { c with banks := (noteBank t x.c b).banks, pd := pdAfter x b x.c.pd, lastCmd := lastCmd }) := by
  have h : notePd x b (noteBank t x.c b) = { x.c with banks := (noteBank t x.c b).banks, pd := pdAfter x b x.c.pd } :=
    (notePd_eq ..).trans (congrArg (fun c : CourseSt => { c with pd := pdAfter x b c.pd }) (noteBank_eq t x.c b))
  unfold commitBank
  rw [show x.onC (fun c => notePd x b (noteBank t c b)) = x.onC (fun c => { c with banks := (noteBank t x.c b).banks, pd := pdAfter x b x.c.pd }) from
    congrArg (fun c : CourseSt => { x with c := c }) h]
  exact ⟨_, rfl⟩

theorem commitLists_eq (x : Cx) (b : Cmd) : ∃ cal outRd, commitLists x b = x.onC (fun c => { c with
    ord := c.ord + 1, cal := cal, retry := modV x.c.retry (toSub b.sub) (fun l => l ++ [committedCmd x b]), outRd := outRd }) := ⟨_, _, rfl⟩

/-- What a commitment changes of the course: the calendar and the retry buffer of the command's subchannel, the outstanding reads, the bank
slots, the power-down states, the last command of its rank and the plan. -/
theorem commitCmd_eq (x : Cx) (b : Cmd) (cy : Nat) (r : Bool) : NotedOnly x (commitCmd x b cy r) ∧ ∃ cal outRd lastCmd plan,
    (commitCmd x b cy r).c = { x.c with
      ord := x.c.ord + 1
      cal := cal
      retry := modV x.c.retry (toSub b.sub) (fun l => l ++ [committedCmd x b])
      outRd := outRd
      banks := (noteBank (timOf x) x.c (committedCmd x b)).banks
      pd := pdAfter x (committedCmd x b) x.c.pd
      lastCmd := lastCmd
      plan := plan } := by
  obtain ⟨cal, outRd, hl⟩ := commitLists_eq x b
  obtain ⟨lastCmd, hb⟩ := commitBank_eq (commitLists x b) (timOf x) (committedCmd x b)
  obtain ⟨plan, hp⟩ := planPut_eq (commitBank (commitLists x b) (timOf x) (committedCmd x b)) cy (committedCmd x b)
  rw [commitCmd_parts, hp, hb, noteBank_banks (timOf x) (committedCmd x b) (d := x.c) (by rw [hl]; rfl)]
  refine ⟨(NotedOnly.trans ?_ (countCmd_noted _ _ _)).trans (traceCmd_noted _ _ _), cal, outRd, lastCmd, plan, ?_⟩
  · rw [hl]
    exact ⟨rfl, rfl, rfl⟩
  · rw [traceCmd_c, countCmd_c, hl]
    rfl

end Sys2Proof.Machine

/-! SUPPORT. Chapters 8 and 15 (R157, R161, R163, R166, R319): idle banks, ranks and courses, and writes that have grown old. -/

namespace Sys2Proof.Machine

/-- `d` differs from `c` at most in what commitments change. -/
def CommitOnly (c d : CourseSt) : Prop := ∃ ord cal retry outRd banks pd lastCmd plan,
  d = { c with ord := ord, cal := cal, retry := retry, outRd := outRd, banks := banks, pd := pd, lastCmd := lastCmd, plan := plan }

namespace CommitOnly

theorem refl (c : CourseSt) : CommitOnly c c := ⟨_, _, _, _, _, _, _, _, rfl⟩

theorem trans {c d e : CourseSt} (h : CommitOnly c d) (k : CommitOnly d e) : CommitOnly c e := by
  obtain ⟨_, _, _, _, _, _, _, _, rfl⟩ := h
  obtain ⟨_, _, _, _, _, _, _, _, rfl⟩ := k
  exact ⟨_, _, _, _, _, _, _, _, rfl⟩

variable {c d : CourseSt}

theorem rdq (h : CommitOnly c d) : d.rdq = c.rdq := by obtain ⟨_, _, _, _, _, _, _, _, rfl⟩ := h; rfl
theorem wrq (h : CommitOnly c d) : d.wrq = c.wrq := by obtain ⟨_, _, _, _, _, _, _, _, rfl⟩ := h; rfl
theorem reqAt (h : CommitOnly c d) : d.reqAt = c.reqAt := by obtain ⟨_, _, _, _, _, _, _, _, rfl⟩ := h; rfl
theorem othAt (h : CommitOnly c d) : d.othAt = c.othAt := by obtain ⟨_, _, _, _, _, _, _, _, rfl⟩ := h; rfl
theorem claims (h : CommitOnly c d) : d.claims = c.claims := by obtain ⟨_, _, _, _, _, _, _, _, rfl⟩ := h; rfl
theorem redo (h : CommitOnly c d) : d.redo = c.redo := by obtain ⟨_, _, _, _, _, _, _, _, rfl⟩ := h; rfl
theorem sr (h : CommitOnly c d) : d.sr = c.sr := by obtain ⟨_, _, _, _, _, _, _, _, rfl⟩ := h; rfl
theorem rb (h : CommitOnly c d) : d.rb = c.rb := by obtain ⟨_, _, _, _, _, _, _, _, rfl⟩ := h; rfl

end CommitOnly

theorem commitCmd_only (x : Cx) (b : Cmd) (cy : Nat) (r : Bool) : CommitOnly x.c (commitCmd x b cy r).c := by
  obtain ⟨-, cal, outRd, lastCmd, plan, h⟩ := commitCmd_eq x b cy r
  exact ⟨x.c.ord + 1, cal, modV x.c.retry (toSub b.sub) (fun l => l ++ [committedCmd x b]), outRd,
    (noteBank (timOf x) x.c (committedCmd x b)).banks, pdAfter x (committedCmd x b) x.c.pd, lastCmd, plan, h⟩

theorem commitAll_only (p : List (Cmd × Nat)) (r : Bool) (x : Cx) : CommitOnly x.c (commitAll x p r).c := by
  induction p generalizing x with
  | nil => exact .refl _
  | cons q p ih => exact (commitCmd_only x q.1 q.2 r).trans (ih _)

theorem commitCmd_noted (x : Cx) (b : Cmd) (cy : Nat) (r : Bool) : NotedOnly x (commitCmd x b cy r) := And.left (commitCmd_eq x b cy r)

theorem commitAll_noted (p : List (Cmd × Nat)) (r : Bool) (x : Cx) : NotedOnly x (commitAll x p r) := by
  induction p generalizing x with
  | nil => exact .refl _
  | cons q p ih => exact (commitCmd_noted x q.1 q.2 r).trans (ih _)

theorem commitCmd_banks (x : Cx) (b : Cmd) (cy : Nat) (r : Bool) :
    (commitCmd x b cy r).c.banks = (noteBank (timOf x) x.c (committedCmd x b)).banks := by
  obtain ⟨-, _, _, _, _, h⟩ := commitCmd_eq x b cy r
  rw [h]

theorem commitCmd_pd (x : Cx) (b : Cmd) (cy : Nat) (r : Bool) : (commitCmd x b cy r).c.pd = pdAfter x (committedCmd x b) x.c.pd := by
  obtain ⟨-, _, _, _, _, h⟩ := commitCmd_eq x b cy r
  rw [h]

/-- A power-down command changes no bank. -/
theorem commitCmd_banks_of_pwr {x : Cx} {b : Cmd} (h : b.op = 14) (cy : Nat) (r : Bool) : (commitCmd x b cy r).c.banks = x.c.banks := by
  rw [commitCmd_banks]
  simp [noteBank, committedCmd, h, isRd, isWrOp, isPre]

/-- A PREpb covers the one bank it names. -/
theorem preKeys_of_pb {b : Cmd} (h : b.op = 6) (hg : b.bg < 8) (hk : b.bk < 4) : preKeys b = [bankKey b.sub b.lr b.bg b.bk] := by
  have hf : ∀ (g : Fin 8) (k : Fin 4), (List.range 32).filter (fun i => g.val == i / 4 && k.val == i % 4) = [4 * g.val + k.val] := by decide
  have hfm : preKeys b = ((List.range 32).filter (fun i => b.bg == i / 4 && b.bk == i % 4)).map (fun i => bankKey b.sub b.lr (i / 4) (i % 4)) := by
    rw [← List.filterMap_eq_map', List.filterMap_filter]
    unfold preKeys preCovers
    simp [h, opIpre]
  rw [hfm, hf ⟨b.bg, hg⟩ ⟨b.bk, hk⟩]
  simp only [List.map_cons, List.map_nil, List.cons.injEq, and_true]
  congr 1 <;> omega

theorem noteBank_of_pre {b : Cmd} (h : b.op = 6) (t : Tim) (c : CourseSt) :
    noteBank t c b = (preKeys b).foldl (fun c k => modBank c k (fun s => { s with open_ := none, hits := [], pre := b.stamp })) c := by
  unfold noteBank
  simp [h, isRd, isWrOp, isPre]

/-- A PREpb closes its bank and leaves every other one. -/
theorem commitCmd_pre {x : Cx} {b : Cmd} (h : b.op = 6) (hg : b.bg < 8) (hk : b.bk < 4) (hs : b.stamp ≠ 0) (cy : Nat) (r : Bool) :
    (bankAt (commitCmd x b cy r).c (bankKey b.sub b.lr b.bg b.bk)).open_ = none ∧
    ∀ k, k ≠ bankKey b.sub b.lr b.bg b.bk → bankAt (commitCmd x b cy r).c k = bankAt x.c k := by
  have hb : (commitCmd x b cy r).c.banks = tblStore {} x.c.banks (bankKey b.sub b.lr b.bg b.bk)
      { bankAt x.c (bankKey b.sub b.lr b.bg b.bk) with open_ := none, hits := [], pre := b.stamp } := by
    have hk : preKeys (committedCmd x b) = [bankKey b.sub b.lr b.bg b.bk] := preKeys_of_pb h hg hk
    rw [commitCmd_banks, noteBank_of_pre (b := committedCmd x b) h, hk]
    rfl
  unfold bankAt
  refine ⟨?_, fun k hne => by rw [hb, tblGet_store_ne _ hne]⟩
  rw [hb, tblStore, if_neg (fun he => hs (congrArg BankSt.pre he)), tblGet, tblFind_put_eq]
  rfl

theorem forall₂_append_left {α β : Type} {R : α → β → Prop} {l₁ l₂ : List α} {p : List β} (h : List.Forall₂ R (l₁ ++ l₂) p) :
    ∃ p₁ p₂, List.Forall₂ R l₁ p₁ ∧ List.Forall₂ R l₂ p₂ ∧ p = p₁ ++ p₂ :=
  ⟨_, _, (List.forall₂_take_append _ _ _ h.flip).flip, (List.forall₂_drop_append _ _ _ h.flip).flip, (List.take_append_drop ..).symm⟩

theorem commitAll_concat (x : Cx) (l : List (Cmd × Nat)) (q : Cmd × Nat) (r : Bool) : commitAll x (l ++ [q]) r = commitCmd (commitAll x l r) q.1 q.2 r :=
  List.foldl_append ..

/-- A PDX, where the rank is in power-down, changes no bank. -/
theorem commitAll_pdx_banks {x y : Cx} {s lr : Nat} {p : List (Cmd × Nat)} (h : List.Forall₂ (Placed y) (pdxFor x s lr) p) (r : Bool) (w : Cx) :
    (commitAll w p r).c.banks = w.c.banks := by
  unfold pdxFor at h
  split at h
  · cases h with
    | cons hd tl =>
      cases tl
      exact commitCmd_banks_of_pwr (by rw [hd.cmd]) _ _
  · cases h
    rfl

/-- An idle open bank that nothing of a higher tier precedes: its chain is committed (R161). -/
theorem pageIdle_commits {x : Cx} {k : Nat} {p : List (Cmd × Nat)} (hok : commitOk x = true) (hen : x.f 0x1000 19 10 ≠ 0)
    (ho : (bankAt x.c k).open_.isSome = true) (hrb : x.c.rb[toSub (k / 256)].on = false) (hsr : x.c.sr.st < 2)
    (hat : x.c.othAt[toSub (k / 256)] ≠ some x.cyc) (hidle : (bankAt x.c k).lastCol + x.f 0x1000 19 10 * 8 ≤ x.dck) (hq : onBank (reqsOf x.c) k = [])
    (hbl : blocked x (toSub (k / 256)).val (k / 32 % 8) = false) (hoth : othChain x (toSub (k / 256)) = none)
    (hp : tryCmds x (toSub (k / 256)) (pdxFor x (toSub (k / 256)).val (k / 32 % 8) ++
      [{ op := 6, sub := (toSub (k / 256)).val, lr := k / 32 % 8, bg := k / 4 % 8, bk := k % 4 }]) 0 (some (x.f 0x1010 9 0)) = some p) :
    pageIdle x k = (commitAll x p false).onC (fun c => { c with othAt := modV c.othAt (toSub (k / 256)) (fun _ => some x.cyc) }) := by
  have hopen : (bankAt x.c k).open_.isNone = false := by
    rw [← Option.not_isSome, ho]; rfl
  unfold pageIdle
  simp only
  rw [if_neg, hp]
  rintro (h | h | h | h | h | h | h | h | h | h)
  · simp [hok] at h
  · exact hen h
  · simp [hopen] at h
  · exact absurd (hrb.symm.trans h) (by decide)
  · omega
  · exact hat h
  · omega
  · exact h hq
  · simp [hbl] at h
  · simp [hoth] at h

/-- An idle rank that nothing of a higher tier precedes: its PDE is committed (R166). -/
theorem pdIdle_commits {x : Cx} {s : Fin 2} {r : Nat} {p : List (Cmd × Nat)} (hok : commitOk x = true) (hen : x.f 0x1000 20 20 = 1)
    (hr : r < pranks x) (hpd : x.c.pd.contains (s.val, r) = false) (hrb : x.c.rb[s].on = false) (hsr : x.c.sr.st = 0) (hat : x.c.othAt[s] ≠ some x.cyc)
    (hq : (reqsOf x.c).any (fun q => q.at_.sub == s.val && prankOf x q.at_.lr == r) = false)
    (hcal : ∀ e ∈ x.c.cal[s], prankOf x e.lr = r → (isRd e.op || isWrOp e.op) = true → e.stamp ≤ x.dck)
    (htgt : ∀ i ∈ tgtsOf x s, prankOf x (i % 8) = r → x.c.tgts[toFin 16 (by decide) i].owed = 0)
    (hidle : (tblFind x.c.lastCmd (4 * s.val + r)).getD 0 + x.f 0x1010 25 16 * 64 ≤ x.dck) (hoth : othChain x s = none)
    (hp : tryCmds x s [{ op := 14, sub := s.val, lr := r, arg := 0 }] 0 (some (x.f 0x1010 9 0)) = some p) :
    pdIdle x s r = ((commitAll x p false).onC (fun c => { c with othAt := modV c.othAt s (fun _ => some x.cyc) })).cnt 0x1250 := by
  have hpr : ∀ lr, lr % max 1 (timOf x).pr = prankOf x lr := fun lr => by
    rw [prankOf, show (timOf x).pr = pranks x from rfl, max_eq_right (show 1 ≤ pranks x from le_max_left ..)]
  have hany : ((x.c.cal[s]).filter (fun e => e.lr % max 1 (timOf x).pr == r)).any (fun e => (isRd e.op || isWrOp e.op) && decide (x.dck < e.stamp)) = false := by
    simp only [List.any_eq_false, List.mem_filter, beq_iff_eq, Bool.and_eq_true, decide_eq_true_eq, hpr]
    rintro e ⟨he, hre⟩ ⟨hop, hlt⟩
    exact absurd (hcal e he hre hop) (by omega)
  have howed : (tgtsOf x s).any (fun i => prankOf x (i % 8) == r && decide (1 ≤ x.c.tgts[toFin 16 (by decide) i].owed)) = false := by
    simp only [List.any_eq_false, Bool.and_eq_true, beq_iff_eq, decide_eq_true_eq]
    rintro i hi ⟨hre, hle⟩
    exact absurd (htgt i hi hre) (by omega)
  unfold pdIdle
  simp only
  rw [if_neg, hp]
  rintro (h | h | h | h | h | h | h | h | h | h | h | h)
  · simp [hok] at h
  · omega
  · omega
  · exact absurd (hpd.symm.trans h) (by decide)
  · exact absurd (hrb.symm.trans h) (by decide)
  · exact h hsr
  · exact hat h
  · exact absurd h (by rw [hq]; decide)
  · exact absurd h (by rw [howed]; decide)
  · exact absurd h (by rw [hany]; decide)
  · omega
  · simp [hoth] at h

end Sys2Proof.Machine

/-! SUPPORT. Chapter 8, the timers of a course: the statement settled. -/

namespace Sys2Proof.Proofs
open Sys2Proof.Machine

theorem bankKey_of_slot {k : Nat} (h : k < 512) : bankKey (toSub (k / 256)).val (k / 32 % 8) (k / 4 % 8) (k % 4) = k := by
  have hs : (toSub (k / 256)).val = k / 256 := by
    rw [toSub, toFin, dif_pos (by omega)]
  unfold bankKey
  omega

/-- Settles O42: the chain of a timer has room in the window, so the timer commits it; its stamp is not 0, as dck_now is past the bank's last column
command. -/
theorem idleTimers : Obligations.IdleTimers := by
  unfold Obligations.IdleTimers
  refine ⟨?_, ?_⟩
  · intro s n c bank sc rank p hup x b sb lr
    refine ⟨fun hok hen ho hrb hsr hat hidle hq hbl hoth hp => gives_crs (exec_pageIdleTimeout n c bank s) hup (fun t _ ht _ _ => ?_),
      fun hok hen hr hpd hrb hsr hat hq hcal htgt hidle hoth hp => gives_crs (exec_pdIdleEntry n c sc rank s) hup (fun t _ ht _ _ => ?_)⟩
    · have he := pageIdle_commits hok hen ho hrb hsr hat hidle hq hbl hoth hp
      obtain ⟨p1, p2, h1, h2, rfl⟩ := forall₂_append_left (tryCmds_placed hp)
      cases h2 with
      | @cons _ q _ _ hd tl =>
      cases tl
      have hk := bankKey_of_slot bank.isLt
      have hlater : q.1.stamp ≠ 0 := by
        have := hd.now
        omega
      obtain ⟨hopen, hother⟩ := commitCmd_pre (x := commitAll x p1 false) (b := q.1) (by rw [hd.cmd]) (by rw [hd.cmd]; exact Nat.mod_lt _ (by decide))
        (by rw [hd.cmd]; exact Nat.mod_lt _ (by decide)) hlater q.2 false
      have hbk : bankKey q.1.sub q.1.lr q.1.bg q.1.bk = bank.val := by
        rw [hd.cmd]; exact hk
      rw [hbk] at hopen hother
      have honly := commitAll_only (p1 ++ [q]) false x
      rw [commitAll_concat] at he honly
      rw [ht, show pageIdle (crsBefore s n c) bank.val = _ from he]
      refine ⟨hopen, fun k hne => (hother k hne).trans ?_, modV_same .., honly.rdq, honly.wrq⟩
      exact congrArg (fun m => tblGet {} m k) (commitAll_pdx_banks h1 false x)
    · have he := pdIdle_commits hok hen hr hpd hrb hsr hat hq hcal htgt hidle hoth hp
      cases tryCmds_placed hp with
      | @cons _ q _ _ hd tl =>
      cases tl
      have hpr : prankOf x rank.val = rank.val := Nat.mod_eq_of_lt hr
      have hpd' : x.c.pd.filter (fun v => v != (sc.val, rank.val)) = x.c.pd :=
        List.filter_eq_self.2 (fun v hv => bne_iff_ne.2 (fun h => by subst h; simp [hv] at hpd))
      rw [ht, show pdIdle (crsBefore s n c) sc rank.val = _ from he, Cx.cnt_c]
      refine ⟨(commitCmd_pd ..).trans ?_, modV_same .., commitCmd_banks_of_pwr (by rw [hd.cmd]) _ _⟩
      have hpde : isPwr (committedCmd x q.1) 0 = true := by
        rw [hd.cmd]; simp [isPwr, committedCmd]
      have hsub : (committedCmd x q.1).sub = sc.val := congrArg Cmd.sub hd.cmd
      have hlr : (committedCmd x q.1).lr = rank.val := congrArg Cmd.lr hd.cmd
      rw [pdAfter, if_pos hpde, hsub, hlr, hpr, hpd']
  · intro s n c hup x
    refine ⟨fun hu hm hage hold => gives_crs (exec_writeAgeDrain n c s) hup (fun t _ ht _ _ => ?_),
      fun hu hsr hr hw hem hde => gives_crs (exec_courseIdle n c s) hup (fun t _ ht _ _ => ?_)⟩
    · obtain ⟨w, hw, hph, hb⟩ := hold
      have he : writeAge x = (forceDrain x).sts 0x1038 0 := by
        unfold writeAge
        simp only
        refine if_neg ?_
        rintro (h | h | h | h)
        · exact hage h
        · refine Bool.eq_false_iff.1 h (List.any_eq_true.2 ⟨w, hw, ?_⟩)
          rcases hph with hph | hph <;> simp [hph, hb]
        · exact h hm
        · simp [hu] at h
      rw [ht, show writeAge (crsBefore s n c) = _ from he, Cx.sts_c, forceDrain_c]
    · rw [ht, courseIdle, if_pos ⟨hu, hsr, by rw [queuesEmpty, show (crsBefore s n c).c.rdq = [] from hr, show (crsBefore s n c).c.wrq = [] from hw]; rfl, by rw [Nat.max_def]; split <;> assumption⟩]
      rfl

end Sys2Proof.Proofs

/-! SUPPORT. Chapter 8 (R156, R157): one selection of a subchannel, where one read is the candidate. -/

namespace Sys2Proof.Machine

/-- From `x` to `y` the two queues, what the selector has served in the cycle, the claims (none), the reads to commit again, self-refresh and the
rebuilds have stayed. -/
structure SelKept (x y : Cx) : Prop where
  noted : NotedOnly x y
  rdq : y.c.rdq = x.c.rdq
  wrq : y.c.wrq = x.c.wrq
  reqAt : y.c.reqAt = x.c.reqAt
  othAt : y.c.othAt = x.c.othAt
  claims : y.c.claims = x.c.claims
  redo : y.c.redo = x.c.redo
  sr : y.c.sr = x.c.sr
  rb : y.c.rb = x.c.rb

namespace SelKept

theorem refl (x : Cx) : SelKept x x := ⟨.refl x, rfl, rfl, rfl, rfl, rfl, rfl, rfl, rfl⟩

theorem trans {x y w : Cx} (h : SelKept x y) (k : SelKept y w) : SelKept x w :=
  ⟨h.noted.trans k.noted, k.rdq.trans h.rdq, k.wrq.trans h.wrq, k.reqAt.trans h.reqAt, k.othAt.trans h.othAt, k.claims.trans h.claims,
    k.redo.trans h.redo, k.sr.trans h.sr, k.rb.trans h.rb⟩

theorem ite {p : Prop} [Decidable p] {x y w : Cx} (h : SelKept x y) (k : SelKept x w) : SelKept x (if p then y else w) :=
  iteInduction (fun _ => h) (fun _ => k)

/-- A step that leaves the course. -/
theorem of_c {x y w : Cx} (h : SelKept x y) (hn : NotedOnly y w) (hc : w.c = y.c) : SelKept x w :=
  h.trans ⟨hn, by rw [hc], by rw [hc], by rw [hc], by rw [hc], by rw [hc], by rw [hc], by rw [hc], by rw [hc]⟩

theorem cnt {x y : Cx} (h : SelKept x y) (o : Nat) : SelKept x (y.cnt o) := h.of_c (.cnt (.refl y) o) (Cx.cnt_c ..)
theorem sts {x y : Cx} (h : SelKept x y) (o b : Nat) : SelKept x (y.sts o b) := h.of_c (.sts (.refl y) o b) (Cx.sts_c ..)
theorem cntN {x y : Cx} (h : SelKept x y) (o k : Nat) : SelKept x (y.cntN o k) :=
  h.of_c ⟨Cx.cntN_n .., Cx.cntN_now .., Cx.cntN_z_cinfo ..⟩ (Cx.cntN_c ..)

/-- A change of something else of the course. -/
theorem onC {x y : Cx} (h : SelKept x y) {f : CourseSt → CourseSt} (hf : ∀ c, (f c).rdq = c.rdq ∧ (f c).wrq = c.wrq ∧ (f c).reqAt = c.reqAt ∧
    (f c).othAt = c.othAt ∧ (f c).claims = c.claims ∧ (f c).redo = c.redo ∧ (f c).sr = c.sr ∧ (f c).rb = c.rb := by
    intro _; exact ⟨rfl, rfl, rfl, rfl, rfl, rfl, rfl, rfl⟩) : SelKept x (y.onC f) := by
  obtain ⟨h1, h2, h3, h4, h5, h6, h7, h8⟩ := hf y.c
  exact h.trans ⟨.onC (.refl y) f, h1, h2, h3, h4, h5, h6, h7, h8⟩

theorem foldl {α : Type} {f : Cx → α → Cx} (hf : ∀ x a, SelKept x (f x a)) (l : List α) (x : Cx) : SelKept x (l.foldl f x) := by
  induction l generalizing x with
  | nil => exact .refl x
  | cons a l ih => exact (hf x a).trans (ih (f x a))

/-- The same where no region is CLAIMED. -/
theorem foldl_of {α : Type} {f : Cx → α → Cx} (hf : ∀ x a, x.c.claims = [] → SelKept x (f x a)) (l : List α) {x : Cx} (hx : x.c.claims = []) :
    SelKept x (l.foldl f x) := by
  induction l generalizing x with
  | nil => exact .refl x
  | cons a l ih =>
    have ha := hf x a hx
    exact ha.trans (ih (ha.claims.trans hx))

end SelKept

theorem commitCmd_selKept (x : Cx) (b : Cmd) (cy : Nat) (r : Bool) : SelKept x (commitCmd x b cy r) := by
  have h := commitCmd_only x b cy r
  exact ⟨commitCmd_noted .., h.rdq, h.wrq, h.reqAt, h.othAt, h.claims, h.redo, h.sr, h.rb⟩

theorem commitAll_selKept (p : List (Cmd × Nat)) (r : Bool) (x : Cx) : SelKept x (commitAll x p r) := by
  have h := commitAll_only p r x
  exact ⟨commitAll_noted p r x, h.rdq, h.wrq, h.reqAt, h.othAt, h.claims, h.redo, h.sr, h.rb⟩

/-! ### The steps before a selection -/

theorem classify_eq (x : Cx) (s : Fin 2) : NotedOnly x (classify x s) ∧ ∃ saPos, (classify x s).c = { x.c with saPos := saPos } := by
  have hslot (l : List Nat) (w : Nat → Nat × Option Nat) (y : Cx) : NotedOnly y (l.foldl (fun y i =>
      match (w i).2 with
      | some p => (y.onZ (fun z => bump48 z x.now (x.off (0x3400 + 8 * (w i).1)) 1)).onZ (fun z => bump48 z x.now (x.off (0x3440 + 8 * p)) 1)
      | none => y.onZ (fun z => bump48 z x.now (x.off (0x3400 + 8 * (w i).1)) 1)) y) ∧ (l.foldl (fun y i =>
      match (w i).2 with
      | some p => (y.onZ (fun z => bump48 z x.now (x.off (0x3400 + 8 * (w i).1)) 1)).onZ (fun z => bump48 z x.now (x.off (0x3440 + 8 * p)) 1)
      | none => y.onZ (fun z => bump48 z x.now (x.off (0x3400 + 8 * (w i).1)) 1)) y).c = y.c := by
    induction l generalizing y with
    | nil => exact ⟨.refl y, rfl⟩
    | cons i l ih =>
      have h1 : NotedOnly y (y.onZ (fun z => bump48 z x.now (x.off (0x3400 + 8 * (w i).1)) 1)) := .onZ (.refl y) (bump48_cinfo ..)
      rw [List.foldl_cons]
      split
      · next p _ =>
        obtain ⟨hn, hc⟩ := ih ((y.onZ (fun z => bump48 z x.now (x.off (0x3400 + 8 * (w i).1)) 1)).onZ (fun z => bump48 z x.now (x.off (0x3440 + 8 * p)) 1))
        exact ⟨(h1.onZ (bump48_cinfo ..)).trans hn, hc⟩
      · obtain ⟨hn, hc⟩ := ih (y.onZ (fun z => bump48 z x.now (x.off (0x3400 + 8 * (w i).1)) 1))
        exact ⟨h1.trans hn, hc⟩
  unfold classify
  refine iteInduction (motive := fun y : Cx => NotedOnly x y ∧ ∃ saPos, y.c = { x.c with saPos := saPos }) (fun _ => ⟨.refl x, _, rfl⟩) (fun _ => ?_)
  obtain ⟨hn, hc⟩ := hslot (List.range (baseOf x x.cyc + (timOf x).tcwl - x.c.saPos[s])) (fun i => slotClass (x.onC (fun c => { c with saPos := modV c.saPos s (fun _ => max x.c.saPos[s] (baseOf x x.cyc + (timOf x).tcwl)) })) (timOf x) s (x.c.saPos[s] + i)) (x.onC (fun c => { c with saPos := modV c.saPos s (fun _ => max x.c.saPos[s] (baseOf x x.cyc + (timOf x).tcwl)) }))
  exact ⟨(NotedOnly.onC (.refl x) _).trans hn, _, hc⟩

theorem probesDone_eq (x : Cx) : NotedOnly x (probesDone x) ∧ ∃ tr, (probesDone x).c = { x.c with tr := tr } := by
  have hsts (l : List Nat) (y : Cx) : NotedOnly y (l.foldl (fun x _ => x.sts 0x2408 2) y) ∧ (l.foldl (fun x _ => x.sts 0x2408 2) y).c = y.c := by
    induction l generalizing y with
    | nil => exact ⟨.refl y, rfl⟩
    | cons i l ih =>
      obtain ⟨hn, hc⟩ := ih (y.sts 0x2408 2)
      exact ⟨(NotedOnly.sts (.refl y) _ _).trans hn, hc.trans (Cx.sts_c ..)⟩
  unfold probesDone
  refine iteInduction (motive := fun y : Cx => NotedOnly x y ∧ ∃ tr, y.c = { x.c with tr := tr }) (fun _ => ?_) (fun _ => ⟨.refl x, _, rfl⟩)
  obtain ⟨hn, hc⟩ := hsts (List.range (x.c.tr.probes.filter (fun p => !p.done && decide (p.endAt + (timOf x).tmrr ≤ x.dck))).length)
    (x.onC (fun c => { c with tr := { c.tr with
      probes := c.tr.probes.map (fun p => if !p.done && decide (p.endAt + (timOf x).tmrr ≤ x.dck) then { p with done := true } else p) } }))
  exact ⟨(NotedOnly.onC (.refl x) _).trans hn, _, hc⟩

/-- The steps before a selection: the slots decided are classified, the calendar forgets what is past, and probes end. -/
theorem tidied_eq (x : Cx) (s : Fin 2) : NotedOnly x (probesDone (pruneCal (classify x s))) ∧ ∃ saPos cal tr,
    (probesDone (pruneCal (classify x s))).c = { x.c with saPos := saPos, cal := cal, tr := tr } := by
  obtain ⟨hn, saPos, hc⟩ := classify_eq x s
  obtain ⟨hm, tr, hd⟩ := probesDone_eq (pruneCal (classify x s))
  have hp : NotedOnly x (pruneCal (classify x s)) := by
    unfold pruneCal
    exact hn.onC _
  refine ⟨hp.trans hm, saPos, (pruneCal (classify x s)).c.cal, tr, ?_⟩
  rw [hd, pruneCal, Cx.onC, hc]

theorem tidied_kept (x : Cx) (s : Fin 2) : SelKept x (probesDone (pruneCal (classify x s))) := by
  obtain ⟨hn, _, _, _, hc⟩ := tidied_eq x s
  exact ⟨hn, by rw [hc], by rw [hc], by rw [hc], by rw [hc], by rw [hc], by rw [hc], by rw [hc], by rw [hc]⟩

theorem forceDrain_kept (x : Cx) : SelKept x (forceDrain x) := by
  unfold forceDrain
  exact .cnt (.onC (.refl x)) _

theorem modeStep_kept (x : Cx) : SelKept x (modeStep x) := by
  have hm (y : Cx) (m : Nat) : SelKept y (y.onC (fun c => { c with mode := m })) := .onC (.refl y)
  unfold modeStep
  refine .ite (.refl x) (SelKept.trans (y := x.onC (fun c => { c with modeAt := some x.cyc })) (.onC (.refl x)) ?_)
  exact .ite (.ite (hm _ 0) (.refl _)) (.ite (forceDrain_kept _) (.ite (.ite (hm _ 0) (.refl _)) (.ite (forceDrain_kept _) (.ite (hm _ 1) (.refl _)))))

theorem sendLater_kept (x : Cx) (s : Fin 2) : SelKept x (sendLater x s) := by
  unfold sendLater
  refine SelKept.foldl (fun y b => ?_) _ x
  split
  · exact .ite (.refl y) (SelKept.trans (.onC (.refl y)) (commitCmd_selKept _ b _ false))
  · exact .refl y

theorem setRegion_kept (x : Cx) (r : Nat) (v : RState) : SelKept x (setRegion x r v) := by
  unfold setRegion
  exact .onC (.refl x)

theorem renderDone_kept {x : Cx} (h : x.c.claims = []) (e : Fin 4) (g : Render) : SelKept x (renderDone x e g) := by
  unfold renderDone
  have hk : SelKept x (((setRegion x g.region .written).onC (fun c => { c with eng := modV c.eng e (fun _ => none) })).sts 0x2008 0) :=
    .sts (.onC (setRegion_kept x _ _)) _ _
  rw [takeClaim_of_none (hk.claims.trans h)]
  exact hk

theorem engineAdvance_kept (x : Cx) (e : Fin 4) (h : x.c.claims = []) : SelKept x (engineAdvance x e) := by
  unfold engineAdvance
  split
  · exact .refl x
  · next g _ =>
    simp only
    have hk : SelKept x ((x.cntN 0x2098 (skipBits g.bits.length g 0).1).onC (fun c => { c with eng := modV c.eng e (fun _ => some (skipBits g.bits.length g 0).2) })) :=
      .onC (.cntN (.refl x) _ _)
    exact .ite (hk.trans (renderDone_kept (hk.claims.trans h) _ _)) hk

theorem rwDrop_kept (x : Cx) (p : PtRw) : SelKept x (rwDrop x p) := by
  have h := SelKept.cnt (.refl x) 0x1950
  unfold rwDrop
  simp only
  split
  · exact .ite (.onC h) h
  · exact h

theorem bgTidy_kept {x : Cx} (h : x.c.claims = []) : SelKept x (bgTidy x) := by
  have hd (y : Cx) : SelKept y (dropRewrites y) := by
    unfold dropRewrites
    exact .ite (.refl y) (SelKept.trans (.onC (.refl y)) (SelKept.foldl rwDrop_kept _ _))
  unfold bgTidy
  exact .ite ((SelKept.foldl_of engineAdvance_kept _ h).trans (hd _)) (.refl x)

/-! ### The one candidate -/

theorem countChain_kept (x : Cx) (bs : List Cmd) (cap : Bool) : SelKept x (countChain x bs cap) := by
  have h : SelKept x (if bs.any (fun b => b.op == 6) then x.cnt 0x1220 else if bs.any (fun b => b.op == 1) then x.cnt 0x1218 else x.cnt 0x1210) :=
    .ite (.cnt (.refl x) _) (.ite (.cnt (.refl x) _) (.cnt (.refl x) _))
  exact .ite (h.cnt _) h

theorem countChain_c (x : Cx) (bs : List Cmd) (cap : Bool) : (countChain x bs cap).c = x.c := by
  have i {p : Prop} [Decidable p] {y w : Cx} (h : y.c = x.c) (k : w.c = x.c) : (if p then y else w).c = x.c :=
    iteInduction (motive := fun v : Cx => v.c = x.c) (fun _ => h) (fun _ => k)
  have h := i (p := bs.any (fun b => b.op == 6) = true) (Cx.cnt_c x 0x1220) (i (p := bs.any (fun b => b.op == 1) = true) (Cx.cnt_c x 0x1218) (Cx.cnt_c x 0x1210))
  exact i ((Cx.cnt_c ..).trans h) h

/-- The read that is served is committed, at the stamp of its column command. -/
def commitRead (x : Cx) (ord stamp : Nat) : Cx :=
  x.onC (fun c => { c with rdq := replaceFirst (fun r => r.ord == ord) (fun r => { r with ph := .committed stamp }) c.rdq })

theorem serve_read {y : Cx} {s : Fin 2} {qs : List Req} {q : Req} {p : List (Cmd × Nat)} (hq : q.rd = true)
    (hp : tryCmds y s (openRow y q.at_ ++ [colCmd q.at_ true (autoPre y qs q.at_ q.ord).1 0 (.rd q.ord) none q.port]) 0 (some (y.f 0x1010 9 0)) = some p) :
    ∃ bs cap, serve y s qs q = some (commitRead (countChain (commitAll y p false) bs cap) q.ord (lastStamp p)) := by
  refine ⟨openRow y q.at_ ++ [colCmd q.at_ true (autoPre y qs q.at_ q.ord).1 0 (.rd q.ord) none q.port], (autoPre y qs q.at_ q.ord).2, ?_⟩
  unfold serve
  simp only [hq, if_true, hp]
  rfl

/-- The one candidate is served, in whichever part of its tier it stands (R157). -/
theorem reqChain_alone {y : Cx} {s : Fin 2} {q : Req} {w : Cx} (hc : y.c.claims = []) (hr : y.c.redo = [])
    (hq : (reqsOf y.c).filter (mayServe y s (reqsOf y.c)) = [q]) (hs : serve y s (reqsOf y.c) q = some w) : reqChain y s = some w := by
  have hone : ∀ p : Req → Bool, firstSome (serve y s (reqsOf y.c)) ([q].filter p) = if p q then some w else none := by
    intro p
    rw [List.filter_singleton]
    cases p q <;> simp [firstSome, hs]
  have hredo : ∀ p : Cmd → Bool, firstSome (redoRead y s) (y.c.redo.filter p) = none := by
    intro p
    rw [hr]; rfl
  unfold reqChain
  simp only [hq, hc, hredo, if_true, sortBy, List.foldl_cons, List.foldl_nil, insBy, ite_self]
  by_cases hf : (q.ftg && q.rd) = true
  · have h1 : firstSome (serve y s (reqsOf y.c)) ([q].filter (fun q => q.ftg && q.rd)) = some w := by rw [hone, if_pos hf]
    rw [h1]
    rfl
  · have h1 : firstSome (serve y s (reqsOf y.c)) ([q].filter (fun q => q.ftg && q.rd)) = none := by rw [hone, if_neg hf]
    have hrest : [q].filter (fun q => !(q.ftg && q.rd)) = [q] := by
      rw [List.filter_singleton, Bool.eq_false_iff.2 hf]
      rfl
    rw [h1, hrest, hone, hone]
    by_cases hh : ((bankAt y.c q.at_.key).open_ == some q.at_.row) = true <;> simp [hh]

/-- The entries of both retry buffers. -/
def retryCount (c : CourseSt) : Nat := c.retry[(0 : Fin 2)].length + c.retry[(1 : Fin 2)].length

theorem retryCount_push (r : Vector (List Cmd) 2) (s : Fin 2) (b : Cmd) :
    (modV r s (fun l => l ++ [b]))[(0 : Fin 2)].length + (modV r s (fun l => l ++ [b]))[(1 : Fin 2)].length =
      r[(0 : Fin 2)].length + r[(1 : Fin 2)].length + 1 := by
  have hsame (i : Fin 2) : (modV r i (fun l => l ++ [b]))[i].length = r[i].length + 1 := by
    rw [modV_same, List.length_append, List.length_singleton]
  have hother (i j : Fin 2) (h : i ≠ j) : (modV r i (fun l => l ++ [b]))[j].length = r[j].length := by rw [modV_other _ _ _ _ h]
  match s with
  | 0 => rw [hsame 0, hother 0 1 (by decide)]; omega
  | 1 => rw [hsame 1, hother 1 0 (by decide)]; omega

/-- Every command of a chain enters a retry buffer (R225). -/
theorem commitAll_retry (p : List (Cmd × Nat)) (r : Bool) (x : Cx) : retryCount (commitAll x p r).c = retryCount x.c + p.length := by
  induction p generalizing x with
  | nil => rfl
  | cons q p ih =>
    have hq : retryCount (commitCmd x q.1 q.2 r).c = retryCount x.c + 1 := by
      obtain ⟨-, _, _, _, _, h⟩ := commitCmd_eq x q.1 q.2 r
      rw [h]
      exact retryCount_push ..
    have hp : retryCount (commitAll x (q :: p) r).c = _ := ih (commitCmd x q.1 q.2 r)
    rw [hp, hq, List.length_cons]
    omega

/-- What a selection starts from, once the steps before it are done. -/
def selectFrom (x : Cx) (s : Fin 2) : Cx := bgTidy (sendLater (modeStep (probesDone (pruneCal (classify x s)))) s)

theorem selectFrom_kept {x : Cx} (s : Fin 2) (h : x.c.claims = []) : SelKept x (selectFrom x s) := by
  have hk := ((tidied_kept x s).trans (modeStep_kept _)).trans (sendLater_kept _ s)
  exact hk.trans (bgTidy_kept (hk.claims.trans h))

/-- A selection that nothing stands in the way of, on a course in AWAKE. -/
theorem selectCommit_runs {x : Cx} {s : Fin 2} (hpw : powered x.z x.n = true) (hok : commitOk (probesDone (pruneCal (classify x s))) = true)
    (hrt : x.c.retry[s].length < 128) (hrb : x.c.rb[s].on = false) (hsr : x.c.sr.st = 0) :
    selectCommit x s = selectOth (selectReq (selectFrom x s) s) s := by
  obtain ⟨-, saPos, cal, tr, hc⟩ := tidied_eq x s
  have hretry : (probesDone (pruneCal (classify x s))).c.retry = x.c.retry := by rw [hc]
  have hlt : (probesDone (pruneCal (classify x s))).c.retry[s].length < 128 :=
    lt_of_eq_of_lt (congrArg (fun v : Vector (List Cmd) 2 => v[s].length) hretry) hrt
  have hfull : retryFull (probesDone (pruneCal (classify x s))) s = probesDone (pruneCal (classify x s)) :=
    if_neg (fun h => absurd h.1 (by have := hlt; omega))
  have hk := (tidied_kept x s).trans (modeStep_kept _)
  have hon : (modeStep (probesDone (pruneCal (classify x s)))).c.rb[s].on = false := by
    rw [hk.rb]; exact hrb
  have hl := hk.trans (sendLater_kept _ s)
  have hq : quiesceRaise (sendLater (modeStep (probesDone (pruneCal (classify x s)))) s) = sendLater (modeStep (probesDone (pruneCal (classify x s)))) s :=
    if_pos (.inl (by rw [hl.sr, hsr]; decide))
  unfold selectCommit
  rw [if_neg (by rw [hpw]; decide)]
  simp only [hfull]
  rw [if_neg (by rw [hok]; simpa using hlt), if_neg (by rw [hon]; decide), hq]
  rfl

end Sys2Proof.Machine

/-! SUPPORT. Chapter 8, the selector: the statement settled. -/

namespace Sys2Proof.Proofs
open Sys2Proof.Machine

theorem forall₂_mem_right {α β : Type} {R : α → β → Prop} {l : List α} {p : List β} (h : List.Forall₂ R l p) {b : β} (hb : b ∈ p) : ∃ a, R a b := by
  induction h with
  | nil => cases hb
  | cons hd _ ih =>
    rcases List.mem_cons.1 hb with rfl | hb
    · exact ⟨_, hd⟩
    · exact ih hb

/-- Settles O41: nothing before the selection touches the queues or what the subchannel has served, so the one candidate is served; what a chain is
placed at comes from its search for legal stamps. -/
theorem selectorCommits : Obligations.SelectorCommits := by
  unfold Obligations.SelectorCommits
  refine ⟨?_, fun x sc bs cys floor hz l h p hp => ?_⟩
  · intro s n c sc q p hup x y ap hpw hok hrt hrb hsr hreq hoth hcl hre hppr hqrd hcand hplaced
    refine gives_crs (exec_selectCommit n c sc s) hup (fun t _ ht _ _ => ?_)
    have hk : SelKept x y := selectFrom_kept sc hcl
    obtain ⟨bs, cap, hs⟩ := serve_read hqrd hplaced
    have hchain := reqChain_alone (hk.claims.trans hcl) (hk.redo.trans hre) hcand hs
    have hcyc : y.cyc = x.cyc := hk.noted.cyc
    have hsel : selectReq y sc = (commitRead (countChain (commitAll y p false) bs cap) q.ord (lastStamp p)).onC
        (fun c => { c with reqAt := modV c.reqAt sc (fun _ => some y.cyc) }) := by
      unfold selectReq
      rw [if_neg, hchain]
      rintro (h | h)
      · exact hreq (by rw [← hcyc, ← h, hk.reqAt])
      · simp [srServes, hk.sr, hsr] at h
    have hw : SelKept x (countChain (commitAll y p false) bs cap) := (hk.trans (commitAll_selKept p false y)).trans (countChain_kept _ bs cap)
    have hall : selectOth (selectReq y sc) sc = selectReq y sc := by
      refine if_pos ?_
      rw [hsel]
      have h1 : (countChain (commitAll y p false) bs cap).cyc = x.cyc := hw.noted.cyc
      exact ((congrArg (·[sc]) hw.othAt).trans hoth).trans (congrArg some h1.symm)
    have hrun : courseSelect x sc = selectReq y sc := by
      have hsave : pprSave x = x := by
        unfold pprSave
        rw [hppr]
      rw [courseSelect, hsave, selectCommit_runs hpw hok hrt hrb hsr]
      exact hall
    rw [ht, show courseSelect (crsBefore s n c) sc = _ from hrun, hsel]
    refine ⟨congrArg (replaceFirst _ _) hw.rdq, hw.wrq, (modV_same ..).trans (congrArg some hcyc), ?_⟩
    have hr := commitAll_retry p false y
    rw [← countChain_c (commitAll y p false) bs cap] at hr
    exact hr
  · obtain ⟨q, hq⟩ := forall₂_mem_right (tryChain_inWindow h) hp
    exact ⟨hq.base, hq.span, hq.floor⟩

end Sys2Proof.Proofs

/-! SUPPORT. Chapter 10 (R158, R202, R209): each end of a link sends one flit in an LCK cycle. -/

namespace Sys2Proof.Machine

/-- From `x` to `y` the flits on the lanes, the Corbel, the link's state and the LCK have stayed. -/
structure LanesKept (x y : Cx) : Prop where
  noted : NotedOnly x y
  dn : y.c.lk.dn = x.c.lk.dn
  cb : y.c.cb = x.c.cb

/-- From `x` to `y` the course has sent one flit. -/
structure DnSent (x y : Cx) : Prop where
  dn : y.c.lk.dn.length = x.c.lk.dn.length + 1
  at_ : y.c.sentAt = some x.cyc
  cb : y.c.cb = x.c.cb

theorem LanesKept.refl (x : Cx) : LanesKept x x := ⟨.refl x, rfl, rfl⟩

theorem LanesKept.ite {p : Prop} [Decidable p] {x y w : Cx} (h : LanesKept x y) (k : LanesKept x w) : LanesKept x (if p then y else w) :=
  iteInduction (fun _ => h) (fun _ => k)

theorem LanesKept.cnt {x y : Cx} (h : LanesKept x y) (o : Nat) : LanesKept x (y.cnt o) :=
  ⟨h.noted.cnt o, by rw [Cx.cnt_c]; exact h.dn, by rw [Cx.cnt_c]; exact h.cb⟩

theorem LanesKept.onC {x y : Cx} (h : LanesKept x y) {f : CourseSt → CourseSt} (hf : ∀ c, (f c).lk.dn = c.lk.dn ∧ (f c).cb = c.cb := by
    intro _; exact ⟨rfl, rfl⟩) : LanesKept x (y.onC f) := ⟨h.noted.onC f, (hf y.c).1.trans h.dn, (hf y.c).2.trans h.cb⟩

theorem LanesKept.onL {x y : Cx} (h : LanesKept x y) {f : CLink → CLink} (hf : ∀ l, (f l).dn = l.dn := by intro _; rfl) : LanesKept x (y.onL f) :=
  ⟨⟨h.noted.n, h.noted.now, h.noted.cinfo⟩, (hf y.c.lk).trans h.dn, h.cb⟩

theorem sendDn_sent {x y : Cx} (h : LanesKept x y) (ftype seq body : Nat) : DnSent x (sendDn y ftype seq body) := by
  have hk : LanesKept x (if y.c.lk.ends.nakDue then y.cnt 0x0898 else y) := .ite (h.cnt _) h
  unfold sendDn
  simp only
  refine ⟨?_, congrArg some hk.noted.cyc, hk.cb⟩
  rw [← hk.dn]
  exact List.length_append ..

theorem sendNewDn_sent {x y : Cx} (h : LanesKept x y) (b : Body) : DnSent x (sendNewDn y b) := sendDn_sent h.onL _ _ _

theorem sendMaint_sent {x y : Cx} (h : LanesKept x y) (bs : List Cmd) (m : MntReq) : DnSent x (sendMaint y bs m) := sendNewDn_sent h.onL _

theorem DnSent.ite {p : Prop} [Decidable p] {x y w : Cx} (h : DnSent x y) (k : DnSent x w) : DnSent x (if p then y else w) :=
  iteInduction (fun _ => h) (fun _ => k)

theorem sendIdle_sent {x y : Cx} (h : LanesKept x y) : DnSent x (sendIdle y) := by
  unfold sendIdle
  split
  · exact .ite (sendMaint_sent h ..) (sendDn_sent h ..)
  · exact sendDn_sent h ..

theorem sendPlanned_sent {x y : Cx} (h : LanesKept x y) (f : PFlit) : DnSent x (sendPlanned y f) := by
  have hp : LanesKept x (y.onC (fun c => { c with plan := c.plan.drop 1 })) := h.onC
  unfold sendPlanned
  simp only
  split
  · exact sendNewDn_sent hp _
  · exact sendNewDn_sent hp _
  · split
    · exact .ite (sendMaint_sent hp ..) (sendNewDn_sent hp _)
    · exact sendNewDn_sent hp _

/-- The instant of the flit is noted at once where the replay buffer is full, as is the count (R203). -/
def fullNoted (x : Cx) : Cx := if 128 ≤ x.c.lk.ends.buf.length then (x.cnt 0x08C0).onC (fun c => { c with sentAt := some x.cyc }) else x

theorem fullNoted_kept (x : Cx) : LanesKept x (fullNoted x) := by
  unfold fullNoted
  exact .ite (.onC (.cnt (.refl x) _)) (.refl x)

theorem cnt_sentAt (x : Cx) (o : Nat) : ((x.cnt o).onC (fun c => { c with sentAt := some x.cyc })).c = { x.c with sentAt := some x.cyc } :=
  congrArg (fun c : CourseSt => { c with sentAt := some x.cyc }) (Cx.cnt_c x o)

theorem fullNoted_c (x : Cx) : ∃ a, (fullNoted x).c = { x.c with sentAt := a } := by
  unfold fullNoted
  exact iteInduction (motive := fun y : Cx => ∃ a, y.c = { x.c with sentAt := a }) (fun _ => ⟨_, cnt_sentAt x _⟩) (fun _ => ⟨_, rfl⟩)

theorem fullNoted_lk (x : Cx) : (fullNoted x).c.lk = x.c.lk := by
  obtain ⟨a, h⟩ := fullNoted_c x
  rw [h]

theorem fullNoted_dck (x : Cx) : (fullNoted x).c.dck = x.c.dck := by
  obtain ⟨a, h⟩ := fullNoted_c x
  rw [h]

theorem rateEnter_of_ne {x : Cx} (h : x.c.lk.st ≠ 4) : rateEnter x = x := if_neg (fun hc => h hc.1)

/-- The flit of a cycle (R158, R202, Table 10-11). -/
def flitOf (x : Cx) : Cx :=
  if !(x.c.lk.st == 2 || x.c.lk.st == 5) then quietFlit x
  else
  match x.c.lk.ends.replay x.cyc with
  | some (e, f) => sendDn ((planWait (x.onL (fun l => { l with ends := e }))).cnt 0x08A8) f.body.ftype f.seq f.body.body.toNat
  | none =>
      if 128 ≤ x.c.lk.ends.buf.length then sendDn (planWait x) 0 x.c.lk.ends.next 0
      else
        match x.c.plan with
        | f :: _ => if f.cyc ≤ x.cyc then sendPlanned x f else sendIdle x
        | [] => if x.c.lk.slp then sendNewDn (x.onL (fun l => { l with slp := false })) ⟨5, 0, 0, 0⟩ else sendIdle x

theorem downstreamFlit_eq (x : Cx) : downstreamFlit x = if !powered x.z x.n ∨ !flitDue x then x else flitOf (rateEnter (fullNoted x)) := rfl

theorem downstreamFlit_due {x : Cx} (hp : powered x.z x.n = true) (hd : flitDue x = true) (hst : x.c.lk.st ≠ 4) :
    downstreamFlit x = flitOf (fullNoted x) := by
  rw [downstreamFlit_eq, if_neg (by rw [hp, hd]; decide), rateEnter_of_ne (by rw [fullNoted_lk]; exact hst)]

theorem downstreamFlit_live {x : Cx} (hp : powered x.z x.n = true) (hd : flitDue x = true) (hst : x.c.lk.st = 2 ∨ x.c.lk.st = 5) :
    DnSent x (downstreamFlit x) := by
  have hk := fullNoted_kept x
  rw [downstreamFlit_due hp hd (by omega), flitOf, if_neg (by rw [fullNoted_lk]; rcases hst with h | h <;> rw [h] <;> decide)]
  split
  · refine sendDn_sent (.cnt ?_ _) _ _ _
    unfold planWait
    exact (hk.onL).onC
  · refine .ite (sendDn_sent (y := planWait (fullNoted x)) ?_ _ _ _) ?_
    · unfold planWait
      exact hk.onC
    · split
      · exact .ite (sendPlanned_sent hk _) (sendIdle_sent hk)
      · exact .ite (sendNewDn_sent hk.onL _) (sendIdle_sent hk)

theorem alignDn_congr {x y : Cx} (hn : NotedOnly x y) (hl : y.c.lk = x.c.lk) (hd : y.c.dck = x.c.dck) (b : Bool) (k : Nat) (r : Bool) :
    alignDn y b k r = alignDn x b k r := by
  obtain ⟨h1, -, h3⟩ := id hn
  simp only [alignDn, hn.cyc, hl, hd, Cx.info, h1, h3]

theorem downstreamFlit_align {x : Cx} (hp : powered x.z x.n = true) (hd : flitDue x = true) (hst : x.c.lk.st = 1 ∨ x.c.lk.st = 3) :
    (downstreamFlit x).c.lk = { x.c.lk with
      dn := x.c.lk.dn ++ [pam (alignDn x (x.c.lk.st == 1 && x.c.lk.fromDown) 3 (decide (16 ≤ x.c.lk.alGood)))] } ∧
    (downstreamFlit x).c.sentAt = some x.cyc := by
  have hk := fullNoted_kept x
  have hlk := fullNoted_lk x
  rw [downstreamFlit_due hp hd (by omega), flitOf, if_pos (by rw [hlk]; rcases hst with h | h <;> rw [h] <;> decide), quietFlit,
    if_pos (by rw [hlk]; exact hst.imp id .inl)]
  refine ⟨?_, congrArg some hk.noted.cyc⟩
  simp only [Cx.onC, alignDn_congr hk.noted hlk (fullNoted_dck x)]
  rw [hlk]

theorem downstreamFlit_sent {x : Cx} (h : x.c.sentAt = some x.cyc) : downstreamFlit x = x := by
  refine if_pos (.inr ?_)
  simp [flitDue, h]

/-! ### The Corbel's flits -/

/-- From `x` to `y` the Corbel alone may differ, its end of the link aside. -/
structure UpKept (x y : Cx) : Prop where
  noted : NotedOnly x y
  lk : y.c.lk = x.c.lk

theorem UpKept.refl (x : Cx) : UpKept x x := ⟨.refl x, rfl⟩

theorem UpKept.trans {x y w : Cx} (h : UpKept x y) (k : UpKept y w) : UpKept x w := ⟨h.noted.trans k.noted, k.lk.trans h.lk⟩

theorem UpKept.onB {x y : Cx} (h : UpKept x y) (f : Corbel → Corbel) : UpKept x (y.onB f) := ⟨⟨h.noted.n, h.noted.now, h.noted.cinfo⟩, h.lk⟩

theorem UpKept.foldl {α : Type} {f : Cx → α → Cx} (hf : ∀ x a, UpKept x (f x a)) (l : List α) (x : Cx) : UpKept x (l.foldl f x) := by
  induction l generalizing x with
  | nil => exact .refl x
  | cons a l ih => exact (hf x a).trans (ih (f x a))

theorem cbConfirmNow_kept (x : Cx) : UpKept x (cbConfirmNow x) := by
  unfold cbConfirmNow
  refine UpKept.foldl (fun y s => ?_) _ x
  unfold cbConfirmTo
  refine UpKept.trans (.onB (.refl y) _) (UpKept.foldl (fun w b => ?_) _ _)
  unfold cbConfirm
  exact .onB (.refl w) _

/-- From `x` to `y` the Corbel has sent one flit. -/
structure UpSent (x y : Cx) : Prop where
  up : y.c.lk.up.length = x.c.lk.up.length + 1
  at_ : y.c.cb.sentAt = some x.cyc
  dn : y.c.lk.dn = x.c.lk.dn

theorem UpSent.ite {p : Prop} [Decidable p] {x y w : Cx} (h : UpSent x y) (k : UpSent x w) : UpSent x (if p then y else w) :=
  iteInduction (fun _ => h) (fun _ => k)

theorem sendUp_sent {x y : Cx} (h : UpKept x y) (seq : Nat) (b : Body) : UpSent x (sendUp y seq b) := by
  unfold sendUp
  simp only
  refine ⟨?_, congrArg some h.noted.cyc, ?_⟩
  · rw [← h.lk]
    exact List.length_append ..
  · change y.c.lk.dn = x.c.lk.dn
    rw [h.lk]

theorem sendNewUp_sent {x y : Cx} (h : UpKept x y) (b : Body) : UpSent x (sendNewUp y b) := sendUp_sent (h.onB _) _ _

theorem cbUpstream_live {x : Cx} (hl : cbLive x = true) (hr : ∀ k, x.c.cb.sentAt = some k → k < x.cyc) : UpSent x (cbUpstream x) := by
  have hk := cbConfirmNow_kept x
  have hrec : UpSent x (sendRec (cbConfirmNow x)) := sendNewUp_sent (hk.onB _) _
  have hidle : UpSent x (sendUp (cbConfirmNow x) (cbConfirmNow x).c.cb.ends.next ⟨0, 0, 0, 0⟩) := sendUp_sent hk _ _
  unfold cbUpstream
  simp only [hl]
  rw [if_neg (by cases hs : x.c.cb.sentAt with | none => simp | some k => simp [hr k hs]), if_neg (by decide)]
  split
  · exact sendUp_sent (hk.onB _) _ _
  · refine .ite hidle (.ite hrec ?_)
    split
    · exact sendNewUp_sent (hk.onB _) _
    · exact .ite hrec (.ite (sendNewUp_sent (hk.onB _) _) hidle)

theorem cbUpstream_sent {x : Cx} (h : x.c.cb.sentAt = some x.cyc) : cbUpstream x = x := by
  unfold cbUpstream
  simp [h]

/-! ### The receivers -/

/-- From `x` to `y` both ends of the link, the checkers' counts and what is counted aside, have stayed. -/
structure EndsKept (x y : Cx) : Prop where
  lk : y.c.lk = x.c.lk
  ends : y.c.cb.ends = x.c.cb.ends

theorem EndsKept.refl (x : Cx) : EndsKept x x := ⟨rfl, rfl⟩

theorem EndsKept.trans {x y w : Cx} (h : EndsKept x y) (k : EndsKept y w) : EndsKept x w := ⟨k.lk.trans h.lk, k.ends.trans h.ends⟩

theorem EndsKept.ite {p : Prop} [Decidable p] {x y w : Cx} (h : EndsKept x y) (k : EndsKept x w) : EndsKept x (if p then y else w) :=
  iteInduction (fun _ => h) (fun _ => k)

theorem EndsKept.cnt {x y : Cx} (h : EndsKept x y) (o : Nat) : EndsKept x (y.cnt o) := ⟨by rw [Cx.cnt_c]; exact h.lk, by rw [Cx.cnt_c]; exact h.ends⟩
theorem EndsKept.cntN {x y : Cx} (h : EndsKept x y) (o k : Nat) : EndsKept x (y.cntN o k) :=
  ⟨by rw [Cx.cntN_c]; exact h.lk, by rw [Cx.cntN_c]; exact h.ends⟩

theorem EndsKept.onB {x y : Cx} (h : EndsKept x y) {f : Corbel → Corbel} (hf : ∀ b, (f b).ends = b.ends := by intro _; rfl) : EndsKept x (y.onB f) :=
  ⟨h.lk, (hf y.c.cb).trans h.ends⟩

theorem EndsKept.foldl {α : Type} {f : Cx → α → Cx} (hf : ∀ x a, EndsKept x (f x a)) (l : List α) (x : Cx) : EndsKept x (l.foldl f x) := by
  induction l generalizing x with
  | nil => exact .refl x
  | cons a l ih => exact (hf x a).trans (ih (f x a))

theorem courseCheck_kept (x : Cx) (raw : Nat) (r : Rx) : EndsKept x (courseCheck x raw r) := by
  unfold courseCheck
  refine .ite (.refl x) ?_
  have hd : EndsKept x (x.onC (fun c => { c with tr := { c.tr with dwell := c.tr.dwell + 1 } })) := ⟨rfl, rfl⟩
  split
  · exact hd.trans (EndsKept.foldl (fun y p => .cntN (.refl y) _ _) _ _)
  · exact hd.cnt _

theorem cbPut_kept {x y : Cx} (h : EndsKept x y) (o : Nat) (v : Word) : EndsKept x (cbPut y o v) := by
  unfold cbPut
  exact h.onB

theorem cbCheck_kept (x : Cx) (raw : Nat) (r : Rx) : EndsKept x (cbCheck x raw r) := by
  have hs {y w : Cx} (h : EndsKept y w) (o k : Nat) : EndsKept y (cbSat w o k) := cbPut_kept h _ _
  unfold cbCheck
  refine .ite (.refl x) ?_
  split
  · exact EndsKept.trans (.onB (.refl x)) (EndsKept.foldl (fun y p => hs (.refl y) _ _) _ _)
  · exact hs (.onB (.refl x)) _ _

/-- A good sequenced flit with the expected number is accepted, and the next one is expected (Table 10-9). -/
theorem LEnd.good_expected {e : LEnd} {seq : Nat} (h : seq = e.e) : e.good true seq = ({ e with e := (e.e + 1) % 256, nak := false }, true) := by
  have hd : (e.e + 256 - e.e) % 256 = 0 := by
    rw [Nat.add_sub_cancel_left]
  simp [LEnd.good, h, hd]

/-- Acknowledgements change the sender's half of an end alone (R205). -/
theorem LEnd.apply_receiver (e : LEnd) (ack : Nat) (nak : Bool) : (e.apply ack nak).1.e = e.e ∧ (e.apply ack nak).1.nak = e.nak := by
  have hfree : (e.free ack).e = e.e ∧ (e.free ack).nak = e.nak := by
    unfold LEnd.free
    split <;> exact ⟨rfl, rfl⟩
  unfold LEnd.apply
  split
  · exact hfree
  · simp only
    split
    · exact hfree
    · split <;> exact ⟨rfl, rfl⟩

/-- A bad flit puts a receiver in NAK state and is not accepted (Table 10-9). -/
theorem LEnd.bad_nak (e : LEnd) (cyc gap : Nat) : (e.bad cyc gap).e = e.e ∧ (e.bad cyc gap).nak = true := by
  unfold LEnd.bad
  cases h : e.nak
  · exact ⟨rfl, rfl⟩
  · simp only [Bool.not_true, Bool.false_eq_true, if_false]
    split
    · exact ⟨rfl, rfl⟩
    · exact ⟨rfl, h⟩

theorem courseAlign_none {x : Cx} (h : x.c.lk.st = 2 ∨ x.c.lk.st = 5) (f : UpBits) : courseAlign x f = none :=
  if_pos (by rcases h with h | h <;> simp [h])

theorem cbAlign_none {x : Cx} (h : x.c.lk.st = 2 ∨ x.c.lk.st = 5) (f : DnBits) : cbAlign x f = none :=
  if_pos (by rcases h with h | h <;> simp [h])

/-- From `x` to `y` the upstream lanes and the course's receiver have stayed. -/
structure ReceiverKept (x y : Cx) : Prop where
  up : y.c.lk.up = x.c.lk.up
  e : y.c.lk.ends.e = x.c.lk.ends.e
  nak : y.c.lk.ends.nak = x.c.lk.ends.nak

namespace ReceiverKept

theorem refl (x : Cx) : ReceiverKept x x := ⟨rfl, rfl, rfl⟩

theorem trans {x y w : Cx} (h : ReceiverKept x y) (k : ReceiverKept y w) : ReceiverKept x w :=
  ⟨k.up.trans h.up, k.e.trans h.e, k.nak.trans h.nak⟩

theorem of_lk {x y : Cx} (h : y.c.lk = x.c.lk) : ReceiverKept x y := ⟨by rw [h], by rw [h], by rw [h]⟩

theorem cnt (x : Cx) (o : Nat) : ReceiverKept x (x.cnt o) := of_lk (by rw [Cx.cnt_c])

theorem onL (x : Cx) {f : CLink → CLink} (hu : ∀ l, (f l).up = l.up := by intro _; rfl) (he : ∀ l, (f l).ends = l.ends := by intro _; rfl) :
    ReceiverKept x (x.onL f) := ⟨hu _, congrArg LEnd.e (he _), congrArg LEnd.nak (he _)⟩

theorem onB (x : Cx) (f : Corbel → Corbel) : ReceiverKept x (x.onB f) := ⟨rfl, rfl, rfl⟩

end ReceiverKept

theorem courseRewound_receiver (x : Cx) : ReceiverKept x (courseRewound x) := by
  have hnote (l : List Nat) : ReceiverKept x ((x.onL (fun k => { k with replays := l })).cnt 0x08A0) := (ReceiverKept.onL x).trans (.cnt _ _)
  refine courseRewound_cases (P := ReceiverKept x) x (.refl x) hnote (fun l => (hnote l).trans ?_)
  refine enterRecover_cases (P := ReceiverKept _) _ (.refl _) ?_
  exact ((ReceiverKept.onL _).trans (.onB _ _)).trans (.cnt _ _)

theorem timeoutUndone_receiver (x : Cx) : ReceiverKept x (timeoutUndone x) :=
  iteInduction (motive := ReceiverKept x) (fun _ => .of_lk (by rw [Cx.setf_c])) (fun _ => .refl x)

theorem acceptUp_receiver (x : Cx) (ftype u p : Nat) : ReceiverKept x (acceptUp x ftype u p) := by
  have hrecs (l : List Nat) (y : Cx) (f : Cx → Nat → Cx) (hf : ∀ y i, ReceiverKept y (f y i)) : ReceiverKept y (l.foldl f y) := by
    induction l generalizing y with
    | nil => exact .refl y
    | cons a l ih => exact (hf y a).trans (ih _)
  unfold acceptUp
  refine iteInduction (fun _ => .onL x) (fun _ => iteInduction (fun _ => ?_) (fun _ => iteInduction (fun _ => .onL x) (fun _ => .refl x)))
  unfold takeRecs
  exact hrecs _ _ _ (fun y i => iteInduction (fun _ => .refl y) (fun _ => iteInduction (fun _ => .cnt _ _) (fun _ => .onL y)))

/-- A sequenced flit with the expected number: accepted, then its acknowledgement is applied. -/
theorem courseGood_expected {x : Cx} {h n : Nat} (hlo : 1 ≤ slice (h >>> 648) 47 44) (hhi : slice (h >>> 648) 47 44 ≤ 3)
    (hs : slice (h >>> 648) 43 36 = x.c.lk.ends.e) :
    (courseGood x h n).c.lk.up = x.c.lk.up ∧ (courseGood x h n).c.lk.ends.e = (x.c.lk.ends.e + 1) % 256 ∧ (courseGood x h n).c.lk.ends.nak = false := by
  have hseqd : (slice (h >>> 648) 47 44 == 1 || slice (h >>> 648) 47 44 == 2 || slice (h >>> 648) 47 44 == 3) = true := by
    simp only [Bool.or_eq_true, beq_iff_eq]; omega
  have hc : (x.cntN 0x0880 n).c.lk.ends = x.c.lk.ends := by rw [Cx.cntN_c]
  let y := (x.cntN 0x0880 n).onL (fun l => { l with ends := { x.c.lk.ends with e := (x.c.lk.ends.e + 1) % 256, nak := false } })
  have hy : y.c.lk.up = x.c.lk.up := by
    change (x.cntN 0x0880 n).c.lk.up = _
    rw [Cx.cntN_c]
  let w := acceptUp y (slice (h >>> 648) 47 44) (h >>> 648) ((h >>> 8) % 2 ^ 640)
  have hw : ReceiverKept y w := acceptUp_receiver ..
  let r := w.c.lk.ends.apply (slice (h >>> 648) 35 28) (slice (h >>> 648) 27 27 == 1)
  have hr := LEnd.apply_receiver w.c.lk.ends (slice (h >>> 648) 35 28) (slice (h >>> 648) 27 27 == 1)
  have hv : ReceiverKept y (w.onL (fun l => { l with ends := r.1 })) := ⟨hw.up, hr.1.trans hw.e, hr.2.trans hw.nak⟩
  have hk : ReceiverKept y (courseGood x h n) := by
    unfold courseGood
    rw [if_neg (by omega)]
    simp only [hseqd, hc, LEnd.good_expected hs, if_true]
    change ReceiverKept y (match r.2 with | .none => _ | .rewind => _ | .stale => _)
    split
    · exact hv
    · exact (hv.trans (timeoutUndone_receiver _)).trans (courseRewound_receiver _)
    · exact hv.trans (.cnt _ _)
  exact ⟨hk.up.trans hy, hk.e, hk.nak⟩

theorem courseBad_nak (x : Cx) : (courseBad x).c.lk.up = x.c.lk.up ∧ (courseBad x).c.lk.ends.e = x.c.lk.ends.e ∧ (courseBad x).c.lk.ends.nak = true :=
  ⟨rfl, (LEnd.bad_nak ..).1, (LEnd.bad_nak ..).2⟩

/-- The course with the oldest upstream flit taken and descrambled, before it is looked at. -/
def upTaken (x : Cx) (l : List UpBits) (scr : Scr) : Cx := (x.onL (fun k => { k with alGood := 0 })).onL (fun k => { k with up := l, scrRx := scr })

theorem upTaken_up (x : Cx) (l : List UpBits) (scr : Scr) : (upTaken x l scr).c.lk.up = l := rfl
theorem upTaken_ends (x : Cx) (l : List UpBits) (scr : Scr) : (upTaken x l scr).c.lk.ends = x.c.lk.ends := rfl

theorem upstreamFlit_live {x : Cx} {u : UpBits} {l : List UpBits} (hst : x.c.lk.st = 2 ∨ x.c.lk.st = 5) (hu : x.c.lk.up = u :: l) (e : UpBits) :
    ∃ y, EndsKept (upTaken x l (scramble 80 x.c.lk.scrRx (pam u ^^^ e).toNat).1) y ∧ upstreamFlit x e =
      match rxUp (BitVec.ofNat 800 (scramble 80 x.c.lk.scrRx (pam u ^^^ e).toNat).2) with
      | .good h n _ => courseGood y h n
      | .fecFail => courseBad (y.cnt 0x0888)
      | .crcFail => courseBad (y.cnt 0x0890) := by
  refine ⟨_, courseCheck_kept _ (scramble 80 x.c.lk.scrRx (pam u ^^^ e).toNat).2
    (rxUp (BitVec.ofNat 800 (scramble 80 x.c.lk.scrRx (pam u ^^^ e).toNat).2)), ?_⟩
  have ha := courseAlign_none (x := x.onL (fun k => { k with up := l })) hst (pam u ^^^ e)
  unfold upstreamFlit
  simp only [hu, ha]
  rfl

/-! ### The Corbel's receiver -/

theorem placePre_kept (x : Cx) (s : Fin 2) (a : Nat) (lrs : List Nat) : EndsKept x (placePre x s a lrs).1 := by
  have h (l : List Nat) (p : Cx × Nat) (f : Cx × Nat → Nat → Cx × Nat) (hf : ∀ q i, EndsKept q.1 (f q i).1) : EndsKept p.1 (l.foldl f p).1 := by
    induction l generalizing p with
    | nil => exact .refl _
    | cons i l ih => exact (hf p i).trans (ih _)
  unfold placePre
  exact h _ (x, a - 1) _ (fun q i => ⟨rfl, rfl⟩)

theorem cbEpochUp_kept {x y : Cx} (h : EndsKept x y) (s : Fin 2) : EndsKept x (cbEpochUp y s) := by
  unfold cbEpochUp
  exact h.onB

theorem cbLate_kept (x : Cx) (s : Fin 2) (b : Cmd) (d : Nat) : EndsKept x (cbLate x s b d) := by
  have hc {y : Cx} (h : EndsKept x y) (o k : Nat) : EndsKept x (cbCnt y o k) := cbPut_kept h _ _
  have hh : EndsKept x (x.onB (fun k => { k with hold := modV k.hold s (fun h => h.filter (fun k => !(!cbOwn k && decide (b.stamp ≤ k.stamp)))) })) :=
    .onB (.refl x)
  unfold cbLate cbRecAt
  exact (cbEpochUp_kept ((hc (hc hh _ _) _ _).trans (placePre_kept ..)) s).onB

theorem cbSlot_kept (x : Cx) (v : Slot) : EndsKept x (cbSlot x v) := by
  unfold cbSlot cbProto
  refine .ite (.refl x) (.ite (.onB (.refl x)) (.ite ?_ (.ite (cbLate_kept ..) (.onB (.refl x)))))
  exact cbPut_kept (.refl x) _ _

theorem cbSlots_kept {x y : Cx} (h : EndsKept x y) (body n : Nat) : EndsKept x (cbSlots y body n) := by
  unfold cbSlots
  exact h.trans (EndsKept.foldl (fun w i => cbSlot_kept w _) _ _)

/-- What an accepted flit carries does not touch the Corbel's end of the link. -/
theorem acceptDn_kept (x : Cx) (ftype body : Nat) : EndsKept x (acceptDn x ftype body) := by
  have hh : EndsKept x (x.onB (fun b => { b with half := none })) := .onB (.refl x)
  unfold acceptDn cbProto
  simp only
  split
  · exact cbSlots_kept hh _ _
  · exact cbSlots_kept hh.onB _ _
  · refine cbSlots_kept ?_ _ _
    split
    · exact .ite hh.onB hh.onB
    · exact hh.onB
  · exact cbSlots_kept hh.onB _ _
  · exact hh.onB

/-- A sequenced flit with the expected number at the Corbel. -/
theorem cbGood_expected {x : Cx} {h n : Nat} (hlo : 1 ≤ slice (h >>> 492) 23 21) (hhi : slice (h >>> 492) 23 21 ≤ 5)
    (hs : slice (h >>> 492) 20 13 = x.c.cb.ends.e) :
    (cbGood x h n).c.lk = x.c.lk ∧ (cbGood x h n).c.cb.ends.e = (x.c.cb.ends.e + 1) % 256 ∧ (cbGood x h n).c.cb.ends.nak = false := by
  have hseqd : (decide (1 ≤ slice (h >>> 492) 23 21) && decide (slice (h >>> 492) 23 21 ≤ 5)) = true := by simp [hlo, hhi]
  let y := (x.onB (fun b => { b with fec := min 65535 (b.fec + n), goodAt := x.now })).onB
    (fun b => { b with ends := { x.c.cb.ends with e := (x.c.cb.ends.e + 1) % 256, nak := false } })
  let w := acceptDn y (slice (h >>> 492) 23 21) (h % 2 ^ 492)
  have hw : EndsKept y w := acceptDn_kept ..
  let r := w.c.cb.ends.apply (slice (h >>> 492) 12 5) (slice (h >>> 492) 4 4 == 1)
  have hr := LEnd.apply_receiver w.c.cb.ends (slice (h >>> 492) 12 5) (slice (h >>> 492) 4 4 == 1)
  have hx : (w.onB (fun b => { b with ends := r.1 })).c.lk = x.c.lk ∧ (w.onB (fun b => { b with ends := r.1 })).c.cb.ends = r.1 := ⟨hw.lk, rfl⟩
  have he : r.1.e = (x.c.cb.ends.e + 1) % 256 ∧ r.1.nak = false :=
    ⟨hr.1.trans (congrArg LEnd.e hw.ends), hr.2.trans (congrArg LEnd.nak hw.ends)⟩
  have hk : EndsKept (w.onB (fun b => { b with ends := r.1 })) (cbGood x h n) := by
    unfold cbGood
    rw [if_neg (by omega)]
    simp only [hseqd, Cx.onB, LEnd.good_expected hs, if_true]
    exact .ite (.onB (.refl _)) (.refl _)
  exact ⟨hk.lk.trans hx.1, (congrArg LEnd.e hk.ends).trans he.1, (congrArg LEnd.nak hk.ends).trans he.2⟩

theorem cbBad_nak (x : Cx) : (cbBad x).c.lk = x.c.lk ∧ (cbBad x).c.cb.ends.e = x.c.cb.ends.e ∧ (cbBad x).c.cb.ends.nak = true :=
  ⟨rfl, (LEnd.bad_nak ..).1, (LEnd.bad_nak ..).2⟩

/-- The Corbel with the oldest downstream flit taken and descrambled. -/
def dnTaken (x : Cx) (l : List DnBits) (scr : Scr) : Cx := (x.onL (fun k => { k with dn := l })).onB (fun b => { b with scrRx := scr, alGood := 0 })

theorem dnTaken_dn (x : Cx) (l : List DnBits) (scr : Scr) : (dnTaken x l scr).c.lk.dn = l := rfl
theorem dnTaken_ends (x : Cx) (l : List DnBits) (scr : Scr) : (dnTaken x l scr).c.cb.ends = x.c.cb.ends := rfl

theorem cbReceive_live {x : Cx} {d : DnBits} {l : List DnBits} (hst : x.c.lk.st = 2 ∨ x.c.lk.st = 5) (hd : x.c.lk.dn = d :: l) (e : DnBits) :
    ∃ y, EndsKept (dnTaken x l (scramble 60 x.c.cb.scrRx (pam d ^^^ e).toNat).1) y ∧ cbReceive x e =
      match rxDn (BitVec.ofNat 600 (scramble 60 x.c.cb.scrRx (pam d ^^^ e).toNat).2) with
      | .good h n _ => cbGood y h n
      | _ => cbBad (y.onB (fun b => { b with bad := min 65535 (b.bad + 1) })) := by
  refine ⟨_, cbCheck_kept _ (scramble 60 x.c.cb.scrRx (pam d ^^^ e).toNat).2
    (rxDn (BitVec.ofNat 600 (scramble 60 x.c.cb.scrRx (pam d ^^^ e).toNat).2)), ?_⟩
  have ha := cbAlign_none (x := x.onL (fun k => { k with dn := l })) hst (pam d ^^^ e)
  unfold cbReceive
  simp only [hd, ha]
  rfl

end Sys2Proof.Machine

/-! SUPPORT. Chapter 10, the flits of a link: the statement settled. -/

namespace Sys2Proof.Proofs
open Sys2Proof.Machine

/-- Settles O47: every branch of a live end's cycle sends through one function; a receiver's number moves with an accepted flit alone. -/
theorem flitsMove : Obligations.FlitsMove := by
  unfold Obligations.FlitsMove
  refine ⟨?_, ?_⟩
  · intro s n c hup x ready
    have hdue : ready x.c.sentAt → flitDue x = true := by
      intro h
      unfold flitDue
      cases hs : x.c.sentAt with
      | none => rfl
      | some k => exact decide_eq_true (by rw [hs] at h; exact h)
    refine ⟨fun hp hst hr => gives_crs (exec_downstreamFlit n c s) hup (fun t _ ht _ _ => ?_),
      fun hp hst hr => gives_crs (exec_downstreamFlit n c s) hup (fun t _ ht _ _ => ?_),
      fun h => gives_crs (exec_downstreamFlit n c s) hup (fun t _ ht _ _ => ?_),
      fun hl hr => gives_crs (exec_corbelUpstreamFlit n c s) hup (fun t _ ht _ _ => ?_),
      fun h => gives_crs (exec_corbelUpstreamFlit n c s) hup (fun t _ ht _ _ => ?_)⟩
    · rw [ht]
      obtain ⟨hdn, hat, hcb⟩ := downstreamFlit_live hp (hdue hr) hst
      exact ⟨hdn, hat, hcb⟩
    · obtain ⟨hlk, hat⟩ := downstreamFlit_align hp (hdue hr) hst
      have hst' : (downstreamFlit x).c.lk.st = x.c.lk.st := by rw [hlk]
      rw [ht]
      exact ⟨congrArg CLink.dn hlk, hat, hst'⟩
    · rw [ht, show downstreamFlit (crsBefore s n c) = _ from downstreamFlit_sent h]
    · rw [ht]
      obtain ⟨hupl, hat, hdn⟩ := cbUpstream_live hl (fun k hk => by rw [hk] at hr; exact hr)
      exact ⟨hupl, hat, hdn⟩
    · rw [ht, show cbUpstream (crsBefore s n c) = _ from cbUpstream_sent h]
  · intro s n c u d lu ld eu ed hup x vu vd hst
    refine ⟨fun hu => ?_, fun hd => ?_⟩
    · obtain ⟨y, hy, he⟩ := upstreamFlit_live hst hu eu
      have hyu : y.c.lk.up = lu := by rw [hy.lk, upTaken_up]
      have hye : y.c.lk.ends = x.c.lk.ends := by rw [hy.lk, upTaken_ends]
      refine ⟨fun h m b hg hlo hhi hs => gives_crs (exec_upstreamFlit n c eu s) hup (fun t _ ht _ _ => ?_),
        fun hbad => gives_crs (exec_upstreamFlit n c eu s) hup (fun t _ ht _ _ => ?_)⟩
      · have hc := courseGood_expected (x := y) (n := m) hlo hhi (by rw [hye]; exact hs)
        have hrun : upstreamFlit x eu = courseGood y h m := by
          rw [he, show rxUp (BitVec.ofNat 800 (scramble 80 x.c.lk.scrRx (pam u ^^^ eu).toNat).2) = _ from hg]
        rw [ht, show upstreamFlit (crsBefore s n c) eu = _ from hrun]
        rwa [hyu, hye] at hc
      · have hrun : ∃ w, EndsKept y w ∧ upstreamFlit x eu = courseBad w := by
          rcases hbad with hb | hb
          · exact ⟨_, .cnt (.refl y) _, by rw [he, show rxUp (BitVec.ofNat 800 (scramble 80 x.c.lk.scrRx (pam u ^^^ eu).toNat).2) = _ from hb]⟩
          · exact ⟨_, .cnt (.refl y) _, by rw [he, show rxUp (BitVec.ofNat 800 (scramble 80 x.c.lk.scrRx (pam u ^^^ eu).toNat).2) = _ from hb]⟩
        obtain ⟨w, hw, hrun⟩ := hrun
        have hc := courseBad_nak w
        rw [ht, show upstreamFlit (crsBefore s n c) eu = _ from hrun]
        rwa [hw.lk, hyu, hye] at hc
    · obtain ⟨y, hy, he⟩ := cbReceive_live hst hd ed
      have hyd : y.c.lk.dn = ld := by rw [hy.lk, dnTaken_dn]
      have hye : y.c.cb.ends = x.c.cb.ends := by rw [hy.ends, dnTaken_ends]
      refine ⟨fun h m b hg hlo hhi hs => gives_crs (exec_corbelFlitReceive n c ed s) hup (fun t _ ht _ _ => ?_),
        fun hbad => gives_crs (exec_corbelFlitReceive n c ed s) hup (fun t _ ht _ _ => ?_)⟩
      · obtain ⟨hlk, hc⟩ := cbGood_expected (x := y) (n := m) hlo hhi (by rw [hye]; exact hs)
        have hrun : cbReceive x ed = cbGood y h m := by
          rw [he, show rxDn (BitVec.ofNat 600 (scramble 60 x.c.cb.scrRx (pam d ^^^ ed).toNat).2) = _ from hg]
        rw [ht, show cbReceive (crsBefore s n c) ed = _ from hrun]
        rw [hye] at hc
        exact ⟨(congrArg CLink.dn hlk).trans hyd, hc⟩
      · have hrun : cbReceive x ed = cbBad (y.onB (fun b => { b with bad := min 65535 (b.bad + 1) })) := by
          rcases hbad with hb | hb
          · rw [he, show rxDn (BitVec.ofNat 600 (scramble 60 x.c.cb.scrRx (pam d ^^^ ed).toNat).2) = _ from hb]
          · rw [he, show rxDn (BitVec.ofNat 600 (scramble 60 x.c.cb.scrRx (pam d ^^^ ed).toNat).2) = _ from hb]
        obtain ⟨hlk, hc⟩ := cbBad_nak (y.onB (fun b => { b with bad := min 65535 (b.bad + 1) }))
        rw [ht, show cbReceive (crsBefore s n c) ed = _ from hrun]
        exact ⟨(congrArg CLink.dn hlk).trans hyd, hc.1.trans (congrArg LEnd.e hye), hc.2⟩

end Sys2Proof.Proofs

/-! SUPPORT. Chapter 12 (R200, R244, R249, R250): a burst is matched to its read and its line goes to the home. -/

namespace Sys2Proof.Machine

/-- The line of a read goes to its home; the read is served with it, and its entry is free once it has crossed. -/
def lineBack (x : Cx) (r : REnt) (line : Line) (poison uncor : Bool) : Cx :=
  let x := sendData x ⟨r.id, r.line, line, poison, uncor, false⟩
  let x := if r.srv then x else sendStat x (.served r.id)
  x.onC (fun c => { c with rdq := replaceFirst (fun e => e.ord == r.ord) (fun e => { e with ph := .back, srv := true }) c.rdq })

theorem lineBack_jdat {x : Cx} {c : CourseId} (hn : x.n = c) (r : REnt) (line : Line) (p u : Bool) :
    (lineBack x r line p u).z.jdat[c] = x.z.jdat[c] ++ [⟨r.id, r.line, line, p, u, false⟩] := by
  have h : (if r.srv then sendData x ⟨r.id, r.line, line, p, u, false⟩ else sendStat (sendData x ⟨r.id, r.line, line, p, u, false⟩) (.served r.id)).z.jdat =
      (sendData x ⟨r.id, r.line, line, p, u, false⟩).z.jdat :=
    iteInduction (motive := fun y : Cx => y.z.jdat = (sendData x ⟨r.id, r.line, line, p, u, false⟩).z.jdat) (fun _ => rfl) (fun _ => rfl)
  exact (congrArg (·[c]) h).trans (sendData_jdat _ hn)

theorem lineBack_mgt (x : Cx) (r : REnt) (line : Line) (p u : Bool) : (lineBack x r line p u).z.mgt = x.z.mgt :=
  iteInduction (motive := fun y : Cx => y.z.mgt = x.z.mgt) (c := r.srv = true) (fun _ => rfl) (fun _ => rfl)

theorem lineBack_lk (x : Cx) (r : REnt) (line : Line) (p u : Bool) : (lineBack x r line p u).c.lk = x.c.lk :=
  iteInduction (motive := fun y : Cx => y.c.lk = x.c.lk) (c := r.srv = true) (fun _ => rfl) (fun _ => rfl)

theorem lineBack_outRd (x : Cx) (r : REnt) (line : Line) (p u : Bool) : (lineBack x r line p u).c.outRd = x.c.outRd :=
  iteInduction (motive := fun y : Cx => y.c.outRd = x.c.outRd) (c := r.srv = true) (fun _ => rfl) (fun _ => rfl)

/-- A clean line goes to the home as it is. -/
theorem demandData_clean {x : Cx} {r : REnt} {code : Code} {v : Line} (h : (decodeNow x r.line code).1 = .clean v) :
    demandData x r code = lineBack x r v false false := by
  unfold demandData
  rw [← Prod.mk.eta (p := decodeNow x r.line code), h]
  rfl

/-- What is noted of an uncorrectable line: its counter, CRS[n]_ECC_LAST_UE and the status bit (R249). -/
def noteUe (x : Cx) (line : Nat) (mark : Option Nat) : Cx := (eccLast (x.cnt 0x1858) 0x1828 line (foundOf mark 4 []) false).sts 0x1818 1

theorem noteUe_z (x : Cx) (line : Nat) (mark : Option Nat) : RgOnly x.z (noteUe x line mark).z := by
  have h : RgOnly x.z (eccLast (x.cnt 0x1858) 0x1828 line (foundOf mark 4 []) false).z := (rgOnly_cxCnt x 0x1858).trans (rgOnly_putWide ..)
  exact h.trans (rgOnly_cxSts ..)

theorem eccLast_n (x : Cx) (o line : Nat) (f : Found) (p : Bool) : (eccLast x o line f p).n = x.n := rfl
theorem eccLast_c (x : Cx) (o line : Nat) (f : Found) (p : Bool) : (eccLast x o line f p).c = x.c := rfl

theorem noteUe_n (x : Cx) (line : Nat) (mark : Option Nat) : (noteUe x line mark).n = x.n := by
  unfold noteUe
  rw [Cx.sts_n, eccLast_n, Cx.cnt_n]

theorem noteUe_c (x : Cx) (line : Nat) (mark : Option Nat) : (noteUe x line mark).c = x.c := by
  unfold noteUe
  rw [Cx.sts_c, eccLast_c, Cx.cnt_c]

theorem eccLast_now (x : Cx) (o line : Nat) (f : Found) (p : Bool) : (eccLast x o line f p).now = x.now := rfl

theorem noteUe_now (x : Cx) (line : Nat) (mark : Option Nat) : (noteUe x line mark).now = x.now := by
  unfold noteUe
  rw [Cx.sts_now, eccLast_now, Cx.cnt_now]

/-- An uncorrectable line goes to the home as poison, with an event. -/
theorem demandData_bad {x : Cx} {r : REnt} {code : Code} (h : (decodeNow x r.line code).1 = .bad) : ∃ mark d,
    demandData x r code = lineBack ((noteUe x r.line mark).ev 0x0020 d) r 0 true true := by
  refine ⟨(decodeNow x r.line code).2, fmtA (noteUe x r.line (decodeNow x r.line code).2) r.line 4 0 0 false, ?_⟩
  unfold demandData
  rw [← Prod.mk.eta (p := decodeNow x r.line code), h]
  rfl

/-- An event that Potrie has not preceded in its cycle takes the next place of the queue (R77). -/
theorem evPost_first {z : Zmc} {now : Nat} (h : z.mgt.potCyc ≠ now / tuSck) (code island course : Nat) (d : List Word) :
    (tblGet [] (evPost z now code island course d).mgt.evq (z.mgt.evtNext.toNat % 256)).getD 1 0 =
      BitVec.ofNat 32 (code + island * 65536 + course * 16777216) := by
  unfold evPost
  simp only
  rw [if_neg (fun hc => h hc.1)]
  simp only [evPut, tblGet, tblFind_put_eq]
  rfl

theorem Cx.ev_z (x : Cx) (k : Nat) (d : List Word) : (x.ev k d).z = evPost x.z x.now k x.n.val x.n.val d := rfl

/-- The burst at the head, matched to the read `b`, has left. -/
def rdataTaken (x : Cx) (l : List (Nat × Nat × Code)) (b : Cmd) : Cx :=
  (x.onL (fun k => { k with rdata := l })).onC (fun c => { c with outRd := removeFirst (fun k => k == b) c.outRd })

theorem decodeNow_rdataTaken (x : Cx) (l : List (Nat × Nat × Code)) (b : Cmd) (line : Nat) (code : Code) :
    decodeNow (rdataTaken x l b) line code = decodeNow x line code := rfl

theorem rdata_demand {x : Cx} {sc rst : Nat} {code : Code} {l : List (Nat × Nat × Code)} {b : Cmd} {o : Nat} {r : REnt}
    (h : x.c.lk.rdata = (sc, rst, code) :: l) (hb : x.c.outRd.find? (fun b => b.sub == sc && b.stamp % 2 ^ 24 == rst) = some b) (hs : b.src = .rd o)
    (hr : x.c.rdq.find? (fun r => r.ord == o) = some r) (hp : r.ph ≠ .back) : rdata x = demandData (rdataTaken x l b) r code := by
  have hb' : (x.onL (fun k => { k with rdata := l })).c.outRd.find? (fun b => b.sub == sc && b.stamp % 2 ^ 24 == rst) = some b := hb
  have hr' : (rdataTaken x l b).c.rdq.find? (fun r => r.ord == o) = some r := hr
  unfold rdataTaken at hr' ⊢
  unfold rdata
  simp only [h, hb', hs, hr', if_neg hp]

end Sys2Proof.Machine

/-! SUPPORT. Chapter 12, read data: the statement settled. -/

namespace Sys2Proof.Proofs
open Sys2Proof.Machine

/-- Settles O50: a decoded line enters the joint in one way, whatever is noted of it. -/
theorem readDataDecoded : Obligations.ReadDataDecoded := by
  unfold Obligations.ReadDataDecoded
  intro s n c sc rst code l b o r hup x hrd hb hsrc hr hph
  have hrun := rdata_demand hrd hb hsrc hr hph
  have hlk : (rdataTaken x l b).c.lk.rdata = l := rfl
  refine ⟨fun v hv => gives_crs (exec_rdata n c s) hup (fun t _ ht hz _ => ?_), fun hbad hcyc => gives_crs (exec_rdata n c s) hup (fun t _ ht hz _ => ?_)⟩
  · have he : rdata x = lineBack (rdataTaken x l b) r v false false := hrun.trans (demandData_clean ((congrArg Prod.fst (decodeNow_rdataTaken ..)).trans hv))
    rw [ht, hz.jdat, hz.mgt_evtNext, show rdata (crsBefore s n c) = _ from he, lineBack_lk, lineBack_outRd, lineBack_jdat (c := c) rfl, lineBack_mgt]
    exact ⟨rfl, rfl, rfl, rfl⟩
  · obtain ⟨mark, d, hd⟩ := demandData_bad (x := rdataTaken x l b) (r := r) (code := code) ((congrArg Prod.fst (decodeNow_rdataTaken ..)).trans hbad)
    have he := hrun.trans hd
    have hue := noteUe_z (rdataTaken x l b) r.line mark
    have hn : (noteUe (rdataTaken x l b) r.line mark).n = c := noteUe_n ..
    have hc : (noteUe (rdataTaken x l b) r.line mark).c = (rdataTaken x l b).c := noteUe_c ..
    have hnow : (noteUe (rdataTaken x l b) r.line mark).now = x.now := noteUe_now ..
    have hm : (noteUe (rdataTaken x l b) r.line mark).z.mgt = x.z.mgt := hue.mgt
    have hj : (noteUe (rdataTaken x l b) r.line mark).z.jdat = x.z.jdat := hue.jdat
    generalize noteUe (rdataTaken x l b) r.line mark = y at he hn hc hnow hm hj
    have hev : (y.ev 0x0020 d).z.jdat = x.z.jdat := by rw [Cx.ev_z, evPost_jdat, hj]
    have hq := evPost_first (z := y.z) (now := y.now) (by rw [hm, hnow]; exact hcyc) 0x0020 y.n.val y.n.val d
    rw [ht, hz.jdat, hz.mgt_evq, show rdata (crsBefore s n c) = _ from he, lineBack_lk, lineBack_jdat (x := y.ev 0x0020 d) (c := c) ((Cx.ev_n ..).trans hn), lineBack_mgt, hev]
    refine ⟨?_, rfl, ?_⟩
    · rw [Cx.ev_c, hc]
      exact hlk
    · rw [show (y.ev 0x0020 d).z = evPost y.z y.now 0x0020 y.n.val y.n.val d from Cx.ev_z .., ← hn, ← congrArg Mgt.evtNext hm]
      exact hq

end Sys2Proof.Proofs

/-! SUPPORT. Chapters 4 and 12 (R77, R251 to R260): what posting and auditing change; the Pointing lap and the repeat tracker. -/

namespace Sys2Proof.Machine

/-! ### Events and audit records -/

/-- `b` differs from `a` at most in the event queue and the audit log. -/
def LogOnly (a b : Zmc) : Prop := ∃ evq evtNext wait potCyc potSeq potEvs aud audQ audNext chain,
  b = { a with mgt := { a.mgt with
    evq := evq, evtNext := evtNext, wait := wait, potCyc := potCyc, potSeq := potSeq, potEvs := potEvs
    aud := aud, audQ := audQ, audNext := audNext, chain := chain } }

namespace LogOnly

theorem refl (a : Zmc) : LogOnly a a := ⟨_, _, _, _, _, _, _, _, _, _, rfl⟩

theorem trans {a b c : Zmc} (h : LogOnly a b) (k : LogOnly b c) : LogOnly a c := by
  obtain ⟨_, _, _, _, _, _, _, _, _, _, rfl⟩ := h
  obtain ⟨_, _, _, _, _, _, _, _, _, _, rfl⟩ := k
  exact ⟨_, _, _, _, _, _, _, _, _, _, rfl⟩

variable {a b : Zmc}

theorem rg (h : LogOnly a b) : b.rg = a.rg := by obtain ⟨_, _, _, _, _, _, _, _, _, _, rfl⟩ := h; rfl
theorem cinfo (h : LogOnly a b) : b.cinfo = a.cinfo := by obtain ⟨_, _, _, _, _, _, _, _, _, _, rfl⟩ := h; rfl
theorem pol (h : LogOnly a b) : b.mgt.pol = a.mgt.pol := by obtain ⟨_, _, _, _, _, _, _, _, _, _, rfl⟩ := h; rfl
theorem offers (h : LogOnly a b) : b.mgt.offers = a.mgt.offers := by obtain ⟨_, _, _, _, _, _, _, _, _, _, rfl⟩ := h; rfl
theorem mbx (h : LogOnly a b) : b.mgt.mbx = a.mgt.mbx := by obtain ⟨_, _, _, _, _, _, _, _, _, _, rfl⟩ := h; rfl
theorem jobs (h : LogOnly a b) : b.mgt.jobs = a.mgt.jobs := by obtain ⟨_, _, _, _, _, _, _, _, _, _, rfl⟩ := h; rfl

end LogOnly

theorem logOnly_potPost (z : Zmc) (now code island course : Nat) (d : List Word) : LogOnly z (potPost z now code island course d) := by
  unfold potPost
  split
  · unfold potPut
    simp only
    split
    · exact ⟨_, _, _, _, _, _, _, _, _, _, rfl⟩
    · exact ⟨_, _, _, _, _, _, _, _, _, _, rfl⟩
  · exact ⟨_, _, _, _, _, _, _, _, _, _, rfl⟩

theorem logOnly_audit (z : Zmc) (r : AudRec) : LogOnly z (audit z r) := by
  unfold audit
  split
  · exact ⟨_, _, _, _, _, _, _, _, _, _, rfl⟩
  · exact ⟨_, _, _, _, _, _, _, _, _, _, rfl⟩

/-! ### Status bits -/

/-- A posted status bit reads 1: the count of its register stands above the bits (Table 2-1). -/
theorem getF_post {b : Nat} (hb : b < 24) (z : Zmc) (now off : Nat) : getF (post z now off b) off b b = 1 := by
  unfold getF post postBits
  rw [wordAt_put]
  generalize wordAt (logHw z now off) off ||| swCleared (logHw z now off) now off = w
  have h24 : ((w ||| 1#32 <<< b) + 0x01000000#32).toNat % 2 ^ 24 = (w ||| 1#32 <<< b).toNat % 2 ^ 24 := by
    rw [BitVec.toNat_add, Nat.mod_mod_of_dvd _ (by decide), show (0x01000000#32).toNat = 2 ^ 24 by decide, Nat.add_mod_right]
  have hbit : ((w ||| 1#32 <<< b) + 0x01000000#32).toNat.testBit b = true := by
    have h1 := congrArg (fun n => n.testBit b) h24
    simp only [Nat.testBit_mod_two_pow, hb, decide_true, Bool.true_and] at h1
    rw [h1]
    have h2 : b < 32 := by omega
    rw [BitVec.testBit_toNat, BitVec.getLsbD_or, BitVec.getLsbD_shiftLeft]
    simp [h2]
  rw [bitsOf, show b + 1 - b = 1 by omega]
  rw [Nat.testBit_eq_decide_div_mod_eq, decide_eq_true_eq] at hbit
  rw [Nat.shiftRight_eq_div_pow, pow_one]
  exact hbit

/-! ### The Pointing lap -/

/-- What a Pointing read that is committed changes: it is outstanding, and the queues have stayed. -/
theorem ptRead_some {x y : Cx} {line : Nat} {e : Option Nat} (h : ptRead x line e = some y) : NotedOnly x y ∧
    y.c.pt = { x.c.pt with out := x.c.pt.out ++ [(line, e, false)] } ∧ y.c.rdq = x.c.rdq ∧ y.c.wrq = x.c.wrq := by
  unfold ptRead at h
  obtain ⟨-, h⟩ := Option.ite_none_left_eq_some.1 h
  simp only at h
  split at h
  · cases h
  next l _ =>
    obtain ⟨_, _, _, _, _, _, _, _, hc⟩ := commitAll_only l false x
    have hn := commitAll_noted l false x
    generalize commitAll x l false = w at h hc hn
    cases h
    refine ⟨(hn.onC _).cnt _, ?_⟩
    rw [Cx.cnt_c]
    simp only [Cx.onC, hc, and_self]

/-- The next line of the lap is read, and the lap moves on (R251). -/
theorem pointingRead_lap {x y : Cx} (hok : commitOk x = true) (hsr : x.c.sr.st = 0) (hlen : x.c.pt.out.length < 4) (hen : x.f 0x1900 0 0 = 1)
    (hq : ptQueued x = []) (hpace : ∀ a, x.c.pt.lastAt = some a → a + x.f 0x1900 16 1 * 16 * tuPerNs ≤ x.now)
    (hheld : ptHeld x (ptNext x (regionCount x + 1) x.c.pt.pos) = false) (hend : ptNext x (regionCount x + 1) x.c.pt.pos + 1 < lineCount x)
    (hy : ptRead x (ptNext x (regionCount x + 1) x.c.pt.pos) none = some y) :
    pointingRead x = y.onC (fun c => { c with pt := { c.pt with pos := ptNext x (regionCount x + 1) x.c.pt.pos + 1, lastAt := some x.now } }) := by
  have hlap : pointingRead x = ptLap x := by
    unfold pointingRead
    rw [if_neg (by simp [hok, bgRuns, hsr, hen]; omega), hq]
    rfl
  rw [hlap]
  unfold ptLap
  simp only
  rw [if_neg (by cases hs : x.c.pt.lastAt with | none => simp | some a => simpa using hpace a hs), if_neg (by omega), if_neg (by rw [hheld]; decide), hy]
  simp only
  rw [if_neg (by omega)]

theorem lapOverdue_late {x : Cx} (hen : x.f 0x1908 31 0 ≠ 0) (hlate : x.f 0x1908 31 0 < lapAge x / tuPerS) (ho : x.c.pt.ovr = false)
    (hu : crsUp x = true) : lapOverdue x = ((x.onC (fun c => { c with pt := { c.pt with ovr := true } })).sts 0x1910 1).ev 0x0023 (fmtC x.n.val 0 (lapAge x / tuPerS) 0) :=
  if_pos ⟨hen, hlate, ho, hu⟩

theorem lapOverdue_told {x : Cx} (ho : x.c.pt.ovr = true) : lapOverdue x = x :=
  if_neg (fun h => by rw [ho] at h; exact absurd h.2.2.1 (by decide))

/-! ### The repeat tracker -/

theorem modRpt_same (x : Cx) (e : Fin 64) (f : Rpt → Rpt) : (modRpt x e f).c.rpt[e] = f x.c.rpt[e] := modV_same ..

theorem modRpt_other (x : Cx) {e j : Fin 64} (f : Rpt → Rpt) (h : j ≠ e) : (modRpt x e f).c.rpt[j] = x.c.rpt[j] := modV_other _ _ _ _ (Ne.symm h)

theorem rtExpiry_due {x : Cx} {e : Fin 64} (hon : rptOn x = true) (hst : x.c.rpt[e].st = 1 ∨ x.c.rpt[e].st = 3) (hh : x.f 0x1A00 12 5 ≠ 0)
    (ht : x.c.rpt[e].corr + x.f 0x1A00 12 5 * 3600 * tuPerS ≤ x.now) :
    rtExpiry x e = (modRpt x e (fun r => { r with st := 0, since := x.now })).cnt 0x1A58 := if_pos ⟨hon, hst, hh, ht⟩

/-- The devices of a HARD line that no mark stands for (Table 12-6). -/
def unmarked (x : Cx) (r : Rpt) : List Nat :=
  let a := coordOf x r.line
  ((List.range 10).filter (fun d => r.devs.testBit d)).filter (fun d => markOf x (prankOf x a.lr) a.sub != some d)

theorem hardLine_event {x : Cx} {e : Fin 64} {ws : List Word} (hst : x.c.rpt[e].st = 4) (hev : x.c.rpt[e].evt = some ws) (hp : potrieOn x.z = true) :
    hardLine x e = match unmarked x x.c.rpt[e] with
      | [] => modRpt (modRpt x e (fun r => { r with evt := none })) e (fun r => { r with st := 0, since := x.now })
      | [d] => hardOne (modRpt x e (fun r => { r with evt := none })) x.c.rpt[e].line d ws
      | _ => modRpt x e (fun r => { r with evt := none }) := by
  unfold hardLine
  simp only
  rw [show x.c.rpt[e].evt = some ws from hev]
  simp only
  rw [if_neg (by simp [hp]; exact hst)]
  rfl

/-- A policy that carries out neither kind of repair at once: the offer is made and stands. -/
theorem makeOffer_stands {x : Cx} (hpol : repairPol x.z &&& 3#32 = 0#32) {kind : Nat} (hk : kind = 1 ∨ kind = 2) (line dev : Nat) (ws : List Word) :
    (makeOffer x kind line dev ws).c = x.c ∧ (makeOffer x kind line dev ws).z.mgt.offers = x.z.mgt.offers ++
      [{ id := x.z.mgt.offerNext, crs := x.n.val, kind := kind, line := line, dev := dev, fmtA := ws }] := by
  have hbit : (repairPol x.z).getLsbD (kind - 1) = false := by
    have h := congrArg (fun w : Word => w.getLsbD (kind - 1)) hpol
    simp only [BitVec.getLsbD_and] at h
    rcases hk with rfl | rfl <;> simpa using h
  let z := { x.z with mgt := { x.z.mgt with offerNext := x.z.mgt.offerNext % 65535 + 1 } }
  let d := BitVec.ofNat 32 (x.z.mgt.offerNext + kind * 2 ^ 16) :: ws.drop 1
  let r : AudRec := ⟨pkgNs (potPost z x.now 8 18 x.n.val d) x.now, 0, 0, 7, 0, 0, 3, 0, 0⟩
  have hl : LogOnly z (audit (potPost z x.now 8 18 x.n.val d) r) := (logOnly_potPost ..).trans (logOnly_audit ..)
  have hpol' : repairPol (audit (potPost z x.now 8 18 x.n.val d) r) = repairPol x.z := by
    unfold repairPol
    rw [hl.pol]
  have hrun : makeOffer x kind line dev ws = (x.onZ (fun _ => audit (potPost z x.now 8 18 x.n.val d) r)).onZ (fun z => { z with mgt := { z.mgt with
      offers := z.mgt.offers ++ [{ id := x.z.mgt.offerNext, crs := x.n.val, kind := kind, line := line, dev := dev, fmtA := ws }] } }) := by
    refine if_neg ?_
    change ¬(repairPol (audit (potPost z x.now 8 18 x.n.val d) r)).getLsbD (kind - 1) = true
    rw [hpol', hbit]
    decide
  rw [hrun]
  exact ⟨rfl, congrArg (· ++ _) hl.offers⟩

/-- A device's hard line is kept for a day (R260). -/
def noteHard (x : Cx) (line dev : Nat) : Cx :=
  let a := coordOf x line
  let rec_ : HardRec := { t := x.now, crs := x.n.val, dev := dev, sub := a.sub, lrank := a.lr, row := a.row, bank := a.bg * 4 + a.bk }
  x.onZ (fun z => { z with mgt := { z.mgt with hist := z.mgt.hist.filter (fun h => decide (x.now ≤ h.t + 86400 * tuPerS)) ++ [rec_] } })

/-- A HARD line of one device, with no mark in place, becomes an offer (R260). -/
theorem hardOne_offers {x : Cx} {line dev : Nat} (hm : markOf x (prankOf x (coordOf x line).lr) (coordOf x line).sub = none)
    (hpol : repairPol x.z &&& 3#32 = 0#32) (ws : List Word) : ∃ kind, (hardOne x line dev ws).c = x.c ∧ (hardOne x line dev ws).z.mgt.offers =
      x.z.mgt.offers ++ [{ id := x.z.mgt.offerNext, crs := x.n.val, kind := kind, line := line, dev := dev, fmtA := ws }] := by
  unfold hardOne
  simp only
  split
  · split
    · next m hm' => exact absurd (hm.symm.trans hm') (by simp)
    · exact ⟨2, makeOffer_stands (x := noteHard x line dev) hpol (.inr rfl) line dev ws⟩
  · exact ⟨1, makeOffer_stands (x := noteHard x line dev) hpol (.inl rfl) line dev ws⟩

end Sys2Proof.Machine

/-! SUPPORT. Chapter 12, the Pointing lap and the repeat tracker: the statement settled. -/

namespace Sys2Proof.Proofs
open Sys2Proof.Machine

/-- Settles O54: the lap's read is one commitment; a HARD line is handled by the devices that no mark stands for. -/
theorem pointingAndTracker : Obligations.PointingAndTracker := by
  unfold Obligations.PointingAndTracker
  refine ⟨?_, ?_⟩
  · intro s n c hup x p
    refine ⟨fun hok hsr hlen hen hq hpace hheld hend hy => gives_crs (exec_pointingRead n c s) hup (fun t _ ht _ _ => ?_),
      fun hen hlate ho hu => gives_crs (exec_lapOverdue n c s) hup (fun t hn ht hz _ => ?_),
      fun ho => gives_crs (exec_lapOverdue n c s) hup (fun t _ ht _ _ => ?_)⟩
    · obtain ⟨y, hy⟩ := Option.isSome_iff_exists.1 hy
      have he := pointingRead_lap hok hsr hlen hen hq hpace hheld hend hy
      obtain ⟨-, hpt, hr, hw⟩ := ptRead_some hy
      rw [ht, show pointingRead (crsBefore s n c) = _ from he]
      exact ⟨rfl, rfl, congrArg Pointing.out hpt, hr, hw⟩
    · have he := lapOverdue_late hen hlate ho hu
      have hf : getF (lapOverdue x).z (crsBase c.val + 0x1910) 1 1 = 1 := by
        rw [he, Cx.ev_z, getF, wordAt_evPost]
        exact getF_post (by decide) x.z x.now (crsBase c.val + 0x1910)
      refine ⟨?_, (congrArg (fun w => bitsOf w 1 1) (hz.2 _ (crsBase_ne_ref c 0x1910))).trans hf⟩
      rw [ht, show lapOverdue (crsBefore s n c) = _ from he, Cx.ev_c, Cx.sts_c]
      rfl
    · rw [ht, show lapOverdue (crsBefore s n c) = _ from lapOverdue_told ho]
  · intro s n c e ws d hup x a others
    have hoff : ∀ f, ∀ j, j ≠ e → (modRpt x e f).c.rpt[j] = x.c.rpt[j] := fun f j hj => modRpt_other x f hj
    refine ⟨fun hon hst hh hto => gives_crs (exec_rtWatchExpiry n c e s) hup (fun t _ ht _ _ => ?_),
      fun hst hev hp hall => gives_crs (exec_hardLineHandling n c e s) hup (fun t _ ht _ _ => ?_),
      fun hst hev hp hm hone hpol => gives_crs (exec_hardLineHandling n c e s) hup (fun t hn ht hz _ => ?_)⟩
    · rw [ht, show rtExpiry (crsBefore s n c) e = _ from rtExpiry_due hon hst hh hto, Cx.cnt_c]
      exact ⟨congrArg Rpt.st (modRpt_same ..), hoff _⟩
    · have hnone : unmarked x x.c.rpt[e] = [] :=
        List.filter_eq_nil_iff.2 (fun k hk => by
          obtain ⟨hk, hb⟩ := List.mem_filter.1 hk
          have hk' : markOf x (prankOf x (coordOf x x.c.rpt[e].line).lr) (coordOf x x.c.rpt[e].line).sub = some k := hall k (List.mem_range.1 hk) hb
          rw [hk', bne_self_eq_false]
          decide)
      have he := hardLine_event hst hev hp
      rw [hnone] at he
      rw [ht, show hardLine (crsBefore s n c) e = _ from he]
      refine ⟨congrArg Rpt.st (modRpt_same ..), ?_, fun j hj => (modRpt_other _ _ hj).trans (hoff _ j hj)⟩
      rw [modRpt_same, modRpt_same]
    · have hd : unmarked x x.c.rpt[e] = [d] := by
        unfold unmarked
        simp only [hone]
        rw [List.filter_singleton, show markOf x (prankOf x (coordOf x x.c.rpt[e].line).lr) (coordOf x x.c.rpt[e].line).sub = none from hm]
        rfl
      have he := hardLine_event hst hev hp
      rw [hd] at he
      obtain ⟨k, hc, ho⟩ := hardOne_offers (x := modRpt x e (fun r => { r with evt := none })) (line := x.c.rpt[e].line) (dev := d) hm hpol ws
      rw [ht, hz.mgt_offers, show hardLine (crsBefore s n c) e = _ from he, hc]
      exact ⟨modRpt_same .., hoff _, k, ho⟩

end Sys2Proof.Proofs

/-! SUPPORT. The close of a command's instant: it keeps every message sent, and the mirror table where no course was newly fenced. -/

namespace Sys2Proof.Machine

/-- A field of the block that every element of a fold leaves alone. -/
theorem foldl_field {α β : Type} {f : Zmc → α → Zmc} (g : Zmc → β) (hf : ∀ z a, g (f z a) = g z) (l : List α) (z : Zmc) : g (l.foldl f z) = g z := by
  induction l generalizing z with
  | nil => rfl
  | cons a l ih => rw [List.foldl_cons, ih, hf]

theorem potFinish_out (x : Sys) : (potFinish x).z.out = x.z.out := by
  unfold potFinish
  split
  · rfl
  · show (potCommit _ x.z x.now).out = x.z.out
    simp only [potCommit, refCommit, audit_out]
    exact audit_out ..

theorem potFinish_pair (x : Sys) : (potFinish x).z.pair = x.z.pair := by
  unfold potFinish
  split
  · rfl
  · show (potCommit _ x.z x.now).pair = x.z.pair
    simp only [potCommit, refCommit, audit_pair]
    exact audit_pair ..

theorem rangeFenced_out (z : Zmc) (c : CourseId) (r : Nat) : (rangeFenced z c r).out = z.out := by
  unfold rangeFenced; simp only
  split <;> rfl

theorem mem_pairFenced_out {z : Zmc} {m : OutMsg} (h : m ∈ z.out) (c : CourseId) : m ∈ (pairFenced z c).out := by
  have e : ((List.range 8).foldl (fun z r => rangeFenced z c r) z).out = z.out := foldl_field Zmc.out (fun z r => rangeFenced_out z c r) _ z
  unfold pairFenced; simp only
  split
  · exact List.mem_append_left _ (by rw [e]; exact h)
  · rw [e]; exact h

theorem mem_closeCmd_out {x y : Sys} {m : OutMsg} (h : m ∈ y.z.out) : m ∈ (closeCmd x y).z.out := by
  have fold (l : List CourseId) : ∀ y : Sys, m ∈ y.z.out → m ∈ (l.foldl (fun y c => onZmc y (fun z _ => pairFenced z c)) y).z.out := by
    induction l with
    | nil => exact fun _ h => h
    | cons c l ih =>
        intro y h
        rw [List.foldl_cons]
        refine ih (onZmc y (fun z _ => pairFenced z c)) ?_
        rw [onZmc_z]
        exact mem_pairFenced_out h c
  unfold closeCmd
  rw [potFinish_out]
  exact fold _ y h

theorem closeCmd_pair {x y : Sys} (h : y.z.cinfo = x.z.cinfo) : (closeCmd x y).z.pair = y.z.pair := by
  unfold closeCmd
  rw [newFences_of_cinfo_eq h, potFinish_pair]; rfl

/-- A row of the whole block, with everything its close keeps. -/
theorem gives_all {i : Instr} {s : State} {n : Nat} {f : Sys → Sys} {P : State → Prop} (e : exec i s = cmd s n f)
    (h : ∀ t : State, t.sys.crs = (f (before s n)).crs → CloseOnly (f (before s n)).z t.sys.z → (∀ m ∈ (f (before s n)).z.out, m ∈ t.sys.z.out) →
      ((f (before s n)).z.cinfo = s.sys.z.cinfo → t.sys.z.pair = (f (before s n)).z.pair) → P t) : Gives i s P :=
  gives_cmd e (h _ (closeCmd_crs ..) (closeCmd_only ..) (fun _ => mem_closeCmd_out) (fun k => closeCmd_pair (k.trans (startAt_cinfo ..).symm)))

/-! ### Tests of memories -/

/-- The engines saw nothing wrong in this memory: no wrong row, every step executed and the reference signature. -/
def CleanObs (bg : Nat) (o : BistObs) : Prop := o.rows1 = [] ∧ o.steps = bistLen ((memWords o.mem).getD 0) bg ∧ o.sig = Config.bistRef o.mem bg

/-- A memory whose observation is clean passes, with or without repairs (Table 16-8). -/
theorem bistMem_passes {obs : List BistObs} {bg : Nat} (h : ∀ o ∈ obs, CleanObs bg o) (len : Nat) (z : Zmc) (id : Nat) :
    ∃ r : BistRec, (r.result = 2 ∨ r.result = 3) ∧ bistMem obs bg len z id = { z with boot := { z.boot with bist := tblPut z.boot.bist id r } } := by
  unfold bistMem
  simp only
  generalize ho : (obs.find? (fun o => o.mem == id)).getD ⟨id, [], [], 0, 0, 0, bistLen ((memWords id).getD 0) bg, Config.bistRef id bg⟩ = o
  have clean : o.rows1 = [] ∧ o.steps = bistLen ((memWords id).getD 0) bg ∧ o.sig = Config.bistRef id bg := by
    cases hf : obs.find? (fun o => o.mem == id) with
    | none => rw [hf] at ho; subst ho; exact ⟨rfl, rfl, rfl⟩
    | some o' =>
        rw [hf] at ho
        have hm : o'.mem = id := by simpa using List.find?_some hf
        subst ho
        exact hm ▸ h o' (List.mem_of_find?_eq_some hf)
  obtain ⟨h1, h2, h3⟩ := clean
  simp only [h1, h2, h3, bne_self_eq_false, Bool.false_and, Bool.false_eq_true, if_false, ne_eq, not_true_eq_false]
  exact ⟨_, by dsimp only; split <;> simp, rfl⟩

/-- Only the records of the tests differ. -/
def BistOnly (a b : Zmc) : Prop := ∃ t, b = { a with boot := { a.boot with bist := t } }

theorem BistOnly.trans {a b c : Zmc} (h : BistOnly a b) (k : BistOnly b c) : BistOnly a c := by
  obtain ⟨t, rfl⟩ := h; obtain ⟨u, rfl⟩ := k; exact ⟨u, rfl⟩

/-- Every memory of a list of clean observations passes, and nothing but the records moves. -/
theorem foldl_bistMem {obs : List BistObs} {bg : Nat} (h : ∀ o ∈ obs, CleanObs bg o) (len : Nat → Nat) (l : List Nat) (z : Zmc) :
    BistOnly z (l.foldl (fun z id => bistMem obs bg (len id) z id) z) ∧
      ∀ id, (id ∈ l ∨ (tblGet {} z.boot.bist id).result = 2 ∨ (tblGet {} z.boot.bist id).result = 3) →
        (tblGet {} (l.foldl (fun z id => bistMem obs bg (len id) z id) z).boot.bist id).result = 2 ∨
        (tblGet {} (l.foldl (fun z id => bistMem obs bg (len id) z id) z).boot.bist id).result = 3 := by
  induction l generalizing z with
  | nil => exact ⟨⟨_, rfl⟩, fun id k => k.resolve_left (by simp)⟩
  | cons a l ih =>
      obtain ⟨r, hr, e⟩ := bistMem_passes h (len a) z a
      obtain ⟨only, pass⟩ := ih (bistMem obs bg (len a) z a)
      rw [List.foldl_cons]
      refine ⟨BistOnly.trans ⟨_, e⟩ only, fun id k => pass id ?_⟩
      by_cases hid : id = a
      · subst hid
        right
        rw [e]
        simpa [tblGet, tblFind_put_eq] using hr
      · rcases k with k | k
        · exact Or.inl ((List.mem_cons.1 k).resolve_left hid)
        · right
          rw [e]
          simpa [tblGet, tblFind_put_ne hid] using k

end Sys2Proof.Machine

/-! SUPPORT. The Link's wake keeps the course it is of, and a start of the link keeps every fence. -/

namespace Sys2Proof.Machine

/-! ### The course of a wake -/

theorem placePre_n (x : Cx) (s : Fin 2) (from_ : Nat) (lrs : List Nat) : (placePre x s from_ lrs).1.n = x.n := by
  have fold (l : List Nat) : ∀ p : Cx × Nat, (l.foldl (fun p lr =>
      let (x, prev) := p
      let l := x.c.cb.hold[s] ++ x.c.cb.iss[s]
      let v := cbFree l (2 * l.length + 1) (max (prev + 1) (preAfter x l lr))
      (x.onB (fun b => { b with hold := modV b.hold s (fun h => h ++ [{ op := 8, sub := s.val, lr := lr, stamp := v, ord := 1 }]) }), v)) p).1.n = p.1.n := by
    induction l with
    | nil => exact fun _ => rfl
    | cons a l ih => exact fun p => (ih _).trans rfl
  exact fold lrs (x, from_ - 1)

theorem safeSub_n (x : Cx) (s : Fin 2) : (safeSub x s).n = x.n := by
  unfold safeSub
  exact iteInduction (motive := fun y : Cx => y.n = x.n) (fun _ => rfl) (fun _ => placePre_n ..)

theorem cbSafeAct_n (x : Cx) : (cbSafeAct x).n = x.n := foldl_n safeSub_n _ x

theorem cbSample_n (x : Cx) : (cbSample x).n = x.n := by
  unfold cbSample
  simp only [Cx.onB_n]
  apply foldl_n
  exact fun _ _ => rfl

theorem dramExec_n (x : Cx) (b : Cmd) : (dramExec x b).n = x.n := by
  unfold dramExec
  refine iteInduction (motive := fun y : Cx => y.n = x.n) (fun _ => rfl) (fun _ => ?_)
  refine iteInduction (motive := fun y : Cx => y.n = x.n) (fun _ => ?read) (fun _ => ?_)
  case read =>
    have k (code : BitVec 640) : (if x.cf 0x14 7 0 = 0 then x else
        x.onB (fun c => { c with reads := c.reads ++ [{ sub := b.sub, lr := b.lr, stamp := b.stamp, code := code }] })).n = x.n :=
      iteInduction (motive := fun y : Cx => y.n = x.n) (fun _ => rfl) (fun _ => rfl)
    exact iteInduction (motive := fun y : Cx => y.n = x.n) (fun _ => k _) (fun _ => k _)
  refine iteInduction (motive := fun y : Cx => y.n = x.n) (fun _ => ?write) (fun _ => ?_)
  case write =>
    have k (tag key : Nat) : (match tblFind x.c.cb.wbuf tag with
        | some d => if x.cf 0x14 15 8 = 0 then x else x.onB (fun c => { c with dram := tblPut c.dram key d, wbuf := tblDel c.wbuf tag })
        | none => x).n = x.n := by
      split
      · exact iteInduction (motive := fun y : Cx => y.n = x.n) (fun _ => rfl) (fun _ => rfl)
      · rfl
    exact iteInduction (motive := fun y : Cx => y.n = x.n) (fun _ => k _ _) (fun _ => k _ _)
  refine iteInduction (motive := fun y : Cx => y.n = x.n) (fun _ => ?pre) (fun _ => ?_)
  case pre => apply foldl_n; exact fun _ _ => rfl
  refine iteInduction (motive := fun y : Cx => y.n = x.n) (fun _ => rfl) (fun _ => ?_)
  refine iteInduction (motive := fun y : Cx => y.n = x.n) (fun _ => rfl) (fun _ => ?_)
  exact iteInduction (motive := fun y : Cx => y.n = x.n) (fun _ => rfl) (fun _ => rfl)

theorem cbConfirm_n (x : Cx) (b : Cmd) : (cbConfirm x b).n = x.n := rfl

theorem cbIssueCmd_n (x : Cx) (s : Fin 2) (b : Cmd) (fb : Option (BitVec 40)) : (cbIssueCmd x s b fb).n = x.n := by
  have pick (p : Prop) [Decidable p] (a b : Cx) (ha : a.n = x.n) (hb : b.n = x.n) : (if p then a else b).n = x.n :=
    iteInduction (motive := fun y : Cx => y.n = x.n) (fun _ => ha) (fun _ => hb)
  unfold cbIssueCmd
  cases fb with
  | none =>
      refine pick _ _ _ ?_ (pick _ _ _ ?_ ?_)
      · rw [dramExec_n, Cx.onB_n]
      · rw [cbConfirm_n, dramExec_n, Cx.onB_n]
      · rw [Cx.onB_n, dramExec_n, Cx.onB_n]
  | some v =>
      refine pick _ _ _ ?_ (pick _ _ _ ?_ ?_)
      · rw [Cx.onB_n, cbSample_n, dramExec_n, Cx.onB_n]
      · rw [cbConfirm_n, Cx.onB_n, cbSample_n, dramExec_n, Cx.onB_n]
      · rw [Cx.onB_n, Cx.onB_n, cbSample_n, dramExec_n, Cx.onB_n]

theorem cbFlush_n (x : Cx) : (cbFlush x).n = x.n := by
  unfold cbFlush
  apply foldl_n
  intro y s
  apply foldl_n
  exact fun w b => cbIssueCmd_n w s b none

theorem cbFromDown_n (x : Cx) : (cbFromDown x).n = x.n := by
  unfold cbFromDown
  rw [Cx.onB_n, cbFlush_n]

theorem safeReturn_n (x : Cx) (confs : List Nat) : (safeReturn x confs).n = x.n := (safeReturn_kept x confs).n

theorem cbWrite_n (x : Cx) (off m : Nat) (dly : Option (Nat × Nat)) (v : Word) (be : Nat) : (cbWrite x off m dly v be).n = x.n := by
  unfold cbWrite
  cases dly with
  | some d =>
      refine iteInduction (motive := fun y : Cx => y.n = x.n) (fun _ => rfl) (fun _ => ?_)
      exact iteInduction (motive := fun y : Cx => y.n = x.n) (fun _ => rfl) (fun _ => rfl)
  | none =>
      refine iteInduction (motive := fun y : Cx => y.n = x.n) (fun _ => rfl) (fun _ => ?_)
      refine iteInduction (motive := fun y : Cx => y.n = x.n) (fun _ => rfl) (fun _ => ?_)
      exact iteInduction (motive := fun y : Cx => y.n = x.n) (fun _ => rfl) (fun _ => rfl)

theorem applyRatio_n (x : Cx) (cyc : Nat) : (applyRatio x cyc).n = x.n := by
  unfold applyRatio
  exact iteInduction (motive := fun y : Cx => y.n = x.n) (fun _ => rfl) (fun _ => rfl)

theorem setMode_n (x : Cx) (t : Nat) : (setMode x t).n = x.n :=
  setMode_cases (P := fun y => y.n = x.n) x t (fun _ h _ _ _ _ _ _ _ _ => h)

theorem potrieMode_n (x : Cx) (m sel : Nat) : (potrieMode x m sel).n = x.n :=
  potrieMode_cases (P := fun y => y.n = x.n) x m sel (fun _ h => h.n)

theorem wakeTarget_n (x : Cx) : (wakeTarget x).n = x.n := by
  unfold wakeTarget
  split
  · rfl
  · exact iteInduction (motive := fun y : Cx => y.n = x.n) (fun _ => potrieMode_n _ _ _) (fun _ => rfl)

theorem nakGaps_n (x : Cx) (v : Nat) : (nakGaps x v).n = x.n := rfl

theorem linkWake_n (x : Cx) (d : Bool) : (linkWake x d).n = x.n := rfl

theorem linkSync_n (x : Cx) : (linkSync x).n = x.n := rfl

theorem rateThrough_n (x : Cx) : (rateThrough x).n = x.n := by
  unfold rateThrough
  refine iteInduction (motive := fun y : Cx => y.n = x.n) (fun _ => ?_) (fun _ => rfl)
  rw [nakGaps_n, Cx.sts_n, linkSync_n, applyRatio_n, setMode_n]

theorem alignWake_n (x : Cx) (oneWay : Nat) : (alignWake x oneWay).n = x.n := by
  unfold alignWake
  have pick (p : Prop) [Decidable p] (a b : Cx) (ha : a.n = x.n) (hb : b.n = x.n) : (if p then a else b).n = x.n :=
    iteInduction (motive := fun y : Cx => y.n = x.n) (fun _ => ha) (fun _ => hb)
  apply pick <;> simp only [safeReturn_n, linkSync_n, Cx.onZ_n, Cx.onL_n, Cx.onB_n] <;> apply pick <;>
    simp only [Cx.onC_n, cbFromDown_n, applyRatio_n] <;> exact pick _ _ _ (cbSafeAct_n x) rfl

theorem wakeDone_n (x : Cx) : (wakeDone x).n = x.n := by
  unfold wakeDone
  refine iteInduction (motive := fun y : Cx => y.n = x.n) (fun _ => rfl) (fun _ => ?_)
  rw [wakeTarget_n, nakGaps_n, Cx.onC_n, cbWrite_n]

theorem wakeThrough_n (x : Cx) : (wakeThrough x).n = x.n := by
  unfold wakeThrough
  simp only
  rw [rateThrough_n, wakeDone_n, Cx.onL_n, alignWake_n, linkWake_n, setMode_n, potrieMode_n]

/-! ### Fences under a start of the link -/

/-- The fences and the bring-up's record are as they were. -/
structure FencesKept (a b : Zmc) : Prop where
  fence : ∀ d : CourseId, b.cinfo[d].fence = a.cinfo[d].fence
  boot : b.boot = a.boot

namespace FencesKept

theorem refl (a : Zmc) : FencesKept a a := ⟨fun _ => rfl, rfl⟩

theorem trans {a b c : Zmc} (h : FencesKept a b) (k : FencesKept b c) : FencesKept a c := ⟨fun d => (k.fence d).trans (h.fence d), k.boot.trans h.boot⟩

theorem of_info {a b : Zmc} {c : CourseId} {i : CInfo} (h : b.cinfo[c] = i) (e : i.fence = a.cinfo[c].fence) (o : ∀ d, d ≠ c → b.cinfo[d] = a.cinfo[d])
    (k : b.boot = a.boot) : FencesKept a b := by
  refine ⟨fun d => ?_, k⟩
  by_cases hd : d = c
  · rw [hd, h, e]
  · rw [o d hd]

end FencesKept

theorem setMode_fences (x : Cx) (t : Nat) : FencesKept x.z (setMode x t).z :=
  setMode_cases (P := fun y => FencesKept x.z y.z) x t (fun y _ hi ho hb _ _ _ _ _ => .of_info hi rfl ho hb)

theorem potrieMode_fences (x : Cx) (m sel : Nat) : FencesKept x.z (potrieMode x m sel).z :=
  potrieMode_cases (P := fun y => FencesKept x.z y.z) x m sel (fun _ h =>
    ⟨fun d => congrArg (fun v : Vector CInfo 16 => v[d].fence) h.cinfo, h.boot⟩)

theorem linkStart_fences (x : Cx) : FencesKept x.z (linkStart x).z := by
  unfold linkStart
  refine iteInduction (motive := fun y : Cx => FencesKept x.z y.z) (fun _ => (setMode_fences x x.now).trans ?_) (fun _ => .refl x.z)
  generalize setMode x x.now = y
  exact .of_info (c := y.n) (modV_same ..) rfl (fun d hd => modV_other _ _ _ _ (Ne.symm hd)) rfl

theorem wakeLink_fences (x : Cx) (m sel : Nat) : FencesKept x.z (wakeLink x m sel).z :=
  (potrieMode_fences x (wakeMode m sel).1 (wakeMode m sel).2).trans (linkStart_fences _)

theorem linkStartRow_fences (x : Cx) : FencesKept x.z (linkStartRow x).z := by
  unfold linkStartRow
  exact iteInduction (motive := fun y : Cx => FencesKept x.z y.z) (fun _ => wakeLink_fences ..) (fun _ => linkStart_fences x)

end Sys2Proof.Machine

/-! SUPPORT. The states of a re-test (Table 16-7): its end, its fences, and what its tests find. -/

namespace Sys2Proof.Machine

theorem toCrs_val (c : CourseId) : toCrs c.val = c := by simp [toCrs, toFin]

@[simp] theorem onCrs_z (x : Sys) (c : CourseId) (f : Cx → Cx) : (onCrs x c f).z = (f (cxOf x c)).z := rfl

theorem onCrs_crs_same (x : Sys) (c : CourseId) (f : Cx → Cx) : (onCrs x c f).crs[c] = (f (cxOf x c)).c := modV_same ..

theorem onCrs_crs_other (x : Sys) {c d : CourseId} (f : Cx → Cx) (h : d ≠ c) : (onCrs x c f).crs[d] = x.crs[d] := modV_other _ _ _ _ (Ne.symm h)

/-! ### Its end -/

theorem jobEnd_boot (z : Zmc) (now : Nat) (j : Job) (code status : Nat) (w : Word) : (jobEnd z now j code status w).boot = z.boot := by
  simp [jobEnd]

theorem jobEnd_cinfo (z : Zmc) (now : Nat) (j : Job) (code status : Nat) (w : Word) : (jobEnd z now j code status w).cinfo = z.cinfo := by
  simp [jobEnd]

theorem retestEnd_crs (x : Sys) (st : Nat) : (retestEnd x st).crs = x.crs := rfl

theorem retestEnd_boot (x : Sys) (st : Nat) : (retestEnd x st).z.boot = { x.z.boot with rtState := 0 } := by
  unfold retestEnd
  rw [onZmc_z]
  dsimp only
  split
  · rw [jobEnd_boot]
  · rfl

theorem retestEnd_cinfo (x : Sys) (st : Nat) : (retestEnd x st).z.cinfo = x.z.cinfo := by
  unfold retestEnd
  rw [onZmc_z]
  dsimp only
  split
  · rw [jobEnd_cinfo]
  · rfl

/-- What a re-test that fails leaves: no re-test, its course fenced with the cause, the other courses as they were. -/
structure RetestFailed (c : CourseId) (cause : Nat) (x y : Sys) : Prop where
  state : y.z.boot.rtState = 0
  fence : y.z.cinfo[c].fence = cause
  others : ∀ d, d ≠ c → y.crs[d] = x.crs[d]

theorem retestFail_failed {x : Sys} {c : CourseId} (h : x.z.boot.rtCourse = c.val) (cause : Nat) : RetestFailed c cause x (retestFail x cause) := by
  unfold retestFail
  rw [h, toCrs_val]
  have f : Fenced ((cxOf x c).onInfo (fun i => { i with fence := 0 })) cause _ := fenceCrs_fenced (by simp [Cx.info, Cx.onInfo, cxOf, modV_same]) cause
  refine ⟨by rw [retestEnd_boot], ?_, fun d hd => ?_⟩
  · rw [retestEnd_cinfo, onCrs_z, f.cinfo]
    exact congrArg CInfo.fence (modV_same _ c _)
  · rw [retestEnd_crs, onCrs_crs_other _ _ hd]

/-! ### Its tests -/

/-- What the engines of a course leave of the block before the verdict. -/
def retestRecords (obs : List BistObs) (decOk : Bool) (c : Nat) (bg : Nat) (z : Zmc) : Zmc :=
  testPut ((crsMems c).foldl (fun z id => bistMem obs bg (bistLen ((memWords id).getD 0) bg) z id) z) (8 * c + 7) decOk

theorem retestTest_eq {x : Sys} {k : Nat} (hk : x.z.boot.rtCourse = k) (h : x.z.boot.rtState = 2) (obs : List BistObs) (decOk : Bool) :
    retestTest x obs decOk =
      let z := retestRecords obs decOk k (bistBg x.z) x.z
      if ((8 * k + 7) :: crsMems k).any (fun id => bistBad z id) then retestFail { x with z := z } 1
      else onCrs { x with z := { z with boot := { z.boot with rtState := 3 } } } (toCrs k) (fun y => if y.info.trained then linkStartRow y else y) := by
  subst hk
  unfold retestTest
  rw [if_neg (by simp [h])]
  rfl

theorem testPut_result (z : Zmc) (id : Nat) (ok : Bool) : (tblGet {} (testPut z id ok).boot.bist id).result = if ok then 2 else 4 := by
  simp [testPut, tblGet, tblFind_put_eq]

theorem testPut_other (z : Zmc) {id j : Nat} (h : j ≠ id) (ok : Bool) : tblGet {} (testPut z id ok).boot.bist j = tblGet {} z.boot.bist j := by
  simp [testPut, tblGet, tblFind_put_ne h]

theorem bistBad_testPut (z : Zmc) (id : Nat) (ok : Bool) : bistBad (testPut z id ok) id = !ok := by
  unfold bistBad
  rw [testPut_result]
  cases ok <;> rfl

theorem bistBad_testPut_ne (z : Zmc) {id j : Nat} (h : j ≠ id) (ok : Bool) : bistBad (testPut z id ok) j = bistBad z j := by
  unfold bistBad
  rw [testPut_other z h]

theorem bistMem_course (obs : List BistObs) (bg len : Nat) (z : Zmc) (id : Nat) : (bistMem obs bg len z id).boot.rtCourse = z.boot.rtCourse := by
  unfold bistMem
  simp only
  split <;> rfl

theorem retestRecords_course (obs : List BistObs) (ok : Bool) (k bg : Nat) (z : Zmc) : (retestRecords obs ok k bg z).boot.rtCourse = z.boot.rtCourse :=
  foldl_field (f := fun z id => bistMem obs bg (bistLen ((memWords id).getD 0) bg) z id) (fun z => z.boot.rtCourse)
    (fun z id => bistMem_course obs bg _ z id) (crsMems k) z

/-- A course whose decoder and memories all pass has no bad record. -/
theorem retestRecords_pass {obs : List BistObs} {bg : Nat} (h : ∀ o ∈ obs, CleanObs bg o) (k : Nat) (z : Zmc) :
    ((8 * k + 7) :: crsMems k).any (fun id => bistBad (retestRecords obs true k bg z) id) = false := by
  rw [List.any_eq_false]
  intro id hid
  unfold retestRecords
  by_cases e : id = 8 * k + 7
  · rw [e, bistBad_testPut]; simp
  · rw [bistBad_testPut_ne _ e]
    have m := (foldl_bistMem h (fun id => bistLen ((memWords id).getD 0) bg) (crsMems k) z).2 id (Or.inl ((List.mem_cons.1 hid).resolve_left e))
    unfold bistBad
    rw [decide_eq_true_iff]
    omega

theorem retestRecords_only {obs : List BistObs} {bg : Nat} (h : ∀ o ∈ obs, CleanObs bg o) (ok : Bool) (k : Nat) (z : Zmc) :
    BistOnly z (retestRecords obs ok k bg z) :=
  BistOnly.trans (foldl_bistMem h (fun id => bistLen ((memWords id).getD 0) bg) (crsMems k) z).1 ⟨_, rfl⟩

end Sys2Proof.Machine

/-! SUPPORT. Proofs of the re-test's obligation. -/

namespace Sys2Proof.Proofs
open Sys2Proof.Machine

/-- A failed re-test, when its row has been closed. -/
theorem retestFailed_closed {c : CourseId} {cause : Nat} {x y : Sys} {t : State} (h : RetestFailed c cause x y) (ht : t.sys.crs = y.crs)
    (hz : CloseOnly y.z t.sys.z) : t.sys.z.boot.rtState = 0 ∧ t.sys.z.cinfo[c].fence = cause ∧ ∀ d, d ≠ c → t.sys.crs[d] = x.crs[d] := by
  rw [hz.boot, hz.cinfo, ht]
  exact ⟨h.state, h.fence, h.others⟩

theorem retestDrain_run {x : Sys} {c : CourseId} (hc : x.z.boot.rtCourse = c.val) (h1 : x.z.boot.rtState = 1)
    (h : x.z.cinfo[c].fence ≠ 0 ∨ (crsDrained x c = true ∧ crsQuiet x.crs[c] = true)) :
    retestDrain x = onZmc x (fun z _ => needBond (modInfo { z with boot := { z.boot with rtState := 2 } } c (fun i => { i with fence := 4, draining := false }))) := by
  unfold retestDrain
  simp only [hc, toCrs_val]
  rw [if_neg (by simp [h1]), if_pos h]

theorem retestTest_passes {x : Sys} {c : CourseId} {obs : List BistObs} (hc : x.z.boot.rtCourse = c.val) (h2 : x.z.boot.rtState = 2)
    (ho : ∀ o ∈ obs, CleanObs (bistBg x.z) o) :
    (retestTest x obs true).z.boot.rtState = 3 ∧ (retestTest x obs true).z.cinfo[c].fence = x.z.cinfo[c].fence ∧
      ∀ d, d ≠ c → (retestTest x obs true).crs[d] = x.crs[d] := by
  rw [retestTest_eq hc h2]
  dsimp only
  rw [if_neg (by rw [retestRecords_pass ho]; simp), toCrs_val]
  obtain ⟨bt, eb⟩ := retestRecords_only ho true c.val x.z
  rw [eb]
  generalize hv : ({ x with z := _ } : Sys) = v
  have kept : FencesKept v.z (onCrs v c (fun y => if y.info.trained then linkStartRow y else y)).z := by
    rw [onCrs_z]
    exact iteInduction (motive := fun y : Cx => FencesKept v.z y.z) (fun _ => linkStartRow_fences (cxOf v c)) (fun _ => .refl v.z)
  refine ⟨?_, ?_, fun d hd => ?_⟩
  · rw [kept.boot, ← hv]
  · rw [kept.fence, ← hv]
  · rw [onCrs_crs_other _ _ hd, ← hv]

theorem retestTest_fails {x : Sys} {c : CourseId} (obs : List BistObs) (hc : x.z.boot.rtCourse = c.val) (h2 : x.z.boot.rtState = 2) :
    RetestFailed c 1 x (retestTest x obs false) := by
  rw [retestTest_eq hc h2]
  dsimp only
  rw [if_pos (by rw [List.any_cons, retestRecords, bistBad_testPut]; rfl)]
  have hr := (retestRecords_course obs false c.val (bistBg x.z) x.z).trans hc
  generalize retestRecords obs false c.val (bistBg x.z) x.z = z at hr
  have f : RetestFailed c 1 { x with z := z } _ := retestFail_failed hr 1
  exact ⟨f.state, f.fence, f.others⟩

theorem pairRestored_cinfo (z : Zmc) (c : CourseId) : (pairRestored z c).cinfo = z.cinfo :=
  foldl_field Zmc.cinfo (fun z r => by dsimp only; split <;> rfl) _ z

/-- What RETEST_RESTORE_DONE makes of the course. -/
def restored (y : Cx) : Cx :=
  let y := if y.c.lk.st = 2 then rateThrough (wakeTarget y) else wakeThrough y
  let y := (y.onC (fun c => { (c.mapTo {}) with sr := { c.sr with st := 3 } })).onInfo (fun i => { i with fence := 0, draining := false, failed := false })
  y.onZ needBond

theorem restored_fence (y : Cx) : (restored y).z.cinfo[y.n].fence = 0 := by
  have hn : (if y.c.lk.st = 2 then rateThrough (wakeTarget y) else wakeThrough y).n = y.n :=
    iteInduction (motive := fun w : Cx => w.n = y.n) (fun _ => (rateThrough_n _).trans (wakeTarget_n y)) (fun _ => wakeThrough_n y)
  have unfenced (w : Cx) (k : CourseId) (h : w.n = k) : ((w.onC (fun c => { (c.mapTo {}) with sr := { c.sr with st := 3 } })).onInfo
      (fun i => { i with fence := 0, draining := false, failed := false })).z.cinfo[k].fence = 0 := by
    subst h
    exact congrArg CInfo.fence (modV_same ..)
  exact unfenced _ _ hn

theorem restored_sr (y : Cx) : (restored y).c.sr.st = 3 ∧ (restored y).c.fm = {} := ⟨rfl, rfl⟩

theorem retestRestore_eq {x : Sys} {c : CourseId} (hc : x.z.boot.rtCourse = c.val) (h3 : x.z.boot.rtState = 3) (ht : x.z.cinfo[c].trained = true) :
    retestRestore x = retestEnd (onZmc (onCrs x c restored) (fun z _ => pairRestored z c)) 0 := by
  unfold retestRestore
  simp only [hc, toCrs_val]
  rw [if_neg (by simp [h3]), if_neg (by rw [ht]; simp)]
  rfl

theorem retestRestore_untrained {x : Sys} {c : CourseId} (hc : x.z.boot.rtCourse = c.val) (h3 : x.z.boot.rtState = 3) (ht : x.z.cinfo[c].trained = false) :
    retestRestore x = retestFail x 2 := by
  unfold retestRestore
  simp only [hc, toCrs_val]
  rw [if_neg (by simp [h3]), if_pos ht]

theorem retestRestore_restored {x : Sys} {c : CourseId} (hc : x.z.boot.rtCourse = c.val) (h3 : x.z.boot.rtState = 3) (ht : x.z.cinfo[c].trained = true) :
    (retestRestore x).z.boot.rtState = 0 ∧ (retestRestore x).z.cinfo[c].fence = 0 ∧ (retestRestore x).crs[c].sr.st = 3 ∧
      (retestRestore x).crs[c].fm = {} ∧ ∀ d, d ≠ c → (retestRestore x).crs[d] = x.crs[d] := by
  rw [retestRestore_eq hc h3 ht, retestEnd_boot, retestEnd_cinfo, retestEnd_crs, onZmc_z, pairRestored_cinfo, onCrs_z]
  have e : (onCrs x c restored).crs[c] = (restored (cxOf x c)).c := onCrs_crs_same ..
  obtain ⟨hsr, hfm⟩ := restored_sr (cxOf x c)
  refine ⟨rfl, restored_fence (cxOf x c), ?_, ?_, fun d hd => onCrs_crs_other _ _ hd⟩
  · rw [onZmc_crs, e, hsr]
  · rw [onZmc_crs, e, hfm]

/-- A request of the port that has waited long enough for the course under re-test (R338). -/
def stallHit (z : Zmc) (now : Nat) (p : PortId) (r : QReq) : Bool :=
  r.port == p && (match r.dest with | some (c, _) => retesting z c | none => false) &&
    decide (stallFrom z r + getF z (secBase + 0x3020) 19 4 * tuPerUs ≤ now)

/-- The one waiting read of the bay is answered with poison when it has waited long enough (R338). -/
theorem retestStall_lone {z : Zmc} {now : Nat} {b : BayId} {c : CourseId} {r : QReq} {loc : Nat} (hc : z.boot.rtCourse = c.val) (hr : z.boot.rtState ≠ 0)
    (hq : z.bays[b].q = [r]) (hd : r.dest = some (c, loc)) (hl : liveFinal z r.port = true) (hw : isWr r.kind = false) (h1 : r.lines = 1)
    (ht : stallFrom z r + getF z (secBase + 0x3020) 19 4 * tuPerUs ≤ now) :
    (retestStall z now b r.port).bays[b].q = [] ∧ OutMsg.data r.port r.tag r.addr 0 true 0 false false ∈ (retestStall z now b r.port).out ∧
      (retestStall z now b r.port).cinfo = z.cinfo := by
  unfold retestStall
  have hs : retesting z c = true := by simp [retesting, hr, hc]
  have hit : stallHit z now r.port r = true := by unfold stallHit; rw [hd]; simp [hs, ht]
  have found : z.bays[b].q.find? (stallHit z now r.port) = some r := by rw [hq, List.find?_cons_of_pos hit]
  dsimp only
  split
  case h_1 none => exact absurd (found.symm.trans none) (by simp)
  case h_2 r' some =>
  obtain rfl : r = r' := Option.some.inj (found.symm.trans some)
  generalize hy : bump _ now (secBase + 0x3030) = y
  have yl : liveFinal y r.port = true := by rw [← hl, ← hy]; simp [liveFinal, bump]
  have yq : y.bays[b].q = [] := by
    rw [← hy, bump, bumpN_bays, modBay_bays, modV_same, hq]
    simp [removeFirst]
  have yc : y.cinfo = z.cinfo := by rw [← hy, bump, bumpN_cinfo]; rfl
  rw [if_neg (by simp [yl]), if_neg (by simp [hw]), h1]
  refine ⟨yq, ?_, yc⟩
  show _ ∈ _ ++ [OutMsg.data r.port r.tag (r.addr + 0#64) 0 true 0 false false]
  rw [BitVec.add_zero]
  exact List.mem_append_right _ (List.mem_singleton_self _)

/-- Settles O59: each state of a re-test moves on as Table 16-7 says, and a request that has waited too long is answered with poison. -/
theorem retestGoesOn : Obligations.RetestGoesOn := by
  unfold Obligations.RetestGoesOn
  intro s n c obs b r loc hu
  dsimp only
  intro hc
  have hu' : closedUp (before s n).z = false := by simpa [before] using hu
  refine ⟨fun h1 hd => ?_, fun h2 ho => ?_, fun h2 => ?_, fun h3 ht => ?_, fun h3 ht => ?_, fun hh hr hq hd hl hw hn ht => ?_⟩
  · refine gives_all (exec_retestDrainDone ..) (fun t tc tz _ _ => ?_)
    rw [ifUp_run hu', retestDrain_run hc h1 hd] at tc tz
    rw [tz.boot, tz.cinfo, tc]
    exact ⟨rfl, congrArg CInfo.fence (modV_same ..), rfl⟩
  · refine gives_all (exec_retestTestDone ..) (fun t tc tz _ _ => ?_)
    rw [ifUp_run hu'] at tc tz
    rw [tz.boot, tz.cinfo, tc]
    exact retestTest_passes hc h2 ho
  · refine gives_all (exec_retestTestDone ..) (fun t tc tz _ _ => ?_)
    rw [ifUp_run hu'] at tc tz
    exact retestFailed_closed (retestTest_fails obs hc h2) tc tz
  · refine gives_all (exec_retestRestoreDone ..) (fun t tc tz _ _ => ?_)
    rw [ifUp_run hu'] at tc tz
    rw [tz.boot, tz.cinfo, tc]
    exact retestRestore_restored hc h3 ht
  · refine gives_all (exec_retestRestoreDone ..) (fun t tc tz _ _ => ?_)
    rw [ifUp_run hu', retestRestore_untrained hc h3 ht] at tc tz
    exact retestFailed_closed (retestFail_failed hc 2) tc tz
  · refine gives_all (exec_retestStallExpiry ..) (fun t tc tz tout _ => ?_)
    rw [ifHome_run hh] at tc tz tout
    obtain ⟨q, o, -⟩ := retestStall_lone hc hr hq hd hl hw hn ht
    rw [tz.bays, tc]
    exact ⟨q, tout _ o, rfl⟩

end Sys2Proof.Proofs

/-! SUPPORT. The memory tests of bring-up (R326, R329, R330): what clean engines leave, and the fences of phase 3. -/

namespace Sys2Proof.Machine

theorem bistAll_clean {obs : List BistObs} {bg : Nat} (h : ∀ o ∈ obs, CleanObs bg o) (ids : List Nat) (z : Zmc) :
    BistOnly z (bistAll obs bg z ids) ∧ ∀ id ∈ ids, (tblGet {} (bistAll obs bg z ids).boot.bist id).result = 2 ∨ (tblGet {} (bistAll obs bg z ids).boot.bist id).result = 3 :=
  have k := foldl_bistMem h (fun _ => 0) ids z
  ⟨k.1, fun id hid => k.2 id (Or.inl hid)⟩

theorem bistBad_of_pass {z : Zmc} {id : Nat} (h : (tblGet {} z.boot.bist id).result = 2 ∨ (tblGet {} z.boot.bist id).result = 3) : bistBad z id = false := by
  unfold bistBad
  rw [decide_eq_false_iff_not]
  omega

/-- Phase 1 ends with every memory of the phase passing. -/
theorem mgtBistEnd_clean {z : Zmc} {obs : List BistObs} (hp : z.boot.pwrGood = true) (h0 : z.boot.phase = 0) (hl : z.boot.lc ≠ 4)
    (ho : ∀ o ∈ obs, CleanObs 2 o) :
    let ids := if z.boot.warm then [144] else [144, 152, 153, 168]
    ∃ t, mgtBistEnd z obs = { z with boot := { z.boot with phase := 2, bist := t } } ∧ ∀ id ∈ ids, (tblGet {} t id).result = 2 ∨ (tblGet {} t id).result = 3 := by
  intro ids
  obtain ⟨⟨t, e⟩, pass⟩ := bistAll_clean ho ids z
  have none : ids.find? (bistBad (bistAll obs 2 z ids)) = none := by
    rw [List.find?_eq_none]
    intro id hid
    rw [bistBad_of_pass (pass id hid)]
    simp
  refine ⟨t, ?_, fun id hid => by have := pass id hid; rwa [e] at this⟩
  unfold mgtBistEnd
  rw [if_neg (by simp [hp, h0]), if_neg hl]
  dsimp only
  split
  case h_1 id some => exact absurd (none.symm.trans some) (by simp)
  case h_2 =>
    show ({ bistAll obs 2 z ids with boot := { (bistAll obs 2 z ids).boot with phase := 2 } } : Zmc) = _
    rw [e]

/-! ### Phase 3 -/

/-- The powered courses that phase 3 tests. -/
def presentList (z : Zmc) : List CourseId := (List.finRange 16).filter (fun c => present z.boot.variant c.val)

/-- The records of phase 3. -/
def islandRecords (z : Zmc) (obs : List BistObs) (badDec : List CourseId) (badEng : List HomeId) : Zmc :=
  let z1 := bistAll obs 2 z ((presentList z).flatMap (fun c => crsMems c.val) ++ [128, 129, 130, 131, 136, 137, 138, 139, 192])
  let z2 := (presentList z).foldl (fun z c => testPut z (8 * c.val + 7) (!badDec.contains c)) z1
  let z3 := ([0, 1] : List HomeId).foldl (fun z h => testPut z (132 + 8 * h.val) (!badEng.contains h)) z2
  { z3 with boot := { z3.boot with hodOk := !bistBad z3 192 } }

theorem islandBistEnd_eq (x : Sys) (obs : List BistObs) (badDec : List CourseId) (badEng : List HomeId) (h : x.z.boot.phase = 3) :
    islandBistEnd x obs badDec badEng =
      let y : Sys := { x with z := islandRecords x.z obs badDec badEng }
      match [128, 129, 131, 132, 136, 137, 139, 140].find? (bistBad y.z) with
      | some id => onZmc y (fun z _ => sharedFail z id)
      | none =>
          let y := (bistFences y.z).foldl (fun x c => onCrs x c (fun y => potFence y 1)) y
          if (liveList y.z).isEmpty then onZmc y (fun z _ => holdZmc z 5)
          else onZmc y (fun z _ => { z with boot := { z.boot with phase := 4 } }) := by
  unfold islandBistEnd
  rw [if_neg (by simp [h])]
  rfl

theorem foldl_testPut_other {α : Type} {id : α → Nat} {ok : α → Bool} {j : Nat} (l : List α) (h : ∀ a ∈ l, j ≠ id a) (z : Zmc) :
    bistBad (l.foldl (fun z a => testPut z (id a) (ok a)) z) j = bistBad z j := by
  induction l generalizing z with
  | nil => rfl
  | cons a l ih => rw [List.foldl_cons, ih (fun b hb => h b (List.mem_cons_of_mem _ hb)), bistBad_testPut_ne _ (h a List.mem_cons_self)]

theorem foldl_testPut_of {α : Type} {id : α → Nat} {ok : α → Bool} (inj : ∀ a b, id a = id b → a = b) {l : List α} {a : α} (h : a ∈ l) (z : Zmc) :
    bistBad (l.foldl (fun z a => testPut z (id a) (ok a)) z) (id a) = !ok a := by
  induction l generalizing z with
  | nil => exact absurd h (by simp)
  | cons b l ih =>
      rw [List.foldl_cons]
      by_cases hl : a ∈ l
      · exact ih hl _
      · obtain rfl : a = b := (List.mem_cons.1 h).resolve_right hl
        rw [foldl_testPut_other l (fun c hc e => hl (inj a c e ▸ hc)), bistBad_testPut]

theorem foldl_testPut_only {α : Type} {id : α → Nat} {ok : α → Bool} (l : List α) (z : Zmc) :
    BistOnly z (l.foldl (fun z a => testPut z (id a) (ok a)) z) := by
  induction l generalizing z with
  | nil => exact ⟨_, rfl⟩
  | cons a l ih => exact BistOnly.trans ⟨_, rfl⟩ (ih _)

section
variable {z : Zmc} {obs : List BistObs} (badDec : List CourseId) (badEng : List HomeId) (ho : ∀ o ∈ obs, CleanObs 2 o)
include ho

theorem islandRecords_only : ∃ t hod, islandRecords z obs badDec badEng = { z with boot := { z.boot with bist := t, hodOk := hod } } := by
  obtain ⟨t, e⟩ := ((bistAll_clean ho ((presentList z).flatMap (fun c => crsMems c.val) ++ [128, 129, 130, 131, 136, 137, 138, 139, 192]) z).1.trans
    (foldl_testPut_only (id := fun c : CourseId => 8 * c.val + 7) (ok := fun c => !badDec.contains c) (presentList z) _)).trans
    (foldl_testPut_only (id := fun h : HomeId => 132 + 8 * h.val) (ok := fun h => !badEng.contains h) [0, 1] _)
  unfold islandRecords
  dsimp only at e ⊢
  rw [e]
  exact ⟨_, _, rfl⟩

/-- A memory that phase 3 tests is not bad. -/
theorem islandRecords_mem {id : Nat} (h : id ∈ (presentList z).flatMap (fun c => crsMems c.val) ++ [128, 129, 130, 131, 136, 137, 138, 139, 192])
    (h1 : ∀ c : CourseId, id ≠ 8 * c.val + 7) (h2 : ∀ k : HomeId, id ≠ 132 + 8 * k.val) : bistBad (islandRecords z obs badDec badEng) id = false := by
  have eng := foldl_testPut_other (id := fun h : HomeId => 132 + 8 * h.val) (ok := fun h => !badEng.contains h) [0, 1] (fun c _ => h2 c)
  have dec := foldl_testPut_other (id := fun c : CourseId => 8 * c.val + 7) (ok := fun c => !badDec.contains c) (presentList z) (fun c _ => h1 c)
  exact (eng _).trans ((dec _).trans (bistBad_of_pass ((bistAll_clean ho _ z).2 id h)))

end

/-- The decoder's test of a present course says what the engines saw. -/
theorem islandRecords_dec {z : Zmc} (obs : List BistObs) (badDec : List CourseId) (badEng : List HomeId) {c : CourseId} (h : present z.boot.variant c.val = true) :
    bistBad (islandRecords z obs badDec badEng) (8 * c.val + 7) = badDec.contains c := by
  have hm : c ∈ presentList z := by simp [presentList, h]
  refine Eq.trans (foldl_testPut_other (id := fun h : HomeId => 132 + 8 * h.val) (ok := fun h => !badEng.contains h) [0, 1] (fun k _ => ?_) _)
    ((foldl_testPut_of (id := fun c : CourseId => 8 * c.val + 7) (ok := fun c => !badDec.contains c) (fun a b e => Fin.ext (by omega)) hm _).trans (Bool.not_not _))
  omega

/-- The engines' test of a home says what they saw. -/
theorem islandRecords_eng (z : Zmc) (obs : List BistObs) (badDec : List CourseId) (badEng : List HomeId) (k : HomeId) :
    bistBad (islandRecords z obs badDec badEng) (132 + 8 * k.val) = badEng.contains k :=
  (foldl_testPut_of (id := fun h : HomeId => 132 + 8 * h.val) (ok := fun h => !badEng.contains h) (l := [0, 1]) (fun a b e => Fin.ext (by omega))
    (by revert k; decide) _).trans (Bool.not_not _)

/-- With clean memories a course of phase 3 is fenced when its decoder is bad. -/
theorem mem_bistFences {z : Zmc} {obs : List BistObs} (badDec : List CourseId) (badEng : List HomeId) (ho : ∀ o ∈ obs, CleanObs 2 o) (c : CourseId) :
    c ∈ bistFences (islandRecords z obs badDec badEng) ↔ present z.boot.variant c.val = true ∧ c ∈ badDec := by
  have hv : (islandRecords z obs badDec badEng).boot.variant = z.boot.variant := by
    obtain ⟨t, hod, e⟩ := islandRecords_only (z := z) badDec badEng ho
    rw [e]
  unfold bistFences
  rw [List.mem_filter]
  dsimp only
  rw [hv, Bool.and_eq_true]
  refine ⟨fun ⟨_, hp, hb⟩ => ⟨hp, ?_⟩, fun ⟨hp, hc⟩ => ⟨List.mem_finRange c, hp, ?_⟩⟩
  · have mems : (crsMems c.val).any (bistBad (islandRecords z obs badDec badEng)) = false := by
      rw [List.any_eq_false]
      intro id hid
      have hm : c ∈ presentList z := by simp [presentList, hp]
      obtain ⟨k, hk, rfl⟩ := List.mem_map.1 hid
      have hk7 : k < 7 := List.mem_range.1 hk
      rw [islandRecords_mem badDec badEng ho (List.mem_append_left _ (List.mem_flatMap.2 ⟨c, hm, hid⟩)) (fun d => by omega) (fun d => by omega)]
      simp
    have home : bistBad (islandRecords z obs badDec badEng) (8 * (16 + c.val / 8) + 2) = false := by
      have hc8 : c.val / 8 = 0 ∨ c.val / 8 = 1 := by omega
      refine islandRecords_mem badDec badEng ho (List.mem_append_right _ ?_) (fun d => by omega) (fun d => by omega)
      rcases hc8 with e | e <;> simp [e]
    rw [islandRecords_dec obs badDec badEng hp, mems, home] at hb
    simpa using hb
  · rw [islandRecords_dec obs badDec badEng hp]
    simp [hc]

/-! ### Its fences -/

theorem potFence_other {x : Cx} {d : CourseId} (h : d ≠ x.n) (cause : Nat) : (potFence x cause).z.cinfo[d] = x.z.cinfo[d] := by
  by_cases hf : x.info.fence = 0
  · rw [(potFence_fenced hf cause).cinfo]
    exact modV_other _ _ _ _ (Ne.symm h)
  · unfold potFence
    rw [if_pos hf]

theorem potFence_boot (x : Cx) (cause : Nat) : (potFence x cause).z.boot = x.z.boot := by
  by_cases hf : x.info.fence = 0
  · exact (potFence_fenced hf cause).boot
  · unfold potFence
    rw [if_pos hf]

theorem potFence_fence (x : Cx) (cause : Nat) : (potFence x cause).z.cinfo[x.n].fence = if x.info.fence = 0 then cause else x.info.fence := by
  by_cases hf : x.info.fence = 0
  · rw [(potFence_fenced hf cause).cinfo, if_pos hf]
    exact congrArg CInfo.fence (modV_same ..)
  · unfold potFence
    rw [if_pos hf, if_neg hf]; rfl

/-- Fences of a list of courses: the others and the bring-up's record stay, and each unfenced one of the list gets the cause. -/
theorem foldl_potFence (cause : Nat) (l : List CourseId) (x : Sys) :
    let y := l.foldl (fun x c => onCrs x c (fun y => potFence y cause)) x
    y.z.boot = x.z.boot ∧ (∀ c, c ∉ l → y.z.cinfo[c] = x.z.cinfo[c] ∧ y.crs[c] = x.crs[c]) ∧
      ∀ c, y.z.cinfo[c].fence = if x.z.cinfo[c].fence = 0 ∧ c ∈ l then cause else x.z.cinfo[c].fence := by
  induction l generalizing x with
  | nil => exact ⟨rfl, fun _ _ => ⟨rfl, rfl⟩, fun _ => by simp⟩
  | cons a l ih =>
      obtain ⟨hb, ho, hf⟩ := ih (onCrs x a (fun y => potFence y cause))
      intro y
      have other (c : CourseId) (h : c ≠ a) : (onCrs x a (fun y => potFence y cause)).z.cinfo[c] = x.z.cinfo[c] := potFence_other (x := cxOf x a) h cause
      have same : (onCrs x a (fun y => potFence y cause)).z.cinfo[a].fence = if x.z.cinfo[a].fence = 0 then cause else x.z.cinfo[a].fence :=
        potFence_fence (cxOf x a) cause
      refine ⟨hb.trans (potFence_boot (cxOf x a) cause), fun c hc => ?_, fun c => (hf c).trans ?_⟩
      · obtain ⟨hca, hcl⟩ := not_or.1 (mt List.mem_cons.2 hc)
        obtain ⟨hi, hc⟩ := ho c hcl
        exact ⟨hi.trans (other c hca), hc.trans (onCrs_crs_other _ _ hca)⟩
      · by_cases hca : c = a
        · subst hca
          rw [same]
          generalize x.z.cinfo[c].fence = f
          by_cases h0 : f = 0
          · simp [h0]
          · simp [h0]
        · rw [other c hca]
          simp [hca]

end Sys2Proof.Machine

/-! SUPPORT. Proofs of the memory tests' obligation. -/

namespace Sys2Proof.Proofs
open Sys2Proof.Machine

theorem pwrGood_of_up {z : Zmc} (h : closedUp z = false) : z.boot.hold = 0 ∧ z.boot.pwrGood = true := by
  simp [closedUp] at h
  exact ⟨h.1.1, h.2⟩

theorem islandBistEnd_fences {x : Sys} {obs : List BistObs} {bad : List CourseId} {eng : List HomeId} (h3 : x.z.boot.phase = 3) (h0 : x.z.boot.hold = 0)
    (ho : ∀ o ∈ obs, CleanObs 2 o) (he : eng = []) (hl : ∃ e : CourseId, liveCrs x.z e = true ∧ e ∉ bad) :
    (islandBistEnd x obs bad eng).z.boot.phase = 4 ∧ (islandBistEnd x obs bad eng).z.boot.hold = 0 ∧
      (∀ c, c ∉ bad → (islandBistEnd x obs bad eng).z.cinfo[c] = x.z.cinfo[c] ∧ (islandBistEnd x obs bad eng).crs[c] = x.crs[c]) ∧
      ∀ c, c ∈ bad → liveCrs x.z c = true → (islandBistEnd x obs bad eng).z.cinfo[c].fence = 1 := by
  subst he
  rw [islandBistEnd_eq x obs bad [] h3]
  have good : [128, 129, 131, 132, 136, 137, 139, 140].find? (bistBad (islandRecords x.z obs bad [])) = none := by
    rw [List.find?_eq_none]
    intro id hid
    have cases : (id = 132 ∨ id = 140) ∨ id ∈ [128, 129, 131, 136, 137, 139] := by
      simp only [List.mem_cons, List.not_mem_nil, or_false] at hid ⊢; omega
    rcases cases with h | h
    · have k (h : HomeId) := islandRecords_eng x.z obs bad [] h
      rcases h with rfl | rfl
      · simpa using k 0
      · simpa using k 1
    · simp only [List.mem_cons, List.not_mem_nil, or_false] at h
      rw [islandRecords_mem bad [] ho (List.mem_append_right _ (by simp only [List.mem_cons, List.not_mem_nil, or_false]; omega)) (fun c => by omega)
        (fun k => by omega)]
      simp
  have fences := fun c => mem_bistFences (z := x.z) bad [] ho c
  obtain ⟨bt, hod, e⟩ := islandRecords_only (z := x.z) bad [] ho
  generalize hy : islandRecords x.z obs bad [] = z at *
  dsimp only
  split
  case h_1 id some => exact absurd (good.symm.trans some) (by simp)
  case h_2 =>
  obtain ⟨fb, fo, ff⟩ := foldl_potFence 1 (bistFences z) { x with z := z }
  generalize List.foldl (fun x c => onCrs x c fun y => potFence y 1) ({ x with z := z } : Sys) (bistFences z) = w at *
  have zc : z.cinfo = x.z.cinfo := by rw [e]
  have zb : w.z.boot = { x.z.boot with bist := bt, hodOk := hod } := by rw [fb, e]
  have live : (liveList w.z).isEmpty = false := by
    obtain ⟨c, hc, hn⟩ := hl
    have same := (fo c (fun m => hn ((fences c).1 m).2)).1
    have : c ∈ liveList w.z := by
      rw [liveList, List.mem_filter]
      refine ⟨List.mem_finRange c, ?_⟩
      unfold liveCrs at hc ⊢
      rw [zb, same, zc]
      exact hc
    rw [List.isEmpty_eq_false_iff]
    exact List.ne_nil_of_mem this
  rw [live, if_neg (by simp)]
  refine ⟨rfl, ?_, fun c hc => ?_, fun c hc hlc => ?_⟩
  · rw [onZmc_z, zb]; exact h0
  · obtain ⟨hi, hcr⟩ := fo c (fun m => hc ((fences c).1 m).2)
    exact ⟨hi.trans (by rw [zc]), hcr⟩
  · simp only [liveCrs, Bool.and_eq_true, beq_iff_eq] at hlc
    refine (ff c).trans (if_pos ⟨?_, (fences c).2 ⟨hlc.1, hc⟩⟩)
    dsimp only
    rw [zc]
    exact hlc.2

theorem islandBistEnd_holds {x : Sys} {obs : List BistObs} {bad : List CourseId} {eng : List HomeId} (h3 : x.z.boot.phase = 3)
    (ho : ∀ o ∈ obs, CleanObs 2 o) (he : eng ≠ []) :
    (islandBistEnd x obs bad eng).z.boot.hold = 1 ∧ (islandBistEnd x obs bad eng).z.boot.phase = 8 ∧
      (islandBistEnd x obs bad eng).z.cinfo = x.z.cinfo := by
  obtain ⟨k, hk⟩ := List.exists_mem_of_ne_nil eng he
  have badEng : bistBad (islandRecords x.z obs bad eng) (132 + 8 * k.val) = true := by
    rw [islandRecords_eng]; simp [hk]
  obtain ⟨bt, hod, e⟩ := islandRecords_only (z := x.z) bad eng ho
  rw [islandBistEnd_eq x obs bad eng h3]
  dsimp only
  split
  case h_1 id _ =>
    rw [onZmc_z]
    refine ⟨rfl, rfl, ?_⟩
    dsimp only
    rw [e]
    rfl
  case h_2 none =>
    have listed : ∀ k : HomeId, 132 + 8 * k.val ∈ [128, 129, 131, 132, 136, 137, 139, 140] := by decide
    exact absurd badEng (List.find?_eq_none.1 none _ (listed k))

/-- Settles O12: clean tests end phases 1 and 3, a failed decoder fences its course, and a failed engine or a scrapped life cycle holds the ZMC. -/
theorem memoryTestsDecide : Obligations.MemoryTestsDecide := by
  unfold Obligations.MemoryTestsDecide
  refine ⟨fun s n obs hu h0 => ⟨fun ⟨hl, ho⟩ => ?_, fun hl => ?_⟩, fun s n obs bad eng c hu h3 => ?_⟩
  · have hu' : closedUp (before s n).z = false := by simpa [before] using hu
    have ho' : ∀ o ∈ obs, CleanObs 2 o := fun o h => ⟨(ho o h).1, (ho o h).2.1.trans (by unfold bistLen; omega), (ho o h).2.2⟩
    have hb : (before s n).z.boot = s.sys.z.boot := startAt_boot ..
    refine gives_all (exec_mgtBist ..) (fun t tc tz _ _ => ?_)
    rw [ifUp_run hu'] at tc tz
    rw [onZmc_z] at tz
    obtain ⟨bt, e, pass⟩ := mgtBistEnd_clean (z := (before s n).z) (by rw [hb]; exact (pwrGood_of_up hu).2) (by rw [hb]; exact h0) (by rw [hb]; exact hl) ho'
    rw [e] at tz
    rw [tz.boot, tz.keys, tz.homes, tc]
    rw [hb] at pass
    exact ⟨rfl, by dsimp only; rw [hb]; exact (pwrGood_of_up hu).1, pass, startAt_keys .., startAt_homes .., startAt_crs ..⟩
  · have hu' : closedUp (before s n).z = false := by simpa [before] using hu
    have hb : (before s n).z.boot = s.sys.z.boot := startAt_boot ..
    refine gives_all (exec_mgtBist ..) (fun t tc tz _ _ => ?_)
    rw [ifUp_run hu', onZmc_z] at tz
    have e : mgtBistEnd (before s n).z obs = holdZmc (before s n).z 3 := by
      unfold mgtBistEnd
      rw [hb, if_neg (by simp [(pwrGood_of_up hu).2, h0]), if_pos hl]
    rw [e] at tz
    rw [tz.boot]
    exact ⟨rfl, rfl, rfl⟩
  · have hu' : closedUp (before s n).z = false := by simpa [before] using hu
    have hb : (before s n).z.boot = s.sys.z.boot := startAt_boot ..
    dsimp only
    generalize hx : before s n = x at *
    have h3' : x.z.boot.phase = 3 := by rw [hb]; exact h3
    intro ho
    refine ⟨fun he hlive => ?_, fun he => ?_⟩
    · refine gives_all (exec_islandBist ..) (fun t tc tz _ _ => ?_)
      rw [hx, ifUp_run hu'] at tc tz
      obtain ⟨p4, h0, same, fenced⟩ := islandBistEnd_fences h3' (by rw [hb]; exact (pwrGood_of_up hu).1) ho he hlive
      rw [tz.boot, tz.cinfo, tc]
      exact ⟨p4, h0, fun hc => same c hc, fun hc hl => fenced c hc hl⟩
    · refine gives_all (exec_islandBist ..) (fun t tc tz _ _ => ?_)
      rw [hx, ifUp_run hu'] at tz
      rw [tz.boot, tz.cinfo]
      exact islandBistEnd_holds h3' ho he

end Sys2Proof.Proofs

/-! SUPPORT. What the record of a memory error leaves (R358, Table 18-5), and the statement about memory errors. -/

namespace Sys2Proof.Machine

/-- What the two words of MEM_LAST, the status register and the count leave as it was. -/
theorem memNote_kept (z : Zmc) (now mem word b : Nat) (dbl : Bool) :
    (memNote z now mem word b dbl).cinfo = z.cinfo ∧ (memNote z now mem word b dbl).keys = z.keys ∧ (memNote z now mem word b dbl).boot = z.boot := by
  unfold memNote
  cases dbl <;> simp [bump]

theorem memNote_last (z : Zmc) (now mem word b : Nat) :
    getWide (memNote z now mem word b false) (zmcBase + 0x0A10) = BitVec.ofNat 64 (mem + word * 2 ^ 8 + b * 2 ^ 26) := by
  have lo : calm (ownerOf (zmcBase + 0x0A08)) (zmcBase + 0x0A10) := by unfold calm; decide
  have hi : calm (ownerOf (zmcBase + 0x0A08)) (zmcBase + 0x0A10 + 4) := by unfold calm; decide
  have word (y : Zmc) : getWide (bump (post y now (zmcBase + 0x0A00) 0) now (zmcBase + 0x0A08)) (zmcBase + 0x0A10) = getWide y (zmcBase + 0x0A10) := by
    unfold getWide bump
    rw [wordAt_bumpN_ne _ _ _ _ (by decide) lo, wordAt_bumpN_ne _ _ _ _ (by decide) hi, wordAt_post_ne _ _ _ (by decide), wordAt_post_ne _ _ _ (by decide)]
  unfold memNote
  rw [if_neg Bool.false_ne_true, word, getWide_putWide, bit, if_neg Bool.false_ne_true, Nat.zero_mul, Nat.add_zero]

theorem memNote_corrected (z : Zmc) (now mem word b : Nat) : getF (memNote z now mem word b false) (zmcBase + 0x0A00) 0 0 = 1 := by
  have status : calm (ownerOf (zmcBase + 0x0A08)) (zmcBase + 0x0A00) := by unfold calm; decide
  have posted (y : Zmc) : getF (bump (post y now (zmcBase + 0x0A00) 0) now (zmcBase + 0x0A08)) (zmcBase + 0x0A00) 0 0 = 1 := by
    rw [getF, bump, wordAt_bumpN_ne _ _ _ _ (by decide) status]
    exact getF_post (by decide) y now _
  unfold memNote
  rw [if_neg Bool.false_ne_true, posted]

theorem memNote_uncorrectable (z : Zmc) (now mem word b : Nat) : getF (memNote z now mem word b true) (zmcBase + 0x0A00) 1 1 = 1 := by
  have posted (y : Zmc) (c i k : Nat) (d : List Word) : getF (evPost (post y now (zmcBase + 0x0A00) 1) now c i k d) (zmcBase + 0x0A00) 1 1 = 1 := by
    rw [getF, wordAt_evPost]
    exact getF_post (by decide) y now _
  unfold memNote
  rw [if_pos rfl, posted]

theorem memConsequence_course (x : Sys) {mem : Nat} (word b : Nat) {c : CourseId} (h : mem < 128) (hc : mem / 8 = c.val) :
    memConsequence x mem word b = onCrs x c (fun y => potFence y 1) := by
  unfold memConsequence
  rw [if_pos h, hc, toCrs_val]

theorem runHold_boot (x : Sys) (mem word b : Nat) :
    (runHold x mem word b).z.boot.hold = 1 ∧ (runHold x mem word b).z.boot.ready = false ∧ (runHold x mem word b).z.boot.phase = 8 := ⟨rfl, rfl, rfl⟩

end Sys2Proof.Machine

namespace Sys2Proof.Proofs
open Sys2Proof.Machine

/-- Settles O15: a corrected error is recorded only; an uncorrectable one fences its course, drops its key slot or holds the ZMC. -/
theorem memoryErrors : Obligations.MemoryErrors := by
  unfold Obligations.MemoryErrors
  intro s n mem word b c
  dsimp only
  generalize hx : before s n = x
  intro hr
  have dbl : memDoubleBit x mem word b = memConsequence (onZmc x (fun z now => memNote z now mem word b true)) mem word b := if_pos hr
  refine ⟨?_, fun h hc hf => ?_, fun hm => ?_, fun hm => ?_⟩
  · refine gives_all (exec_memSingleBitError ..) (fun t tc tz _ _ => ?_)
    have e : memSingleBit x.z x.now mem word b = memNote x.z x.now mem word b false := if_pos hr
    rw [hx] at tc tz
    rw [onZmc_z, e] at tz
    obtain ⟨hi, hk, hb⟩ := memNote_kept x.z x.now mem word b false
    rw [tz.cinfo, tz.keys, tz.boot, tc]
    refine ⟨?_, ?_, hi, hk, hb, rfl⟩
    · rw [← memNote_last x.z x.now mem word b, getWide, tz.2 _ (by decide), tz.2 _ (by decide)]; rfl
    · rw [getF, tz.2 _ (by decide)]
      exact memNote_corrected x.z x.now mem word b
  · refine gives_all (exec_memDoubleBitError ..) (fun t tc tz _ _ => ?_)
    rw [hx, dbl, memConsequence_course _ _ _ h hc] at tc tz
    rw [tz.cinfo, tc, onCrs_z]
    refine ⟨(potFence_fence _ 1).trans (if_pos ?_), fun e he => onCrs_crs_other _ _ he⟩
    exact (congrArg (fun v : Vector CInfo 16 => v[c].fence) (memNote_kept x.z x.now mem word b true).1).trans hf
  · refine gives_all (exec_memDoubleBitError ..) (fun t tc tz _ _ => ?_)
    subst hm
    rw [hx, dbl] at tc tz
    have e (y : Sys) : memConsequence y 168 word b = onZmc y (fun z _ => keyDrop z (word / 16)) := rfl
    rw [e] at tc tz
    rw [onZmc_z, onZmc_z] at tz
    rw [tz.keys, tc]
    refine ⟨?_, rfl, ?_⟩
    · exact congrArg (fun k => tblDel k.slots (word / 16)) (memNote_kept x.z x.now 168 word b true).2.1
    · rw [getF, tz.2 _ (by decide)]
      exact memNote_uncorrectable x.z x.now 168 word b
  · refine gives_all (exec_memDoubleBitError ..) (fun t _ tz _ _ => ?_)
    subst hm
    rw [hx, dbl] at tz
    have e (y : Sys) : memConsequence y 129 word b = runHold y 129 word b := rfl
    rw [e] at tz
    rw [tz.boot]
    exact runHold_boot ..

end Sys2Proof.Proofs

/-! SUPPORT. A permitted write of a plain register, and a SET from its write to its end (R38 to R40). -/

namespace Sys2Proof.Machine

/-! ### Permitted writes -/

/-- A register of the register windows that a 32-bit write takes by its fields: no mailbox, no queue memory, no half of a 64-bit value, not ZMC_SET. -/
def plainReg (off : Nat) : Bool :=
  decide (0x10000 ≤ off) && decide (off % 4 = 0) && decide (off % 0x10000 < 0x8000) && (mbxAt off).isNone &&
  !decide (mbxBase + 0x1000 ≤ off ∧ off < mbxBase + 0x3000) && !decide (mbxBase + 0x10000 ≤ off ∧ off < mbxBase + 0x18000) &&
  (regDef off).isSome && off != zmcBase + 0x0010 && !wideLow off && !wideHigh off

theorem setWidth_low (v : Word) : (v.setWidth 64).extractLsb' 0 32 = v := by
  apply BitVec.eq_of_toNat_eq
  have h := v.isLt
  simp only [BitVec.extractLsb'_toNat, BitVec.toNat_setWidth]
  omega

/-- A permitted 32-bit write of a plain register: its fields take the word. -/
theorem busWrite_plain {x : Sys} {o : Orig} {off : Nat} (v : Word) (hu : closedUp x.z = false) (hp : plainReg off = true) (hb : backed x.z off = true)
    (hm : mayWrite x.z o.val off = true) : busWrite x o off .b4 (v.setWidth 64) = takeWords x o.val off [(off, v)] := by
  simp only [plainReg, Bool.and_eq_true, decide_eq_true_eq, Bool.not_eq_true', decide_eq_false_iff_not, bne_iff_ne, Option.isNone_iff_eq_none] at hp
  obtain ⟨⟨⟨⟨⟨⟨⟨⟨⟨hlo, h4⟩, hreg⟩, hmb⟩, hq⟩, haud⟩, hr⟩, hset⟩, hwl⟩, hwh⟩ := hp
  have hwin : ¬ off < 0x10000 := by omega
  have hview : off % 0x10000 / 0x8000 ≠ 1 := by omega
  have hdef : ¬ (regDef off).isNone = true := by rw [Option.isNone_iff_eq_none]; exact fun h => by rw [h] at hr; cases hr
  rw [busWrite_b4 x o _ h4, setWidth_low]
  unfold wordWrite
  dsimp only
  rw [if_neg (by simp [hu]), if_neg hwin, if_neg (by simp [hm]), if_neg (by simp [hview, hb]), if_neg (by simp [hm]), hmb]
  dsimp only
  rw [if_neg hq, if_neg haud, if_neg hdef, if_neg hset, if_neg (by simp [hwl]), if_neg (by simp [hwh])]

/-- A listed register of a block outside the bays and the courses is backed whatever is fitted. -/
theorem backed_of_regDef (z : Zmc) {off k i b : Nat} (hb : blockOf off = some (k, i, b)) (h4 : k ≠ 4) (h5 : k ≠ 5) (hr : (regDef off).isSome = true) :
    backed z off = true := by
  unfold backed
  rw [hb]
  simp [h4, h5, hr]

/-- A permitted write of ZMC_SET asks for a SET. -/
theorem busWrite_set {x : Sys} {o : Orig} (v : Word) (hu : closedUp x.z = false) (hm : mayWrite x.z o.val (zmcBase + 0x0010) = true) :
    busWrite x o (zmcBase + 0x0010) .b4 (v.setWidth 64) = setWrite x o.val 6 v := by
  have hb : backed x.z (zmcBase + 0x0010) = true := backed_of_regDef x.z (k := 1) (i := 0) (b := 0x010000) (by decide) (by decide) (by decide) (by decide)
  have hmb : mbxAt (zmcBase + 0x0010) = none := by decide
  have hdef : (regDef (zmcBase + 0x0010)).isNone = false := by decide
  rw [busWrite_b4 x o _ (by decide), setWidth_low]
  unfold wordWrite
  dsimp only
  rw [if_neg (by simp [hu]), if_neg (by decide), if_neg (by simp [hm]), if_neg (by rw [hb]; decide), if_neg (by simp [hm]), hmb]
  dsimp only
  rw [if_neg (by decide), if_neg (by decide), if_neg (by simp [hdef]), if_pos rfl]

/-! ### What applying a SET keeps -/

/-- The registers, the SET in progress, the courses' records and the messages are as they were. -/
structure ApplyKept (a b : Zmc) : Prop where
  rg : b.rg = a.rg
  setu : b.setu = a.setu
  cinfo : b.cinfo = a.cinfo
  boot : b.boot = a.boot

namespace ApplyKept

theorem refl (a : Zmc) : ApplyKept a a := ⟨rfl, rfl, rfl, rfl⟩

theorem trans {a b c : Zmc} (h : ApplyKept a b) (k : ApplyKept b c) : ApplyKept a c :=
  ⟨k.rg.trans h.rg, k.setu.trans h.setu, k.cinfo.trans h.cinfo, k.boot.trans h.boot⟩

theorem ite {p : Prop} [Decidable p] {a b c : Zmc} (hb : ApplyKept a b) (hc : ApplyKept a c) : ApplyKept a (if p then b else c) :=
  iteInduction (motive := fun y => ApplyKept a y) (fun _ => hb) (fun _ => hc)

theorem foldl {α : Type} {f : Zmc → α → Zmc} (hf : ∀ z a, ApplyKept z (f z a)) (l : List α) (z : Zmc) : ApplyKept z (l.foldl f z) := by
  induction l generalizing z with
  | nil => exact .refl z
  | cons a l ih => exact (hf z a).trans (ih (f z a))

/-- A step of a course's part, taken or not. -/
theorem step {p : Prop} [Decidable p] {a : Zmc} {y : Cx} (f : Cx → Cx) (h : ApplyKept a y.z) (hf : ∀ w : Cx, ApplyKept w.z (f w).z) :
    ApplyKept a (if p then f y else y).z :=
  iteInduction (motive := fun y : Cx => ApplyKept a y.z) (fun _ => h.trans (hf y)) (fun _ => h)

end ApplyKept

theorem endHolds_kept (z : Zmc) (p : PortId) : ApplyKept z (endHolds z p) := by
  unfold endHolds
  apply ApplyKept.foldl
  intro z h
  apply ApplyKept.foldl
  exact fun _ _ => ⟨rfl, rfl, rfl, rfl⟩

theorem orphanAll_kept (z : Zmc) (p : PortId) : ApplyKept z (orphanAll z p) := by
  unfold orphanAll
  dsimp only
  apply ApplyKept.trans
  case k => apply ApplyKept.foldl; exact fun _ _ => ⟨rfl, rfl, rfl, rfl⟩
  apply ApplyKept.foldl
  exact fun _ _ => ⟨rfl, rfl, rfl, rfl⟩

theorem portPeer_kept (z : Zmc) (now : Nat) : ApplyKept z (portPeer z now) := by
  have live (l : Bool) : ApplyKept z (setLive z now 20 l) := ⟨rfl, rfl, rfl, rfl⟩
  unfold portPeer liveRise liveFall
  exact .ite (.ite (.refl z) (live true)) (.ite ((live false).trans ((orphanAll_kept ..).trans (endHolds_kept ..))) (.refl z))

/-- A step of the block, taken or not. -/
theorem ApplyKept.zstep {p : Prop} [Decidable p] {a y : Zmc} (f : Zmc → Zmc) (h : ApplyKept a y) (hf : ∀ w : Zmc, ApplyKept w (f w)) :
    ApplyKept a (if p then f y else y) :=
  .ite (h.trans (hf y)) h

theorem regApplied_kept (old : Nat → Word) (z : Zmc) (now : Nat) : ApplyKept z (regApplied old z now) := by
  unfold regApplied
  dsimp only
  apply ApplyKept.trans
  case k => apply ApplyKept.foldl; exact fun z r => .ite (.refl z) ⟨rfl, rfl, rfl, rfl⟩
  refine .zstep (fun z => { z with plumb := { z.plumb with lapStart := now, lastLap := now } }) ?_ (fun _ => ⟨rfl, rfl, rfl, rfl⟩)
  refine .zstep (fun z => portPeer z now) ?_ (fun w => portPeer_kept w now)
  exact .zstep needBond (.refl z) (fun _ => ⟨rfl, rfl, rfl, rfl⟩)

theorem armBay_kept (z : Zmc) (now : Nat) (b : BayId) (ws : List Word) : ApplyKept z (armBay z now b ws) := by
  unfold armBay
  exact .ite (.refl z) ⟨rfl, rfl, rfl, rfl⟩

theorem gateApply_kept (z : Zmc) (c : CourseId) (now : Nat) : ApplyKept z (gateApply z c now) := by
  unfold gateApply
  exact .ite ⟨rfl, rfl, rfl, rfl⟩ ⟨rfl, rfl, rfl, rfl⟩

theorem homeApplied_kept (old : Nat → Word) (z : Zmc) (now : Nat) (h : HomeId) : ApplyKept z (homeApplied old z now h) := by
  unfold homeApplied
  dsimp only
  apply ApplyKept.trans
  case k => apply ApplyKept.foldl; exact fun z j => gateApply_kept z (toCrs (8 * h.val + j)) now
  apply ApplyKept.trans
  case k => apply ApplyKept.foldl; exact fun z k => armBay_kept z now _ _
  apply ApplyKept.foldl
  exact fun z p => .ite ⟨rfl, rfl, rfl, rfl⟩ (.refl z)

theorem restartTgts_z (x : Cx) : (restartTgts x).z = x.z := by
  have fold (l : List (Fin 16)) : ∀ y : Cx, (l.foldl (fun x i => modTgt x i (fun _ => { e := startAccr x i.val })) y).z = y.z := by
    induction l with
    | nil => exact fun _ => rfl
    | cons a l ih => exact fun y => (ih _).trans rfl
  exact fold _ x

theorem potCb_z (x : Cx) (off : Nat) (v : Word) : (potCb x off v).z = x.z := rfl

theorem cbTimRegs_z (x : Cx) : (cbTimRegs x).z = x.z := by
  unfold cbTimRegs
  simp only [potCb_z]

theorem crsApplied_kept (old : Nat → Word) (x : Cx) : ApplyKept x.z (crsApplied old x).z := by
  have same {y w : Cx} (h : w.z = y.z) : ApplyKept y.z w.z := h ▸ .refl y.z
  have bond (y : Cx) : ApplyKept y.z (y.onZ needBond).z := ⟨rfl, rfl, rfl, rfl⟩
  unfold crsApplied
  dsimp only
  refine .step restartTgts ?_ (fun w => same (restartTgts_z w))
  refine .step (fun y => y.onZ needBond) ?_ bond
  refine .step cbTimRegs ?_ (fun w => same (cbTimRegs_z w))
  refine .step (fun y => y.onZ needBond) ?_ bond
  refine .step (fun y => (y.onC (fun c => c.mapTo {})).onZ needBond) ?_ (fun _ => ⟨rfl, rfl, rfl, rfl⟩)
  refine .step (fun y => y.onL (fun l => { l with armed := true })) ?_ (fun _ => same rfl)
  exact .step (fun y => y.onL (fun l => { l with rate := true })) (.refl x.z) (fun _ => same rfl)

end Sys2Proof.Machine

/-! SUPPORT. What an island's words of a SET become, and the statement about SETs. -/

namespace Sys2Proof.Machine

/-- The words of a snapshot taken one after the other. -/
def putSnap (l : List (Nat × Word)) (z : Zmc) : Zmc := l.foldl (fun z p => putWord z p.1 (bufMerge (wordAt z p.1) p.2 p.1)) z

theorem putSnap_field {β : Type} (g : Zmc → β) (hg : ∀ z o v, g (putWord z o v) = g z) (l : List (Nat × Word)) (z : Zmc) : g (putSnap l z) = g z :=
  foldl_field (f := fun (z : Zmc) (p : Nat × Word) => putWord z p.1 (bufMerge (wordAt z p.1) p.2 p.1)) g (fun _ _ => hg _ _ _) l z

theorem wordAt_putSnap_none {l : List (Nat × Word)} {a : Nat} (h : l.filter (fun p => p.1 == a) = []) (z : Zmc) : wordAt (putSnap l z) a = wordAt z a := by
  unfold putSnap
  induction l generalizing z with
  | nil => rfl
  | cons p l ih =>
      have hp : ¬ (p.1 == a) = true := fun e => by rw [List.filter_cons, if_pos e] at h; cases h
      rw [List.filter_cons, if_neg hp] at h
      rw [List.foldl_cons, ih h, wordAt_put_ne _ _ (fun e => hp (by simp [e]))]

/-- The one word that a snapshot holds of a register is merged into it. -/
theorem wordAt_putSnap {l : List (Nat × Word)} {a : Nat} {w : Word} (h : l.filter (fun p => p.1 == a) = [(a, w)]) (z : Zmc) :
    wordAt (putSnap l z) a = bufMerge (wordAt z a) w a := by
  induction l generalizing z with
  | nil => cases h
  | cons p l ih =>
      by_cases hp : (p.1 == a) = true
      · rw [List.filter_cons, if_pos hp] at h
        obtain ⟨rfl, hl⟩ := List.cons.inj h
        refine (wordAt_putSnap_none hl _).trans ?_
        exact wordAt_put ..
      · rw [List.filter_cons, if_neg hp] at h
        refine (ih h _).trans ?_
        rw [wordAt_put_ne _ _ (fun e => hp (by simp [e]))]

/-- The words of the SET in progress that an island takes. -/
def islWords (z : Zmc) (i : Nat) : List (Nat × Word) := z.setu.snap.filter (fun p => ownerOf p.1 == i && !patWord p.1)

/-- The block when island `i` has taken its words and acknowledged. -/
def islTaken (z : Zmc) (i : Nat) : Zmc :=
  { putSnap (islWords z i) z with setu := { z.setu with named := z.setu.named.filter (fun k => k != i) } }

/-- The same in the whole system. -/
def islSys (x : Sys) (i : Nat) : Sys :=
  let z := putSnap (islWords x.z i) x.z
  { x with z := { z with setu := { z.setu with named := z.setu.named.filter (fun k => k != i) } } }

theorem islSys_z (x : Sys) (i : Nat) : (islSys x i).z = islTaken x.z i := by
  have hs : (putSnap (islWords x.z i) x.z).setu = x.z.setu := putSnap_field Zmc.setu (fun _ _ _ => rfl) _ _
  unfold islSys islTaken
  dsimp only
  rw [hs]

theorem onCrs_crsApplied_kept (old : Nat → Word) (y : Sys) (c : CourseId) : ApplyKept y.z (onCrs y c (crsApplied old)).z := crsApplied_kept old (cxOf y c)

/-- A home's part of a SET: an interleave word that moved makes the Bond table stale. -/
theorem homePart_kept (old : Nat → Word) (y : Sys) (h : HomeId) (b : Bool) :
    ApplyKept y.z (onZmc (if b then onZmc y (fun z _ => needBond z) else y) (fun z now => homeApplied old z now h)).z := by
  cases b with
  | false => rw [if_neg Bool.false_ne_true, onZmc_z]; exact homeApplied_kept ..
  | true =>
      have bond : ApplyKept y.z (needBond y.z) := ⟨rfl, rfl, rfl, rfl⟩
      rw [if_pos rfl, onZmc_z, onZmc_z, onZmc_now]
      exact bond.trans (homeApplied_kept old (needBond y.z) y.now h)

theorem applyIsl_eq (x : Sys) (i : Nat) : ∃ moved : Bool, applyIsl x i =
    if i < 16 then onCrs (islSys x i) (toCrs i) (crsApplied (wordAt x.z))
    else if i < 18 then onZmc (if moved then onZmc (islSys x i) (fun z _ => needBond z) else islSys x i) (fun z now => homeApplied (wordAt x.z) z now (toHome (i - 16)))
    else if i = 19 then onZmc (islSys x i) (fun z now => regApplied (wordAt x.z) z now)
    else islSys x i :=
  ⟨(islWords x.z i).any (fun p => ilvWord (toHome (i - 16)) p.1 && wordAt x.z p.1 != wordAt (islSys x i).z p.1), rfl⟩

theorem applyIsl_kept (x : Sys) (i : Nat) : ApplyKept (islTaken x.z i) (applyIsl x i).z := by
  have pick {p : Prop} [Decidable p] {a : Zmc} {u v : Sys} (hu : ApplyKept a u.z) (hv : ApplyKept a v.z) : ApplyKept a (if p then u else v).z :=
    iteInduction (motive := fun y : Sys => ApplyKept a y.z) (fun _ => hu) (fun _ => hv)
  obtain ⟨moved, e⟩ := applyIsl_eq x i
  rw [e, ← islSys_z]
  exact pick (onCrs_crsApplied_kept (wordAt x.z) (islSys x i) (toCrs i))
    (pick (homePart_kept (wordAt x.z) (islSys x i) (toHome (i - 16)) moved) (pick (regApplied_kept (wordAt x.z) (islSys x i).z (islSys x i).now) (.refl _)))

end Sys2Proof.Machine

/-! SUPPORT. The statement about SETs. -/

namespace Sys2Proof.Machine

theorem setAccept_setu (x : Sys) (orig src mask : Nat) (isl : List Nat) : (setAccept x orig src mask isl).z.setu =
    { busy := true, named := isl, snap := x.z.rg.pend.filter (fun p => isl.contains (ownerOf p.1)), accAt := x.now } := by
  simp [setAccept]

theorem setAccept_pend (x : Sys) (orig src mask : Nat) (isl : List Nat) : (setAccept x orig src mask isl).z.rg.pend = x.z.rg.pend := by
  simp [setAccept, audit_rg, putWord]

theorem setWrite_accepted {x : Sys} {v : Word} (orig src : Nat) (hb : x.z.setu.busy = false) (hm : v.toNat % 2 ^ 25 ≠ 0)
    (hf : firstFail x (maskIsl x.z (v.toNat % 2 ^ 25)) = none) :
    setWrite x orig src v = setAccept x orig src (v.toNat % 2 ^ 25) (maskIsl x.z (v.toNat % 2 ^ 25)) := by
  unfold setWrite
  dsimp only
  rw [if_neg (by simp [hb]), if_neg hm, hf]

theorem setWrite_busy {x : Sys} (v : Word) (orig src : Nat) (hb : x.z.setu.busy = true) :
    setWrite x orig src v = onZmc x (fun z now => dropAcc (post z now (zmcBase + 0x18) 2) now (zmcBase + 0x10) 5 orig) := by
  unfold setWrite
  dsimp only
  rw [if_pos hb]

end Sys2Proof.Machine

namespace Sys2Proof.Proofs
open Sys2Proof.Machine

/-- Settles O17: a SET is accepted with its snapshot or dropped while one is busy, an island merges its words, and the last one ends it. -/
theorem setsApply : Obligations.SetsApply := by
  unfold Obligations.SetsApply
  intro s n o v i off w hu
  dsimp only
  have hu' : closedUp (before s n).z = false := by simpa [before] using hu
  generalize hx : before s n = x at *
  refine ⟨fun hm hv hb hf => ?_, fun hm hb => ?_, fun hb hl hs ho hp h218 => ?_, fun hb hl => ?_⟩
  · refine gives_all (exec_setIssue ..) (fun t tc tz _ _ => ?_)
    rw [hx, busWrite_set v hu' hm, setWrite_accepted _ _ hb hv hf] at tc tz
    rw [tz.setu, tz.rg_pend, tc, setAccept_setu, setAccept_pend]
    exact ⟨rfl, rfl, rfl⟩
  · refine gives_all (exec_setIssue ..) (fun t tc tz _ _ => ?_)
    rw [hx, busWrite_set v hu' hm, setWrite_busy _ _ _ hb] at tc tz
    rw [tz.setu, tc, getF, tz.2 _ (by decide), onZmc_z]
    refine ⟨?_, ?_, rfl⟩
    · simp [dropAcc]
    · have dropped (y : Zmc) : wordAt (dropAcc y x.now (zmcBase + 0x10) 5 o.val) (zmcBase + 0x18) = wordAt y (zmcBase + 0x18) :=
        wordAt_put_ne _ _ (by decide)
      rw [dropped]
      exact getF_post (by decide) x.z x.now _
  · refine gives_all (exec_setApply ..) (fun t _ tz _ _ => ?_)
    have e : setApplyAt x i.val = applyIsl x i.val := by
      unfold setApplyAt
      rw [if_pos (by rw [hb, hl]; rfl)]
    rw [hx, ifUp_run hu', e] at tz
    have k := applyIsl_kept x i.val
    have words : islWords x.z i.val = [(off, w)] := by
      unfold islWords
      rw [hs, List.filter_cons, if_pos (by simp [ho, hp])]; rfl
    rw [tz.2 _ h218, tz.setu, k.setu]
    refine ⟨?_, rfl, hb⟩
    have reg : wordAt (applyIsl x i.val).z off = wordAt (islTaken x.z i.val) off := by unfold wordAt; rw [k.rg]
    rw [reg]
    show wordAt (putSnap (islWords x.z i.val) x.z) off = _
    rw [words]
    exact wordAt_putSnap (by simp) x.z
  · refine gives_all (exec_setComplete ..) (fun t tc tz _ _ => ?_)
    have e : setCompleteNow x = setFinish x := by
      unfold setCompleteNow
      rw [if_pos (by rw [hb, hl]; rfl)]
    rw [hx, ifUp_run hu', e] at tc tz
    rw [tz.setu, tc, getF, tz.2 _ (by decide)]
    have setu : (setFinish x).z.setu = { x.z.setu with busy := false, named := [], snap := [] } := post_setu ..
    rw [setu]
    exact ⟨rfl, rfl, rfl, getF_post (by decide) _ _ _, rfl⟩

end Sys2Proof.Proofs

/-! SUPPORT. The Plumb check's lap, and the pair's faulted word applied again by a SET (R48, R374). -/

namespace Sys2Proof.Machine

theorem closeCmd_lastLap (x y : Sys) : (closeCmd x y).z.plumb.lastLap = y.z.plumb.lastLap := by
  have fenced (z : Zmc) (c : CourseId) : (pairFenced z c).plumb = z.plumb := by
    have e : ((List.range 8).foldl (fun z r => rangeFenced z c r) z).plumb = z.plumb :=
      foldl_field (f := fun z r => rangeFenced z c r) Zmc.plumb (fun z r => by unfold rangeFenced; simp only; split <;> rfl) _ z
    unfold pairFenced; simp only
    generalize (List.range 8).foldl (fun z r => rangeFenced z c r) z = w at *
    split
    · exact e
    · exact e
  have fold (l : List CourseId) : ∀ y : Sys, (l.foldl (fun y c => onZmc y (fun z _ => pairFenced z c)) y).z.plumb = y.z.plumb := by
    induction l with
    | nil => exact fun _ => rfl
    | cons c l ih =>
        intro y
        rw [List.foldl_cons, ih, onZmc_z, fenced]
  have last (y : Sys) : (potFinish y).z.plumb.lastLap = y.z.plumb.lastLap := by
    unfold potFinish
    split
    · rfl
    · rw [onZmc_z]
      simp [potCommit, refCommit, plumbCommit, putWord]
  unfold closeCmd
  rw [last, fold]

/-! ### A SET that Potrie issues and drains -/

theorem setDrain_idle {x : Sys} (h : x.z.setu.busy = false) : setDrain x = x := by
  unfold setDrain
  rw [if_neg (by simp [h])]

theorem islPowered_lt {z : Zmc} {i : Nat} (h : islPowered z i = true) : i < 25 := by
  unfold islPowered at h
  split at h
  · omega
  · simpa using h

theorem maskIsl_one {z : Zmc} {k : Nat} (h : islPowered z k = true) : maskIsl z (2 ^ k) = [k] := by
  have hk := islPowered_lt h
  have e : maskIsl z (2 ^ k) = (List.range 25).filter (fun i => i == k) := by
    unfold maskIsl
    refine List.filter_congr (fun i _ => ?_)
    rw [Nat.testBit_two_pow]
    by_cases hi : k = i
    · subst hi; simp [h]
    · simp [hi, Ne.symm hi]
  rw [e]
  have all : ∀ k : Fin 25, (List.range 25).filter (fun i => i == k.val) = [k.val] := by decide
  exact all ⟨k, hk⟩

/-- The block when Potrie's SET over one island is over. -/
structure OneSet (x : Sys) (k : Nat) (y : Sys) : Prop where
  busy : y.z.setu.busy = false
  cinfo : y.z.cinfo = x.z.cinfo
  word : ∀ a w, x.z.rg.pend.filter (fun p => p.1 == a) = [(a, w)] → ownerOf a = k → patWord a = false → a ≠ zmcBase + 0x10 → a ≠ zmcBase + 0x18 →
    wordAt y.z a = bufMerge (wordAt x.z a) w a

theorem potSetNow_one {x : Sys} {k : Nat} (src : Nat) (hb : x.z.setu.busy = false) (hk : islPowered x.z k = true)
    (hf : firstFail x (maskIsl x.z (2 ^ k)) = none) : (potSetNow x src (2 ^ k)).2 = true ∧ OneSet x k (potSetNow x src (2 ^ k)).1 := by
  have hk25 := islPowered_lt hk
  have hpow : 2 ^ k < 2 ^ 25 := Nat.pow_lt_pow_right (by decide) hk25
  have hmask : (BitVec.ofNat 32 (2 ^ k)).toNat % 2 ^ 25 = 2 ^ k := by
    rw [BitVec.toNat_ofNat, Nat.mod_eq_of_lt (show 2 ^ k < 2 ^ 32 by omega), Nat.mod_eq_of_lt hpow]
  have hw : setWrite x 0 src (BitVec.ofNat 32 (2 ^ k)) = setAccept x 0 src (2 ^ k) [k] := by
    rw [setWrite_accepted 0 src hb (by rw [hmask]; exact Nat.pos_iff_ne_zero.1 (Nat.two_pow_pos k)) (by rw [hmask]; exact hf), hmask, maskIsl_one hk]
  unfold potSetNow
  dsimp only
  rw [setDrain_idle hb, hw]
  have hs : (setAccept x 0 src (2 ^ k) [k]).z.setu = _ := setAccept_setu x 0 src (2 ^ k) [k]
  have hword (a : Nat) (h : a ≠ zmcBase + 0x10) : wordAt (setAccept x 0 src (2 ^ k) [k]).z a = wordAt x.z a := by
    unfold setAccept
    rw [onZmc_z]
    dsimp only
    rw [wordAt_audit]
    exact wordAt_put_ne _ _ h
  have hc : (setAccept x 0 src (2 ^ k) [k]).z.cinfo = x.z.cinfo := by simp [setAccept, putWord]
  have hbt : (setAccept x 0 src (2 ^ k) [k]).z.boot = x.z.boot := by simp [setAccept, putWord]
  generalize setAccept x 0 src (2 ^ k) [k] = y at *
  have left : setLeft y.z = [k] := by
    have : islPowered y.z k = true := by
      rw [← hk]
      simp only [islPowered, powered, hc, hbt]
    unfold setLeft
    rw [hs, List.filter_cons, if_pos this]; rfl
  have kept := applyIsl_kept y k
  have e : setDrain y = setFinish (applyIsl y k) := by
    unfold setDrain
    rw [if_pos (by rw [hs]), left]; rfl
  refine ⟨by rw [hs], ?_⟩
  rw [e]
  have fin : (setFinish (applyIsl y k)).z = post { (applyIsl y k).z with setu := { (applyIsl y k).z.setu with busy := false, named := [], snap := [] } } y.now (zmcBase + 0x18) 0 := by
    unfold setFinish
    rw [onZmc_z, applyIsl_now]
  refine ⟨?_, ?_, fun a w hp ho hpat h10 h18 => ?_⟩
  · rw [fin, post_setu]
  · rw [fin, post_cinfo]
    have : (islTaken y.z k).cinfo = y.z.cinfo := putSnap_field Zmc.cinfo (fun _ _ _ => rfl) _ _
    exact kept.cinfo.trans (this.trans hc)
  · rw [fin, wordAt_post_ne _ _ _ h18]
    have words : (islWords y.z k).filter (fun p => p.1 == a) = [(a, w)] := by
      rw [← hp]
      unfold islWords
      rw [hs, List.filter_filter, List.filter_filter]
      refine List.filter_congr (fun p _ => ?_)
      by_cases hpa : p.1 = a
      · simp [hpa, ho, hpat]
      · have ne : (p.1 == a) = false := by simp [hpa]
        rw [ne]; simp
    have reg : wordAt (applyIsl y k).z a = wordAt (islTaken y.z k) a := by unfold wordAt; rw [kept.rg]
    refine Eq.trans reg ?_
    rw [← hword a h10]
    exact wordAt_putSnap words y.z

end Sys2Proof.Machine

/-! SUPPORT. The statement about the checks of the configuration. -/

namespace Sys2Proof.Machine

/-- The block when a lap's CRC is kept. -/
def lapTaken (z : Zmc) (now : Nat) : Zmc :=
  let z := bump (putWord z (zmcBase + 0x0210) (plumbCrc z)) now (zmcBase + 0x0228)
  { z with plumb := { z.plumb with lapStart := now, lastLap := now } }

theorem lapTaken_word (z : Zmc) (now : Nat) {q : Nat} (h : calm (ownerOf (zmcBase + 0x0228)) q) (hq : q ≠ zmcBase + 0x0228) :
    wordAt (lapTaken z now) q = wordAt (putWord z (zmcBase + 0x0210) (plumbCrc z)) q := by
  have k := wordAt_bumpN_ne (putWord z (zmcBase + 0x0210) (plumbCrc z)) now 0 1 hq h
  unfold lapTaken bump
  dsimp only
  generalize bumpN (putWord z (zmcBase + 0x0210) (plumbCrc z)) now (zmcBase + 0x0228) 0 1 = y at *
  exact k

theorem plumbLapEnd_eq {z : Zmc} {now : Nat} (h1 : getF z (zmcBase + 0x0200) 0 0 = 1) (h2 : z.plumb.lapStart + lapTu z ≤ now) :
    plumbLapEnd z now = if wordAt (lapTaken z now) (zmcBase + 0x0218) = 0 ∨ wordAt (lapTaken z now) (zmcBase + 0x0218) = plumbCrc z then lapTaken z now
      else evPost (post (lapTaken z now) now (zmcBase + 0x0208) 0) now 0x40 19 255 (fmtC 255 0 0 0) := by
  unfold plumbLapEnd
  rw [if_neg (by rw [h1]; omega)]
  rfl

theorem plumbLapEnd_kept {z : Zmc} {now : Nat} (h1 : getF z (zmcBase + 0x0200) 0 0 = 1) (h2 : z.plumb.lapStart + lapTu z ≤ now) :
    wordAt (plumbLapEnd z now) (zmcBase + 0x0210) = plumbCrc z ∧ (plumbLapEnd z now).plumb.lastLap = now ∧
      (wordAt z (zmcBase + 0x0218) ≠ 0 → wordAt z (zmcBase + 0x0218) ≠ plumbCrc z → getF (plumbLapEnd z now) (zmcBase + 0x0208) 0 0 = 1) := by
  have w210 : wordAt (lapTaken z now) (zmcBase + 0x0210) = plumbCrc z :=
    (lapTaken_word z now (by unfold calm; decide) (by decide)).trans (wordAt_put ..)
  have w218 : wordAt (lapTaken z now) (zmcBase + 0x0218) = wordAt z (zmcBase + 0x0218) :=
    (lapTaken_word z now (by unfold calm; decide) (by decide)).trans (wordAt_put_ne _ _ (by decide))
  have lap : (lapTaken z now).plumb.lastLap = now := rfl
  rw [plumbLapEnd_eq h1 h2, w218]
  generalize lapTaken z now = y at *
  by_cases h : wordAt z (zmcBase + 0x0218) = 0 ∨ wordAt z (zmcBase + 0x0218) = plumbCrc z
  · rw [if_pos h]
    exact ⟨w210, lap, fun h0 hc => absurd h (not_or.2 ⟨h0, hc⟩)⟩
  · rw [if_neg h, wordAt_evPost, evPost_plumb, post_plumb, wordAt_post_ne _ _ _ (by decide), getF, wordAt_evPost]
    exact ⟨w210, lap, fun _ _ => getF_post (by decide) y now _⟩

theorem parityBad_noted {z : Zmc} {now i off : Nat} (hb : (bufWords i).contains off = true) (hq : quoin z = false) :
    wordAt (parityBad z now i off) (zmcBase + 0x0230) = BitVec.ofNat 32 off ∧ getF (parityBad z now i off) (zmcBase + 0x0208) 1 1 = 1 ∧
      (parityBad z now i off).pair = z.pair ∧ (parityBad z now i off).cinfo = z.cinfo := by
  unfold parityBad
  rw [if_neg (by rw [hb]; simp)]
  dsimp only
  have h8 : zmcBase + 0x0C00 ≠ blkBase off + 8 := fun e => by
    have k := blkBase_mod off
    have : (zmcBase + 0x0C00) % 0x1000 = 0xC00 := by decide
    omega
  generalize he : evPost (post (putWord (post z now (blkBase off + 8) 1) (zmcBase + 0x0230) (BitVec.ofNat 32 off)) now (zmcBase + 0x0208) 1) now 0x41 i
    (if i < 16 then i else 255) (fmtC 255 0 off 0) = y
  have quiet : quoin y = false := by
    rw [← hq, ← he, quoin, quoin, getF, getF, wordAt_evPost, wordAt_post_ne _ _ _ (by decide), wordAt_put_ne _ _ (by decide), wordAt_post_ne _ _ _ h8]
  rw [if_neg (by rw [quiet]; simp)]
  refine ⟨?_, ?_, ?_, ?_⟩
  · rw [← he, wordAt_evPost, wordAt_post_ne _ _ _ (by decide), wordAt_put]
  · rw [← he, getF, wordAt_evPost]
    exact getF_post (by decide) _ now _
  · rw [← he, evPost_pair, post_pair]
    exact (putWord_pair ..).trans (post_pair z now (blkBase off + 8) 1)
  · rw [← he, evPost_cinfo, post_cinfo]
    exact (putWord_cinfo ..).trans (post_cinfo z now (blkBase off + 8) 1)

theorem refCommit_closeOnly (z : Zmc) (now : Nat) : CloseOnly z (refCommit z now) :=
  (closeOnly_commit ..).trans (closeOnly_audit ..)

/-- A range of the pair when the faulted word is good again. -/
def rangeResumed (ready : Bool) (z : Zmc) (r : Nat) : Zmc :=
  let st := z.pair.mirs[toMir r].st
  if (mirOf z r).role ≠ 0 then z
  else if st == 3 then startResync z r true
  else if st == 2 && ready then startResync z r false
  else z

/-- Only the mirror ranges differ. -/
def MirsOnly (a b : Zmc) : Prop := ∃ m, b = { a with pair := { a.pair with mirs := m } }

theorem rangeResumed_only (ready : Bool) (z : Zmc) (r : Nat) : MirsOnly z (rangeResumed ready z r) := by
  unfold rangeResumed
  dsimp only
  split
  · exact ⟨_, rfl⟩
  · split
    · exact ⟨_, rfl⟩
    · split <;> exact ⟨_, rfl⟩

theorem foldl_mirsOnly {α : Type} {f : Zmc → α → Zmc} (hf : ∀ z a, MirsOnly z (f z a)) (l : List α) (z : Zmc) : MirsOnly z (l.foldl f z) := by
  induction l generalizing z with
  | nil => exact ⟨_, rfl⟩
  | cons a l ih =>
      obtain ⟨m, e⟩ := hf z a
      obtain ⟨m', e'⟩ := ih (f z a)
      exact ⟨m', by rw [List.foldl_cons, e', e]⟩

/-- What the end of a re-application leaves: the mirror ranges, no fault, and a notice to the partner. -/
theorem reapplyDone_eq (z : Zmc) : ∃ m st, reapplyDone z =
    send (needBond { z with pair := { z.pair with mirs := m, fault := none, ready := false, st := st } }) (.peerNotice 2) := by
  have e : reapplyDone z = send ((List.range 8).foldl (rangeResumed z.pair.ready)
      (needBond { z with pair := { z.pair with fault := none, ready := false, st := if z.pair.st = 4 then 2 else z.pair.st } })) (.peerNotice 2) := rfl
  obtain ⟨m, em⟩ := foldl_mirsOnly (rangeResumed_only z.pair.ready) (List.range 8)
    (needBond { z with pair := { z.pair with fault := none, ready := false, st := if z.pair.st = 4 then 2 else z.pair.st } })
  exact ⟨m, _, by rw [e, em]; rfl⟩

end Sys2Proof.Machine

namespace Sys2Proof.Proofs
open Sys2Proof.Machine

/-- The pair's faulted word is applied again by one SET over its island (R374). -/
theorem reapply_done {x : Sys} {a : Nat} {w : Word} (ha : x.z.pair.fault = some a) (hbuf : (bufWords (ownerOf a)).contains a = true) (hp : potrieOn x.z = true)
    (hb : x.z.setu.busy = false) (hi : islPowered x.z (ownerOf a) = true) (hw : x.z.rg.pend.filter (fun p => p.1 == a) = [(a, w)])
    (hf : firstFail x (maskIsl x.z (2 ^ ownerOf a)) = none) :
    (reapply x).z.pair.fault = none ∧ (reapply x).z.pair.ready = false ∧ OutMsg.peerNotice 2 ∈ (reapply x).z.out ∧ (reapply x).z.setu.busy = false ∧
      (reapply x).z.cinfo = x.z.cinfo ∧ (a ≠ zmcBase + 0x0218 → patWord a = false → wordAt (reapply x).z a = bufMerge (wordAt x.z a) w a) := by
  obtain ⟨ok, one⟩ := potSetNow_one 7 hb hi hf
  have e : reapply x = onZmc (potSetNow x 7 (2 ^ ownerOf a)).1 (fun z now => reapplyDone (refCommit z now)) := by
    unfold reapply
    rw [ha]
    dsimp only
    rw [if_neg (by simp [hp]), if_pos ok]
  rw [e, onZmc_z]
  generalize (potSetNow x 7 (2 ^ ownerOf a)).1 = y at *
  have ref := refCommit_closeOnly y.z y.now
  obtain ⟨m, st, d⟩ := reapplyDone_eq (refCommit y.z y.now)
  rw [d]
  refine ⟨rfl, rfl, List.mem_append_right _ (List.mem_singleton_self _), ?_, ?_, fun h218 hpat => ?_⟩
  · exact (congrArg SetU.busy ref.setu).trans one.busy
  · exact ref.cinfo.trans one.cinfo
  · have notSet : ∀ k ∈ [zmcBase + 0x10, zmcBase + 0x18], (bufWords (ownerOf k)).contains k = false := by decide
    have ne {k : Nat} (hk : k ∈ [zmcBase + 0x10, zmcBase + 0x18]) : a ≠ k := fun h => by
      subst h
      rw [notSet a hk] at hbuf
      cases hbuf
    exact (ref.2 a h218).trans (one.word a w hw rfl hpat (ne (by simp)) (ne (by simp)))

/-- Settles O18: laps, stalls and bad words are recorded, the pair's faulted word is applied again, and a changed table gets the next generation. -/
theorem configurationIsChecked : Obligations.ConfigurationIsChecked := by
  unfold Obligations.ConfigurationIsChecked
  intro s n i off a w hu
  dsimp only
  have hu' : closedUp (before s n).z = false := by simpa [before] using hu
  have hc : (before s n).z.cinfo = s.sys.z.cinfo := startAt_cinfo ..
  refine ⟨fun h1 h2 => ?_, fun h1 h2 => ?_, fun hi hq hb => ?_, fun ha hbuf hp hb hi hw hf => ?_, fun hd hg hp hh => ?_⟩
  · refine gives_cmd (exec_plumbLapEnd ..) ?_
    rw [ifZ_run hu']
    obtain ⟨h210, lap, bad⟩ := plumbLapEnd_kept h1 h2
    dsimp only
    rw [closeCmd_lastLap, closeCmd_wordAt _ _ (by decide), closeCmd_getF _ _ (by decide), closeCmd_crs]
    exact ⟨h210, lap, bad, rfl⟩
  · refine gives_cmd (exec_plumbStall ..) ?_
    rw [ifZ_run hu']
    have e : plumbStall (before s n).z (before s n).now =
        post { (before s n).z with plumb := { (before s n).z.plumb with lastLap := (before s n).now } } (before s n).now (zmcBase + 0x0208) 2 := by
      unfold plumbStall
      rw [if_neg (by rw [h1]; omega)]
    dsimp only
    rw [closeCmd_lastLap, closeCmd_getF _ _ (by decide), e, post_plumb]
    exact ⟨getF_post (by decide) _ _ _, rfl⟩
  · refine gives_all (exec_parityCheck ..) (fun t _ tz _ tp => ?_)
    have e : parityCheck (before s n).z (before s n).now i.val ([off].map (fun o => o.toNat)) = parityBad (before s n).z (before s n).now i.val off.toNat := by
      unfold parityCheck
      have h := hu'
      simp only [closedUp, Bool.or_eq_false_iff, bne_eq_false_iff_eq, decide_eq_false_iff_not] at h
      rw [if_pos ⟨hi, h.1.1, by omega⟩]
      rfl
    rw [ifZ_run hu'] at tz tp
    dsimp only at tz tp
    rw [e] at tz tp
    obtain ⟨h230, h208, hpair, hci⟩ := parityBad_noted (z := (before s n).z) (now := (before s n).now) hb hq
    rw [tz.2 _ (by decide), getF, tz.2 _ (by decide), tp (hci.trans hc)]
    exact ⟨h230, h208, hpair⟩
  · refine gives_all (exec_faultedWordReapply ..) (fun t _ tz tout tp => ?_)
    rw [ifUp_run hu'] at tz tout tp
    obtain ⟨fault, ready, notice, busy, hci, word⟩ := reapply_done ha hbuf hp hb hi hw hf
    rw [tp (hci.trans hc), tz.setu]
    exact ⟨fault, ready, tout _ notice, busy, fun h218 hpat => (tz.2 a h218).trans (word h218 hpat)⟩
  · refine gives_all (exec_bondRegenerate ..) (fun t _ tz _ _ => ?_)
    have e : bondRegen (before s n).z (before s n).now = bondRewrite (before s n).z (before s n).now := by
      unfold bondRegen
      rw [hd, hp, hh, bne_iff_ne.2 hg]; rfl
    rw [ifZ_run hu'] at tz
    dsimp only at tz
    rw [e] at tz
    rw [tz.bond]
    exact potPost_bond ..

end Sys2Proof.Proofs

/-! SUPPORT. Chapter 20 (R386): a state in whose cycle software is said to have cleared the field that names the hottest sensor. -/

namespace Sys2Proof.Machine

/-- A held block with power whose island 20 has noted, in this cycle, a clear of the bits of therm status that name the hottest sensor. -/
def clearedHottest : State :=
  { sys := { z := { boot := { pwrGood := true, hold := 1 }, rg := { sw := [⟨zmcBase + 0x0E08, 0, 0x1F00#32⟩] } } } }

/-- Every sensor reads 120 degrees. -/
def hotSensors : List Int := List.replicate 25 120

/-- The alert of the hot sensor puts back the bits that were cleared, over the number of the sensor. -/
theorem clearedHottest_sensor : getF (onZmc (before clearedHottest 0) (fun z now => sensorSample z now hotSensors)).z (zmcBase + 0x0E08) 12 8 = 31 := rfl

theorem clearedHottest_hottest : (hottest (before clearedHottest 0).z hotSensors).2 = 20 := rfl

end Sys2Proof.Machine

namespace Sys2Proof.Proofs
open Sys2Proof.Machine

/-- Refutes O19: where a clear of the hottest sensor's field is noted in the cycle of the sample, the alert's post restores the cleared bits. -/
theorem not_heatIsHandled : ¬ Obligations.HeatIsHandled := by
  unfold Obligations.HeatIsHandled
  intro h
  obtain ⟨sample, -⟩ := h clearedHottest 0 0 0 hotSensors 0 0 0
  obtain ⟨t, e, -, -, -, hot⟩ := sample rfl (by decide)
  rw [exec_sensorSample, if_pos (by decide), cmd] at e
  cases e
  rw [closeCmd_getF _ _ (by decide)] at hot
  exact absurd (clearedHottest_sensor.symm.trans (hot.trans clearedHottest_hottest)) (by decide)

end Sys2Proof.Proofs

/-! SUPPORT. The control word of a mailbox (Table 4-5): a ring, a withdrawal, and what the audit of the write keeps. -/

namespace Sys2Proof.Machine

/-! ### The audit of a write -/

theorem LogOnly.ringQ {a b : Zmc} (h : LogOnly a b) : b.mgt.ringQ = a.mgt.ringQ := by
  obtain ⟨_, _, _, _, _, _, _, _, _, _, rfl⟩ := h; rfl

/-- The capture of a write touches neither the mailboxes nor their order. -/
theorem capture_mailboxes (z : Zmc) (now orig off : Nat) (old new : Word) :
    (capture z now orig off old new).mgt.mbx = z.mgt.mbx ∧ (capture z now orig off old new).mgt.ringQ = z.mgt.ringQ := by
  have coal (r : FifoRec) : (coalesce z r).mgt.mbx = z.mgt.mbx ∧ (coalesce z r).mgt.ringQ = z.mgt.ringQ := by
    unfold coalesce
    dsimp only
    split
    · split
      · exact ⟨rfl, rfl⟩
      · exact ⟨(logOnly_audit ..).mbx, (logOnly_audit ..).ringQ⟩
    · exact ⟨rfl, rfl⟩
  unfold capture
  split
  · exact ⟨rfl, rfl⟩
  · split
    · exact coal _
    · split <;> exact ⟨rfl, rfl⟩

/-! ### The write of a control word -/

theorem mbxAt_ctl (m : MbxId) : mbxAt (mbxBase + 0x0180 + 0x100 * m.val) = some m := by revert m; decide

theorem backed_ctl (z : Zmc) (m : MbxId) : backed z (mbxBase + 0x0180 + 0x100 * m.val) = true := by
  have hb : blockOf (mbxBase + 0x0180 + 0x100 * m.val) = some (2, 0, 0x020000) := by revert m; decide
  have hm : (decide (0x0100 ≤ mbxBase + 0x0180 + 0x100 * m.val - 0x020000 ∧ mbxBase + 0x0180 + 0x100 * m.val - 0x020000 < 0x0700) &&
      (decide ((mbxBase + 0x0180 + 0x100 * m.val - 0x020000) % 0x100 < 0x84) || (mbxBase + 0x0180 + 0x100 * m.val - 0x020000) % 0x100 == 0x88)) = true := by
    revert m; decide
  unfold backed
  rw [hb]
  dsimp only
  rw [if_neg (by decide), if_neg (by decide), if_pos rfl, hm]
  rfl

/-- A permitted 32-bit write of a mailbox's control word. -/
theorem busWrite_ctl {x : Sys} {o : Orig} {m : MbxId} (v : BitVec 64) (hu : closedUp x.z = false)
    (hm : mayWrite x.z o.val (mbxBase + 0x0180 + 0x100 * m.val) = true) :
    busWrite x o (mbxBase + 0x0180 + 0x100 * m.val) .b4 v = mbxWrite x o.val m 0x80 (mbxBase + 0x0180 + 0x100 * m.val) (v.extractLsb' 0 32) := by
  have all : ∀ m : MbxId, (mbxBase + 0x0180 + 0x100 * m.val) % 4 = 0 ∧ (mbxBase + 0x0180 + 0x100 * m.val) % 0x10000 / 0x8000 ≠ 1 ∧
      (mbxBase + 0x0180 + 0x100 * m.val - mbxBase) % 0x100 = 0x80 := by decide
  obtain ⟨h4, hview, hp⟩ := all m
  have hwin : ¬ mbxBase + 0x0180 + 0x100 * m.val < 0x10000 := by unfold mbxBase; omega
  rw [busWrite_b4 x o _ h4]
  unfold wordWrite
  dsimp only
  rw [if_neg (by simp [hu]), if_neg hwin, if_neg (by simp [hm]), if_neg (by simp [hview, backed_ctl]), if_neg (by simp [hm]), mbxAt_ctl]
  dsimp only
  rw [hp]

theorem mbxWrite_ring (x : Sys) (o : Nat) (m : MbxId) (off : Nat) : mbxWrite x o m 0x80 off 1#32 =
    onZmc x (fun z now =>
      let y := mbxRing z now m o
      if x.z.mgt.mbx[m].ph == .posted || x.z.mgt.mbx[m].ph == .running then y else capture y now o off (mbxWord x.z.mgt.mbx[m] 0x80) (mbxWord y.mgt.mbx[m] 0x80)) := by
  unfold mbxWrite
  dsimp only
  rw [if_neg (by decide), if_neg (by decide), if_pos (by decide)]
  have r : (1#32).getLsbD 0 = true := by decide
  have p : (1#32).getLsbD 1 = false := by decide
  simp only [r, p, Bool.false_and, Bool.true_and, if_true, Bool.or_false]
  cases (x.z.mgt.mbx[m].ph == .posted || x.z.mgt.mbx[m].ph == .running) <;> simp

theorem mbxWrite_cancel {x : Sys} {m : MbxId} (o off : Nat) (h : x.z.mgt.mbx[m].ph = .posted) : mbxWrite x o m 0x80 off 2#32 =
    onZmc x (fun z now => let y := withdraw z now m 0x0D; capture y now o off (mbxWord x.z.mgt.mbx[m] 0x80) (mbxWord y.mgt.mbx[m] 0x80)) := by
  unfold mbxWrite
  dsimp only
  rw [if_neg (by decide), if_neg (by decide), if_pos (by decide)]
  have r : (2#32).getLsbD 0 = false := by decide
  have p : (2#32).getLsbD 1 = true := by decide
  have ph : (x.z.mgt.mbx[m].ph == .posted) = true := by rw [h]; rfl
  simp only [r, p, ph, Bool.false_and, Bool.true_and, if_true, Bool.false_or]
  have c : mbxCancel x.z x.now m = withdraw x.z x.now m 0x0D := by unfold mbxCancel; rw [if_pos h]
  simp [onZmc, c]

/-! ### A withdrawal -/

/-- The mailbox that a withdrawal leaves (R74). -/
def withdrawn (z : Zmc) (now : Nat) (m : MbxId) (status : Nat) : Mbx :=
  let b := z.mgt.mbx[m]
  { b with
    ph := .done
    rsp := ((Vector.replicate 16 0#32).set 0 (setBits (b.req[(0 : Fin 16)] &&& 0x00FFFFFF#32) 31 24 status)).set 1 (b.req[(1 : Fin 16)] &&& 0xFFFF#32)
    undo := some (now / tuSck, wordAt z (mbxSts m.val), z.mgt.ringQ) }

theorem withdraw_mbx (z : Zmc) (now : Nat) (m : MbxId) (status : Nat) :
    (withdraw z now m status).mgt.mbx = modV z.mgt.mbx m (fun _ => withdrawn z now m status) ∧
      (withdraw z now m status).mgt.ringQ = z.mgt.ringQ.filter (fun k => k != m) := by
  unfold withdraw
  dsimp only
  rw [post_mgt]
  exact ⟨rfl, rfl⟩

theorem withdrawn_status (z : Zmc) (now : Nat) (m : MbxId) {status : Nat} (h : status < 256) :
    bitsOf (withdrawn z now m status).rsp[(0 : Fin 16)] 31 24 = status := by
  have e : (withdrawn z now m status).rsp[(0 : Fin 16)] = setBits (z.mgt.mbx[m].req[(0 : Fin 16)] &&& 0x00FFFFFF#32) 31 24 status := by
    simp [withdrawn]
  rw [e, bitsOf_setBits _ _ (by decide) (by decide)]
  exact Nat.mod_eq_of_lt h

/-- A frame that is dropped counts in its mailbox's status, up to 255 (R69). -/
theorem frameDrop_count {z : Zmc} {now : Nat} {m : MbxId} (h : swHit z now (mbxSts m.val) = false) :
    getF (frameDrop z now m) (mbxSts m.val) 23 16 = min 255 (getF z (mbxSts m.val) 23 16 + 1) := by
  have fld : ∀ m : MbxId, (cntFld (mbxSts m.val) 16).any (fun f => f.hi == 23 && f.lo == 16 && f.flag) = true := by decide
  have own : ∀ m : MbxId, calm (ownerOf (mbxSts m.val)) (mbxSts m.val) := by unfold calm; decide
  have wheel : ∀ m : MbxId, calm 18 (mbxSts m.val) := by unfold calm; decide
  obtain ⟨⟨hi, lo, cls, rst, flag⟩, hf, hb⟩ := Option.any_eq_true _ _ |>.1 (fld m)
  simp only [Bool.and_eq_true, beq_iff_eq] at hb
  obtain ⟨⟨rfl, rfl⟩, rfl⟩ := hb
  have k := getF_bumpN_sat (f := ⟨23, 16, cls, rst, true⟩) (k := 1) hf rfl (by simp) (by simp) h (own m)
  unfold frameDrop
  rw [getF, wordAt_edgeCtrs_ne _ _ _ _ _ (wheel m)]
  refine k.trans ?_
  exact Nat.min_comm ..

theorem frameDrop_mgt (z : Zmc) (now : Nat) (m : MbxId) : (frameDrop z now m).mgt = z.mgt := by
  unfold frameDrop
  rw [edgeCtrs_mgt, bumpN_mgt]

end Sys2Proof.Machine

/-! SUPPORT. The statement about rings and withdrawals. -/

namespace Sys2Proof.Proofs
open Sys2Proof.Machine

/-- A mailbox that has been withdrawn, whatever is logged of it. -/
theorem withdraw_answered {y z : Zmc} {now : Nat} {m : MbxId} {status : Nat} {t : State} (hs : status < 256) (hm : y.mgt.mbx = (withdraw z now m status).mgt.mbx)
    (hr : y.mgt.ringQ = (withdraw z now m status).mgt.ringQ) (tz : CloseOnly y t.sys.z) :
    Answered t m status ∧ t.sys.z.mgt.mbx[m].last = z.mgt.mbx[m].last ∧ m ∉ t.sys.z.mgt.ringQ ∧ ∀ k, k ≠ m → t.sys.z.mgt.mbx[k] = z.mgt.mbx[k] := by
  obtain ⟨em, er⟩ := withdraw_mbx z now m status
  unfold Answered
  rw [tz.mgt_mbx, tz.mgt_ringQ, hm, hr, em, er, modV_same]
  exact ⟨⟨rfl, withdrawn_status z now m hs⟩, rfl, by simp, fun k hk => modV_other _ _ _ _ (Ne.symm hk)⟩

/-- Settles O20: a ring posts or is dropped and counted, and a posted request is withdrawn when cancelled or late. -/
theorem mailboxesRingAndWithdraw : Obligations.MailboxesRingAndWithdraw := by
  unfold Obligations.MailboxesRingAndWithdraw
  intro s n o m hu
  dsimp only
  have hu' : closedUp (before s n).z = false := by simpa [before] using hu
  generalize hx : before s n = x at *
  refine ⟨fun may hp hr => ?_, fun may hb => ?_, fun may hp => ?_, fun hp ht => ?_⟩
  · refine gives_all (exec_mbxRing ..) (fun t _ tz _ _ => ?_)
    have e : mbxRing x.z x.now m o.val = { modMbx x.z m (fun b => { b with ph := .posted, orig := o.val, rungAt := x.now, undo := none }) with
        mgt := { (modMbx x.z m (fun b => { b with ph := .posted, orig := o.val, rungAt := x.now, undo := none })).mgt with ringQ := x.z.mgt.ringQ ++ [m] } } := by
      unfold mbxRing
      dsimp only
      rw [if_neg (not_or.2 ⟨hp, hr⟩)]
      rfl
    have idle : (x.z.mgt.mbx[m].ph == .posted || x.z.mgt.mbx[m].ph == .running) = false := by
      rw [Bool.or_eq_false_iff, beq_eq_false_iff_ne, beq_eq_false_iff_ne]; exact ⟨hp, hr⟩
    rw [hx, busWrite_ctl _ hu' may, show (1 : BitVec 64).extractLsb' 0 32 = 1#32 from by decide, mbxWrite_ring, onZmc_z, idle] at tz
    dsimp only at tz
    rw [if_neg Bool.false_ne_true] at tz
    obtain ⟨cm, cr⟩ := capture_mailboxes (mbxRing x.z x.now m o.val) x.now o.val (mbxBase + 0x0180 + 0x100 * m.val) (mbxWord x.z.mgt.mbx[m] 0x80)
      (mbxWord (mbxRing x.z x.now m o.val).mgt.mbx[m] 0x80)
    rw [tz.mgt_mbx, tz.mgt_ringQ, cm, cr, e]
    exact ⟨modV_same .., rfl, fun k hk => modV_other _ _ _ _ (Ne.symm hk)⟩
  · refine gives_all (exec_mbxRing ..) (fun t _ tz _ _ => ?_)
    have e : mbxRing x.z x.now m o.val = frameDrop x.z x.now m := by
      unfold mbxRing
      rw [if_pos hb]
    have busy : (x.z.mgt.mbx[m].ph == .posted || x.z.mgt.mbx[m].ph == .running) = true := by
      rw [Bool.or_eq_true, beq_iff_eq, beq_iff_eq]; exact hb
    rw [hx, busWrite_ctl _ hu' may, show (1 : BitVec 64).extractLsb' 0 32 = 1#32 from by decide, mbxWrite_ring, onZmc_z, busy] at tz
    dsimp only at tz
    rw [if_pos rfl, e] at tz
    have off : mbxSts m.val ≠ zmcBase + 0x0218 := by unfold mbxSts mbxBase zmcBase; omega
    rw [tz.mgt_mbx, tz.mgt_ringQ, frameDrop_mgt]
    refine ⟨rfl, fun hs => ?_, rfl, fun _ _ => rfl⟩
    rw [getF, tz.2 _ off]
    exact frameDrop_count hs
  · refine gives_all (exec_mbxCancel ..) (fun t _ tz _ _ => ?_)
    rw [hx, busWrite_ctl _ hu' may, show (2 : BitVec 64).extractLsb' 0 32 = 2#32 from by decide, mbxWrite_cancel _ _ hp, onZmc_z] at tz
    dsimp only at tz
    obtain ⟨cm, cr⟩ := capture_mailboxes (withdraw x.z x.now m 0x0D) x.now o.val (mbxBase + 0x0180 + 0x100 * m.val) (mbxWord x.z.mgt.mbx[m] 0x80)
      (mbxWord (withdraw x.z x.now m 0x0D).mgt.mbx[m] 0x80)
    exact withdraw_answered (by decide) cm cr tz
  · refine gives_all (exec_mbxTimeout ..) (fun t _ tz _ _ => ?_)
    have e : mbxTimeout x.z x.now m = withdraw x.z x.now m 0x0C := by
      unfold mbxTimeout
      dsimp only
      rw [if_pos ⟨hp, ht⟩]
    rw [hx, ifZ_run hu'] at tz
    dsimp only at tz
    rw [e] at tz
    exact withdraw_answered (by decide) rfl rfl tz

end Sys2Proof.Proofs

/-! SUPPORT. Potrie's service of a mailbox (R71, R74, R389): the take, the shared checks, and what an answer leaves of the block. -/

namespace Sys2Proof.Machine

/-! ### The take -/

/-- The mailbox whose request has been taken. -/
def takenBox (b : Mbx) (now : Nat) : Mbx := { b with ph := .running, tookAt := now }

/-- The block when the request of mailbox `m`, of the opcode `op`, is taken and passes the shared checks: parts of another command are dropped. -/
def takenZ (z : Zmc) (now : Nat) (m : MbxId) (op : Nat) : Zmc :=
  modMbx (takeReq z now m) m (fun k => { k with staged := k.staged.filter (fun s => s.op == op) })

theorem takeReq_mbx (z : Zmc) (now : Nat) (m : MbxId) : (takeReq z now m).mgt.mbx[m] = takenBox z.mgt.mbx[m] now := modV_same ..

theorem takenZ_mbx (z : Zmc) (now : Nat) (m : MbxId) (op : Nat) :
    (takenZ z now m op).mgt.mbx[m] = { takenBox z.mgt.mbx[m] now with staged := z.mgt.mbx[m].staged.filter (fun s => s.op == op) } := by
  unfold takenZ
  refine (modV_same ..).trans ?_
  rw [takeReq_mbx]
  rfl

theorem unpull_none {z : Zmc} {m : MbxId} (h : z.mgt.mbx[m].undo = none) (now : Nat) : unpull z now m = z := by
  unfold unpull
  rw [h]

/-- A request that is taken, and is no repeat, runs. -/
theorem takeCmd_runs {x : Sys} {m : MbxId} {op : Nat} (h : Taken x.z m op) {hit : Nat → Bool} (hh : hit op = true) (run : Sys → Mbx → Sys) :
    takeCmd x m hit run = run { x with z := takeReq x.z x.now m } (takenBox x.z.mgt.mbx[m] x.now) := by
  obtain ⟨may, undo, hop, new⟩ := h
  unfold takeCmd
  dsimp only
  rw [onZmc, unpull_none undo, if_pos (by rw [may, hop, hh]; rfl), if_neg (fun r => ?_), onZmc]
  · exact congrArg _ (takeReq_mbx ..)
  · obtain ⟨h0, hl⟩ := r
    rw [hop] at hl
    exact new.elim h0 (fun k => k hl)

theorem shared_zero {z : Zmc} {m : MbxId} {b : Mbx} {r : Rules} (h0 : b.lvl ≠ 0) (hmin : (actBank z).lvlMin ≤ b.lvl) (hmax : b.lvl ≤ (actBank z).lvlMax)
    (hl : r.lvl ≤ b.lvl) (hr : r.lvl ≤ z.pair.lvlRun) (role : r.roles.contains m.val = true) (life : r.life = true)
    (hs : r.seals = false ∨ z.rg.sealed = false) (args : r.args = true) : shared z m b r = 0 := by
  unfold shared
  rw [if_neg (by omega), if_neg (by rw [role]; decide), if_neg (by omega), if_neg (by simp [life]), if_neg (by rcases hs with e | e <;> simp [e]), if_neg (by simp [args])]

/-- A command whose request passes every shared check runs on the block as taken. -/
theorem command_runs {x : Sys} {m : MbxId} {op lvl : Nat} (ht : Taken x.z m op) (hl : LevelOk x.z m lvl) (h0 : lvl ≠ 0) (tg : Mbx → Nat) {rules : Sys → Mbx → Rules}
    (run : Sys → Mbx → Sys) {roles : List Nat} {life seals args : Bool}
    (hr : rules { x with z := takeReq x.z x.now m } (takenBox x.z.mgt.mbx[m] x.now) = ⟨roles, lvl, life, seals, args⟩)
    (role : roles.contains m.val = true) (hlife : life = true) (hs : seals = false ∨ x.z.rg.sealed = false) (hargs : args = true) :
    command x m op tg rules run = run { x with z := takenZ x.z x.now m op } (takenBox x.z.mgt.mbx[m] x.now) := by
  obtain ⟨hmin, hmax, hlvl, hrun⟩ := hl
  have ok : shared (takeReq x.z x.now m) m (takenBox x.z.mgt.mbx[m] x.now) ⟨roles, lvl, life, seals, args⟩ = 0 :=
    shared_zero (show x.z.mgt.mbx[m].lvl ≠ 0 by omega) hmin hmax hlvl hrun role hlife hs hargs
  unfold command
  rw [takeCmd_runs ht (by simp)]
  dsimp only
  rw [hr, ok]
  rfl

/-! ### The answer -/

/-- The mailbox that an answer leaves. -/
def answeredBox (b : Mbx) (status : Nat) (res : List Word) (tg : Nat) : Mbx :=
  { b with ph := .done, rsp := rspFrame b status res, last := some (b.op, b.seq), kept := rspFrame b status res, keptTg := tg }

theorem rspFrame_status (b : Mbx) {status : Nat} (h : status < 256) (res : List Word) : bitsOf (rspFrame b status res)[(0 : Fin 16)] 31 24 = status := by
  have e : (rspFrame b status res)[(0 : Fin 16)] = setBits b.req[(0 : Fin 16)] 31 24 status := by simp [rspFrame]
  rw [e, bitsOf_setBits _ _ (by decide) (by decide)]
  exact Nat.mod_eq_of_lt h

theorem rspFrame_word (b : Mbx) (status : Nat) (res : List Word) (i : Fin 16) (h : 2 ≤ i.val) : (rspFrame b status res)[i] = res.getD (i.val - 2) 0 := by
  have h0 : i ≠ 0 := fun e => by rw [e] at h; exact absurd h (by decide)
  simp [rspFrame, h0, show i.val ≠ 1 by omega]

/-- What one answer of a mailbox changes: its frame, its status word, the audit log and the record of hardware updates. -/
structure AnswerOnly (m : MbxId) (status : Nat) (res : List Word) (tg : Nat) (a b : Zmc) : Prop where
  mbx : b.mgt.mbx = modV a.mgt.mbx m (fun k => answeredBox k status res tg)
  word : ∀ off, off ≠ mbxSts m.val → wordAt b off = wordAt a off
  only : ∃ reg hw aud audQ audNext chain, b = { a with
    rg := { a.rg with reg := reg, hw := hw }
    mgt := { a.mgt with mbx := b.mgt.mbx, aud := aud, audQ := audQ, audNext := audNext, chain := chain } }

theorem audit_only (z : Zmc) (r : AudRec) : ∃ aud audQ audNext chain, audit z r = { z with mgt := { z.mgt with aud := aud, audQ := audQ, audNext := audNext, chain := chain } } := by
  unfold audit
  split
  · exact ⟨_, _, _, _, rfl⟩
  · exact ⟨_, _, _, _, rfl⟩

theorem postBits_only (z : Zmc) (now off : Nat) (m : Word) : ∃ reg hw, postBits z now off m = { z with rg := { z.rg with reg := reg, hw := hw } } := by
  have log : ∃ hw, logHw z now off = { z with rg := { z.rg with hw := hw } } := by
    unfold logHw
    dsimp only
    split
    · exact ⟨_, rfl⟩
    · exact ⟨_, rfl⟩
  obtain ⟨hw, e⟩ := log
  unfold postBits putWord
  rw [e]
  exact ⟨_, _, rfl⟩

theorem modV_modV {α : Type} {n : Nat} (v : Vector α n) (i : Fin n) (f g : α → α) : modV (modV v i f) i g = modV v i (fun a => g (f a)) := by
  unfold modV
  simp

theorem modV_congr {α : Type} {n : Nat} {v : Vector α n} {i : Fin n} {f g : α → α} (h : f v[i] = g v[i]) : modV v i f = modV v i g := by
  unfold modV
  rw [h]

theorem modMbx_answered (z : Zmc) (m : MbxId) (status : Nat) (res : List Word) (tg : Nat) :
    modV (modV z.mgt.mbx m (fun b => { b with ph := .done, rsp := rspFrame z.mgt.mbx[m] status res })) m
      (fun x => { x with last := some (z.mgt.mbx[m].op, z.mgt.mbx[m].seq), kept := rspFrame z.mgt.mbx[m] status res, keptTg := tg }) =
    modV z.mgt.mbx m (fun k => answeredBox k status res tg) := by
  rw [modV_modV]
  exact modV_congr rfl

theorem mbxAnswer_only (z : Zmc) (now : Nat) (m : MbxId) (status : Nat) (res : List Word) (tg : Nat) : AnswerOnly m status res tg z (mbxAnswer z now m status res tg) := by
  have box := modMbx_answered z m status res tg
  unfold mbxAnswer mbxDone
  dsimp only
  generalize hy : modMbx z m (fun b => { b with ph := .done, rsp := rspFrame z.mgt.mbx[m] status res }) = y
  obtain ⟨reg, hw, e⟩ := postBits_only y now (mbxSts m.val) 8
  have words (q : Nat) (h : q ≠ mbxSts m.val) : wordAt (postBits y now (mbxSts m.val) 8) q = wordAt z q := (wordAt_postBits_ne y now 8 h).trans (by rw [← hy]; rfl)
  rw [e] at words ⊢
  refine ⟨?_, words, ⟨reg, hw, z.mgt.aud, z.mgt.audQ, z.mgt.audNext, z.mgt.chain, ?_⟩⟩
  · rw [← box, ← hy]; rfl
  · rw [← hy]; rfl

/-- What Potrie's log leaves, and an answer after it. -/
theorem cmdDone_only (x : Sys) (m : MbxId) (status : Nat) (res : List Word) (tg : Nat) (old new : Word) :
    AnswerOnly m status res tg x.z (cmdDone x m status res tg old new).z := by
  unfold cmdDone
  rw [onZmc_z]
  unfold cmdAudit
  obtain ⟨aud, audQ, audNext, chain, e⟩ := audit_only x.z ⟨pkgNs x.z x.now, x.z.mgt.mbx[m].op, x.z.mgt.mbx[m].orig, m.val, status, tg, kindOfOp x.z.mgt.mbx[m].op, old, new⟩
  rw [e]
  obtain ⟨box, words, reg, hw, aud', audQ', audNext', chain', o⟩ := mbxAnswer_only
    { x.z with mgt := { x.z.mgt with aud := aud, audQ := audQ, audNext := audNext, chain := chain } } x.now m status res tg
  exact ⟨box, words, reg, hw, aud', audQ', audNext', chain', o⟩

section
variable {m : MbxId} {status : Nat} {res : List Word} {tg : Nat} {a b : Zmc}

namespace AnswerOnly

theorem box (h : AnswerOnly m status res tg a b) : b.mgt.mbx[m] = answeredBox a.mgt.mbx[m] status res tg := by rw [h.mbx]; exact modV_same ..

theorem other (h : AnswerOnly m status res tg a b) {k : MbxId} (e : k ≠ m) : b.mgt.mbx[k] = a.mgt.mbx[k] := by rw [h.mbx]; exact modV_other _ _ _ _ (Ne.symm e)

theorem pend (h : AnswerOnly m status res tg a b) : b.rg.pend = a.rg.pend := by obtain ⟨_, _, _, _, _, _, e⟩ := h.only; rw [e]
theorem sealed (h : AnswerOnly m status res tg a b) : b.rg.sealed = a.rg.sealed := by obtain ⟨_, _, _, _, _, _, e⟩ := h.only; rw [e]
theorem setu (h : AnswerOnly m status res tg a b) : b.setu = a.setu := by obtain ⟨_, _, _, _, _, _, e⟩ := h.only; rw [e]
theorem plumb (h : AnswerOnly m status res tg a b) : b.plumb = a.plumb := by obtain ⟨_, _, _, _, _, _, e⟩ := h.only; rw [e]
theorem bond (h : AnswerOnly m status res tg a b) : b.bond = a.bond := by obtain ⟨_, _, _, _, _, _, e⟩ := h.only; rw [e]
theorem keys (h : AnswerOnly m status res tg a b) : b.keys = a.keys := by obtain ⟨_, _, _, _, _, _, e⟩ := h.only; rw [e]
theorem dbg (h : AnswerOnly m status res tg a b) : b.dbg = a.dbg := by obtain ⟨_, _, _, _, _, _, e⟩ := h.only; rw [e]
theorem boot (h : AnswerOnly m status res tg a b) : b.boot = a.boot := by obtain ⟨_, _, _, _, _, _, e⟩ := h.only; rw [e]
theorem pair (h : AnswerOnly m status res tg a b) : b.pair = a.pair := by obtain ⟨_, _, _, _, _, _, e⟩ := h.only; rw [e]
theorem cinfo (h : AnswerOnly m status res tg a b) : b.cinfo = a.cinfo := by obtain ⟨_, _, _, _, _, _, e⟩ := h.only; rw [e]
theorem jclr (h : AnswerOnly m status res tg a b) : b.jclr = a.jclr := by obtain ⟨_, _, _, _, _, _, e⟩ := h.only; rw [e]
theorem active (h : AnswerOnly m status res tg a b) : b.mgt.active = a.mgt.active := by obtain ⟨_, _, _, _, _, _, e⟩ := h.only; rw [e]
theorem banks (h : AnswerOnly m status res tg a b) : b.mgt.banks = a.mgt.banks := by obtain ⟨_, _, _, _, _, _, e⟩ := h.only; rw [e]
theorem imgEnd (h : AnswerOnly m status res tg a b) : b.mgt.imgEnd = a.mgt.imgEnd := by obtain ⟨_, _, _, _, _, _, e⟩ := h.only; rw [e]
theorem jobs (h : AnswerOnly m status res tg a b) : b.mgt.jobs = a.mgt.jobs := by obtain ⟨_, _, _, _, _, _, e⟩ := h.only; rw [e]
theorem pol (h : AnswerOnly m status res tg a b) : b.mgt.pol = a.mgt.pol := by obtain ⟨_, _, _, _, _, _, e⟩ := h.only; rw [e]
theorem offers (h : AnswerOnly m status res tg a b) : b.mgt.offers = a.mgt.offers := by obtain ⟨_, _, _, _, _, _, e⟩ := h.only; rw [e]
theorem act (h : AnswerOnly m status res tg a b) : b.mgt.act = a.mgt.act := by obtain ⟨_, _, _, _, _, _, e⟩ := h.only; rw [e]
theorem up (h : AnswerOnly m status res tg a b) : b.mgt.up = a.mgt.up := by obtain ⟨_, _, _, _, _, _, e⟩ := h.only; rw [e]
theorem out (h : AnswerOnly m status res tg a b) : b.out = a.out := by obtain ⟨_, _, _, _, _, _, e⟩ := h.only; rw [e]

/-- The answer as the requester sees it, when the row has been closed. -/
theorem answered {t : State} (h : AnswerOnly m status res tg a b) (hs : status < 256) (tz : CloseOnly b t.sys.z) : Answered t m status := by
  unfold Answered
  rw [tz.mgt_mbx, h.box]
  exact ⟨rfl, rspFrame_status _ hs _⟩

end AnswerOnly
end

theorem mbxSts_ne_zmc (m : MbxId) {off : Nat} (h : off < mbxBase ∨ mbxBase + 0x1000 ≤ off) : off ≠ mbxSts m.val := by
  have := m.isLt
  unfold mbxSts
  omega

end Sys2Proof.Machine

/-! SUPPORT. What the Operator's short commands come to when they run (Table 21-2). -/

namespace Sys2Proof.Machine

theorem frameOk_taken (b : Mbx) (now : Nat) (l : List (Nat × Word)) : frameOk (takenBox b now) l = frameOk b l := rfl
theorem arg_taken (b : Mbx) (now k hi lo : Nat) : (takenBox b now).arg k hi lo = b.arg k hi lo := rfl
theorem role_all : ∀ m : MbxId, ([0, 1, 2, 3, 4, 5] : List Nat).contains m.val = true := by decide
theorem role_operator : ∀ m : MbxId, m.val < 2 → ([0, 1] : List Nat).contains m.val = true := by decide
theorem role_user : ∀ m : MbxId, m.val < 3 → ([0, 1, 2] : List Nat).contains m.val = true := by decide
theorem role_one {m : MbxId} {k : Nat} (h : m.val = k) : ([k] : List Nat).contains m.val = true := by simp [h]

/-- A system whose block has been taken for a command of mailbox `m`. -/
def takenSys (x : Sys) (m : MbxId) (op : Nat) : Sys := { x with z := takenZ x.z x.now m op }

section
variable {x : Sys} {m : MbxId}

theorem cmdQuery_runs (ht : Taken x.z m 0x0001) (hl : LevelOk x.z m 6) (hf : frameOk x.z.mgt.mbx[m] [] = true) :
    ∃ a b, cmdQuery x m = cmdDone (takenSys x m 0x0001) m 0 [a, b, x.z.mgt.evtNext, x.z.mgt.audNext, x.z.bond.gen] 0 0 (takenSys x m 0x0001).z.mgt.mbx[m].argDg := by
  unfold cmdQuery
  rw [command_runs ht hl (by decide) _ _ rfl (role_all m) rfl (Or.inl rfl) hf]
  exact ⟨_, _, rfl⟩

theorem cmdUnknown_runs {op : Nat} (ht : Taken x.z m op) (hop : op ∉ knownOps) :
    cmdUnknown x m = cmdDone { x with z := takeReq x.z x.now m } m 2 [] 0 0 0 := by
  unfold cmdUnknown
  rw [takeCmd_runs ht (by simp [hop])]
  rfl

theorem cmdCounterGrant_runs (ht : Taken x.z m 0x0104) (hl : LevelOk x.z m 6) (hm : m.val < 2) (hf : frameOk x.z.mgt.mbx[m] [(2, 0x01FFFFFF)] = true)
    (hi : ∀ i, i < 25 → (x.z.mgt.mbx[m].arg 2 24 0).testBit i = true → i ∈ bondIslands x.z ∧ userOk i = true) :
    ∃ old new, cmdCounterGrant x m = cmdDone (onZmc (takenSys x m 0x0104) (fun z _ => putWord z (hodBase + 0x30) (BitVec.ofNat 32 (x.z.mgt.mbx[m].arg 2 24 0)))) m 0 [] 0 old new := by
  unfold cmdCounterGrant
  rw [command_runs ht hl (by decide) _ _ rfl (role_operator m hm) rfl (Or.inl rfl) hf]
  have none : (List.range 25).any (fun i => (x.z.mgt.mbx[m].arg 2 24 0).testBit i && !((bondIslands (takenZ x.z x.now m 0x0104)).contains i && userOk i)) = false := by
    rw [List.any_eq_false]
    intro i hr hb
    rw [Bool.and_eq_true, Bool.not_eq_true'] at hb
    obtain ⟨hb1, hb2⟩ := hi i (List.mem_range.1 hr) hb.1
    have e : bondIslands (takenZ x.z x.now m 0x0104) = bondIslands x.z := rfl
    rw [e, hb2, List.contains_iff_mem.2 hb1] at hb
    exact absurd hb.2 (by simp)
  dsimp only
  rw [arg_taken]
  refine ⟨_, _, (if_neg (by rw [none]; simp)).trans rfl⟩

theorem cmdDebugConsent_runs {lvl secs : Nat} (ht : Taken x.z m 0x0105) (hl : LevelOk x.z m 6) (hm : m.val < 3)
    (hf : frameOk x.z.mgt.mbx[m] [(2, 0x03FF0003)] = true) (elvl : x.z.mgt.mbx[m].arg 2 1 0 = lvl) (esecs : x.z.mgt.mbx[m].arg 2 25 16 = secs)
    (h1 : 1 ≤ lvl) (h2 : lvl ≤ 2) (h3 : 1 ≤ secs) (h4 : secs ≤ 600) (need : attachNeed x.z.boot.lc lvl = 1) (hr : m.val = 2 ↔ x.z.boot.lc = 1) :
    ∃ tok res new, cmdDebugConsent x m = cmdDone (onZmc { takenSys x m 0x0105 with free := x.free + 1 }
      (fun z _ => { z with dbg := { z.dbg with consent := some ⟨tok, lvl, x.now + secs * tuPerS⟩ } })) m 0 res lvl 0 new := by
  unfold cmdDebugConsent
  rw [command_runs (roles := [0, 1, 2]) (life := true) (seals := false) ht hl (by decide) _ _ rfl (role_user m hm) rfl (Or.inl rfl)
    (by rw [frameOk_taken, hf, arg_taken, arg_taken, elvl, esecs]; simp [h1, h2, h3, h4])]
  have same : (m == 2) = (x.z.boot.lc == 1) := by
    rw [Bool.eq_iff_iff, beq_iff_eq, beq_iff_eq, ← hr]
    exact ⟨fun e => by rw [e]; rfl, fun e => Fin.ext e⟩
  have lc : (takenZ x.z x.now m 0x0105).boot.lc = x.z.boot.lc := rfl
  dsimp only
  rw [arg_taken, arg_taken, elvl, esecs, lc, need, if_neg (by decide), if_neg (by decide), if_neg (by rw [same]; simp)]
  exact ⟨_, _, _, rfl⟩

theorem cmdPlumbRef_runs (ht : Taken x.z m 0x0106) (hl : LevelOk x.z m 6) (hm : m.val < 3) (hf : frameOk x.z.mgt.mbx[m] ((2, 1) :: fullWords 3 1) = true)
    (h0 : x.z.mgt.mbx[m].arg 2 0 0 = 0) (lap : Bool) :
    ∃ old new res, cmdPlumbRef x m lap = cmdDone (onZmc (takenSys x m 0x0106) (fun z _ => plumbCommit z (x.z.mgt.mbx[m].wd 3))) m 0 res 0 old new := by
  unfold cmdPlumbRef
  rw [command_runs ht hl (by decide) _ _ rfl (role_user m hm) rfl (Or.inl rfl) hf]
  dsimp only
  rw [arg_taken, h0, if_neg (by simp), if_neg (by simp)]
  exact ⟨_, _, _, rfl⟩

end

end Sys2Proof.Machine

/-! SUPPORT. The statement about the Operator's short commands. -/

namespace Sys2Proof.Proofs
open Sys2Proof.Machine

/-- Settles O21: an unknown opcode is refused, and QUERY, grants, consents and references are answered with what they ask. -/
theorem requestsAreAnswered : Obligations.RequestsAreAnswered := by
  unfold Obligations.RequestsAreAnswered
  refine ⟨fun s n m op hu => ?_, fun s n m lap hu => ?_⟩
  · have hu' : closedUp (before s n).z = false := by simpa [before] using hu
    dsimp only
    generalize hx : before s n = x at *
    refine ⟨fun ht hop => ?_, fun ht hl hf => ?_⟩
    · refine gives_all (exec_unknownOpcode ..) (fun t tc tz _ _ => ?_)
      rw [hx, ifUp_run hu', cmdUnknown_runs ht hop] at tc tz
      have d := cmdDone_only { x with z := takeReq x.z x.now m } m 2 [] 0 0 0
      refine ⟨d.answered (by decide) tz, ?_, ?_, tc⟩
      · rw [tz.mgt_mbx, d.box, takeReq_mbx]; rfl
      · rw [tz.mgt_mbx, d.box]; rfl
    · refine gives_all (exec_query ..) (fun t tc tz _ _ => ?_)
      obtain ⟨a, b, e⟩ := cmdQuery_runs ht hl hf
      rw [hx, ifUp_run hu', e] at tc tz
      have d := cmdDone_only (takenSys x m 0x0001) m 0 [a, b, x.z.mgt.evtNext, x.z.mgt.audNext, x.z.bond.gen] 0 0 (takenSys x m 0x0001).z.mgt.mbx[m].argDg
      refine ⟨d.answered (by decide) tz, ⟨?_, ?_, tc⟩, ?_⟩
      · rw [tz.mgt_mbx, d.box, takenSys, takenZ_mbx]; rfl
      · rw [tz.mgt_mbx, d.box]; rfl
      · rw [tz.mgt_mbx, d.box]
        exact ⟨rspFrame_word _ _ _ 4 (by decide), rspFrame_word _ _ _ 5 (by decide), rspFrame_word _ _ _ 6 (by decide)⟩
  · have hu' : closedUp (before s n).z = false := by simpa [before] using hu
    dsimp only
    generalize hx : before s n = x at *
    refine ⟨fun ht hl hm hf hi => ?_, fun ht hl hm hf h1 h2 h3 h4 need hr => ?_, fun ht hl hm hf h0 ho => ?_⟩
    · refine gives_all (exec_counterGrant ..) (fun t _ tz _ _ => ?_)
      obtain ⟨old, new, e⟩ := cmdCounterGrant_runs ht hl hm hf hi
      rw [hx, ifUp_run hu', e] at tz
      have d := cmdDone_only (onZmc (takenSys x m 0x0104) (fun z _ => putWord z (hodBase + 0x30) (BitVec.ofNat 32 (x.z.mgt.mbx[m].arg 2 24 0)))) m 0 [] 0 old new
      refine ⟨d.answered (by decide) tz, ?_⟩
      rw [tz.2 _ (by decide), d.word _ (mbxSts_ne_zmc m (by decide))]
      exact wordAt_put ..
    · refine gives_all (exec_debugConsent ..) (fun t _ tz _ _ => ?_)
      obtain ⟨tok, res, new, e⟩ := cmdDebugConsent_runs ht hl hm hf rfl rfl h1 h2 h3 h4 need hr
      rw [hx, ifUp_run hu', e] at tz
      have d := cmdDone_only (onZmc { takenSys x m 0x0105 with free := x.free + 1 }
        (fun z _ => { z with dbg := { z.dbg with consent := some ⟨tok, x.z.mgt.mbx[m].arg 2 1 0, x.now + x.z.mgt.mbx[m].arg 2 25 16 * tuPerS⟩ } })) m 0 res
        (x.z.mgt.mbx[m].arg 2 1 0) 0 new
      refine ⟨d.answered (by decide) tz, ?_, tok, ?_⟩
      · rw [tz.dbg, d.dbg]; rfl
      · rw [tz.dbg, d.dbg]; rfl
    · obtain ⟨old, new, res, e⟩ := cmdPlumbRef_runs ht hl hm hf h0 lap
      refine gives_cmd (exec_plumbRef ..) ?_
      rw [hx, ifUp_run hu', e]
      have d := cmdDone_only (onZmc (takenSys x m 0x0106) (fun z _ => plumbCommit z (x.z.mgt.mbx[m].wd 3))) m 0 res 0 old new
      rw [closeCmd_id (x := x) (newFences_of_cinfo_eq d.cinfo)
        ((congrArg Plumb.own d.plumb).trans ho)]
      refine ⟨d.answered (by decide) (CloseOnly.refl _), ?_⟩
      rw [d.word _ (mbxSts_ne_zmc m (by decide))]
      exact wordAt_put ..

end Sys2Proof.Proofs

/-! SUPPORT. The key commands (R279, R280, R393) after the shared checks. -/

namespace Sys2Proof.Machine

theorem keySlotOf_taken (b : Mbx) (now : Nat) : keySlotOf (takenBox b now) = keySlotOf b := rfl

/-- The words of the key blob in one part of a key load. -/
def keyPart (b : Mbx) : List Word := (List.range 9).map (fun i => b.wd (3 + i))

theorem and_true_intro {a b : Bool} (ha : a = true) (hb : b = true) : (a && b) = true := by rw [ha, hb]; rfl

/-- A key load of mailbox `m` that passes every shared check. -/
structure KeyLoadOk (x : Sys) (m : MbxId) : Prop where
  taken : Taken x.z m 0x0102
  lvl : LevelOk x.z m 6
  role : m.val < 2
  level : x.z.dbg.level ≠ 2
  open_ : x.z.keys.blocked = false
  frame : frameOk x.z.mgt.mbx[m] ((2, 0x000103FF#32) :: fullWords 3 9) = true
  slot : keySlotOf x.z.mgt.mbx[m] ≠ 0

section
variable {x : Sys} {m : MbxId}

theorem cmdKeyLoad_runs (h : KeyLoadOk x m) {part : Nat} (hp : x.z.mgt.mbx[m].arg 2 16 16 = part)
    (next : partNext x.z.mgt.mbx[m] 0x0102 (keySlotOf x.z.mgt.mbx[m]) part = true) :
    cmdKeyLoad x m =
      let y := partPut (takenSys x m 0x0102) m 0x0102 (keySlotOf x.z.mgt.mbx[m]) part (keyPart x.z.mgt.mbx[m])
      if part = 0 then cmdDone y m 0 [] (keySlotOf x.z.mgt.mbx[m]) 0 0 else keyLoadEnd y m (keySlotOf x.z.mgt.mbx[m]) := by
  unfold cmdKeyLoad
  have level : ((takeReq x.z x.now m).dbg.level != 2) = true := bne_iff_ne.2 h.level
  have open_ : (!(takeReq x.z x.now m).keys.blocked) = true := congrArg (! ·) h.open_
  rw [command_runs h.taken h.lvl (by decide) _ _ rfl (role_operator m h.role) (and_true_intro level open_) (Or.inl rfl)
    (and_true_intro h.frame (bne_iff_ne.2 h.slot))]
  have e : partNext (takenBox x.z.mgt.mbx[m] x.now) 0x0102 (keySlotOf x.z.mgt.mbx[m]) part = true := next
  dsimp only
  rw [arg_taken, keySlotOf_taken, hp, e, if_neg (by decide)]
  rfl

theorem partNext_none {b : Mbx} (h : b.staged = none) (op obj : Nat) : partNext b op obj 0 = true := by simp [partNext, h]

theorem partNext_some {b : Mbx} {st : Staged} {op obj part : Nat} (h : b.staged = some st) (hop : st.op = op) (hobj : st.obj = obj) (hn : st.next = part) :
    partNext b op obj part = true := by
  simp [partNext, h, hop, hobj, hn]

theorem partPut_box (x : Sys) (m : MbxId) (op obj part : Nat) (ws : List Word) :
    (partPut x m op obj part ws).z.mgt.mbx[m].staged = some ⟨op, obj, part + 1, (match x.z.mgt.mbx[m].staged with | some s => s.words | none => []) ++ ws⟩ := by
  rw [partPut, onZmc_z]
  exact congrArg Mbx.staged (modV_same ..)

theorem partDrop_box (x : Sys) (m : MbxId) : (partDrop x m).z.mgt.mbx[m].staged = none := by
  rw [partDrop, onZmc_z]
  exact congrArg Mbx.staged (modV_same ..)

/-- The parts of a command that a taken request of the same opcode keeps. -/
theorem takenZ_staged (z : Zmc) (now : Nat) (m : MbxId) {op : Nat} (h : ∀ s ∈ z.mgt.mbx[m].staged, s.op = op) :
    (takenZ z now m op).mgt.mbx[m].staged = z.mgt.mbx[m].staged := by
  rw [takenZ_mbx]
  cases e : z.mgt.mbx[m].staged with
  | none => rfl
  | some s => simp [Option.filter, h s (e ▸ rfl)]

theorem keyInval_cache (z : Zmc) (slot : Nat) (i : BayId) : slot ∉ (keyInval z slot).keys.cache[i] := by
  simp [keyInval]

/-- What the last part of a key load does, by what unwrapping gives. -/
theorem keyLoadEnd_none {slot : Nat} (h : x.z.keys.kek.bind (fun k => keyUnwrap k 8 ((partWords x m).flatMap wordBytes)) = none) :
    keyLoadEnd x m slot = cmdRefuse (partDrop x m) m 0x0B slot := by
  unfold keyLoadEnd
  have e : (partDrop x m).z.keys.kek = x.z.keys.kek := rfl
  dsimp only
  rw [e, h]

theorem keyLoadEnd_some {slot : Nat} {l : List Byte} (h : x.z.keys.kek.bind (fun k => keyUnwrap k 8 ((partWords x m).flatMap wordBytes)) = some l) :
    ∃ res old new, keyLoadEnd x m slot =
      if (keyPair l).1 = (keyPair l).2 then cmdRefuse (partDrop x m) m 8 slot
      else cmdDone (onZmc (partDrop x m) (fun z _ => keyPut z slot ⟨(partWords x m).flatMap wordBytes, (keyPair l).1, (keyPair l).2⟩)) m 0 res slot old new := by
  unfold keyLoadEnd
  have e : (partDrop x m).z.keys.kek = x.z.keys.kek := rfl
  dsimp only
  rw [e, h]
  exact ⟨_, _, _, rfl⟩

theorem cmdKeyErase_runs (ht : Taken x.z m 0x0103) (hl : LevelOk x.z m 6) (hm : m.val < 2) (hf : frameOk x.z.mgt.mbx[m] [(2, 0x3FF)] = true)
    (hs : keySlotOf x.z.mgt.mbx[m] ≠ 0) :
    ∃ old, cmdKeyErase x m = cmdDone (onZmc (takenSys x m 0x0103) (fun z _ => keyDrop z (keySlotOf x.z.mgt.mbx[m]))) m 0 [] (keySlotOf x.z.mgt.mbx[m]) old 0 := by
  unfold cmdKeyErase
  rw [command_runs ht hl (by decide) _ _ rfl (role_operator m hm) rfl (Or.inl rfl) (and_true_intro hf (bne_iff_ne.2 hs))]
  exact ⟨_, rfl⟩

/-- The end of a replacement of the key-encryption key, by what unwrapping gave. -/
def kekSetEnd (x : Sys) (m : MbxId) : Option (List Byte) → Sys
  | none => cmdRefuse x m 0x0B 0
  | some l => cmdOk (onZmc x (fun z _ => { z with keys := { z.keys with kek := some (BitVec.ofNat 256 (bytesNat l)) } })) m [] 0

theorem kekSetWith_runs (ht : Taken x.z m 0x0203) (hl : LevelOk x.z m 6) (hm : m.val = 2) (hsl : x.z.rg.sealed = false) (hb : x.z.keys.blocked = false)
    (hf : frameOk x.z.mgt.mbx[m] (fullWords 2 10) = true) (unwrap : BitVec 256 → Nat → List Byte → Option (List Byte)) :
    command x m 0x0203 (fun _ => 0) (fun x b => ⟨[2], 6, !x.z.keys.blocked, true, frameOk b (fullWords 2 10)⟩)
      (fun x b =>
        match unwrap Config.deviceKey 4 (((List.range 10).map (fun i => b.wd (2 + i))).flatMap wordBytes) with
        | none => cmdRefuse x m 0x0B 0
        | some l => cmdOk (onZmc x (fun z _ => { z with keys := { z.keys with kek := some (BitVec.ofNat 256 (bytesNat l)) } })) m [] 0) =
    kekSetEnd (takenSys x m 0x0203) m (unwrap Config.deviceKey 4 (((List.range 10).map (fun i => x.z.mgt.mbx[m].wd (2 + i))).flatMap wordBytes)) := by
  have open_ : (!(takeReq x.z x.now m).keys.blocked) = true := congrArg (! ·) hb
  rw [command_runs ht hl (by decide) _ _ rfl (role_one hm) open_ (Or.inr hsl) hf]
  have e : (takenBox x.z.mgt.mbx[m] x.now).wd = x.z.mgt.mbx[m].wd := rfl
  dsimp only
  rw [e]
  cases unwrap Config.deviceKey 4 (((List.range 10).map (fun i => x.z.mgt.mbx[m].wd (2 + i))).flatMap wordBytes) with
  | none => rfl
  | some l => rfl

theorem cmdKekSet_runs (ht : Taken x.z m 0x0203) (hl : LevelOk x.z m 6) (hm : m.val = 2) (hsl : x.z.rg.sealed = false) (hb : x.z.keys.blocked = false)
    (hf : frameOk x.z.mgt.mbx[m] (fullWords 2 10) = true) : cmdKekSet x m =
      kekSetEnd (takenSys x m 0x0203) m (keyUnwrap Config.deviceKey 4 (((List.range 10).map (fun i => x.z.mgt.mbx[m].wd (2 + i))).flatMap wordBytes)) :=
  kekSetWith_runs ht hl hm hsl hb hf keyUnwrap

/-- What a replacement of the key-encryption key ends in. -/
def KekSetEnds (t : State) (m : MbxId) (keys : Keys) : Option (List Byte) → Prop
  | none => Answered t m 0x0B ∧ t.sys.z.keys = keys
  | some l => Answered t m 0 ∧ t.sys.z.keys = { keys with kek := some (BitVec.ofNat 256 (bytesNat l)) }

theorem kekSetEnd_ends {t : State} (r : Option (List Byte)) (tz : CloseOnly (kekSetEnd (takenSys x m 0x0203) m r).z t.sys.z) : KekSetEnds t m x.z.keys r := by
  cases r with
  | none =>
    have d := cmdDone_only (takenSys x m 0x0203) m 0x0B [] 0 0 0
    exact ⟨d.answered (by decide) tz, tz.keys.trans d.keys⟩
  | some l =>
    have d := cmdDone_only (onZmc (takenSys x m 0x0203) (fun z _ => { z with keys := { z.keys with kek := some (BitVec.ofNat 256 (bytesNat l)) } })) m 0 [] 0 0
      (takenSys x m 0x0203).z.mgt.mbx[m].argDg
    exact ⟨d.answered (by decide) tz, tz.keys.trans d.keys⟩

/-- What unwrapping a key blob into a slot ends in. -/
def KeyLoadEnds (t : State) (m : MbxId) (keys : Keys) (slot : Nat) (blob : List Byte) : Option (List Byte) → Prop
  | none => Answered t m 0x0B ∧ t.sys.z.keys = keys
  | some l =>
      if (keyPair l).1 = (keyPair l).2 then Answered t m 8 ∧ t.sys.z.keys = keys
      else Answered t m 0 ∧ t.sys.z.keys.slots = tblPut keys.slots slot ⟨blob, (keyPair l).1, (keyPair l).2⟩ ∧
        t.sys.z.keys.kek = keys.kek ∧ ∀ i : BayId, slot ∉ t.sys.z.keys.cache[i]

theorem keyLoadEnd_ends {y : Sys} {t : State} {slot : Nat} (tz : CloseOnly (keyLoadEnd y m slot).z t.sys.z) :
    t.sys.z.mgt.mbx[m].staged = none ∧
      KeyLoadEnds t m y.z.keys slot ((partWords y m).flatMap wordBytes) (y.z.keys.kek.bind (fun k => keyUnwrap k 8 ((partWords y m).flatMap wordBytes))) := by
  have drop (w : Nat) : AnswerOnly m w [] slot (partDrop y m).z (cmdRefuse (partDrop y m) m w slot).z := cmdDone_only ..
  have left {w : Nat} {r : List Word} {a b : Zmc} (e : a.mgt.mbx = (partDrop y m).z.mgt.mbx) (d : AnswerOnly m w r slot a b) (tz : CloseOnly b t.sys.z) :
      t.sys.z.mgt.mbx[m].staged = none := by
    rw [tz.mgt_mbx]
    refine (congrArg Mbx.staged d.box).trans ?_
    rw [e]
    exact partDrop_box y m
  cases hr : y.z.keys.kek.bind (fun k => keyUnwrap k 8 ((partWords y m).flatMap wordBytes)) with
  | none =>
    rw [keyLoadEnd_none hr] at tz
    exact ⟨left rfl (drop 0x0B) tz, (drop 0x0B).answered (by decide) tz, tz.keys.trans (drop 0x0B).keys⟩
  | some l =>
    obtain ⟨res, old, new, e⟩ := keyLoadEnd_some (slot := slot) hr
    rw [e] at tz
    dsimp only [KeyLoadEnds]
    by_cases same : (keyPair l).1 = (keyPair l).2
    · rw [if_pos same] at tz ⊢
      exact ⟨left rfl (drop 8) tz, (drop 8).answered (by decide) tz, tz.keys.trans (drop 8).keys⟩
    · rw [if_neg same] at tz ⊢
      generalize hk : onZmc (partDrop y m) (fun z _ => keyPut z slot ⟨(partWords y m).flatMap wordBytes, (keyPair l).1, (keyPair l).2⟩) = k at tz
      have d := cmdDone_only k m 0 res slot old new
      have keys := tz.keys.trans d.keys
      refine ⟨left (a := k.z) (by rw [← hk]; rfl) d tz, d.answered (by decide) tz, ?_, ?_, fun i => ?_⟩
      · rw [keys, ← hk]; rfl
      · rw [keys, ← hk]; rfl
      · rw [keys, ← hk]; exact keyInval_cache _ _ i

end

end Sys2Proof.Machine

/-! SUPPORT. The statement about the key commands. -/

namespace Sys2Proof.Proofs
open Sys2Proof.Machine

/-- Settles O22: a key load waits for its second part, which fills its slot or is refused; an erase empties a slot; KEK_SET replaces the key-encryption key. -/
theorem keysAreLoaded : Obligations.KeysAreLoaded := by
  unfold Obligations.KeysAreLoaded
  intro s n m st hu
  have hu' : closedUp (before s n).z = false := by simpa [before] using hu
  intro z b part2 blob load
  subst load blob part2 b z
  generalize hx : before s n = x at *
  refine ⟨fun ⟨ht, hl, hm, hd, hb, hf, hk⟩ hp hs => ?_, fun ⟨ht, hl, hm, hd, hb, hf, hk⟩ hp hs hop hobj hnext => ?_, fun ht hl hm hf hs => ?_,
    fun ht hl hm hsl hb hf => ?_⟩
  · refine gives_all (exec_keyLoad ..) (fun t _ tz _ _ => ?_)
    rw [hx, ifUp_run hu', cmdKeyLoad_runs ⟨ht, hl, hm, hd, hb, hf, hk⟩ hp (partNext_none hs ..)] at tz
    dsimp only at tz
    rw [if_pos rfl] at tz
    have d := cmdDone_only (partPut (takenSys x m 0x0102) m 0x0102 (keySlotOf x.z.mgt.mbx[m]) 0 (keyPart x.z.mgt.mbx[m])) m 0 [] (keySlotOf x.z.mgt.mbx[m]) 0 0
    refine ⟨d.answered (by decide) tz, ?_, ?_⟩
    · rw [tz.keys]; exact d.keys
    · rw [tz.mgt_mbx]
      refine (congrArg Mbx.staged d.box).trans ((partPut_box ..).trans ?_)
      rw [takenSys, takenZ_staged _ _ _ (fun _ h => by rw [hs] at h; exact absurd h (by simp)), hs]
      rfl
  · refine gives_all (exec_keyLoad ..) (fun t _ tz _ _ => ?_)
    rw [hx, ifUp_run hu', cmdKeyLoad_runs ⟨ht, hl, hm, hd, hb, hf, hk⟩ hp (partNext_some hs hop hobj hnext)] at tz
    dsimp only at tz
    rw [if_neg (by decide)] at tz
    generalize hy : partPut (takenSys x m 0x0102) m 0x0102 (keySlotOf x.z.mgt.mbx[m]) 1 (keyPart x.z.mgt.mbx[m]) = y at tz
    have kept : y.z.keys = x.z.keys := by rw [← hy]; rfl
    have words : partWords y m = st.words ++ keyPart x.z.mgt.mbx[m] := by
      have b := partPut_box (takenSys x m 0x0102) m 0x0102 (keySlotOf x.z.mgt.mbx[m]) 1 (keyPart x.z.mgt.mbx[m])
      rw [hy, takenSys, takenZ_staged _ _ _ (fun _ h => by rw [hs] at h; exact Option.some.inj h ▸ hop), hs] at b
      unfold partWords
      rw [b]
    obtain ⟨left, ends⟩ := keyLoadEnd_ends tz
    rw [kept, words] at ends
    unfold keyPart at ends
    refine ⟨left, ?_⟩
    generalize x.z.keys.kek.bind _ = r at ends ⊢
    cases r with
    | none => exact ends
    | some l => exact ends
  · refine gives_all (exec_keyErase ..) (fun t _ tz _ _ => ?_)
    obtain ⟨old, e⟩ := cmdKeyErase_runs ht hl hm hf hs
    rw [hx, ifUp_run hu', e] at tz
    have d := cmdDone_only (onZmc (takenSys x m 0x0103) (fun z _ => keyDrop z (keySlotOf x.z.mgt.mbx[m]))) m 0 [] (keySlotOf x.z.mgt.mbx[m]) old 0
    refine ⟨d.answered (by decide) tz, ?_, fun i => ?_⟩
    · rw [tz.keys, d.keys]; rfl
    · rw [tz.keys, d.keys]; exact keyInval_cache _ _ i
  · refine gives_all (exec_kekSet ..) (fun t _ tz _ _ => ?_)
    rw [hx, ifUp_run hu', cmdKekSet_runs ht hl hm hsl hb hf] at tz
    have ends := kekSetEnd_ends _ tz
    generalize keyUnwrap Config.deviceKey 4 _ = r at ends ⊢
    cases r with
    | none => exact ends
    | some l => exact ends

end Sys2Proof.Proofs

/-! SUPPORT. Restarts of Mason and live activation (R62, R81, R82): what they leave of the mailboxes, the images and the ports. -/

namespace Sys2Proof.Machine

/-- What Potrie's backlog, the ports' requests and Mason's records leave as it is. -/
structure MasonKept (a b : Zmc) : Prop where
  mbx : b.mgt.mbx = a.mgt.mbx
  act : b.mgt.act = a.mgt.act
  up : b.mgt.up = a.mgt.up
  active : b.mgt.active = a.mgt.active
  live : b.live = a.live
  liveAt : b.liveAt = a.liveAt
  bond : b.bond = a.bond

namespace MasonKept

theorem refl (a : Zmc) : MasonKept a a := ⟨rfl, rfl, rfl, rfl, rfl, rfl, rfl⟩

theorem trans {a b c : Zmc} (h : MasonKept a b) (k : MasonKept b c) : MasonKept a c :=
  ⟨k.mbx.trans h.mbx, k.act.trans h.act, k.up.trans h.up, k.active.trans h.active, k.live.trans h.live, k.liveAt.trans h.liveAt, k.bond.trans h.bond⟩

theorem foldl {α : Type} {f : Zmc → α → Zmc} (hf : ∀ z a, MasonKept z (f z a)) (l : List α) (z : Zmc) : MasonKept z (l.foldl f z) := by
  induction l generalizing z with
  | nil => exact .refl z
  | cons a l ih => exact (hf z a).trans (ih (f z a))

theorem ite {p : Prop} [Decidable p] {a b c : Zmc} (h : MasonKept a b) (k : MasonKept a c) : MasonKept a (if p then b else c) := by
  split
  · exact h
  · exact k

theorem liveFinal {a b : Zmc} (h : MasonKept a b) (p : PortId) : liveFinal b p = liveFinal a p := by
  unfold Machine.liveFinal
  rw [h.liveAt, h.live]

end MasonKept

theorem foldl_evPut_kept (l : List (List Word)) (g : Mgt) :
    (l.foldl evPut g).mbx = g.mbx ∧ (l.foldl evPut g).act = g.act ∧ (l.foldl evPut g).up = g.up ∧ (l.foldl evPut g).active = g.active := by
  induction l generalizing g with
  | nil => exact ⟨rfl, rfl, rfl, rfl⟩
  | cons w l ih => exact ih (evPut g w)

theorem potPut_kept (z : Zmc) (now code island course : Nat) (d : List Word) : MasonKept z (potPut z now code island course d) := by
  unfold potPut
  dsimp only
  split
  · exact ⟨rfl, rfl, rfl, rfl, rfl, rfl, rfl⟩
  · exact ⟨rfl, rfl, rfl, rfl, rfl, rfl, rfl⟩

theorem potPost_kept (z : Zmc) (now code island course : Nat) (d : List Word) : MasonKept z (potPost z now code island course d) := by
  unfold potPost
  exact .ite (potPut_kept ..) ⟨rfl, rfl, rfl, rfl, rfl, rfl, rfl⟩

theorem evPost_kept (z : Zmc) (now code island course : Nat) (d : List Word) : MasonKept z (evPost z now code island course d) := by
  unfold evPost
  dsimp only
  split
  · obtain ⟨mbx, act, up, active⟩ := foldl_evPut_kept z.mgt.potEvs
      { evPut { z.mgt with evtNext := z.mgt.potSeq } (evWords z now code island course d) with
        potSeq := (evPut { z.mgt with evtNext := z.mgt.potSeq } (evWords z now code island course d)).evtNext }
    exact ⟨mbx, act, up, active, rfl, rfl, rfl⟩
  · exact ⟨rfl, rfl, rfl, rfl, rfl, rfl, rfl⟩

theorem audWrite_kept (z : Zmc) (r : AudRec) : MasonKept z (audWrite z r) := ⟨rfl, rfl, rfl, rfl, rfl, rfl, rfl⟩

theorem audit_kept (z : Zmc) (r : AudRec) : MasonKept z (audit z r) := by
  unfold audit
  exact .ite (audWrite_kept z r) ⟨rfl, rfl, rfl, rfl, rfl, rfl, rfl⟩

theorem coalesce_kept (z : Zmc) (r : FifoRec) : MasonKept z (coalesce z r) := by
  unfold coalesce
  dsimp only
  split
  · split
    · exact ⟨rfl, rfl, rfl, rfl, rfl, rfl, rfl⟩
    · apply MasonKept.trans (audit_kept z _)
      exact ⟨rfl, rfl, rfl, rfl, rfl, rfl, rfl⟩
  · exact ⟨rfl, rfl, rfl, rfl, rfl, rfl, rfl⟩

theorem potResume_kept (z : Zmc) (now : Nat) : MasonKept z (potResume z now) := by
  unfold potResume
  dsimp only
  have clean : MasonKept z { z with mgt := { z.mgt with wait := [], audQ := [], fifo := [], lost := 0 } } := ⟨rfl, rfl, rfl, rfl, rfl, rfl, rfl⟩
  have backlog := clean.trans <| (MasonKept.foldl (fun z e => potPut_kept z now e.code e.island e.course e.d) z.mgt.wait _).trans <|
    (MasonKept.foldl audWrite_kept z.mgt.audQ _).trans (MasonKept.foldl coalesce_kept z.mgt.fifo _)
  split
  · exact backlog
  · generalize hw : audWrite _ _ = w
    have told : MasonKept z w := hw ▸ backlog.trans (audWrite_kept ..)
    exact told.trans ⟨rfl, rfl, rfl, rfl, rfl, rfl, rfl⟩

/-! ### Requests of a port -/

theorem bump_kept (z : Zmc) (now off : Nat) : MasonKept z (bump z now off) := by constructor <;> simp

theorem countDemote_kept (z : Zmc) (now : Nat) (h : HomeId) (p : PortId) (cls : Fin 4) (c : Nat) : MasonKept z (countDemote z now h p cls c) := by
  unfold countDemote
  exact .ite (.refl z) (bump_kept ..)

theorem recolour_kept (z : Zmc) (now : Nat) (h : HomeId) (p : PortId) (x : Meas) (o n : Nat) : MasonKept z (recolour z now h p x o n) := by
  unfold recolour
  have counted (k : Nat) (w : Word) : MasonKept z (if o = 0 ∨ demote x.cls o = x.cls then z else putWord z k w) :=
    .ite (.refl z) ⟨by simp, by simp, by simp, by simp, by simp, by simp, by simp⟩
  refine .ite (.refl z) ?_
  dsimp only
  generalize hy : (if o = 0 ∨ demote x.cls o = x.cls then z else _) = y
  have ky : MasonKept z y := hy ▸ counted ..
  have kc := ky.trans (countDemote_kept y now h p x.cls n)
  split
  · exact kc.trans ⟨rfl, rfl, rfl, rfl, rfl, rfl, rfl⟩
  · exact kc

theorem modHome_kept (z : Zmc) (h : HomeId) (f : HomeSt → HomeSt) : MasonKept z (modHome z h f) := ⟨rfl, rfl, rfl, rfl, rfl, rfl, rfl⟩

theorem police_kept (z : Zmc) (now : Nat) (h : HomeId) (b : BayId) (r : FabReq) : MasonKept z (police z now h b r).1 := by
  unfold police
  extract_lets p ctl cls0 cls1 col aware m me l
  split
  · exact .refl z
  · refine MasonKept.trans ?_ (countDemote_kept ..)
    have shown (l : List (Meas × Nat)) (g : Meas × Nat → Nat) : MasonKept z (l.foldl (fun z q => recolour z now h p q.1 q.2 (g q)) z) :=
      MasonKept.foldl (fun z q => recolour_kept z now h p q.1 q.2 (g q)) l z
    exact (shown _ _).trans (modHome_kept ..)

theorem fabricArrive_kept (z : Zmc) (now : Nat) (r : FabReq) : MasonKept z (fabricArrive z now r) := by
  have woken (y : Zmc) : MasonKept y (wakeHomes y) := by
    unfold wakeHomes
    exact .ite ⟨rfl, rfl, rfl, rfl, rfl, rfl, rfl⟩ (.refl y)
  have queued (y : Zmc) (b : BayId) (cls : Fin 4) (dest : Option (CourseId × Nat)) (xm : Nat) (mirror : Bool) :
      MasonKept y (bayEnqueue y now b r cls dest xm mirror) := ⟨rfl, rfl, rfl, rfl, rfl, rfl, rfl⟩
  unfold fabricArrive
  extract_lets h copy inRec xm dest b
  exact .ite (.refl z) ((police_kept ..).trans ((woken _).trans (queued ..)))

/-! ### Ports -/

theorem liveFinal_setLive (z : Zmc) (now : Nat) (p : PortId) (l : Bool) : liveFinal (setLive z now p l) p = l := by
  unfold liveFinal setLive
  simp [List.foldl_append]

theorem liveFinal_liveRise (z : Zmc) (now : Nat) (p : PortId) : liveFinal (liveRise z now p) p = true := by
  unfold liveRise
  by_cases h : liveFinal z p = true
  · rw [if_pos h, h]
  · rw [if_neg h]; exact liveFinal_setLive ..

theorem endHolds_masonKept (z : Zmc) (p : PortId) : MasonKept z (endHolds z p) := by
  unfold endHolds
  apply MasonKept.foldl
  intro z h
  apply MasonKept.foldl
  exact fun _ _ => ⟨rfl, rfl, rfl, rfl, rfl, rfl, rfl⟩

theorem orphanAll_masonKept (z : Zmc) (p : PortId) : MasonKept z (orphanAll z p) := by
  unfold orphanAll
  dsimp only
  apply MasonKept.trans
  case k => apply MasonKept.foldl; exact fun _ _ => ⟨rfl, rfl, rfl, rfl, rfl, rfl, rfl⟩
  apply MasonKept.foldl
  exact fun _ _ => ⟨rfl, rfl, rfl, rfl, rfl, rfl, rfl⟩

theorem liveFinal_liveFall (z : Zmc) (now : Nat) (p : PortId) : liveFinal (liveFall z now p) p = false := by
  unfold liveFall
  by_cases h : liveFinal z p = true
  · rw [if_pos h, ((orphanAll_masonKept ..).trans (endHolds_masonKept ..)).liveFinal]
    exact liveFinal_setLive ..
  · rw [if_neg h]; exact eq_false_of_ne_true h

theorem liveFall_mgt (z : Zmc) (now : Nat) (p : PortId) : MasonKept { z with live := (liveFall z now p).live, liveAt := (liveFall z now p).liveAt } (liveFall z now p) := by
  unfold liveFall
  split
  · have k := (orphanAll_masonKept (setLive z now p false) p).trans (endHolds_masonKept _ p)
    exact ⟨k.mbx, k.act, k.up, k.active, rfl, rfl, k.bond⟩
  · exact .refl z

theorem masonLive_kept (z : Zmc) (now : Nat) :
    liveFinal (masonLive z now) 21 = true ∧ MasonKept { z with live := (masonLive z now).live, liveAt := (masonLive z now).liveAt } (masonLive z now) := by
  have k := MasonKept.foldl (fun z r => fabricArrive_kept z now r) z.mgt.reissue { liveRise z now 21 with mgt := { z.mgt with reissue := [] } }
  unfold masonLive
  refine ⟨(k.liveFinal 21).trans (liveFinal_liveRise z now 21), k.mbx, k.act, k.up, k.active, rfl, rfl, k.bond.trans ?_⟩
  show (liveRise z now 21).bond = z.bond
  unfold liveRise
  split
  · rfl
  · rfl

end Sys2Proof.Machine

/-! SUPPORT. A restart of Mason (R62) and the ends of an activation window (R81, R82). -/

namespace Sys2Proof.Machine

/-- What a restart keeps of an activation window. -/
def actSel (z : Zmc) : Bool × Option Act × Nat := (z.mgt.up, z.mgt.act, z.mgt.active)

theorem MasonKept.sel {a b : Zmc} (h : MasonKept a b) : actSel b = actSel a := by
  unfold actSel
  rw [h.up, h.act, h.active]

/-- A running request that is aborted is answered; every other mailbox is left. -/
theorem mbxAbort_running {z : Zmc} {m : MbxId} (h : z.mgt.mbx[m].ph = .running) (now : Nat) :
    ∃ y, MasonKept z y ∧ AnswerOnly m 0x0D [] 0 y (mbxAbort z now m) := by
  unfold mbxAbort
  dsimp only
  rw [if_pos h]
  exact ⟨_, audit_kept .., mbxAnswer_only ..⟩

theorem mbxAbort_idle {z : Zmc} {m : MbxId} (h : z.mgt.mbx[m].ph ≠ .running) (now : Nat) : mbxAbort z now m = z := by
  unfold mbxAbort
  dsimp only
  rw [if_neg h]

theorem mbxAbort_sel (z : Zmc) (now : Nat) (m : MbxId) : actSel (mbxAbort z now m) = actSel z := by
  by_cases h : z.mgt.mbx[m].ph = .running
  · obtain ⟨y, k, d⟩ := mbxAbort_running h now
    rw [← k.sel]
    unfold actSel
    rw [d.up, d.act, d.active]
  · rw [mbxAbort_idle h]

theorem unstaged_sel (z : Zmc) (m : MbxId) : actSel (modMbx z m (fun b => { b with staged := none })) = actSel z := rfl

theorem mbxAbort_other (z : Zmc) (now : Nat) {m k : MbxId} (e : k ≠ m) : (mbxAbort z now m).mgt.mbx[k] = z.mgt.mbx[k] := by
  by_cases h : z.mgt.mbx[m].ph = .running
  · obtain ⟨y, kept, d⟩ := mbxAbort_running h now
    rw [d.other e, kept.mbx]
  · rw [mbxAbort_idle h]

/-- The mailbox that a restart's abort leaves. -/
def abortedBox (b : Mbx) : Mbx := if b.ph = .running then answeredBox b 0x0D [] 0 else b

theorem mbxAbort_box (z : Zmc) (now : Nat) (m : MbxId) : (mbxAbort z now m).mgt.mbx[m] = abortedBox z.mgt.mbx[m] := by
  unfold abortedBox
  by_cases h : z.mgt.mbx[m].ph = .running
  · obtain ⟨y, kept, d⟩ := mbxAbort_running h now
    rw [d.box, kept.mbx, if_pos h]
  · rw [mbxAbort_idle h, if_neg h]

/-- A fold over distinct mailboxes whose steps each touch their own one changes each mailbox once. -/
theorem foldl_mbx {f : Zmc → MbxId → Zmc} {g : Mbx → Mbx} (own : ∀ z m, (f z m).mgt.mbx[m] = g z.mgt.mbx[m])
    (other : ∀ z {m k : MbxId}, k ≠ m → (f z m).mgt.mbx[k] = z.mgt.mbx[k]) (l : List MbxId) (nd : l.Nodup) (z : Zmc) (m : MbxId) :
    (l.foldl f z).mgt.mbx[m] = if m ∈ l then g z.mgt.mbx[m] else z.mgt.mbx[m] := by
  induction l generalizing z with
  | nil => simp
  | cons k l ih =>
    obtain ⟨hk, nd⟩ := List.nodup_cons.1 nd
    rw [List.foldl_cons, ih nd]
    by_cases e : m = k
    · subst e
      rw [if_neg hk, own, if_pos List.mem_cons_self]
    · rw [other z e]
      simp [e]

/-- What a restart of Mason leaves: it is down, P21 falls, running requests are answered and staged parts are dropped. -/
structure Restarted (a b : Zmc) : Prop where
  up : b.mgt.up = false
  act : b.mgt.act = a.mgt.act
  active : b.mgt.active = a.mgt.active
  live : liveFinal b 21 = false
  box : ∀ m : MbxId, b.mgt.mbx[m] = { abortedBox a.mgt.mbx[m] with staged := none }

theorem masonRestart_restarted (z : Zmc) (now cause : Nat) : Restarted z (masonRestart z now cause) := by
  unfold masonRestart
  extract_lets g z1 z2 z3 z4
  have down : MasonKept { z with mgt := { z.mgt with up := false } } z2 :=
    MasonKept.trans (b := z1) (evPost_kept ..) (audit_kept ..)
  have aborts : actSel z3 = actSel z2 := foldl_field actSel (fun z m => mbxAbort_sel z now m) (List.finRange 6) z2
  have drops : actSel z4 = actSel z3 := foldl_field actSel (fun z m => unstaged_sel z m) (List.finRange 6) z3
  have sel : actSel z4 = (false, z.mgt.act, z.mgt.active) := drops.trans (aborts.trans down.sel)
  have box (m : MbxId) : z4.mgt.mbx[m] = { abortedBox z.mgt.mbx[m] with staged := none } := by
    have cleared := foldl_mbx (f := fun z m => modMbx z m (fun b => { b with staged := none })) (g := fun b => { b with staged := none })
      (fun z m => modV_same ..) (fun z _ _ e => modV_other _ _ _ _ (Ne.symm e)) _ (List.nodup_finRange 6) z3 m
    have aborted := foldl_mbx (f := fun z m => mbxAbort z now m) (fun z m => mbxAbort_box z now m) (fun z _ _ e => mbxAbort_other z now e) _
      (List.nodup_finRange 6) z2 m
    rw [if_pos (List.mem_finRange m)] at cleared aborted
    rw [cleared, aborted, down.mbx]
  clear_value z4
  have fall := liveFall_mgt { z4 with mgt := { z4.mgt with reissue := z4.mgt.reissue ++ masonReqs z4 } } now 21
  unfold actSel at sel
  injection sel with up rest
  injection rest with act active
  exact ⟨fall.up.trans up, fall.act.trans act, fall.active.trans active, liveFinal_liveFall .., fun m => by rw [fall.mbx]; exact box m⟩

/-! ### The window's end -/

theorem actEnd_kept (z : Zmc) (now : Nat) (a : Act) (ok : Bool) :
    MasonKept { z with mgt := { z.mgt with act := none, up := true } } (actEnd z now a ok) := by
  unfold actEnd
  dsimp only
  apply MasonKept.trans
  case k => exact potResume_kept ..
  apply MasonKept.trans
  case k => exact audit_kept ..
  apply MasonKept.trans
  case k => exact potPut_kept ..
  exact ⟨rfl, rfl, rfl, rfl, rfl, rfl, rfl⟩

theorem sendHello_kept (z : Zmc) : MasonKept z (sendHello z) := by
  unfold sendHello
  refine .ite ?_ (.refl z)
  exact .ite ⟨rfl, rfl, rfl, rfl, rfl, rfl, rfl⟩ ⟨rfl, rfl, rfl, rfl, rfl, rfl, rfl⟩

/-- A new image is running: its bank is active, the window is closed and the Bond table is rewritten. -/
structure Activated (a : Zmc) (bank : Nat) (b : Zmc) : Prop where
  active : b.mgt.active = bank
  act : b.mgt.act = none
  up : b.mgt.up = true
  gen : b.bond.gen = a.bond.gen + 2#32

theorem activationDone_activated {z : Zmc} {now : Nat} {a : Act} (h : z.mgt.act = some a) (hf : a.failed = false) (hn : now ≤ a.openAt + 20 * tuPerMs) :
    Activated z (1 - a.oldBank) (activationDone z now) := by
  unfold activationDone
  rw [h]
  dsimp only
  rw [if_neg (by rw [hf]; simpa using hn)]
  generalize hy : (if member _ then _ else _ : Zmc) = y
  have ky : MasonKept { z with mgt := { z.mgt with active := 1 - a.oldBank } } y := by
    rw [← hy]
    exact .ite ⟨rfl, rfl, rfl, rfl, rfl, rfl, rfl⟩ ⟨rfl, rfl, rfl, rfl, rfl, rfl, rfl⟩
  have ke := actEnd_kept y now a true
  generalize actEnd y now a true = e at *
  have kb : MasonKept { e with bond := (bondRewrite e now).bond } (bondRewrite e now) := by
    unfold bondRewrite
    have k := potPost_kept { e with bond := { bytes := bondBytes e, gen := e.bond.gen + 2#32, dirty := false } } now 2 18 255 [e.bond.gen + 2#32]
    exact ⟨k.mbx, k.act, k.up, k.active, k.live, k.liveAt, rfl⟩
  have gen : (bondRewrite e now).bond.gen = e.bond.gen + 2#32 := by
    unfold bondRewrite
    exact congrArg Bond.gen (potPost_kept ..).bond
  have ks := sendHello_kept (bondRewrite e now)
  refine ⟨?_, ?_, ?_, ?_⟩
  · rw [ks.active, kb.active, ke.active]; exact ky.active
  · rw [ks.act, kb.act, ke.act]
  · rw [ks.up, kb.up, ke.up]
  · rw [ks.bond, gen, ke.bond]; exact congrArg (fun b => b.gen + 2#32) ky.bond

theorem activationTimeout_open {z : Zmc} {now : Nat} {a : Act} (h : z.mgt.act = some a) (hf : a.failed = false) (hn : a.openAt + 20 * tuPerMs ≤ now) :
    Restarted { z with mgt := { z.mgt with act := some { a with failed := true } } } (activationTimeout z now) := by
  unfold activationTimeout
  rw [h]
  dsimp only
  rw [if_neg (by rw [hf]; decide), if_neg (by omega)]
  exact masonRestart_restarted ..

/-- The old image is running again. -/
structure Restored (a b : Zmc) : Prop where
  act : b.mgt.act = none
  up : b.mgt.up = true
  active : b.mgt.active = a.mgt.active
  live : liveFinal b 21 = true

theorem activationTimeout_failed {z : Zmc} {a : Act} (h : z.mgt.act = some a) (hf : a.failed = true) (now : Nat) : Restored z (activationTimeout z now) := by
  unfold activationTimeout
  rw [h]
  dsimp only
  rw [if_pos hf]
  obtain ⟨live, kl⟩ := masonLive_kept z now
  generalize masonLive z now = y at *
  have ke := actEnd_kept y now a false
  generalize actEnd y now a false = e at *
  have ks := sendHello_kept { e with bond := { e.bond with gen := e.bond.gen + 2#32 } }
  have lf : liveFinal e 21 = true := (ke.liveFinal 21).trans live
  exact ⟨ks.act.trans ke.act, ks.up.trans ke.up, ks.active.trans (ke.active.trans kl.active), (ks.liveFinal 21).trans lf⟩

theorem masonBack_runs {z : Zmc} (h : z.mgt.up = false) (hm : masonMayRun z = true) (now : Nat) :
    (masonBack z now).mgt.up = true ∧ liveFinal (masonBack z now) 21 = true ∧ (masonBack z now).mgt.mbx = z.mgt.mbx := by
  unfold masonBack
  rw [if_pos ⟨h, hm⟩]
  obtain ⟨live, kl⟩ := masonLive_kept { z with mgt := { z.mgt with up := true, wdogAt := now } } now
  dsimp only
  generalize masonLive _ now = y at *
  have k : MasonKept y (if y.mgt.act.isNone then potResume y now else y) := .ite (potResume_kept ..) (.refl y)
  exact ⟨k.up.trans kl.up, (k.liveFinal 21).trans live, k.mbx.trans kl.mbx⟩

theorem coalClose_leaves (z : Zmc) (now : Nat) :
    (coalClose z now).mgt.coal = z.mgt.coal.filter (fun c => decide (now < c.t0 + tuPerMs)) ∧ (coalClose z now).mgt.evq = z.mgt.evq := by
  have one (z : Zmc) (r : AudRec) : (audit z r).mgt.coal = z.mgt.coal ∧ (audit z r).mgt.evq = z.mgt.evq := by
    obtain ⟨aud, audQ, audNext, chain, e⟩ := audit_only z r
    rw [e]
    exact ⟨rfl, rfl⟩
  unfold coalClose
  exact ⟨foldl_field (fun z => z.mgt.coal) (fun z c => (one z (coalRec z c)).1) _ _, foldl_field (fun z => z.mgt.evq) (fun z c => (one z (coalRec z c)).2) _ _⟩

theorem heardMax_nil {z : Zmc} (h : z.pair.heard = []) : heardMax z = none := by
  unfold heardMax
  rw [h]
  rfl

theorem cmdActivate_runs {x : Sys} {m : MbxId} (ht : Taken x.z m 0x0107) (hl : LevelOk x.z m 6) (hm : m.val < 3) (hf : frameOk x.z.mgt.mbx[m] [(2, 1)] = true)
    (hb : (inactBank x.z).valid = true) (hh : held x.z .banks = false) (hp : x.z.pair.heard = []) :
    cmdActivate x m = onZmc (cmdDone (takenSys x m 0x0107) m 1 [] (1 - x.z.mgt.active) 0 x.z.mgt.mbx[m].argDg) (fun z now => actOpen z now m) := by
  unfold cmdActivate
  dsimp only
  rw [command_runs ht hl (by decide) _ _ rfl (role_user m hm) rfl (Or.inl rfl) hf]
  have bank : inactBank (takenZ x.z x.now m 0x0107) = inactBank x.z := rfl
  have free : held (takenZ x.z x.now m 0x0107) .banks = held x.z .banks := rfl
  have heard : heardMax (takenZ x.z x.now m 0x0107) = none := heardMax_nil hp
  dsimp only
  rw [bank, free, heard, hb, hh, if_neg (by decide), if_neg (by decide), if_neg (by simp)]
  rfl

end Sys2Proof.Machine

/-! SUPPORT. The statement about activation, Mason's restarts and the coalescing windows. -/

namespace Sys2Proof.Proofs
open Sys2Proof.Machine

/-- Settles O23: activation windows open and end, a watchdog restart aborts running requests, and old coalescing windows close. -/
theorem masonRestartsAndActivates : Obligations.MasonRestartsAndActivates := by
  unfold Obligations.MasonRestartsAndActivates
  intro s n m a hu
  have hu' : closedUp (before s n).z = false := by simpa [before] using hu
  dsimp only
  generalize hx : before s n = x at *
  refine ⟨fun ht hl hm hf hb hh hp => ?_, fun ha hf hn => ?_, fun ha hf hn => ?_, fun ha hf => ?_, fun hup hm => ?_, fun hup ha hn => ?_, ?_⟩
  · refine gives_all (exec_activate ..) (fun t _ tz _ _ => ?_)
    rw [hx, ifUp_run hu', cmdActivate_runs ht hl hm hf hb hh hp] at tz
    have d := cmdDone_only (takenSys x m 0x0107) m 1 [] (1 - x.z.mgt.active) 0 x.z.mgt.mbx[m].argDg
    refine ⟨?_, ?_, ?_⟩
    · unfold Answered
      rw [tz.mgt_mbx]
      refine ⟨(congrArg Mbx.ph d.box).trans rfl, ?_⟩
      exact (congrArg (fun b : Mbx => bitsOf b.rsp[(0 : Fin 16)] 31 24) d.box).trans (rspFrame_status _ (by decide) _)
    · rw [tz.mgt_act]
      refine (congrArg (fun b : Mbx => some (⟨m, b.seq, b.orig, b.argDg, _, x.now, false⟩ : Act)) d.box).trans ?_
      rw [d.active, takenSys, takenZ_mbx]
      rfl
    · rw [tz.mgt_active]
      exact d.active
  · refine gives_all (exec_activationDone ..) (fun t _ tz _ _ => ?_)
    rw [hx, ifZ_run hu'] at tz
    obtain ⟨active, act, up, gen⟩ := activationDone_activated ha hf hn
    exact ⟨tz.mgt_active.trans active, tz.mgt_act.trans act, tz.mgt_up.trans up, (congrArg Bond.gen tz.bond).trans gen⟩
  · refine gives_all (exec_activationTimeout ..) (fun t _ tz _ _ => ?_)
    rw [hx, ifZ_run hu'] at tz
    have r := activationTimeout_open ha hf hn
    exact ⟨tz.mgt_act.trans r.act, tz.mgt_up.trans r.up, tz.mgt_active.trans r.active⟩
  · refine gives_all (exec_activationTimeout ..) (fun t _ tz _ _ => ?_)
    rw [hx, ifZ_run hu'] at tz
    obtain ⟨act, up, active, live⟩ := activationTimeout_failed ha hf x.now
    exact ⟨tz.mgt_act.trans act, tz.mgt_up.trans up, tz.mgt_active.trans active, by unfold liveFinal at live ⊢; rw [tz.liveAt, tz.live]; exact live⟩
  · refine gives_all (exec_masonRestartDone ..) (fun t _ tz _ _ => ?_)
    rw [hx, ifZ_run hu'] at tz
    obtain ⟨up, live, mbx⟩ := masonBack_runs hup hm x.now
    exact ⟨tz.mgt_up.trans up, by unfold liveFinal at live ⊢; rw [tz.liveAt, tz.live]; exact live, tz.mgt_mbx.trans mbx⟩
  · refine gives_all (exec_watchdogExpiry ..) (fun t _ tz _ _ => ?_)
    rw [hx, ifZ_run hu'] at tz
    dsimp only at tz
    unfold watchdog at tz
    rw [if_pos ⟨hup, ha, hn⟩] at tz
    have r := masonRestart_restarted x.z x.now 0
    have box := r.box m
    rw [← tz.mgt_mbx] at box
    refine ⟨tz.mgt_up.trans r.up, ?_, fun hr => ?_, fun hr => ?_⟩
    · have live := r.live
      unfold liveFinal at live ⊢
      rw [tz.liveAt, tz.live]; exact live
    · unfold abortedBox at box
      rw [if_pos hr] at box
      unfold Answered
      rw [box]
      exact ⟨rfl, rspFrame_status _ (by decide) _⟩
    · unfold abortedBox at box
      rw [if_neg hr] at box
      exact box
  · refine gives_all (exec_auditCoalesceClose ..) (fun t _ tz _ _ => ?_)
    rw [hx, ifZ_run hu'] at tz
    obtain ⟨coal, evq⟩ := coalClose_leaves x.z x.now
    exact ⟨tz.mgt_coal.trans coal, tz.mgt_evq.trans evq⟩

end Sys2Proof.Proofs

/-! SUPPORT. Accepted work (R389): how a command begins it, and how it ends. -/

namespace Sys2Proof.Machine

/-- The work that an accepted request of mailbox `b` becomes. -/
def jobFor (b : Mbx) (m : MbxId) (op : Nat) (r : Rsrc) (arg tg now : Nat) : Job := ⟨m, op, b.seq, b.orig, r, arg, tg, b.argDg, now⟩

/-- The block with one more piece of accepted work. -/
def withJob (z : Zmc) (j : Job) : Zmc := { z with mgt := { z.mgt with jobs := z.mgt.jobs ++ [j] } }

theorem cmdAccept_only {x : Sys} {m : MbxId} {op : Nat} (ht : Taken x.z m op) (r : Rsrc) (arg tg : Nat) :
    AnswerOnly m 1 [] tg (withJob (takenZ x.z x.now m op) (jobFor x.z.mgt.mbx[m] m op r arg tg x.now)) (cmdAccept (takenSys x m op) m r arg tg).z := by
  have e : jobFor x.z.mgt.mbx[m] m op r arg tg x.now =
      (fun b : Mbx => (⟨m, b.op, b.seq, b.orig, r, arg, tg, b.argDg, x.now⟩ : Job)) (takenZ x.z x.now m op).mgt.mbx[m] := by
    obtain ⟨-, -, hop, -⟩ := ht
    rw [takenZ_mbx]
    exact congrArg (fun k => (⟨m, k, _, _, r, arg, tg, _, x.now⟩ : Job)) hop.symm
  rw [e]
  have d := cmdDone_only (onZmc (takenSys x m op) (fun z _ => withJob z ((fun b : Mbx => (⟨m, b.op, b.seq, b.orig, r, arg, tg, b.argDg, x.now⟩ : Job))
    (takenZ x.z x.now m op).mgt.mbx[m]))) m 1 [] tg 0 (takenZ x.z x.now m op).mgt.mbx[m].argDg
  exact d

/-- The work that ends is taken out, and its end is logged. -/
theorem jobEnd_logOnly (z : Zmc) (now : Nat) (j : Job) (code status : Nat) (w : Word) :
    LogOnly { z with mgt := { z.mgt with jobs := removeFirst (fun k => k == j) z.mgt.jobs } } (jobEnd z now j code status w) := by
  unfold jobEnd
  exact (logOnly_potPost ..).trans (logOnly_audit ..)

theorem jobEnd_jobs (z : Zmc) (now : Nat) (j : Job) (code status : Nat) (w : Word) :
    (jobEnd z now j code status w).mgt.jobs = removeFirst (fun k => k == j) z.mgt.jobs := (jobEnd_logOnly ..).jobs

theorem LogOnly.keys {a b : Zmc} (h : LogOnly a b) : b.keys = a.keys := by
  obtain ⟨_, _, _, _, _, _, _, _, _, _, rfl⟩ := h; rfl

theorem jobEnd_keys (z : Zmc) (now : Nat) (j : Job) (code status : Nat) (w : Word) : (jobEnd z now j code status w).keys = z.keys := (jobEnd_logOnly ..).keys

/-- Work that is alone and ends leaves none. -/
theorem jobEnd_last {z : Zmc} {j : Job} (h : z.mgt.jobs = [j]) (now code status : Nat) (w : Word) : (jobEnd z now j code status w).mgt.jobs = [] := by
  rw [jobEnd_jobs, h]
  simp [removeFirst]

/-! ### Repairs -/

section
variable {x : Sys} {m : MbxId}

/-- The block without the offer of this identifier. -/
def withoutOffer (x : Sys) (id : Nat) : Sys := onZmc x (fun z _ => { z with mgt := { z.mgt with offers := z.mgt.offers.filter (fun q => q.id != id) } })

/-- A REPAIR of mailbox `m` that passes every shared check and names an offer whose course is free. -/
structure RepairOk (x : Sys) (m : MbxId) (o : Offer) : Prop where
  taken : Taken x.z m 0x0108
  lvl : LevelOk x.z m 6
  role : m.val < 2
  frame : frameOk x.z.mgt.mbx[m] [(2, 0x0001FFFF)] = true
  offer : x.z.mgt.offers.find? (fun o => o.id == x.z.mgt.mbx[m].arg 2 15 0) = some o
  free : held x.z (.course o.crs) = false

theorem cmdRepair_runs {o : Offer} (h : RepairOk x m o) : cmdRepair x m =
    if x.z.mgt.mbx[m].arg 2 16 16 = 0 then cmdOk (withoutOffer (takenSys x m 0x0108) (x.z.mgt.mbx[m].arg 2 15 0)) m [] (x.z.mgt.mbx[m].arg 2 15 0)
    else if o.kind = 1 then onCrs (cmdAccept (takenSys x m 0x0108) m (.course o.crs) (x.z.mgt.mbx[m].arg 2 15 0) (x.z.mgt.mbx[m].arg 2 15 0)) (toCrs o.crs) (fun y => pprStart y o false)
    else withoutOffer (markCmd (takenSys x m 0x0108) m o) (x.z.mgt.mbx[m].arg 2 15 0) := by
  unfold cmdRepair
  rw [command_runs h.taken h.lvl (by decide) _ _ rfl (role_operator m h.role) rfl (Or.inl rfl) h.frame]
  have offer : (takenZ x.z x.now m 0x0108).mgt.offers.find? (fun o => o.id == x.z.mgt.mbx[m].arg 2 15 0) = some o := h.offer
  have free : held (takenZ x.z x.now m 0x0108) (.course o.crs) = false := h.free
  dsimp only
  rw [arg_taken, arg_taken, offer]
  dsimp only
  rw [free, if_neg (by decide)]
  rfl

/-- The soft repairs of the memories named. -/
def softOf (z : Zmc) (mem : Nat) : Tbl Spare := z.boot.spares.filter (fun p => !p.2.hard && (mem == 0xFF || p.1 / 16 == mem))

theorem cmdHardRepair_runs {id : Nat} (ht : Taken x.z m 0x0303) (hl : LevelOk x.z m 6) (hm : m.val = 3) (hf : frameOk x.z.mgt.mbx[m] [(2, 0xFF#32)] = true)
    (hid : x.z.mgt.mbx[m].arg 2 7 0 = id) (hk : id = 0xFF ∨ (memWords id).isSome = true) (hs : softOf x.z id ≠ []) (hn : x.z.boot.fuses + (softOf x.z id).length ≤ 256)
    (hh : held x.z .fuses = false) : cmdHardRepair x m = cmdAccept (takenSys x m 0x0303) m .fuses id id := by
  have known : (id == 0xFF || (memWords id).isSome) = true := by rw [Bool.or_eq_true, beq_iff_eq]; exact hk
  unfold cmdHardRepair
  rw [command_runs ht hl (by decide) _ _ rfl (role_one hm) rfl (Or.inl rfl) (and_true_intro hf (by rw [arg_taken, hid]; exact known))]
  dsimp only
  rw [arg_taken, hid]
  have some : (softOf x.z id).isEmpty = false := by rw [List.isEmpty_eq_false_iff]; exact hs
  have free : held (takenZ x.z x.now m 0x0303) .fuses = false := hh
  refine (if_neg (by rw [Bool.not_eq_true]; exact some)).trans ?_
  refine (if_neg (by exact not_lt.2 hn)).trans ?_
  exact if_neg (by rw [free]; decide)

theorem pprStart_length (y : Cx) (o : Offer) (auto : Bool) : (pprStart y o auto).c.ppr.length = y.c.ppr.length + 1 := by
  simp [pprStart]

/-! ### The end of work -/

theorem acceptedComplete_none (h : x.z.mgt.jobs = []) (f : Fuse) (ok : Bool) : acceptedComplete x f m ok = (x, f) := by
  unfold acceptedComplete
  rw [h]
  rfl

theorem burn_jobs (x : Sys) (f : Fuse) (mem : Nat) (ok : Bool) : (burn x f mem ok).1.z.mgt.jobs = x.z.mgt.jobs := rfl

/-- A burn that succeeds takes every soft repair of the memories named. -/
theorem burn_fuse (x : Sys) (f : Fuse) (mem : Nat) :
    (burn x f mem true).2 = { f with hard := f.hard ++ (softOf x.z mem).map (fun p => (p.1 / 16, p.1 % 16, p.2.row)) } := by
  have all (l : Tbl Spare) : ((l.zip (List.range l.length)).filter (fun p => true || (Config.freeWord (x.free + p.2)).getLsbD 0)).map
      (fun p => (p.1.1 / 16, p.1.1 % 16, p.1.2.row)) = l.map (fun p => (p.1 / 16, p.1 % 16, p.2.row)) := by
    rw [List.filter_eq_self.2 (fun _ _ => Bool.true_or _)]
    conv_rhs => rw [← List.map_fst_zip (l₁ := l) (l₂ := List.range l.length) (by simp)]
    rw [List.map_map]
    rfl
  unfold burn
  exact congrArg (fun t => { f with hard := f.hard ++ t }) (all (softOf x.z mem))

theorem acceptedComplete_burn {j : Job} (h : x.z.mgt.jobs = [j]) (hm : j.mbx = m) (hop : j.op = 0x0303) (hp : potrieOn x.z = true) (f : Fuse) :
    (acceptedComplete x f m true).1.z.mgt.jobs = [] ∧
    (acceptedComplete x f m true).2 = { f with hard := f.hard ++ (softOf x.z j.arg).map (fun p => (p.1 / 16, p.1 % 16, p.2.row)) } := by
  unfold acceptedComplete
  rw [h, List.find?_cons_of_pos (by simp [hm, hop])]
  dsimp only
  rw [hp, hop, if_neg (by decide), if_neg (by decide), if_neg (by decide), if_neg (by decide), if_neg (by decide), if_neg (by decide)]
  refine ⟨?_, burn_fuse ..⟩
  rw [onZmc_z]
  exact jobEnd_last ((burn_jobs x f j.arg true).trans h) ..

theorem acceptedComplete_lc {j : Job} (h : x.z.mgt.jobs = [j]) (hm : j.mbx = m) (hop : j.op = 0x0204) (hp : potrieOn x.z = true) (f : Fuse) :
    acceptedComplete x f m true = (onZmc x (fun z now => lcDone z now j), { f with lc := j.arg }) := by
  unfold acceptedComplete
  rw [h, List.find?_cons_of_pos (by simp [hm, hop])]
  dsimp only
  rw [hp, hop, if_neg (by decide), if_neg (by decide), if_neg (by decide), if_neg (by decide), if_pos rfl, if_pos rfl]

theorem lcDone_leaves {z : Zmc} {j : Job} (h : z.mgt.jobs = [j]) (now : Nat) :
    (lcDone z now j).mgt.jobs = [] ∧ (lcDone z now j).boot.lcPend = j.arg ∧ (lcDone z now j).boot.lc = z.boot.lc ∧
    (3 ≤ j.arg → (lcDone z now j).keys.slots = [] ∧ (lcDone z now j).keys.kek = none) := by
  unfold lcDone
  dsimp only
  refine ⟨jobEnd_last ?_ .., ?_, ?_, fun h3 => ?_⟩
  · split <;> exact h
  · rw [jobEnd_boot]
  · rw [jobEnd_boot]
    split <;> rfl
  · rw [jobEnd_keys, if_pos h3]
    exact ⟨rfl, rfl⟩

end

end Sys2Proof.Machine

/-! SUPPORT. The statement about repairs and the end of accepted work. -/

namespace Sys2Proof.Proofs
open Sys2Proof.Machine

/-- Settles O24: an offer is declined or becomes work, soft repairs become work that burns fuses, and work that ends is no longer outstanding. -/
theorem acceptedWorkEnds : Obligations.AcceptedWorkEnds := by
  unfold Obligations.AcceptedWorkEnds
  intro s n m ok o j hu
  have hu' : closedUp (before s n).z = false := by simpa [before] using hu
  have ends {f : Fuse} {P : State → Prop} {y : Sys} {ok : Bool} (e : acceptedComplete (before s n) s.fuse m ok = (y, f))
      (h : ∀ t : State, t.sys.crs = y.crs → CloseOnly y.z t.sys.z → t.fuse = f → P t) : Gives (.acceptedComplete n m ok) s P := by
    refine ⟨_, exec_acceptedComplete n m ok s, ?_⟩
    have e' : (fun x f => if closedUp x.z then (x, f) else acceptedComplete x f m ok) (startAt s.sys n) s.fuse = (y, f) := by
      dsimp only
      rw [← e]
      exact if_neg (by rw [show closedUp (startAt s.sys n).z = false from hu']; decide)
    rw [e']
    exact h _ (closeCmd_crs ..) (closeCmd_only ..) rfl
  dsimp only
  generalize hx : before s n = x at *
  refine ⟨fun ⟨ht, hl, hm, hf, ho, hh⟩ hp => ?_, fun ⟨ht, hl, hm, hf, ho, hh⟩ hp hk => ?_, fun ht hl hm hf hk hs hn hh => ?_, fun hj hm hop hp => ?_,
    fun hj hm hop hp => ?_, fun hj => ?_⟩
  · refine gives_all (exec_repair ..) (fun t tc tz _ _ => ?_)
    rw [hx, ifUp_run hu', cmdRepair_runs ⟨ht, hl, hm, hf, ho, hh⟩, if_pos hp] at tc tz
    have d := cmdDone_only (withoutOffer (takenSys x m 0x0108) (x.z.mgt.mbx[m].arg 2 15 0)) m 0 [] (x.z.mgt.mbx[m].arg 2 15 0) 0
      (withoutOffer (takenSys x m 0x0108) (x.z.mgt.mbx[m].arg 2 15 0)).z.mgt.mbx[m].argDg
    exact ⟨d.answered (by decide) tz, tz.mgt_offers.trans d.offers, tz.mgt_jobs.trans d.jobs, tc⟩
  · refine gives_all (exec_repair ..) (fun t tc tz _ _ => ?_)
    rw [hx, ifUp_run hu', cmdRepair_runs ⟨ht, hl, hm, hf, ho, hh⟩, if_neg (by rw [hp]; decide), if_pos hk] at tc tz
    have d := cmdAccept_only ht (.course o.crs) (x.z.mgt.mbx[m].arg 2 15 0) (x.z.mgt.mbx[m].arg 2 15 0)
    refine ⟨d.answered (by decide) tz, tz.mgt_jobs.trans d.jobs, tz.mgt_offers.trans d.offers, ?_⟩
    rw [tc, onCrs_crs_same, pprStart_length]
    rfl
  · refine gives_cmd (exec_hardRepair ..) ?_
    have tz := closeCmd_only x (ifUp (fun x => cmdHardRepair x m) x)
    have d := cmdAccept_only ht .fuses (x.z.mgt.mbx[m].arg 2 7 0) (x.z.mgt.mbx[m].arg 2 7 0)
    rw [hx]
    rw [ifUp_run hu', cmdHardRepair_runs ht hl hm hf rfl hk hs hn hh] at tz ⊢
    exact ⟨d.answered (by decide) tz, tz.mgt_jobs.trans d.jobs, rfl⟩
  · have k := acceptedComplete_burn hj hm hop hp s.fuse
    refine ends rfl (fun t _ tz tf => ⟨tz.mgt_jobs.trans k.1, tf.trans k.2⟩)
  · obtain ⟨jobs, pend, lc, keys⟩ := lcDone_leaves hj x.now
    refine ends (acceptedComplete_lc hj hm hop hp s.fuse) (fun t _ tz tf => ?_)
    exact ⟨tz.mgt_jobs.trans jobs, tf, by rw [tz.boot]; exact pend, by rw [tz.boot]; exact lc, by rw [tz.keys]; exact keys⟩
  · refine ends (acceptedComplete_none hj s.fuse ok) (fun t tc tz tf => ?_)
    exact ⟨tf, tz.mgt_jobs.trans hj, tc⟩

end Sys2Proof.Proofs

/-! SUPPORT. The Installer's commands that store or transition (R60, R302, R395, R398). -/

namespace Sys2Proof.Machine

theorem imgArgs_taken (b : Mbx) (now : Nat) : imgArgs (takenBox b now) = imgArgs b := rfl

/-- The bytes that an IMAGE_WRITE of `k` bytes carries. -/
def imgData (b : Mbx) (k : Nat) : List Byte := ((List.range (k / 4)).map (fun i => b.wd (4 + i))).flatMap wordBytes

/-- The inactive bank takes the first part of an image, of `k` bytes. -/
def firstPart (z : Zmc) (bank k : Nat) (data : List Byte) : Zmc :=
  needBond { z with mgt := { z.mgt with banks := modV z.mgt.banks (toHome bank) (fun _ => { bytes := data }), imgEnd := some k } }

section
variable {x : Sys} {m : MbxId}

theorem cmdImageWrite_runs {k bank : Nat} (ht : Taken x.z m 0x0202) (hl : LevelOk x.z m 6) (hm : m.val = 2) (h4 : 4 ≤ k) (h48 : k ≤ 48) (hk : k % 4 = 0)
    (hf : frameOk x.z.mgt.mbx[m] ([(2, 0x0007FFFF#32), (3, 0x0000113F#32)] ++ fullWords 4 (k / 4)) = true)
    (args : imgArgs x.z.mgt.mbx[m] = (0, k, false, bank)) (hb : bank ≠ x.z.mgt.active) (hh : held x.z .inactiveBank = false) :
    cmdImageWrite x m = cmdOk (onZmc (takenSys x m 0x0202) (fun z _ => firstPart z bank k (imgData x.z.mgt.mbx[m] k))) m [] bank := by
  unfold cmdImageWrite
  rw [command_runs (rules := fun _ b =>
      let (off, n, _, _) := imgArgs b
      plainRules [2] (off % 4 == 0 && decide (4 ≤ n ∧ n ≤ 48) && n % 4 == 0 && frameOk b ([(2, 0x0007FFFF#32), (3, 0x0000113F#32)] ++ fullWords 4 (n / 4))))
    ht hl (by decide) _ _ (by dsimp only; rw [imgArgs_taken, args]; rfl) (role_one hm) rfl (Or.inl rfl)
    (and_true_intro (and_true_intro (and_true_intro rfl (show decide (4 ≤ k ∧ k ≤ 48) = true from decide_eq_true ⟨h4, h48⟩)) (beq_iff_eq.2 hk)) hf)]
  have other : (bank == (takenZ x.z x.now m 0x0202).mgt.active) = false := beq_eq_false_iff_ne.2 hb
  have free : held (takenZ x.z x.now m 0x0202) .inactiveBank = false := hh
  have small : decide (160 * 1024 < 0 + k) = false := decide_eq_false (by omega)
  dsimp only
  rw [imgArgs_taken, args]
  dsimp only
  rw [other, free, small, if_neg (by simp), if_neg (by decide), if_neg (by decide), if_pos rfl]
  show cmdOk (onZmc (takenSys x m 0x0202) (fun z _ => firstPart z bank (0 + k) (imgData x.z.mgt.mbx[m] k))) m [] bank = _
  rw [Nat.zero_add]

theorem cmdLcTransition_runs (ht : Taken x.z m 0x0204) (hl : LevelOk x.z m 6) (hm : m = 3) (hf : lcFrame x.z.mgt.mbx[m] m = true)
    (hd : x.z.mgt.mbx[m].arg 2 2 0 = 1) (hp : x.z.boot.lcPend = 0) (hh : held x.z .lifeCycle = false) :
    cmdLcTransition x m = cmdAccept (takenSys x m 0x0204) m .lifeCycle 1 1 := by
  unfold cmdLcTransition
  rw [command_runs ht hl (by decide) _ _ rfl (by rw [hm]; rfl) rfl (Or.inl rfl) (and_true_intro hf (decide_eq_true (by rw [arg_taken, hd]; decide)))]
  have pend : (takenZ x.z x.now m 0x0204).boot.lcPend = 0 := hp
  have free : held (takenZ x.z x.now m 0x0204) .lifeCycle = false := hh
  dsimp only
  rw [arg_taken, hd, pend, free, if_neg (by decide), if_neg (by rw [hm]; decide), if_neg (by decide), if_pos hm]
  rfl

/-- A policy is stored under its opcode. -/
def withPolicy (z : Zmc) (op : Nat) (ws : List Word) : Zmc := { z with mgt := { z.mgt with pol := tblPut z.mgt.pol op ws } }

theorem setPolicy_only (y : Sys) (op : Nat) (ws : List Word) : AnswerOnly m 0 [] 0 (withPolicy y.z op ws) (setPolicy y m op ws).z := by
  unfold setPolicy
  exact cmdDone_only (onZmc y (fun z _ => withPolicy z op ws)) m 0 [] 0 _ _

theorem cmdTrainPolicy_runs (ht : Taken x.z m 0x020A) (hl : LevelOk x.z m 6) (hm : m.val = 2) (hs : x.z.rg.sealed = false)
    (hf : frameOk x.z.mgt.mbx[m] [(2, 0xFFFFFFFF#32), (3, 0xFFFF01FF#32), (4, 0x00FFFFFF#32)] = true) (hp : trainPolOk x.z.mgt.mbx[m] = true) :
    cmdTrainPolicy x m = setPolicy (takenSys x m 0x020A) m 0x020A [x.z.mgt.mbx[m].wd 2, x.z.mgt.mbx[m].wd 3, x.z.mgt.mbx[m].wd 4] := by
  unfold cmdTrainPolicy
  rw [command_runs ht hl (by decide) _ _ rfl (role_one hm) rfl (Or.inr hs) (and_true_intro hf hp)]
  rfl

theorem cmdThermalPolicy_runs (ht : Taken x.z m 0x020B) (hl : LevelOk x.z m 6) (hm : m.val = 2) (hs : x.z.rg.sealed = false)
    (hf : frameOk x.z.mgt.mbx[m] [(2, 0x0000FF03#32)] = true) (ha : x.z.mgt.mbx[m].arg 2 1 0 ≤ 2) (h60 : 60 ≤ x.z.mgt.mbx[m].arg 2 15 8) (h85 : x.z.mgt.mbx[m].arg 2 15 8 ≤ 85) :
    cmdThermalPolicy x m = setPolicy (takenSys x m 0x020B) m 0x020B [x.z.mgt.mbx[m].wd 2] := by
  unfold cmdThermalPolicy
  rw [command_runs ht hl (by decide) _ _ rfl (role_one hm) rfl (Or.inr hs) (and_true_intro hf (decide_eq_true ⟨ha, h60, h85⟩))]
  rfl

theorem cmdRepairPolicy_runs (ht : Taken x.z m 0x020C) (hl : LevelOk x.z m 6) (hm : m.val = 2) (hs : x.z.rg.sealed = false)
    (hf : frameOk x.z.mgt.mbx[m] [(2, 3#32)] = true) : cmdRepairPolicy x m = setPolicy (takenSys x m 0x020C) m 0x020C [x.z.mgt.mbx[m].wd 2] := by
  unfold cmdRepairPolicy
  rw [command_runs ht hl (by decide) _ _ rfl (role_one hm) rfl (Or.inr hs) hf]
  rfl

/-- The one-bit bank number. -/
theorem arg_bank (b : Mbx) : b.arg 3 12 12 = 0 ∨ b.arg 3 12 12 = 1 := by
  have h : b.arg 3 12 12 < 2 := Nat.mod_lt _ (by decide)
  omega

/-- What the answered first part of an image leaves. -/
theorem firstPart_answered {bank k : Nat} {data : List Byte} {t : State} (bit : bank = 0 ∨ bank = 1)
    (tz : CloseOnly (cmdOk (onZmc (takenSys x m 0x0202) (fun z _ => firstPart z bank k data)) m [] bank).z t.sys.z) :
    Answered t m 0 ∧ t.sys.z.mgt.imgEnd = some k ∧ t.sys.z.mgt.active = x.z.mgt.active ∧ t.sys.z.mgt.banks[toHome bank] = { bytes := data } ∧
      t.sys.z.mgt.banks[toHome (1 - bank)] = x.z.mgt.banks[toHome (1 - bank)] := by
  have d := cmdDone_only (onZmc (takenSys x m 0x0202) (fun z _ => firstPart z bank k data)) m 0 [] bank 0
    (onZmc (takenSys x m 0x0202) (fun z _ => firstPart z bank k data)).z.mgt.mbx[m].argDg
  have banks := tz.mgt_banks.trans d.banks
  refine ⟨d.answered (by decide) tz, tz.mgt_imgEnd.trans d.imgEnd, tz.mgt_active.trans d.active, ?_, ?_⟩
  · rw [banks]
    exact modV_same ..
  · rw [banks]
    refine modV_other _ _ _ _ ?_
    rcases bit with e | e <;> rw [e] <;> decide

end

end Sys2Proof.Machine

/-! SUPPORT. The statement about images, transitions and policies. -/

namespace Sys2Proof.Proofs
open Sys2Proof.Machine

/-- Settles O26: the first part of an image replaces what the inactive bank held, the Maker's transition becomes work, and policies are stored. -/
theorem installerStoresAndTransitions : Obligations.InstallerStoresAndTransitions := by
  unfold Obligations.InstallerStoresAndTransitions
  intro s n m hu z now b k bank policy stored
  subst stored policy bank k b now z
  have hu' : closedUp (before s n).z = false := by simpa [before] using hu
  have stores {i : Instr} {f : Sys → Sys} {op : Nat} {ws : List Word} (e : exec i s = cmd s n (ifUp f)) (runs : f (before s n) = setPolicy (takenSys (before s n) m op) m op ws) :
      ∃ t, exec i s = .next t ∧ Answered t m 0 ∧ t.sys.z.mgt.pol = tblPut (before s n).z.mgt.pol op ws ∧ t.sys.z.rg.pend = (before s n).z.rg.pend := by
    refine gives_all e (fun t _ tz _ _ => ?_)
    rw [ifUp_run hu', runs] at tz
    have d := setPolicy_only (m := m) (takenSys (before s n) m op) op ws
    exact ⟨d.answered (by decide) tz, tz.mgt_pol.trans d.pol, tz.rg_pend.trans d.pend⟩
  refine ⟨fun ht hl hm h4 h48 hk hf ho hlst hb hh => ?_, fun ht hl hm hf hd hp hh => ?_, fun ⟨ht, hl, hm, hs⟩ hf hp => ?_,
    fun ⟨ht, hl, hm, hs⟩ hf ha h60 h85 => ?_, fun ⟨ht, hl, hm, hs⟩ hf => ?_⟩
  · refine gives_all (exec_imageWrite ..) (fun t _ tz _ _ => ?_)
    have args : imgArgs (before s n).z.mgt.mbx[m] = (0, (before s n).z.mgt.mbx[m].arg 3 5 0, false, (before s n).z.mgt.mbx[m].arg 3 12 12) := by
      unfold imgArgs
      rw [ho, hlst]
      rfl
    rw [ifUp_run hu', cmdImageWrite_runs ht hl hm h4 h48 hk hf args hb hh] at tz
    exact firstPart_answered (arg_bank _) tz
  · have m3 : m = 3 := Fin.ext hm
    refine gives_cmd (exec_lcTransition ..) ?_
    have tz := closeCmd_only (before s n) (ifUp (fun x => cmdLcTransition x m) (before s n))
    have d := cmdAccept_only ht .lifeCycle 1 1
    rw [ifUp_run hu', cmdLcTransition_runs ht hl m3 hf hd hp hh] at tz ⊢
    exact ⟨d.answered (by decide) tz, tz.mgt_jobs.trans d.jobs, tz.boot.trans d.boot, rfl⟩
  · exact stores (exec_trainPolicy ..) (cmdTrainPolicy_runs ht hl hm hs hf hp)
  · exact stores (exec_thermalPolicy ..) (cmdThermalPolicy_runs ht hl hm hs hf ha h60 h85)
  · exact stores (exec_repairPolicy ..) (cmdRepairPolicy_runs ht hl hm hs hf)

end Sys2Proof.Proofs

/-! SUPPORT. A SET that Potrie issues over several islands and drains at once (R38, R40, R398). -/

namespace Sys2Proof.Machine

/-! ### Pending values -/

theorem filter_tblPut_same {t : Tbl Word} {a : Nat} (h : t.filter (fun p => p.1 == a) = []) (v : Word) : (tblPut t a v).filter (fun p => p.1 == a) = [(a, v)] := by
  induction t with
  | nil => simp [tblPut]
  | cons p t ih =>
    obtain ⟨k, w⟩ := p
    have hk : ¬ ((k == a) = true) := fun e => by rw [List.filter_cons, if_pos e] at h; cases h
    rw [List.filter_cons, if_neg hk] at h
    have ka : a ≠ k := fun e => hk (by simp [e])
    unfold tblPut
    rw [if_neg ka]
    split
    · rw [List.filter_cons, if_pos (by simp), List.filter_cons, if_neg hk, h]
    · rw [List.filter_cons, if_neg hk, ih h]

theorem filter_tblPut_ne {a b : Nat} (h : b ≠ a) (t : Tbl Word) (v : Word) : (tblPut t b v).filter (fun p => p.1 == a) = t.filter (fun p => p.1 == a) := by
  have hb : ¬ ((b == a) = true) := by simp [h]
  induction t with
  | nil => simp [tblPut, h]
  | cons p t ih =>
    obtain ⟨k, w⟩ := p
    unfold tblPut
    split
    · rw [List.filter_cons, if_neg hb]
    · split
      case isTrue e => subst e; rw [List.filter_cons, if_neg hb, List.filter_cons, if_neg hb]
      case isFalse => rw [List.filter_cons, ih, List.filter_cons]

theorem filter_foldl_tblPut_none {a : Nat} (ws : List (Nat × Word)) (h : ∀ p ∈ ws, p.1 ≠ a) (t : Tbl Word) :
    (ws.foldl (fun t p => tblPut t p.1 p.2) t).filter (fun p => p.1 == a) = t.filter (fun p => p.1 == a) := by
  induction ws generalizing t with
  | nil => rfl
  | cons p ws ih => rw [List.foldl_cons, ih (fun q hq => h q (List.mem_cons_of_mem _ hq)), filter_tblPut_ne (h p List.mem_cons_self)]

/-- Of distinct words put into a table that has none of them, each stands there once. -/
theorem filter_foldl_tblPut {p : Nat × Word} (ws : List (Nat × Word)) (nd : (ws.map Prod.fst).Nodup) (hp : p ∈ ws) {t : Tbl Word}
    (h : t.filter (fun q => q.1 == p.1) = []) : (ws.foldl (fun t p => tblPut t p.1 p.2) t).filter (fun q => q.1 == p.1) = [p] := by
  induction ws generalizing t with
  | nil => cases hp
  | cons q ws ih =>
    rw [List.map_cons, List.nodup_cons] at nd
    obtain ⟨hq, nd⟩ := nd
    rw [List.foldl_cons]
    rcases List.mem_cons.1 hp with e | hp
    · subst e
      rw [filter_foldl_tblPut_none ws (fun r hr e => hq (List.mem_map.2 ⟨r, hr, e⟩)), filter_tblPut_same h]
    · refine ih nd hp ?_
      rw [filter_tblPut_ne (fun e => hq (List.mem_map.2 ⟨p, hp, e.symm⟩)), h]

/-- The block with pending values put. -/
def pendAll (z : Zmc) (ws : List (Nat × Word)) : Zmc := ws.foldl (fun z p => pendPut z p.1 p.2) z

theorem pendAll_pend (z : Zmc) (ws : List (Nat × Word)) : (pendAll z ws).rg.pend = ws.foldl (fun t p => tblPut t p.1 p.2) z.rg.pend := by
  unfold pendAll
  induction ws generalizing z with
  | nil => rfl
  | cons p ws ih => rw [List.foldl_cons, ih]; rfl

theorem pendAll_field {β : Type} (g : Zmc → β) (hg : ∀ z off v, g (pendPut z off v) = g z) (z : Zmc) (ws : List (Nat × Word)) : g (pendAll z ws) = g z :=
  foldl_field (f := fun z (p : Nat × Word) => pendPut z p.1 p.2) g (fun _ _ => hg _ _ _) ws z

theorem wordAt_pendAll (z : Zmc) (ws : List (Nat × Word)) (a : Nat) : wordAt (pendAll z ws) a = wordAt z a := by
  unfold wordAt
  rw [pendAll_field (fun z => z.rg.reg) (fun _ _ _ => rfl) z ws]

/-! ### Islands that apply one after the other -/

theorem applyIsl_setu (x : Sys) (i : Nat) : (applyIsl x i).z.setu = { x.z.setu with named := x.z.setu.named.filter (fun k => k != i) } := by
  have hs : (putSnap (islWords x.z i) x.z).setu = x.z.setu := putSnap_field Zmc.setu (fun _ _ _ => rfl) _ _
  exact (applyIsl_kept x i).setu.trans rfl

theorem applyIsl_word (x : Sys) (i a : Nat) : wordAt (applyIsl x i).z a = wordAt (putSnap (islWords x.z i) x.z) a := by
  unfold wordAt
  rw [(applyIsl_kept x i).rg]
  rfl

/-- The words of a snapshot that one island takes from one register. -/
theorem islWords_at {z : Zmc} {a : Nat} (hp : patWord a = false) (i : Nat) :
    (islWords z i).filter (fun p => p.1 == a) = if ownerOf a = i then z.setu.snap.filter (fun p => p.1 == a) else [] := by
  unfold islWords
  rw [List.filter_filter]
  split
  case isTrue ho =>
    refine List.filter_congr (fun p _ => ?_)
    by_cases hpa : p.1 = a
    · simp [hpa, ho, hp]
    · simp [hpa]
  case isFalse ho =>
    rw [List.filter_eq_nil_iff]
    intro p _ e
    simp only [Bool.and_eq_true, beq_iff_eq] at e
    obtain ⟨rfl, e, -⟩ := e
    exact ho e

/-- Each island takes the one word that the snapshot holds of a register of its own. -/
theorem foldl_applyIsl_word {a : Nat} {w : Word} (hp : patWord a = false) (l : List Nat) (nd : l.Nodup) (x : Sys) (h : x.z.setu.snap.filter (fun p => p.1 == a) = [(a, w)]) :
    wordAt (l.foldl applyIsl x).z a = if ownerOf a ∈ l then bufMerge (wordAt x.z a) w a else wordAt x.z a := by
  induction l generalizing x with
  | nil => simp
  | cons i l ih =>
    obtain ⟨hi, nd⟩ := List.nodup_cons.1 nd
    have snap : (applyIsl x i).z.setu.snap.filter (fun p => p.1 == a) = [(a, w)] := by rw [applyIsl_setu]; exact h
    have words := islWords_at (z := x.z) hp i
    rw [List.foldl_cons, ih nd _ snap, applyIsl_word]
    by_cases ho : ownerOf a = i
    · rw [if_pos ho, h] at words
      rw [wordAt_putSnap words, if_neg (by rw [ho]; exact hi), if_pos (by rw [ho]; exact List.mem_cons_self)]
    · rw [if_neg ho] at words
      rw [wordAt_putSnap_none words]
      simp [ho]

/-- The block when Potrie's SET over the powered islands of a mask is over. -/
structure SetOver (x : Sys) (mask : Nat) (y : Sys) : Prop where
  busy : y.z.setu.busy = false
  word : ∀ a w, x.z.rg.pend.filter (fun p => p.1 == a) = [(a, w)] → ownerOf a ∈ maskIsl x.z mask → patWord a = false →
    a ≠ zmcBase + 0x10 → a ≠ zmcBase + 0x18 → wordAt y.z a = bufMerge (wordAt x.z a) w a

theorem maskIsl_congr {a b : Zmc} (hc : b.cinfo = a.cinfo) (hb : b.boot = a.boot) (mask : Nat) : maskIsl b mask = maskIsl a mask := by
  unfold maskIsl
  refine List.filter_congr (fun i _ => ?_)
  simp only [islPowered, powered, hc, hb]

theorem setFinish_z (x : Sys) : (setFinish x).z = post { x.z with setu := { x.z.setu with busy := false, named := [], snap := [] } } x.now (zmcBase + 0x18) 0 := rfl

theorem potSetNow_over {x : Sys} {mask : Nat} (src : Nat) (hb : x.z.setu.busy = false) (h0 : mask ≠ 0) (hm : mask < 2 ^ 25)
    (hf : firstFail x (maskIsl x.z mask) = none) : (potSetNow x src mask).2 = true ∧ SetOver x mask (potSetNow x src mask).1 := by
  have hmask : (BitVec.ofNat 32 mask).toNat % 2 ^ 25 = mask := by
    rw [BitVec.toNat_ofNat, Nat.mod_eq_of_lt (show mask < 2 ^ 32 by omega), Nat.mod_eq_of_lt hm]
  have hw : setWrite x 0 src (BitVec.ofNat 32 mask) = setAccept x 0 src mask (maskIsl x.z mask) := by
    rw [setWrite_accepted 0 src hb (by rw [hmask]; exact h0) (by rw [hmask]; exact hf), hmask]
  unfold potSetNow
  dsimp only
  rw [setDrain_idle hb, hw]
  have hs := setAccept_setu x 0 src mask (maskIsl x.z mask)
  have hword (a : Nat) (h : a ≠ zmcBase + 0x10) : wordAt (setAccept x 0 src mask (maskIsl x.z mask)).z a = wordAt x.z a := by
    unfold setAccept
    rw [onZmc_z]
    dsimp only
    rw [wordAt_audit]
    exact wordAt_put_ne _ _ h
  have hi : maskIsl (setAccept x 0 src mask (maskIsl x.z mask)).z mask = maskIsl x.z mask :=
    maskIsl_congr (by simp [setAccept, putWord]) (by simp [setAccept, putWord]) mask
  generalize setAccept x 0 src mask (maskIsl x.z mask) = y at *
  have left : setLeft y.z = maskIsl x.z mask := by
    unfold setLeft
    rw [hs, ← hi]
    refine List.filter_eq_self.2 (fun i h => ?_)
    unfold maskIsl at h
    rw [List.mem_filter, Bool.and_eq_true] at h
    exact h.2.2
  have e : setDrain y = setFinish ((maskIsl x.z mask).foldl applyIsl y) := by
    unfold setDrain
    rw [if_pos (by rw [hs]), left]
  refine ⟨by rw [hs], ?_, fun a w hp ho hpat h10 h18 => ?_⟩
  · rw [e, setFinish_z, post_setu]
  · rw [e, setFinish_z, wordAt_post_ne _ _ _ h18]
    have snap : y.z.setu.snap.filter (fun p => p.1 == a) = [(a, w)] := by
      rw [hs, ← hp, List.filter_filter]
      refine List.filter_congr (fun p _ => ?_)
      by_cases hpa : p.1 = a
      · simp [hpa, ho]
      · simp [hpa]
    have nd : (maskIsl x.z mask).Nodup := List.Nodup.filter _ List.nodup_range
    have took := foldl_applyIsl_word hpat (maskIsl x.z mask) nd y snap
    rw [if_pos ho, hword a h10] at took
    exact took

/-! ### Masks -/

/-- A mask built from an increasing list of islands names exactly these. -/
theorem foldl_pow_testBit (l : List Nat) (hl : l.Pairwise (· < ·)) (a : Nat) (ha : ∀ i ∈ l, a < 2 ^ i) (k : Nat) :
    (l.foldl (fun a i => a + 2 ^ i) a).testBit k = (a.testBit k || l.contains k) := by
  induction l generalizing a with
  | nil => simp
  | cons i l ih =>
    obtain ⟨hi, hl⟩ := List.pairwise_cons.1 hl
    have hai := ha i List.mem_cons_self
    have small (j : Nat) (hj : j ∈ l) : a + 2 ^ i < 2 ^ j := by
      have := Nat.pow_le_pow_right (n := 2) (by decide) (hi j hj)
      rw [Nat.pow_succ] at this
      omega
    rw [List.foldl_cons, ih hl _ small]
    have bit : (a + 2 ^ i).testBit k = (a.testBit k || i == k) := by
      have or := Nat.two_pow_add_eq_or_of_lt hai 1
      rw [Nat.mul_one] at or
      rw [Nat.add_comm, or, Nat.testBit_or, Nat.testBit_two_pow, Bool.or_comm]
      congr 1
    rw [bit, List.contains_cons, Bool.or_assoc, Bool.beq_comm]

theorem foldl_pow_lt (l : List Nat) (hl : l.Pairwise (· < ·)) (a n : Nat) (ha : ∀ i ∈ l, a < 2 ^ i) (hn : ∀ i ∈ l, i < n) (han : a < 2 ^ n) :
    l.foldl (fun a i => a + 2 ^ i) a < 2 ^ n := by
  refine Nat.lt_of_testBit n ?_ (by simp) ?_
  · rw [foldl_pow_testBit l hl a ha, Nat.testBit_lt_two_pow han]
    simpa using fun h => Nat.lt_irrefl _ (hn n h)
  · intro j hj
    rw [foldl_pow_testBit l hl a ha, Nat.testBit_lt_two_pow (Nat.lt_trans han (Nat.pow_lt_pow_right (by decide) hj)), Nat.testBit_two_pow_of_ne (Nat.ne_of_lt hj)]
    simpa using fun h => absurd (hn j h) (by omega)

end Sys2Proof.Machine

/-! SUPPORT. The commands that put buffered words into force by a SET of Potrie's own (R398). -/

namespace Sys2Proof.Machine

theorem pendPut_mgt (z : Zmc) (g : Mgt) (off : Nat) (v : Word) : pendPut { z with mgt := g } off v = { pendPut z off v with mgt := g } := rfl

theorem pendAll_mgt (z : Zmc) (g : Mgt) (ws : List (Nat × Word)) : pendAll { z with mgt := g } ws = { pendAll z ws with mgt := g } := by
  unfold pendAll
  induction ws generalizing z with
  | nil => rfl
  | cons p ws ih => rw [List.foldl_cons, List.foldl_cons, pendPut_mgt, ih]

theorem firstFail_mgt (x : Sys) (z : Zmc) (g : Mgt) (l : List Nat) : firstFail { x with z := { z with mgt := g } } l = firstFail { x with z := z } l := rfl

/-- A SET's checks do not see what a mailbox's service does. -/
theorem setPasses_taken {x : Sys} {ws : List (Nat × Word)} {isl : List Nat} (h : SetPasses x ws isl) (m : MbxId) (op : Nat) : SetPasses (takenSys x m op) ws isl := by
  obtain ⟨busy, each, pass⟩ := h
  refine ⟨busy, each, ?_⟩
  have e : takenZ x.z x.now m op = { x.z with mgt := (takenZ x.z x.now m op).mgt } := rfl
  have all := pendAll_mgt x.z (takenZ x.z x.now m op).mgt ws
  rw [← e] at all
  unfold pendAll at all
  show firstFail { x with z := ws.foldl (fun z p => pendPut z p.1 p.2) (takenZ x.z x.now m op) } _ = none
  rw [all, firstFail_mgt]
  exact pass

structure PlainWord (a : Nat) : Prop where
  pat : patWord a = false
  mask : a ≠ zmcBase + 0x10
  sts : a ≠ zmcBase + 0x18
  ref : a ≠ zmcBase + 0x218
  mbx : ∀ m : MbxId, a ≠ mbxSts m.val

/-- The mask of a list of islands. -/
def islMask (isl : List Nat) : Nat := isl.foldl (fun a i => a + 2 ^ i) 0

theorem islMask_testBit {isl : List Nat} (hs : isl.Pairwise (· < ·)) (k : Nat) : (islMask isl).testBit k = isl.contains k := by
  rw [islMask, foldl_pow_testBit isl hs 0 (fun i _ => Nat.two_pow_pos i), Nat.zero_testBit, Bool.false_or]

theorem mem_maskIsl {z : Zmc} {isl : List Nat} (hs : isl.Pairwise (· < ·)) {k : Nat} (hk : isl.contains k = true) (hp : islPowered z k = true) :
    k ∈ maskIsl z (islMask isl) := by
  unfold maskIsl
  rw [List.mem_filter, islMask_testBit hs, hk, hp]
  exact ⟨List.mem_range.2 (islPowered_lt hp), rfl⟩

/-- The buffered words `ws` are put into force over the islands `isl`. -/
structure BufOk (x : Sys) (ws : List (Nat × Word)) (isl : List Nat) : Prop where
  passes : SetPasses x ws isl
  sorted : isl.Pairwise (· < ·)
  lt : ∀ i ∈ isl, i < 25
  ne : isl ≠ []
  nodup : (ws.map Prod.fst).Nodup
  plain : ∀ p ∈ ws, PlainWord p.1

theorem bufCmd_over {x : Sys} {ws : List (Nat × Word)} {isl : List Nat} (h : BufOk x ws isl) (m : MbxId) (tg : Nat) (after : Sys → Sys) :
    ∃ y old new, bufCmd x m tg ws isl after = cmdDone (after y) m 0 [] tg old new ∧ y.z.setu.busy = false ∧
      ∀ p ∈ ws, wordAt y.z p.1 = bufMerge (wordAt x.z p.1) p.2 p.1 := by
  obtain ⟨⟨busy, each, pass⟩, sorted, lt, ne, nodup, plain⟩ := h
  have all : ws.filter (fun p => islPowered x.z (ownerOf p.1)) = ws := List.filter_eq_self.2 (fun p hp => (each p hp).1)
  have mask : islMask isl < 2 ^ 25 := foldl_pow_lt isl sorted 0 25 (fun i _ => Nat.two_pow_pos i) lt (by decide)
  have some : islMask isl ≠ 0 := by
    obtain ⟨i, hi⟩ := List.exists_mem_of_ne_nil isl ne
    intro e
    have t := islMask_testBit sorted i
    rw [e, Nat.zero_testBit, List.contains_iff_mem.2 hi] at t
    exact absurd t (by decide)
  have islands : maskIsl (pendAll x.z ws) (islMask isl) = maskIsl x.z (islMask isl) :=
    maskIsl_congr (pendAll_field Zmc.cinfo (fun _ _ _ => rfl) x.z ws) (pendAll_field Zmc.boot (fun _ _ _ => rfl) x.z ws) _
  obtain ⟨ok, done⟩ := potSetNow_over (x := { x with z := pendAll x.z ws }) (mask := islMask isl) m.val
    ((congrArg SetU.busy (pendAll_field Zmc.setu (fun _ _ _ => rfl) x.z ws)).trans busy) some mask (by rw [islands]; exact pass)
  have run : bufCmd x m tg ws isl after = cmdWrote (after (potSetNow { x with z := pendAll x.z ws } m.val (islMask isl)).1) m (ws.map Prod.fst)
      ((ws.map Prod.fst).map (wordAt x.z)) tg [] := by
    unfold bufCmd
    rw [all]
    exact if_pos ok
  refine ⟨_, _, _, run, done.busy, fun p hp => ?_⟩
  · have pl := plain p hp
    have free : x.z.rg.pend.filter (fun q => q.1 == p.1) = [] := List.filter_eq_nil_iff.2 (fun q hq e => (each p hp).2.2 q hq (beq_iff_eq.1 e))
    have w := done.word p.1 p.2 (by rw [pendAll_pend]; exact filter_foldl_tblPut ws nodup hp free)
      (by rw [islands]; exact mem_maskIsl sorted (each p hp).2.1 (each p hp).1) pl.pat pl.mask pl.sts
    rw [w, wordAt_pendAll]

/-- What the requester sees of words put into force. -/
theorem bufCmd_inForce {x : Sys} {ws : List (Nat × Word)} {isl : List Nat} {m : MbxId} {op : Nat} (h : BufOk (takenSys x m op) ws isl) (tg : Nat) {after : Sys → Sys}
    (rg : ∀ y, (after y).z.rg = y.z.rg) (setu : ∀ y, (after y).z.setu = y.z.setu) {t : State}
    (tz : CloseOnly (bufCmd (takenSys x m op) m tg ws isl after).z t.sys.z) : Answered t m 0 ∧ InForce x.z t ws ∧ t.sys.z.setu.busy = false := by
  obtain ⟨y, old, new, e, busy, words⟩ := bufCmd_over h m tg after
  rw [e] at tz
  have d := cmdDone_only (after y) m 0 [] tg old new
  refine ⟨d.answered (by decide) tz, fun p hp => ?_, ?_⟩
  · have pl := h.plain p hp
    have eq : wordAt (after y).z p.1 = wordAt y.z p.1 := by unfold wordAt; rw [rg]
    rw [tz.2 _ pl.ref, d.word _ (pl.mbx m), eq, words p hp]
    rfl
  · rw [tz.setu, d.setu, setu, busy]

end Sys2Proof.Machine

/-! SUPPORT. The build commands (R363, R366, R406, R243, R272, R138), each as one SET of its words. -/

namespace Sys2Proof.Machine

/-! ### Words that nothing else touches -/

theorem plain_zmc {a : Nat} (h : zmcBase + 0x218 < a) (hi : a < mbxBase) : PlainWord a := by
  have pat : patWord a = false := decide_eq_false (by unfold mbxBase at hi; omega)
  refine ⟨pat, by omega, by omega, by omega, fun m => ?_⟩
  unfold mbxSts
  omega

theorem plain_high {a : Nat} (h : mbxBase + 0x1000 ≤ a) (hb : a < 0x080000 ∨ 0x088000 ≤ a) : PlainWord a := by
  have pat : patWord a = false := decide_eq_false (by omega)
  refine ⟨pat, ?_, ?_, ?_, fun m => ?_⟩
  · unfold mbxBase at h; unfold zmcBase; omega
  · unfold mbxBase at h; unfold zmcBase; omega
  · unfold mbxBase at h; unfold zmcBase; omega
  · have := m.isLt
    unfold mbxSts
    omega

theorem plain_home {h : Nat} (hh : h < 2) {k : Nat} (hk : k < 0x8000) : PlainWord (homeBase h + k) :=
  plain_high (by unfold homeBase mbxBase; omega) (by unfold homeBase; omega)

theorem plain_crs (c : Nat) (k : Nat) : PlainWord (crsBase c + k) := plain_high (by unfold crsBase mbxBase; omega) (by unfold crsBase; omega)

section
variable {x : Sys} {m : MbxId}

/-- A command of the one mailbox `who`, at level 6, before the seal. -/
structure ByOne (x : Sys) (m : MbxId) (op who : Nat) : Prop where
  taken : Taken x.z m op
  lvl : LevelOk x.z m 6
  role : m.val = who
  unsealed : x.z.rg.sealed = false

/-! ### The words of each command -/

def setupWords (x : Sys) (m : MbxId) : List (Nat × Word) := [pendWith x.z (zmcBase + 0x0C00) 12 0 (x.z.mgt.mbx[m].arg 2 12 0)]

def rangeWords (x : Sys) (m : MbxId) : List (Nat × Word) :=
  (List.range 6).map (fun i => (zmcBase + 0x0C40 + 32 * x.z.mgt.mbx[m].arg 2 2 0 + 4 * i, x.z.mgt.mbx[m].wd (3 + i))) ++
    [pendWith x.z (zmcBase + 0x0C40 + 32 * x.z.mgt.mbx[m].arg 2 2 0 + 24) 1 0 (x.z.mgt.mbx[m].arg 2 3 3 + 2 * x.z.mgt.mbx[m].arg 2 4 4)]

def ilvBoth (x : Sys) (m : MbxId) : List (Nat × Word) := ilvWords x.z.mgt.mbx[m] 0 ++ ilvWords x.z.mgt.mbx[m] 1

/-- One bit of a register of each course named. -/
def maskWords (x : Sys) (m : MbxId) (o : Nat) : List (Nat × Word) :=
  (maskCrs (x.z.mgt.mbx[m].arg 2 15 0)).map (fun c => pendWith x.z (crsBase c + o) 0 0 (x.z.mgt.mbx[m].arg 2 16 16))

def holdHomes (b : Mbx) : List Nat := (List.range 2).filter (fun h => (b.arg 2 1 0).testBit h)

def holdWords (x : Sys) (m : MbxId) : List (Nat × Word) :=
  (holdHomes x.z.mgt.mbx[m]).map (fun h => pendWith x.z (homeBase h + 0x3000) 11 0 (x.z.mgt.mbx[m].arg 2 13 2))

theorem setup_ok (h : SetPasses x (setupWords x m) [19]) (op : Nat) : BufOk (takenSys x m op) (setupWords x m) [19] := by
  refine ⟨setPasses_taken h m op, by simp, by simp, by simp, by simp [setupWords], fun p hp => ?_⟩
  rw [List.mem_singleton.1 hp]
  exact plain_zmc (a := zmcBase + 0x0C00) (by decide) (by decide)

theorem arg_range (b : Mbx) : b.arg 2 2 0 < 8 := Nat.mod_lt _ (by decide)

theorem range_ok (h : SetPasses x (rangeWords x m) [19]) (op : Nat) : BufOk (takenSys x m op) (rangeWords x m) [19] := by
  have r8 := arg_range x.z.mgt.mbx[m]
  have offs : (rangeWords x m).map Prod.fst = (List.range 7).map (fun i => zmcBase + 0x0C40 + 32 * x.z.mgt.mbx[m].arg 2 2 0 + 4 * i) := rfl
  refine ⟨setPasses_taken h m op, by simp, by simp, by simp, ?_, fun p hp => ?_⟩
  · rw [offs]
    exact List.Nodup.map (fun a b e => by simpa using e) List.nodup_range
  · have hm := List.mem_map_of_mem (f := Prod.fst) hp
    rw [offs] at hm
    obtain ⟨i, hi, e⟩ := List.mem_map.1 hm
    rw [← e]
    have := List.mem_range.1 hi
    exact plain_zmc (by omega) (by unfold mbxBase zmcBase; omega)

theorem arg_region (b : Mbx) : b.arg 2 1 0 < 4 := Nat.mod_lt _ (by decide)

/-- The places of an interleave record's words. -/
def ilvPlaces : List Nat := [0, 0x08, 0x0C, 0x10, 0x14, 0x18, 0x1C, 0x20, 0x24]

theorem ilvWords_offs (b : Mbx) (h : Nat) : (ilvWords b h).map Prod.fst = ilvPlaces.map (fun o => homeBase h + 0x0100 + 0x40 * b.arg 2 1 0 + o) := rfl

theorem ilv_ok (h : SetPasses x (ilvBoth x m) [16, 17]) (op : Nat) : BufOk (takenSys x m op) (ilvBoth x m) [16, 17] := by
  have r4 := arg_region x.z.mgt.mbx[m]
  have small : ∀ o ∈ ilvPlaces, o < 0x40 := by decide
  have one (k : Nat) : ((ilvWords x.z.mgt.mbx[m] k).map Prod.fst).Nodup := by
    rw [ilvWords_offs]
    exact List.Nodup.map (fun a b e => by simpa using e) (by decide)
  have place {k a : Nat} (ha : a ∈ (ilvWords x.z.mgt.mbx[m] k).map Prod.fst) : ∃ o, o < 0x40 ∧ a = homeBase k + (0x0100 + 0x40 * x.z.mgt.mbx[m].arg 2 1 0 + o) := by
    rw [ilvWords_offs] at ha
    obtain ⟨o, ho, e⟩ := List.mem_map.1 ha
    exact ⟨o, small o ho, by omega⟩
  refine ⟨setPasses_taken h m op, by simp, by simp, by simp, ?_, fun p hp => ?_⟩
  · unfold ilvBoth
    rw [List.map_append, List.nodup_append]
    refine ⟨one 0, one 1, fun a ha b hb e => ?_⟩
    obtain ⟨o, ho, rfl⟩ := place ha
    obtain ⟨q, hq, e'⟩ := place hb
    rw [e'] at e
    unfold homeBase at e
    omega
  · unfold ilvBoth at hp
    rcases List.mem_append.1 hp with hp | hp
    · obtain ⟨o, ho, e⟩ := place (List.mem_map_of_mem (f := Prod.fst) hp)
      rw [e]
      exact plain_home (by decide) (by omega)
    · obtain ⟨o, ho, e⟩ := place (List.mem_map_of_mem (f := Prod.fst) hp)
      rw [e]
      exact plain_home (by decide) (by omega)

theorem maskCrs_sorted (mask : Nat) : (maskCrs mask).Pairwise (· < ·) := List.Pairwise.filter _ List.pairwise_lt_range

theorem mask_ok {o : Nat} (h : SetPasses x (maskWords x m o) (maskCrs (x.z.mgt.mbx[m].arg 2 15 0))) (ne : maskWords x m o ≠ []) (op : Nat) :
    BufOk (takenSys x m op) (maskWords x m o) (maskCrs (x.z.mgt.mbx[m].arg 2 15 0)) := by
  have sorted := maskCrs_sorted (x.z.mgt.mbx[m].arg 2 15 0)
  have offs : (maskWords x m o).map Prod.fst = (maskCrs (x.z.mgt.mbx[m].arg 2 15 0)).map (fun c => crsBase c + o) := by
    unfold maskWords
    rw [List.map_map]
    rfl
  refine ⟨setPasses_taken h m op, sorted, fun i hi => ?_, fun e => ne ?_, ?_, fun p hp => ?_⟩
  · unfold maskCrs at hi
    have := List.mem_range.1 (List.mem_of_mem_filter hi)
    omega
  · unfold maskWords
    rw [e]
    rfl
  · rw [offs]
    exact List.Nodup.map (fun a b e => by unfold crsBase at e; omega) (sorted.imp (fun h => Nat.ne_of_lt h))
  · have hm := List.mem_map_of_mem (f := Prod.fst) hp
    rw [offs] at hm
    obtain ⟨c, -, e⟩ := List.mem_map.1 hm
    rw [← e]
    exact plain_crs c o

/-! ### The commands -/

theorem cmdPairSetup_runs (h : ByOne x m 0x0205 2) (hf : frameOk x.z.mgt.mbx[m] [(2, lowMask 13)] = true) :
    cmdPairSetup x m = bufCmd (takenSys x m 0x0205) m 0x0C00 (setupWords x m) [19] (fun x => onZmc x (fun z now => sendHello (portPeer z now))) := by
  unfold cmdPairSetup
  dsimp only
  rw [command_runs h.taken h.lvl (by decide) _ _ rfl (role_one h.role) rfl (Or.inr h.unsealed) hf]
  rfl

theorem cmdPairRange_runs (h : ByOne x m 0x0206 2) (hf : frameOk x.z.mgt.mbx[m] ((2, lowMask 5) :: fullWords 3 6) = true) :
    cmdPairRange x m = bufCmd (takenSys x m 0x0206) m (x.z.mgt.mbx[m].arg 2 2 0) (rangeWords x m) [19] (fun x => x) := by
  unfold cmdPairRange
  rw [command_runs h.taken h.lvl (by decide) _ _ rfl (role_one h.role) rfl (Or.inr h.unsealed) hf]
  rfl

theorem cmdInterleave_runs (h : ByOne x m 0x0207 2) (hf : frameOk x.z.mgt.mbx[m] ((2, 0x00000F7F#32) :: fullWords 3 8) = true)
    (h1 : 1 ≤ x.z.mgt.mbx[m].arg 2 6 2) (h16 : x.z.mgt.mbx[m].arg 2 6 2 ≤ 16) (h8 : 8 ≤ x.z.mgt.mbx[m].arg 2 11 8) (h12 : x.z.mgt.mbx[m].arg 2 11 8 ≤ 12)
    (hp : x.z.boot.phase < 7) (hb : ilvTooBig x.z (ilvAsked x.z.mgt.mbx[m]) = false) :
    cmdInterleave x m = bufCmd (takenSys x m 0x0207) m (x.z.mgt.mbx[m].arg 2 1 0) (ilvBoth x m) [16, 17] (fun x => x) := by
  unfold cmdInterleave
  rw [command_runs h.taken h.lvl (by decide) _ _ rfl (role_one h.role) rfl (Or.inr h.unsealed) (and_true_intro hf (decide_eq_true ⟨h1, h16, h8, h12⟩))]
  have early : ¬ 7 ≤ (takenZ x.z x.now m 0x0207).boot.phase := not_le.2 hp
  have fits : ilvTooBig (takenZ x.z x.now m 0x0207) (ilvAsked (takenBox x.z.mgt.mbx[m] x.now)) = false := hb
  dsimp only
  rw [if_neg (fun e => early e.1), fits, if_neg (by decide)]
  rfl

theorem cmdEccMode_runs (h : ByOne x m 0x0208 2) (hf : frameOk x.z.mgt.mbx[m] [(2, lowMask 17)] = true)
    (hb : maskBad x.z (x.z.mgt.mbx[m].arg 2 15 0) = false) (hh : maskHeld x.z (x.z.mgt.mbx[m].arg 2 15 0) = false) :
    cmdEccMode x m = bufCmd (takenSys x m 0x0208) m (x.z.mgt.mbx[m].arg 2 15 0) (maskWords x m 0x1800) (maskCrs (x.z.mgt.mbx[m].arg 2 15 0)) (fun x => x) := by
  unfold cmdEccMode
  rw [command_runs h.taken h.lvl (by decide) _ _ rfl (role_one h.role) rfl (Or.inr h.unsealed) hf]
  have bad : maskBad (takenZ x.z x.now m 0x0208) (x.z.mgt.mbx[m].arg 2 15 0) = false := hb
  have free : maskHeld (takenZ x.z x.now m 0x0208) (x.z.mgt.mbx[m].arg 2 15 0) = false := hh
  dsimp only
  rw [arg_taken, bad, free, if_neg (by decide), if_neg (by decide)]
  rfl

theorem cmdFreshMode_runs (h : ByOne x m 0x0209 2) (hf : frameOk x.z.mgt.mbx[m] [(2, lowMask 17)] = true)
    (hb : maskBad x.z (x.z.mgt.mbx[m].arg 2 15 0) = false) (hh : maskHeld x.z (x.z.mgt.mbx[m].arg 2 15 0) = false) (hp : x.z.boot.phase < 7) :
    cmdFreshMode x m = bufCmd (takenSys x m 0x0209) m (x.z.mgt.mbx[m].arg 2 15 0) (maskWords x m 0x2000) (maskCrs (x.z.mgt.mbx[m].arg 2 15 0)) (fun x => x) := by
  unfold cmdFreshMode
  rw [command_runs h.taken h.lvl (by decide) _ _ rfl (role_one h.role) rfl (Or.inr h.unsealed) hf]
  have bad : maskBad (takenZ x.z x.now m 0x0209) (x.z.mgt.mbx[m].arg 2 15 0) = false := hb
  have free : maskHeld (takenZ x.z x.now m 0x0209) (x.z.mgt.mbx[m].arg 2 15 0) = false := hh
  have early : ((takenZ x.z x.now m 0x0209).boot.phase == 7) = false := beq_eq_false_iff_ne.2 (Nat.ne_of_lt hp)
  dsimp only
  rw [arg_taken, bad, free, early, if_neg (by decide), if_neg (by simp), if_neg (by decide)]
  rfl

end

end Sys2Proof.Machine

/-! SUPPORT. HOLD_SET (R138): a hold window of zero that the command itself allows, and the statement about the build commands. -/

namespace Sys2Proof.Machine

/-- The block with another list of homes whose hold window may be zero. -/
def withHold (z : Zmc) (hs : List Nat) : Zmc := { z with rg := { z.rg with holdOk := hs } }

/-- The block with the results of the checks given. -/
def withFails (z : Zmc) (l : List (Nat × Nat × Nat)) : Zmc :=
  { z with rg := { z.rg with fail := l.foldl (fun t p => tblStore 0 t (p.1 * 32 + p.2.1) p.2.2) z.rg.fail } }

/-- The block with a pending value whose checks have not been made. -/
def pended (z : Zmc) (off : Nat) (v : Word) : Zmc := { z with rg := { z.rg with pend := tblPut z.rg.pend off v } }

/-- The checks of a home's hold window. -/
def holdChecks (v : Word) (off : Nat) (named : Bool) : List (Nat × Nat × Nat) :=
  [(off, 0, if bitsOf v 11 0 = 0 ∧ !named then 2 else 0), (off, 14, ckZero (bitsOf v 21 14))]

theorem checksOf_hold {h : Nat} (hh : h < 2) (z : Zmc) :
    checksOf z (homeBase h + 0x3000) = holdChecks (pendWord z (homeBase h + 0x3000)) (homeBase h + 0x3000) (z.rg.holdOk.contains h) := by
  have blk : ∀ h : Fin 2, blockOf (homeBase h.val + 0x3000) = some (3, h.val, homeBase h.val) := by decide
  unfold checksOf
  rw [blk ⟨h, hh⟩]
  dsimp only
  rw [Nat.add_sub_cancel_left]
  rfl

/-- The check of a home's hold window sees of the list only whether it names that home. -/
theorem pendPut_withHold {a b : List Nat} {h : Nat} (hh : h < 2) (e : a.contains h = b.contains h) (z : Zmc) (v : Word) :
    pendPut (withHold z a) (homeBase h + 0x3000) v = withHold (pendPut (withHold z b) (homeBase h + 0x3000) v) a := by
  have same : checksOf (pended (withHold z a) (homeBase h + 0x3000) v) (homeBase h + 0x3000) =
      checksOf (pended (withHold z b) (homeBase h + 0x3000) v) (homeBase h + 0x3000) := by
    rw [checksOf_hold hh, checksOf_hold hh]
    exact congrArg (holdChecks _ _) e
  show withFails (pended (withHold z a) (homeBase h + 0x3000) v) (checksOf (pended (withHold z a) (homeBase h + 0x3000) v) (homeBase h + 0x3000)) =
    withHold (withFails (pended (withHold z b) (homeBase h + 0x3000) v) (checksOf (pended (withHold z b) (homeBase h + 0x3000) v) (homeBase h + 0x3000))) a
  rw [same]
  generalize checksOf _ _ = l
  rfl

/-- Pending values leave the list as it is. -/
theorem withHold_pendPut (z : Zmc) (b : List Nat) (off : Nat) (v : Word) : withHold (pendPut (withHold z b) off v) b = pendPut (withHold z b) off v := rfl

theorem pendAll_withHold {a b : List Nat} (hs : List Nat) (hh : ∀ h ∈ hs, h < 2 ∧ a.contains h = b.contains h) (z : Zmc) (f : Nat → Word) :
    pendAll (withHold z a) (hs.map (fun h => (homeBase h + 0x3000, f h))) = withHold (pendAll (withHold z b) (hs.map (fun h => (homeBase h + 0x3000, f h)))) a := by
  unfold pendAll
  induction hs generalizing z with
  | nil => rfl
  | cons h hs ih =>
    obtain ⟨h2, e⟩ := hh h List.mem_cons_self
    rw [List.map_cons, List.foldl_cons, List.foldl_cons]
    dsimp only
    rw [pendPut_withHold h2 e, ih (fun k hk => hh k (List.mem_cons_of_mem _ hk)), withHold_pendPut]

theorem islFails_withHold (x : Sys) (z : Zmc) (a : List Nat) {i : Nat} (hi : 16 ≤ i) : islFails { x with z := withHold z a } i = islFails { x with z := z } i := by
  unfold islFails resetFails acceptChecks
  rw [if_pos hi, if_pos hi, if_pos hi, if_pos hi]
  rfl

theorem firstFail_withHold (x : Sys) (z : Zmc) (a : List Nat) {l : List Nat} (hl : ∀ i ∈ l, 16 ≤ i) :
    firstFail { x with z := withHold z a } l = firstFail { x with z := z } l := by
  unfold firstFail
  induction l with
  | nil => rfl
  | cons i l ih =>
    rw [List.findSome?_cons, List.findSome?_cons, islFails_withHold x z a (hl i List.mem_cons_self), ih (fun k hk => hl k (List.mem_cons_of_mem _ hk))]

section
variable {x : Sys} {m : MbxId}

/-- The homes that may hold for no time while the command's SET is made. -/
def holdList (x : Sys) (m : MbxId) : List Nat :=
  holdHomes x.z.mgt.mbx[m] ++ x.z.rg.holdOk.filter (fun h => !(holdHomes x.z.mgt.mbx[m]).contains h)

theorem hold_ok (h : SetPasses { x with z := withHold x.z [0, 1] } (holdWords x m) [16, 17]) :
    BufOk (onZmc (takenSys x m 0x0304) (fun z _ => withHold z (holdList x m))) (holdWords x m) [16, 17] := by
  have two (k : Nat) (hk : k ∈ holdHomes x.z.mgt.mbx[m]) : k < 2 := List.mem_range.1 (List.mem_of_mem_filter hk)
  have named (k : Nat) (hk : k ∈ holdHomes x.z.mgt.mbx[m]) : (holdList x m).contains k = ([0, 1] : List Nat).contains k := by
    have h1 : (holdList x m).contains k = true := List.contains_iff_mem.2 (List.mem_append_left _ hk)
    have h2 : ([0, 1] : List Nat).contains k = true := by have := two k hk; simp; omega
    rw [h1, h2]
  have offs : (holdWords x m).map Prod.fst = (holdHomes x.z.mgt.mbx[m]).map (fun h => homeBase h + 0x3000) := by
    unfold holdWords
    rw [List.map_map]
    rfl
  obtain ⟨busy, each, pass⟩ := setPasses_taken h m 0x0304
  refine ⟨⟨busy, each, ?_⟩, by simp, by simp, by simp, ?_, fun p hp => ?_⟩
  · have all := pendAll_withHold (holdHomes x.z.mgt.mbx[m]) (fun k hk => ⟨two k hk, named k hk⟩) (takenZ x.z x.now m 0x0304)
      (fun h => setBits (pendWord x.z (homeBase h + 0x3000)) 11 0 (x.z.mgt.mbx[m].arg 2 13 2))
    have isl (z : Zmc) : ∀ i ∈ maskIsl z (islMask [16, 17]), 16 ≤ i := by
      intro i hi
      unfold maskIsl at hi
      rw [List.mem_filter, islMask_testBit (by simp)] at hi
      have c := hi.2
      simp at c
      omega
    show firstFail { x with z := pendAll (withHold (takenZ x.z x.now m 0x0304) (holdList x m)) (holdWords x m) } (maskIsl _ (islMask [16, 17])) = none
    have e := all
    change pendAll _ (holdWords x m) = withHold (pendAll _ (holdWords x m)) _ at e
    rw [e, firstFail_withHold _ _ _ (isl _)]
    exact pass
  · rw [offs]
    exact List.Nodup.map (fun a b e => by unfold homeBase at e; omega) (List.Nodup.filter _ List.nodup_range)
  · have hm := List.mem_map_of_mem (f := Prod.fst) hp
    rw [offs] at hm
    obtain ⟨k, hk, e⟩ := List.mem_map.1 hm
    rw [← e]
    exact plain_home (two k hk) (by decide)

theorem cmdHoldSet_runs (h : ByOne x m 0x0304 3) (hf : frameOk x.z.mgt.mbx[m] [(2, lowMask 14)] = true) (h0 : x.z.mgt.mbx[m].arg 2 1 0 ≠ 0) :
    cmdHoldSet x m =
      let y := bufCmd (onZmc (takenSys x m 0x0304) (fun z _ => withHold z (holdList x m))) m (x.z.mgt.mbx[m].arg 2 1 0) (holdWords x m) [16, 17] (fun x => x)
      if bitsOf y.z.mgt.mbx[m].rsp[(0 : Fin 16)] 31 24 = 0 then y else onZmc y (fun z _ => withHold z x.z.rg.holdOk) := by
  unfold cmdHoldSet
  rw [command_runs h.taken h.lvl (by decide) _ _ rfl (role_one h.role) rfl (Or.inr h.unsealed) hf]
  dsimp only
  rw [arg_taken, if_neg h0]
  rfl

end

end Sys2Proof.Machine

/-! SUPPORT. The statement about the build commands. -/

namespace Sys2Proof.Proofs
open Sys2Proof.Machine

/-- Settles O27: with no other pending value for its words and no failed check, each build command puts its words into force by one SET. -/
theorem buildCommandsApplyTheirWords : Obligations.BuildCommandsApplyTheirWords := by
  unfold Obligations.BuildCommandsApplyTheirWords
  intro s n m hu x z b by_ does r setup range ilv ecc fresh hold
  subst hold fresh ecc ilv range setup r does by_ b z x
  have hu' : closedUp (before s n).z = false := by simpa [before] using hu
  have applies {i : Instr} {f : Sys → Sys} {op tg : Nat} {ws : List (Nat × Word)} {isl : List Nat} (e : exec i s = cmd s n (ifUp f))
      (runs : f (before s n) = bufCmd (takenSys (before s n) m op) m tg ws isl (fun x => x)) (ok : BufOk (takenSys (before s n) m op) ws isl) :
      ∃ t, exec i s = .next t ∧ Answered t m 0 ∧ InForce (before s n).z t ws ∧ t.sys.z.setu.busy = false := by
    refine gives_all e (fun t _ tz _ _ => ?_)
    rw [ifUp_run hu', runs] at tz
    exact bufCmd_inForce ok tg (fun _ => rfl) (fun _ => rfl) tz
  refine ⟨fun ⟨ht, hl, hm, hs⟩ hf hp => ?_, fun ⟨ht, hl, hm, hs⟩ hf hp => ?_, fun ⟨ht, hl, hm, hs⟩ hf h1 h16 h8 h12 hph hb hp => ?_,
    fun ⟨ht, hl, hm, hs⟩ hf hb hh hp hne => ?_, fun ⟨ht, hl, hm, hs⟩ hf hb hh hph hp hne => ?_, fun ⟨ht, hl, hm, hs⟩ hf h0 hp => ?_⟩
  · refine gives_all (exec_pairSetup ..) (fun t _ tz _ _ => ?_)
    rw [ifUp_run hu', cmdPairSetup_runs ⟨ht, hl, hm, hs⟩ hf] at tz
    have hello (z : Zmc) : (sendHello z).rg = z.rg ∧ (sendHello z).setu = z.setu := by
      unfold sendHello
      split
      · dsimp only
        split
        · exact ⟨rfl, rfl⟩
        · exact ⟨rfl, rfl⟩
      · exact ⟨rfl, rfl⟩
    refine bufCmd_inForce (setup_ok hp 0x0205) 0x0C00 (fun y => ?_) (fun y => ?_) tz
    · rw [onZmc_z, (hello _).1, (portPeer_kept ..).rg]
    · rw [onZmc_z, (hello _).2, (portPeer_kept ..).setu]
  · exact applies (exec_pairRange ..) (cmdPairRange_runs ⟨ht, hl, hm, hs⟩ hf) (range_ok hp 0x0206)
  · exact applies (exec_interleave ..) (cmdInterleave_runs ⟨ht, hl, hm, hs⟩ hf h1 h16 h8 h12 hph hb) (ilv_ok hp 0x0207)
  · exact applies (exec_eccMode ..) (cmdEccMode_runs ⟨ht, hl, hm, hs⟩ hf hb hh) (mask_ok hp hne 0x0208)
  · exact applies (exec_freshMode ..) (cmdFreshMode_runs ⟨ht, hl, hm, hs⟩ hf hb hh hph) (mask_ok hp hne 0x0209)
  · refine gives_all (exec_holdSet ..) (fun t _ tz _ _ => ?_)
    rw [ifUp_run hu', cmdHoldSet_runs ⟨ht, hl, hm, hs⟩ hf h0] at tz
    obtain ⟨y, old, new, e, busy, words⟩ := bufCmd_over (hold_ok hp) m ((before s n).z.mgt.mbx[m].arg 2 1 0) (fun x => x)
    dsimp only at tz
    rw [e] at tz
    have d := cmdDone_only y m 0 [] ((before s n).z.mgt.mbx[m].arg 2 1 0) old new
    have ok : bitsOf (cmdDone y m 0 [] ((before s n).z.mgt.mbx[m].arg 2 1 0) old new).z.mgt.mbx[m].rsp[(0 : Fin 16)] 31 24 = 0 := by
      rw [d.box]
      exact rspFrame_status _ (by decide) _
    rw [if_pos ok] at tz
    refine ⟨d.answered (by decide) tz, fun p hp' => ?_, tz.setu ▸ d.setu ▸ busy⟩
    have pl := (hold_ok hp).plain p hp'
    rw [tz.2 _ pl.ref, d.word _ (pl.mbx m), words p hp']
    rfl

end Sys2Proof.Proofs

/-! SUPPORT. The commands over one course: fence, restore, re-test and its abort (R326, R337, R398). -/

namespace Sys2Proof.Machine

/-- An answer that a command's own end leaves in its mailbox. -/
theorem AnswerOnly.answered_kept {m : MbxId} {status tg : Nat} {res : List Word} {a b : Zmc} {t : State} (h : AnswerOnly m status res tg a b) (hs : status < 256)
    (kept : t.sys.z.mgt.mbx = b.mgt.mbx) : Answered t m status := by
  unfold Answered
  rw [kept, h.box]
  exact ⟨rfl, rspFrame_status _ hs _⟩

section
variable {x : Sys} {m : MbxId} {c : CourseId}

theorem cmdCourseFence_runs (ht : Taken x.z m 0x020D) (hl : LevelOk x.z m 6) (hm : m.val = 2) (hf : frameOk x.z.mgt.mbx[m] [(2, 0xF#32)] = true)
    (hc : x.z.mgt.mbx[m].arg 2 3 0 = c.val) (live : liveCrs x.z c = true) (free : held x.z (.course c.val) = false) :
    cmdCourseFence x m = onCrs (cmdAccept (takenSys x m 0x020D) m (.course c.val) c.val c.val) c (fun y => y.onInfo (fun i => { i with draining := true })) := by
  unfold cmdCourseFence
  rw [command_runs ht hl (by decide) _ _ rfl (role_one hm) rfl (Or.inl rfl) hf]
  have live' : liveCrs (takenZ x.z x.now m 0x020D) c = true := live
  have free' : held (takenZ x.z x.now m 0x020D) (.course c.val) = false := free
  dsimp only
  rw [arg_taken, hc, toCrs_val, live', free', if_neg (by decide), if_neg (by decide)]
  rfl

theorem cmdCourseRestore_runs (ht : Taken x.z m 0x020E) (hl : LevelOk x.z m 6) (hm : m.val = 2) (hf : frameOk x.z.mgt.mbx[m] [(2, 0xF#32)] = true)
    (hc : x.z.mgt.mbx[m].arg 2 3 0 = c.val) (there : present x.z.boot.variant c.val = true)
    (fence : x.z.cinfo[c].fence = 2 ∨ x.z.cinfo[c].fence = 3 ∨ x.z.cinfo[c].fence = 5) (free : held x.z (.course c.val) = false) :
    cmdCourseRestore x m = cmdAccept (takenSys x m 0x020E) m (.course c.val) c.val c.val := by
  unfold cmdCourseRestore
  rw [command_runs ht hl (by decide) _ _ rfl (role_one hm) rfl (Or.inl rfl) hf]
  have there' : present (takenZ x.z x.now m 0x020E).boot.variant c.val = true := there
  have fence' : (takenZ x.z x.now m 0x020E).cinfo[c].fence = x.z.cinfo[c].fence := rfl
  have free' : held (takenZ x.z x.now m 0x020E) (.course c.val) = false := free
  dsimp only
  simp only [arg_taken, hc, toCrs_val]
  rw [there', free', fence', if_neg (by simp only [reduceCtorEq, false_or]; omega), if_neg (by decide)]
  rfl

theorem cmdCourseRetest_runs (ht : Taken x.z m 0x0301) (hl : LevelOk x.z m 6) (hm : m.val = 3) (hf : frameOk x.z.mgt.mbx[m] [(2, 0xF#32)] = true)
    (hc : x.z.mgt.mbx[m].arg 2 3 0 = c.val) (lc : x.z.boot.lc = 0 ∨ x.z.boot.lc = 3) (there : present x.z.boot.variant c.val = true)
    (fence : x.z.cinfo[c].fence ≠ 1) (free : held x.z (.bist c.val) = false) :
    cmdCourseRetest x m = onZmc (cmdAccept (takenSys x m 0x0301) m (.bist c.val) c.val c.val)
      (fun z _ => { z with boot := { z.boot with rtCourse := c.val, rtState := 1 } }) := by
  have life : ((takeReq x.z x.now m).boot.lc == 0 || (takeReq x.z x.now m).boot.lc == 3) = true := by
    rw [Bool.or_eq_true, beq_iff_eq, beq_iff_eq]
    exact lc
  unfold cmdCourseRetest
  rw [command_runs ht hl (by decide) _ _ rfl (role_one hm) life (Or.inl rfl) hf]
  have there' : present (takenZ x.z x.now m 0x0301).boot.variant c.val = true := there
  have fence' : (takenZ x.z x.now m 0x0301).cinfo[c].fence = x.z.cinfo[c].fence := rfl
  have free' : held (takenZ x.z x.now m 0x0301) (.bist c.val) = false := free
  dsimp only
  simp only [arg_taken, hc, toCrs_val]
  rw [there', free', fence', if_neg (by simp only [reduceCtorEq, false_or]; exact fence), if_neg (by decide)]
  rfl

theorem cmdBistAbort_runs (ht : Taken x.z m 0x0302) (hl : LevelOk x.z m 6) (hm : m.val = 3) (hf : frameOk x.z.mgt.mbx[m] [] = true) (hr : x.z.boot.rtState = 2) :
    cmdBistAbort x m = retestAbort (cmdOk (takenSys x m 0x0302) m [] 0) := by
  unfold cmdBistAbort
  rw [command_runs ht hl (by decide) _ _ rfl (role_one hm) rfl (Or.inl rfl) hf]
  exact if_pos hr

/-! ### The abort of a re-test -/

theorem fenceCrs_mbx (y : Cx) (cause : Nat) : (fenceCrs y cause).z.mgt.mbx = y.z.mgt.mbx := by
  unfold fenceCrs
  split
  · rfl
  · have j := dropWork_jointOnly (y.onInfo (fun i => { i with fence := cause, draining := false }))
    refine (potPost_kept ..).mbx.trans ?_
    exact (congrArg (fun z : Zmc => z.mgt.mbx) (ptPause_z _)).trans (congrArg Mgt.mbx j.mgt)

theorem retestEnd_mbx (x : Sys) (status : Nat) : (retestEnd x status).z.mgt.mbx = x.z.mgt.mbx := by
  unfold retestEnd
  rw [onZmc_z]
  dsimp only
  split
  · exact (jobEnd_logOnly ..).mbx
  · rfl

theorem retestFail_mbx (x : Sys) (cause : Nat) : (retestFail x cause).z.mgt.mbx = x.z.mgt.mbx := by
  unfold retestFail
  exact (retestEnd_mbx ..).trans (fenceCrs_mbx ..)

theorem fenceCrs_boot (y : Cx) (cause : Nat) : (fenceCrs y cause).z.boot = y.z.boot := by
  by_cases h : y.info.fence = 0
  · exact (fenceCrs_fenced h cause).boot
  · unfold fenceCrs
    rw [if_pos h]

theorem retestFail_bist (x : Sys) (cause : Nat) : (retestFail x cause).z.boot.bist = x.z.boot.bist := by
  unfold retestFail
  dsimp only
  rw [retestEnd_boot]
  have k := congrArg (fun b : Boot => b.bist) (fenceCrs_boot ((cxOf x (toCrs x.z.boot.rtCourse)).onInfo (fun i => { i with fence := 0 })) cause)
  exact k

/-- A memory's record of a test that was aborted. -/
def abortPut (z : Zmc) (id : Nat) : Zmc :=
  { z with boot := { z.boot with bist := tblPut z.boot.bist id { result := 5, len := bistLen ((memWords id).getD 0) (bistBg z) } } }

theorem abortPut_mgt (z : Zmc) (id : Nat) : (abortPut z id).mgt = z.mgt := by simp [abortPut]

theorem foldl_abortPut (l : List Nat) (z : Zmc) (id : Nat) (h : id ∈ l ∨ (tblGet {} z.boot.bist id).result = 5) :
    (tblGet {} (l.foldl abortPut z).boot.bist id).result = 5 := by
  induction l generalizing z with
  | nil => exact h.resolve_left List.not_mem_nil
  | cons i l ih =>
    refine ih (abortPut z i) ?_
    by_cases e : id = i
    · exact Or.inr (by simp [abortPut, tblGet, e])
    · rcases h with h | h
      · exact Or.inl ((List.mem_cons.1 h).resolve_left e)
      · exact Or.inr (by simpa [abortPut, tblGet, tblFind_put_ne e] using h)

theorem retestAbort_aborted (h : x.z.boot.rtCourse = c.val) :
    (retestAbort x).z.boot.rtState = 0 ∧ (retestAbort x).z.cinfo[c].fence = 1 ∧ (∀ id ∈ crsMems c.val, (tblGet {} (retestAbort x).z.boot.bist id).result = 5) ∧
      (retestAbort x).z.mgt.mbx = x.z.mgt.mbx := by
  have e : retestAbort x = retestFail { x with z := (crsMems c.val).foldl abortPut x.z } 1 := by
    unfold retestAbort
    rw [h]
    rfl
  have course : ((crsMems c.val).foldl abortPut x.z).boot.rtCourse = c.val :=
    (foldl_field (f := abortPut) (fun z => z.boot.rtCourse) (fun _ _ => rfl) (crsMems c.val) x.z).trans h
  have mgt : ((crsMems c.val).foldl abortPut x.z).mgt = x.z.mgt := foldl_field (f := abortPut) Zmc.mgt abortPut_mgt (crsMems c.val) x.z
  have bist (id : Nat) (hid : id ∈ crsMems c.val) := foldl_abortPut (crsMems c.val) x.z id (Or.inl hid)
  rw [e]
  generalize (crsMems c.val).foldl abortPut x.z = z at *
  have f : RetestFailed c 1 { x with z := z } _ := retestFail_failed course 1
  refine ⟨f.state, f.fence, fun id hid => ?_, (retestFail_mbx ..).trans (congrArg Mgt.mbx mgt)⟩
  rw [retestFail_bist]
  exact bist id hid

end

end Sys2Proof.Machine

/-! SUPPORT. The statement about the commands over one course. -/

namespace Sys2Proof.Proofs
open Sys2Proof.Machine

/-- Settles O28: a fence and a restore are accepted and hold their course, a re-test begins to drain it, and an abort fences it. -/
theorem courseCommands : Obligations.CourseCommands := by
  unfold Obligations.CourseCommands
  intro s n m c hu z now b job named
  subst named job b now z
  have hu' : closedUp (before s n).z = false := by simpa [before] using hu
  refine ⟨fun ⟨ht, hl, hm, hf, hc⟩ live free => ?_, fun ⟨ht, hl, hm, hf, hc⟩ there fence free => ?_, fun ⟨ht, hl, hm, hf, hc⟩ lc there fence free => ?_,
    fun ht hl hm hf hr hc => ?_⟩
  · refine gives_all (exec_courseFence ..) (fun t _ tz _ _ => ?_)
    rw [ifUp_run hu', cmdCourseFence_runs ht hl hm hf hc live free] at tz
    have d := cmdAccept_only ht (.course c.val) c.val c.val
    refine ⟨d.answered_kept (by decide) tz.mgt_mbx, tz.mgt_jobs.trans d.jobs, ?_⟩
    rw [tz.cinfo]
    refine (modV_same ..).trans ?_
    exact congrArg (fun v : Vector CInfo 16 => { v[c] with draining := true }) d.cinfo
  · refine gives_all (exec_courseRestore ..) (fun t _ tz _ _ => ?_)
    rw [ifUp_run hu', cmdCourseRestore_runs ht hl hm hf hc there fence free] at tz
    have d := cmdAccept_only ht (.course c.val) c.val c.val
    exact ⟨d.answered (by decide) tz, tz.mgt_jobs.trans d.jobs, tz.cinfo.trans d.cinfo⟩
  · refine gives_all (exec_courseRetest ..) (fun t _ tz _ _ => ?_)
    rw [ifUp_run hu', cmdCourseRetest_runs ht hl hm hf hc lc there fence free] at tz
    have d := cmdAccept_only ht (.bist c.val) c.val c.val
    exact ⟨d.answered_kept (by decide) tz.mgt_mbx, tz.mgt_jobs.trans d.jobs, congrArg Boot.rtState tz.boot, congrArg Boot.rtCourse tz.boot⟩
  · refine gives_all (exec_bistAbort ..) (fun t _ tz _ _ => ?_)
    rw [ifUp_run hu', cmdBistAbort_runs ht hl hm hf hr] at tz
    have d := cmdDone_only (takenSys (before s n) m 0x0302) m 0 [] 0 0 (takenSys (before s n) m 0x0302).z.mgt.mbx[m].argDg
    obtain ⟨state, fenced, bist, mbx⟩ := retestAbort_aborted (x := cmdOk (takenSys (before s n) m 0x0302) m [] 0) (c := c) (congrArg Boot.rtCourse d.boot |>.trans hc)
    refine ⟨d.answered_kept (by decide) (tz.mgt_mbx.trans mbx), ?_, ?_, ?_⟩
    · rw [tz.boot, state]
    · rw [tz.cinfo, fenced]
    · rw [tz.boot]; exact bist

end Sys2Proof.Proofs

/-! SUPPORT. The debugger's and the partner's commands (R99, R371, R374, R377, R409). -/

namespace Sys2Proof.Machine

section
variable {x : Sys} {m : MbxId}

/-! ### The debugger -/

theorem cmdDbgTrace_runs (ht : Taken x.z m 0x0401) (hl : LevelOk x.z m 6) (hm : m.val = 4) (hf : frameOk x.z.mgt.mbx[m] [(2, lowMask 17)] = true) :
    ∃ old new, cmdDbgTrace x m = cmdDone (onZmc (takenSys x m 0x0401) (fun z _ => putWord z (secBase + 0x2040)
      (if x.z.mgt.mbx[m].arg 2 16 16 = 1 then wordAt x.z (secBase + 0x2040) ||| (x.z.mgt.mbx[m].wd 2 &&& 0xFFFF#32)
        else wordAt x.z (secBase + 0x2040) &&& ~~~(x.z.mgt.mbx[m].wd 2 &&& 0xFFFF#32)))) m 0 [] (x.z.mgt.mbx[m].arg 2 15 0) old new := by
  unfold cmdDbgTrace
  rw [command_runs ht hl (by decide) _ _ rfl (role_one hm) rfl (Or.inl rfl) hf]
  exact ⟨_, _, rfl⟩

/-- Each bay's pre-emption bit as the mask says. -/
def preempt (z : Zmc) (mask : Nat) (bs : List Nat) : Zmc := bs.foldl (fun z k => setF z (bayBase k + 0x10) 0 0 (bit (mask.testBit k))) z

theorem cmdDbgPreempt_runs (ht : Taken x.z m 0x0402) (hl : LevelOk x.z m 6) (hm : m.val = 4) (hd : x.z.dbg.level = 2) (hf : frameOk x.z.mgt.mbx[m] [(2, 0xFF#32)] = true)
    (hk : ∀ k, k < 8 → (x.z.mgt.mbx[m].arg 2 7 0).testBit k = true → k ∈ baysBacked x.z) :
    ∃ old new, cmdDbgPreempt x m = cmdDone (onZmc (takenSys x m 0x0402) (fun z _ => preempt z (x.z.mgt.mbx[m].arg 2 7 0) (baysBacked x.z))) m 0 []
      (x.z.mgt.mbx[m].arg 2 7 0) old new := by
  have level : ((takeReq x.z x.now m).dbg.level == 2) = true := beq_iff_eq.2 hd
  unfold cmdDbgPreempt
  rw [command_runs ht hl (by decide) _ _ rfl (role_one hm) level (Or.inl rfl) hf]
  have all : (List.range 8).any (fun k => (x.z.mgt.mbx[m].arg 2 7 0).testBit k && !(baysBacked x.z).contains k) = false := by
    rw [List.any_eq_false]
    intro k hr e
    rw [Bool.and_eq_true, Bool.not_eq_true'] at e
    have c := List.contains_iff_mem.2 (hk k (List.mem_range.1 hr) e.1)
    rw [c] at e
    exact absurd e.2 (by decide)
  exact ⟨_, _, (if_neg (Bool.eq_false_iff.1 all)).trans rfl⟩

theorem preempt_getF_other {bs : List Nat} {k : Nat} (h : k ∉ bs) (z : Zmc) (mask : Nat) :
    getF (preempt z mask bs) (bayBase k + 0x10) 0 0 = getF z (bayBase k + 0x10) 0 0 := by
  unfold preempt
  induction bs generalizing z with
  | nil => rfl
  | cons i bs ih =>
    rw [List.mem_cons, not_or] at h
    rw [List.foldl_cons, ih h.2]
    unfold getF
    rw [wordAt_setF_ne]
    unfold bayBase
    omega

theorem preempt_getF {bs : List Nat} (nd : bs.Nodup) {k : Nat} (h : k ∈ bs) (z : Zmc) (mask : Nat) :
    getF (preempt z mask bs) (bayBase k + 0x10) 0 0 = bit (mask.testBit k) := by
  induction bs generalizing z with
  | nil => cases h
  | cons i bs ih =>
    obtain ⟨hi, nd⟩ := List.nodup_cons.1 nd
    rcases List.mem_cons.1 h with e | h
    · subst e
      refine (preempt_getF_other hi _ mask).trans ?_
      rw [getF_setF _ _ _ (by decide) (by decide)]
      cases mask.testBit k <;> rfl
    · exact ih nd h _

/-! ### The partner's hello -/

/-- What ranges that are settled after a hello leave of the pair's state. -/
structure RunKept (a b : Zmc) : Prop where
  st : b.pair.st = a.pair.st
  lvl : b.pair.lvlRun = a.pair.lvlRun
  cinfo : b.cinfo = a.cinfo

namespace RunKept

theorem refl (a : Zmc) : RunKept a a := ⟨rfl, rfl, rfl⟩

theorem trans {a b c : Zmc} (h : RunKept a b) (k : RunKept b c) : RunKept a c := ⟨k.st.trans h.st, k.lvl.trans h.lvl, k.cinfo.trans h.cinfo⟩

theorem ite {p : Prop} [Decidable p] {a b c : Zmc} (h : RunKept a b) (k : RunKept a c) : RunKept a (if p then b else c) := by
  split
  · exact h
  · exact k

/-- A case that a block takes of two, in the whole system. -/
theorem sys {p : Prop} [Decidable p] {a : Zmc} {b c : Sys} (h : RunKept a b.z) (k : RunKept a c.z) : RunKept a (if p then b else c).z := by
  split
  · exact h
  · exact k

end RunKept

theorem potPost_run (z : Zmc) (now code island course : Nat) (d : List Word) : RunKept z (potPost z now code island course d) := by
  obtain ⟨_, _, _, _, _, _, _, _, _, _, e⟩ := logOnly_potPost z now code island course d
  rw [e]
  exact ⟨rfl, rfl, rfl⟩

theorem modMir_run (z : Zmc) (r : Nat) (f : Mir → Mir) : RunKept z (modMir z r f) := ⟨rfl, rfl, rfl⟩

theorem goSolo_run (z : Zmc) (r : Nat) : RunKept z (goSolo z r) := by
  unfold goSolo
  exact .ite ⟨rfl, rfl, rfl⟩ ⟨rfl, rfl, rfl⟩

theorem helloRange_run (y : Sys) (digs : List Word) (r : Nat) : RunKept y.z (helloRange y digs r).z := by
  have refl := RunKept.refl y.z
  unfold helloRange
  dsimp only
  refine .sys refl (.sys ?_ (.sys (.sys (modMir_run ..) refl) (.sys (.sys (modMir_run ..) (modMir_run ..)) (.sys (modMir_run ..) refl))))
  exact (RunKept.ite refl (goSolo_run ..)).trans (potPost_run ..)

theorem foldl_helloRange_run (digs : List Word) (l : List Nat) (y : Sys) : RunKept y.z (l.foldl (fun y r => helloRange y digs r) y).z := by
  induction l generalizing y with
  | nil => exact .refl y.z
  | cons r l ih => exact (helloRange_run y digs r).trans (ih _)

/-- The pair when the level that a hello agrees is in force. -/
def helloRun (z : Zmc) (now old hi pkg : Nat) : Zmc :=
  let z := { z with pair := { z.pair with lvlRun := hi } }
  let z := if hi = old then z else needBond (pairSts z now 5)
  let z := if z.pair.st = 2 then z else pairSts z now 0
  let z := if z.pair.st = 2 ∧ hi = old then z else potPost z now 0x50 18 255 [BitVec.ofNat 32 (hi + pkg * 256)]
  if z.pair.st = 4 then z else { z with pair := { z.pair with st := 2 } }

theorem helloRun_leaves (z : Zmc) (now old hi pkg : Nat) :
    (helloRun z now old hi pkg).pair.lvlRun = hi ∧ (z.pair.st ≠ 4 → (helloRun z now old hi pkg).pair.st = 2) ∧ (helloRun z now old hi pkg).cinfo = z.cinfo := by
  have sts (y : Zmc) (b : Nat) : RunKept y (pairSts y now b) := by
    unfold pairSts
    exact ⟨by rw [post_pair], by rw [post_pair], post_cinfo ..⟩
  have stsBond (y : Zmc) (b : Nat) : RunKept y (needBond (pairSts y now b)) := ⟨(sts y b).st, (sts y b).lvl, (sts y b).cinfo⟩
  unfold helloRun
  extract_lets p z1 z2 z3 z4
  have k2 : RunKept z1 z2 := .ite (.refl _) (stsBond z1 5)
  have k3 : RunKept z1 z3 := k2.trans (.ite (.refl _) (sts z2 0))
  have k4 : RunKept z1 z4 := k3.trans (.ite (.refl _) (potPost_run ..))
  by_cases h4 : z4.pair.st = 4
  · rw [if_pos h4]
    exact ⟨k4.lvl, fun h => absurd (k4.st.symm.trans h4) h, k4.cinfo⟩
  · rw [if_neg h4]
    exact ⟨k4.lvl, fun _ => rfl, k4.cinfo⟩

/-- The partner's hello is noted. -/
def helloHeard (y : Sys) (lmin lmax pkg : Nat) : Sys :=
  onZmc y (fun z _ => { z with pair := { z.pair with heard := tblPut z.pair.heard pkg (lmin, lmax), peerMin := lmin, peerMax := lmax } })

/-- The ranges of the partner that the hello is from are settled. -/
def helloEnd (y : Sys) (pkg : Nat) (digs : List Word) : Sys :=
  if quoin y.z ∧ pkg = getF y.z (zmcBase + 0x0C00) 7 5 then
    (List.range 8).foldl (fun x r => helloRange x digs r) { y with z := { y.z with pair := { y.z.pair with digs := digs } } }
  else y

theorem helloEnd_run (y : Sys) (pkg : Nat) (digs : List Word) : RunKept y.z (helloEnd y pkg digs).z := by
  unfold helloEnd
  refine .sys ?_ (.refl _)
  have k := foldl_helloRange_run digs (List.range 8) { y with z := { y.z with pair := { y.z.pair with digs := digs } } }
  exact ⟨k.st, k.lvl, k.cinfo⟩

theorem takeHello_eq (y : Sys) (lmin lmax pkg : Nat) (digs : List Word) : takeHello y lmin lmax pkg digs =
    if (pairLvl (helloHeard y lmin lmax pkg).z).1 < (pairLvl (helloHeard y lmin lmax pkg).z).2 then onZmc (helloHeard y lmin lmax pkg) splitPair
    else helloEnd (onZmc (helloHeard y lmin lmax pkg)
      (fun z now => helloRun z now (helloHeard y lmin lmax pkg).z.pair.lvlRun (pairLvl (helloHeard y lmin lmax pkg).z).1 pkg)) pkg digs := rfl

theorem pairLvl_first {y : Sys} (hh : y.z.pair.heard = []) (lmin lmax pkg : Nat) :
    pairLvl (helloHeard y lmin lmax pkg).z = (min (actBank y.z).lvlMax lmax, max (actBank y.z).lvlMin lmin) := by
  show (tblPut y.z.pair.heard pkg (lmin, lmax)).foldl _ _ = _
  rw [hh]
  rfl

theorem takeHello_agreed {y : Sys} (hh : y.z.pair.heard = []) {lmin lmax : Nat} (fits : max lmin (actBank y.z).lvlMin ≤ min lmax (actBank y.z).lvlMax)
    (pkg : Nat) (digs : List Word) : takeHello y lmin lmax pkg digs = helloEnd (onZmc (helloHeard y lmin lmax pkg)
      (fun z now => helloRun z now (helloHeard y lmin lmax pkg).z.pair.lvlRun (min lmax (actBank y.z).lvlMax) pkg)) pkg digs := by
  rw [takeHello_eq, pairLvl_first hh]
  dsimp only
  rw [if_neg (by rw [Nat.min_comm, Nat.max_comm]; omega), Nat.min_comm]

/-- What a hello that agrees a level leaves. -/
theorem takeHello_agrees {y : Sys} (hh : y.z.pair.heard = []) {lmin lmax : Nat} (fits : max lmin (actBank y.z).lvlMin ≤ min lmax (actBank y.z).lvlMax)
    (pkg : Nat) (digs : List Word) : (takeHello y lmin lmax pkg digs).z.pair.lvlRun = min lmax (actBank y.z).lvlMax ∧
      (y.z.pair.st ≠ 4 → (takeHello y lmin lmax pkg digs).z.pair.st = 2) ∧ (takeHello y lmin lmax pkg digs).z.cinfo = y.z.cinfo := by
  have heard : RunKept y.z (helloHeard y lmin lmax pkg).z := ⟨rfl, rfl, rfl⟩
  rw [takeHello_agreed hh fits]
  generalize min lmax (actBank y.z).lvlMax = hi
  generalize helloHeard y lmin lmax pkg = w at heard
  obtain ⟨run, st, cinfo⟩ := helloRun_leaves w.z w.now w.z.pair.lvlRun hi pkg
  have told := helloEnd_run (onZmc w (fun z now => helloRun z now w.z.pair.lvlRun hi pkg)) pkg digs
  rw [onZmc_z] at told
  exact ⟨told.lvl.trans run, fun h => told.st.trans (st (fun e => h (heard.st.symm.trans e))), told.cinfo.trans (cinfo.trans heard.cinfo)⟩

theorem cmdPairHello_runs (ht : Taken x.z m 0x0501) (hl : LevelOk x.z m 6) (hm : m.val = 5) (hf : frameOk x.z.mgt.mbx[m] ((2, lowMask 19) :: fullWords 3 8) = true) :
    ∃ me digs, cmdPairHello x m = cmdOk (takeHello (takenSys x m 0x0501) (x.z.mgt.mbx[m].arg 2 7 0) (x.z.mgt.mbx[m].arg 2 15 8) (x.z.mgt.mbx[m].arg 2 18 16) digs) m [me]
      (x.z.mgt.mbx[m].arg 2 18 16) := by
  unfold cmdPairHello
  rw [command_runs ht hl (by decide) _ _ rfl (role_one hm) rfl (Or.inl rfl) hf]
  exact ⟨_, _, rfl⟩

/-! ### The partner's notice -/

theorem cmdPeerNotice_runs (ht : Taken x.z m 0x0503) (hl : LevelOk x.z m 6) (hm : m.val = 5) (hf : frameOk x.z.mgt.mbx[m] [(2, 0xF#32)] = true)
    (hk : x.z.mgt.mbx[m].arg 2 3 0 = 2) : cmdPeerNotice x m = cmdOk (onZmc (takenSys x m 0x0503) (fun z _ => takeNotice z 2)) m [] 2 := by
  unfold cmdPeerNotice
  rw [command_runs ht hl (by decide) _ _ rfl (role_one hm) rfl (Or.inl rfl) (and_true_intro hf (decide_eq_true (by rw [arg_taken, hk]; decide)))]
  rw [arg_taken, hk]
  rfl

/-- A range that may go on after its partner's notice. -/
def rangeGoesOn (z : Zmc) (r : Nat) : Zmc :=
  if z.pair.mirs[toMir r].st = 2 then (if (mirOf z r).role = 0 then startResync z r false else modMir z r (fun m => { m with st := 1 })) else z

theorem rangeGoesOn_st (z : Zmc) {r : Nat} (h : z.pair.mirs[toMir r].st = 2) :
    (rangeGoesOn z r).pair.mirs[toMir r].st = if (mirOf z r).role = 0 then 4 else 1 := by
  unfold rangeGoesOn
  rw [if_pos h]
  split
  · exact congrArg Mir.st (modV_same ..)
  · exact congrArg Mir.st (modV_same ..)

theorem rangeGoesOn_other (z : Zmc) {r q : Nat} (h : toMir q ≠ toMir r) : (rangeGoesOn z r).pair.mirs[toMir q] = z.pair.mirs[toMir q] := by
  unfold rangeGoesOn
  split
  · split
    · exact modV_other _ _ _ _ (Ne.symm h)
    · exact modV_other _ _ _ _ (Ne.symm h)
  · rfl

theorem rangeGoesOn_kept (z : Zmc) (r : Nat) : (rangeGoesOn z r).rg = z.rg ∧ (rangeGoesOn z r).cinfo = z.cinfo := by
  unfold rangeGoesOn
  split
  · split
    · exact ⟨rfl, rfl⟩
    · exact ⟨rfl, rfl⟩
  · exact ⟨rfl, rfl⟩

theorem toMir_inj {q r : Nat} (hq : q < 8) (hr : r < 8) (h : toMir q = toMir r) : q = r := by
  have e := congrArg Fin.val h
  simpa [toMir, toFin, hq, hr] using e

theorem foldl_rangeGoesOn_other (l : List Nat) (hl : ∀ r ∈ l, r < 8) {q : Nat} (hq : q < 8) (hql : q ∉ l) (z : Zmc) :
    (l.foldl rangeGoesOn z).pair.mirs[toMir q] = z.pair.mirs[toMir q] := by
  induction l generalizing z with
  | nil => rfl
  | cons r l ih =>
    rw [List.mem_cons, not_or] at hql
    rw [List.foldl_cons, ih (fun k hk => hl k (List.mem_cons_of_mem _ hk)) hql.2]
    exact rangeGoesOn_other z (fun e => hql.1 (toMir_inj hq (hl r List.mem_cons_self) e))

theorem foldl_rangeGoesOn_st (l : List Nat) (nd : l.Nodup) (hl : ∀ r ∈ l, r < 8) (z : Zmc) {q : Nat} (hq : q < 8) (h : z.pair.mirs[toMir q].st = 2) :
    (l.foldl rangeGoesOn z).pair.mirs[toMir q].st = if q ∈ l then (if (mirOf z q).role = 0 then 4 else 1) else 2 := by
  induction l generalizing z with
  | nil => simpa using h
  | cons r l ih =>
    obtain ⟨hr, nd⟩ := List.nodup_cons.1 nd
    have hl' : ∀ k ∈ l, k < 8 := fun k hk => hl k (List.mem_cons_of_mem _ hk)
    rw [List.foldl_cons]
    by_cases e : q = r
    · subst e
      rw [foldl_rangeGoesOn_other l hl' hq hr, rangeGoesOn_st z h, if_pos List.mem_cons_self]
    · have st := rangeGoesOn_other z (fun k => e (toMir_inj hq (hl r List.mem_cons_self) k))
      have role : mirOf (rangeGoesOn z r) q = mirOf z q := by
        unfold mirOf
        refine congrArg (fun f => mirDesc f q) (funext fun a => ?_)
        unfold wordAt
        rw [(rangeGoesOn_kept z r).1]
      rw [ih nd hl' _ (by rw [st]; exact h), role]
      simp [e]

theorem takeNotice_goesOn {z : Zmc} (hf : z.pair.fault = none) : takeNotice z 2 = (List.range 8).foldl rangeGoesOn z := by
  unfold takeNotice
  rw [if_pos rfl, if_neg (by rw [hf]; decide)]
  rfl

end

end Sys2Proof.Machine

/-! SUPPORT. Clears of regions that a command begins (R270, R371), and the statement about these commands. -/

namespace Sys2Proof.Machine

theorem nodup_eraseDups (l : List Nat) : l.eraseDups.Nodup := by
  induction h : l.length using Nat.strong_induction_on generalizing l with
  | _ n ih =>
    cases l with
    | nil => simp
    | cons a l =>
      rw [List.eraseDups_cons, List.nodup_cons]
      refine ⟨fun e => ?_, ih (l.filter (fun b => !b == a)).length ?_ _ rfl⟩
      · rw [List.mem_eraseDups, List.mem_filter] at e
        simp at e
      · rw [← h, List.length_cons]
        exact Nat.lt_succ_of_le (List.length_filter_le ..)

/-- A request put into the clear joints of the courses given. -/
def clrQueue (z : Zmc) (r : ClrReq) (cs : List Nat) : Zmc := cs.foldl (fun z c => { z with jclr := modV z.jclr (toCrs c) (fun l => l ++ [r]) }) z

theorem toCrs_inj {a b : Nat} (ha : a < 16) (hb : b < 16) (h : toCrs a = toCrs b) : a = b := by
  have e := congrArg Fin.val h
  simpa [toCrs, toFin, ha, hb] using e

theorem clrQueue_jclr (r : ClrReq) (cs : List Nat) (nd : cs.Nodup) (hl : ∀ k ∈ cs, k < 16) (z : Zmc) (c : CourseId) :
    (clrQueue z r cs).jclr[c] = if c.val ∈ cs then z.jclr[c] ++ [r] else z.jclr[c] := by
  unfold clrQueue
  induction cs generalizing z with
  | nil => simp
  | cons k cs ih =>
    obtain ⟨hk, nd⟩ := List.nodup_cons.1 nd
    rw [List.foldl_cons, ih nd (fun q hq => hl q (List.mem_cons_of_mem _ hq))]
    by_cases e : c.val = k
    · subst e
      rw [if_neg hk, if_pos List.mem_cons_self, toCrs_val]
      exact modV_same ..
    · have other : (modV z.jclr (toCrs k) (fun l => l ++ [r]))[c] = z.jclr[c] :=
        modV_other _ _ _ _ (fun h => e (toCrs_inj (hl k List.mem_cons_self) c.isLt (h.trans (toCrs_val c).symm)).symm)
      rw [other]
      simp [e]

theorem clrQueue_field {β : Type} (g : Zmc → β) (hg : ∀ (z : Zmc) j, g { z with jclr := j } = g z) (z : Zmc) (r : ClrReq) (cs : List Nat) : g (clrQueue z r cs) = g z :=
  foldl_field (f := fun (z : Zmc) (c : Nat) => { z with jclr := modV z.jclr (toCrs c) (fun l => l ++ [r]) }) g (fun _ _ => hg _ _) cs z

/-- A clear that still waits for a course goes on. -/
theorem clearReached_waits {z : Zmc} {id : Nat} (h : ∀ k ∈ z.clrs, k.id = id → k.left ≠ []) (now : Nat) : clearReached z now id (fun k => k) = z := by
  have same : z.clrs.map (fun k => if k.id = id then k else k) = z.clrs := by simp
  have none : z.clrs.find? (fun k => k.id == id && k.left.isEmpty && !k.peer) = none := by
    rw [List.find?_eq_none]
    intro k hk e
    simp only [Bool.and_eq_true, beq_iff_eq, List.isEmpty_iff] at e
    exact h k hk e.1.1 e.1.2
  unfold clearReached
  dsimp only
  rw [same, none]

/-- What a clear that begins and needs no partner leaves. -/
theorem clrStart_begins {y : Sys} {m : MbxId} {i : Ilv} {lo sz : Nat} (hp : clrPeers y.z lo sz = []) (hc : ∀ c ∈ i.courses, c < 16 ∧ powered y.z (toCrs c) = true)
    (ne : i.courses ≠ []) (hid : ∀ k ∈ y.z.clrs, k.id ≠ y.z.clrNext) :
    (clrStart y m i lo sz).z.mgt = y.z.mgt ∧ (clrStart y m i lo sz).crs = y.crs ∧
      ∀ c : CourseId, c.val ∈ i.courses → (clrStart y m i lo sz).z.jclr[c] =
        y.z.jclr[c] ++ [⟨y.z.clrNext, (lo - i.base) / (max i.ways 1 * 2 ^ 22), (lo - i.base) / (max i.ways 1 * 2 ^ 22) + sz / (max i.ways 1 * 2 ^ 22)⟩] := by
  have cs : i.courses.eraseDups.filter (fun c => powered y.z (toCrs c)) = i.courses.eraseDups :=
    List.filter_eq_self.2 (fun c h => (hc c (List.mem_eraseDups.1 h)).2)
  have left : i.courses.eraseDups ≠ [] := by
    obtain ⟨c, h⟩ := List.exists_mem_of_ne_nil _ ne
    exact List.ne_nil_of_mem (List.mem_eraseDups.2 h)
  have e : ∃ k : ClrJob, k.left = i.courses.eraseDups ∧ (clrStart y m i lo sz).z =
      clearReached (clrQueue { y.z with clrs := y.z.clrs ++ [k], clrNext := y.z.clrNext + 1 }
        ⟨y.z.clrNext, (lo - i.base) / (max i.ways 1 * 2 ^ 22), (lo - i.base) / (max i.ways 1 * 2 ^ 22) + sz / (max i.ways 1 * 2 ^ 22)⟩ i.courses.eraseDups)
        y.now y.z.clrNext (fun k => k) := by
    unfold clrStart
    rw [onZmc_z]
    dsimp only
    rw [hp]
    dsimp only [List.foldl_nil]
    rw [cs]
    exact ⟨⟨y.z.clrNext, m, _, lo, sz, y.now, i.courses.eraseDups, _⟩, rfl, rfl⟩
  obtain ⟨k, hk, e⟩ := e
  generalize hr : (⟨y.z.clrNext, (lo - i.base) / (max i.ways 1 * 2 ^ 22), (lo - i.base) / (max i.ways 1 * 2 ^ 22) + sz / (max i.ways 1 * 2 ^ 22)⟩ : ClrReq) = r at e ⊢
  rw [clearReached_waits] at e
  · refine ⟨by rw [e]; exact clrQueue_field Zmc.mgt (fun _ _ => rfl) .., rfl, fun c h => ?_⟩
    rw [e, clrQueue_jclr r _ (nodup_eraseDups _) (fun k h => (hc k (List.mem_eraseDups.1 h)).1), if_pos (List.mem_eraseDups.2 h)]
  · intro q hq hqid
    rw [clrQueue_field Zmc.clrs (fun _ _ => rfl)] at hq
    rcases List.mem_append.1 hq with h | h
    · exact absurd hqid (hid q h)
    · rw [List.mem_singleton.1 h, hk]
      exact left

section
variable {x : Sys} {m : MbxId} {i : Ilv}

theorem clrRange_taken (b : Mbx) (now : Nat) : clrRange (takenBox b now) = clrRange b := rfl

theorem cmdPeerClear_runs {lo sz : Nat} (ht : Taken x.z m 0x0502) (hl : LevelOk x.z m 7) (hm : m.val = 5) (hf : frameOk x.z.mgt.mbx[m] (fullWords 2 4) = true)
    (hr : clrRange x.z.mgt.mbx[m] = (lo, sz)) (hi : clrRec x.z lo sz = some i) (hcopy : inCopy x.z lo sz = true) (free : clrBusy x.z lo sz = false) :
    cmdPeerClear x m = clrStart (takenSys x m 0x0502) m i lo sz := by
  have hi' (op : Nat) : clrRec (takenZ x.z x.now m op) lo sz = some i := hi
  have hi'' : (clrRec (takeReq x.z x.now m) lo sz).isSome = true := by
    rw [show clrRec (takeReq x.z x.now m) lo sz = some i from hi]
    rfl
  have copy' : inCopy (takenZ x.z x.now m 0x0502) lo sz = true := hcopy
  have free' : clrBusy (takenZ x.z x.now m 0x0502) lo sz = false := free
  unfold cmdPeerClear
  rw [command_runs (rules := fun x b => let r := clrRange b; ⟨[5], 7, true, false, frameOk b (fullWords 2 4) && (clrRec x.z r.1 r.2).isSome⟩) ht hl (by decide) _ _
    (by dsimp only; rw [clrRange_taken, hr]; rfl) (role_one hm) rfl (Or.inl rfl) (and_true_intro hf hi'')]
  dsimp only
  rw [clrRange_taken, hr]
  dsimp only
  rw [hi']
  dsimp only
  rw [copy', free', if_neg (by decide), if_neg (by decide)]
  rfl

/-- No range to clear at the partner, and so no partner to ask. -/
theorem clrPeers_nil {z : Zmc} {lo sz : Nat} (h : clrMirs z lo sz = []) : clrPeers z lo sz = [] := by
  unfold clrPeers
  rw [h]
  rfl

theorem cmdRegionClear_runs {lo sz : Nat} (ht : Taken x.z m 0x0101) (hl : LevelOk x.z m 6) (hm : m.val < 2) (hf : frameOk x.z.mgt.mbx[m] (fullWords 2 4) = true)
    (hr : clrRange x.z.mgt.mbx[m] = (lo, sz)) (hi : clrRec x.z lo sz = some i) (hmir : clrMirs x.z lo sz = []) (free : clrBusy x.z lo sz = false)
    (fresh : ∀ c ∈ i.courses, getF x.z (crsBase c + 0x2000) 0 0 = 1) : cmdRegionClear x m = clrStart (takenSys x m 0x0101) m i lo sz := by
  have posted : ¬ x.z.mgt.mbx[m].ph = .running := by
    obtain ⟨may, -⟩ := ht
    unfold mayTake at may
    simp only [Bool.and_eq_true, beq_iff_eq] at may
    rw [may.1.2]
    decide
  have hi' (op : Nat) : clrRec (takenZ x.z x.now m op) lo sz = some i := hi
  have hi'' : (clrRec (takeReq x.z x.now m) lo sz).isSome = true := by
    rw [show clrRec (takeReq x.z x.now m) lo sz = some i from hi]
    rfl
  have mirs' : clrMirs (takenZ x.z x.now m 0x0101) lo sz = [] := hmir
  have free' : clrBusy (takenZ x.z x.now m 0x0101) lo sz = false := free
  have fresh' : i.courses.any (fun c => getF (takenZ x.z x.now m 0x0101) (crsBase c + 0x2000) 0 0 == 0) = false := by
    rw [List.any_eq_false]
    intro c hc
    rw [show getF (takenZ x.z x.now m 0x0101) (crsBase c + 0x2000) 0 0 = 1 from fresh c hc]
    decide
  unfold cmdRegionClear
  dsimp only
  rw [if_neg (fun h => posted h.1)]
  rw [command_runs (rules := fun x b => let r := clrRange b; plainRules [0, 1] (frameOk b (fullWords 2 4) && (clrRec x.z r.1 r.2).isSome)) ht hl (by decide) _ _
    (by dsimp only; rw [clrRange_taken, hr]; rfl) (role_operator m hm) rfl (Or.inl rfl) (and_true_intro hf hi'')]
  dsimp only
  rw [clrRange_taken, hr]
  dsimp only
  rw [hi']
  dsimp only
  rw [fresh', mirs', free', if_neg (by decide), if_neg (by simp), if_neg (by decide)]
  rfl

theorem dbgTraceOk_sets {t : State} {w old new : Word} {res : List Word} {tg : Nat}
    (tz : CloseOnly (cmdDone (onZmc (takenSys x m 0x0401) (fun z _ => putWord z (secBase + 0x2040) w)) m 0 res tg old new).z t.sys.z) :
    Answered t m 0 ∧ wordAt t.sys.z (secBase + 0x2040) = w := by
  have d := cmdDone_only (onZmc (takenSys x m 0x0401) (fun z _ => putWord z (secBase + 0x2040) w)) m 0 res tg old new
  refine ⟨d.answered (by decide) tz, ?_⟩
  rw [tz.2 _ (by decide), d.word _ (mbxSts_ne_zmc m (by decide))]
  exact wordAt_put ..

theorem dbgPreemptOk_sets {t : State} {bs : List Nat} {mask tg : Nat} {old new : Word} {res : List Word} (nd : bs.Nodup)
    (tz : CloseOnly (cmdDone (onZmc (takenSys x m 0x0402) (fun z _ => preempt z mask bs)) m 0 res tg old new).z t.sys.z) :
    Answered t m 0 ∧ ∀ k, k ∈ bs → getF t.sys.z (bayBase k + 0x10) 0 0 = bit (mask.testBit k) := by
  have d := cmdDone_only (onZmc (takenSys x m 0x0402) (fun z _ => preempt z mask bs)) m 0 res tg old new
  refine ⟨d.answered (by decide) tz, fun k hk => ?_⟩
  rw [← preempt_getF nd hk (takenZ x.z x.now m 0x0402)]
  unfold getF
  rw [tz.2 _ (by unfold bayBase zmcBase; omega), d.word _ (mbxSts_ne_zmc m (by unfold bayBase mbxBase; omega))]
  rfl

theorem helloOk_agrees {y : Sys} {t : State} {info : Vector CInfo 16} {lmin lmax pkg : Nat} {digs me : List Word} (hh : y.z.pair.heard = [])
    (fits : max lmin (actBank y.z).lvlMin ≤ min lmax (actBank y.z).lvlMax) (hi : y.z.cinfo = info)
    (tz : CloseOnly (cmdOk (takeHello y lmin lmax pkg digs) m me pkg).z t.sys.z)
    (tp : (cmdOk (takeHello y lmin lmax pkg digs) m me pkg).z.cinfo = info → t.sys.z.pair = (cmdOk (takeHello y lmin lmax pkg digs) m me pkg).z.pair) :
    Answered t m 0 ∧ t.sys.z.pair.lvlRun = min lmax (actBank y.z).lvlMax ∧ (y.z.pair.st ≠ 4 → t.sys.z.pair.st = 2) := by
  obtain ⟨lvl, st, cinfo⟩ := takeHello_agrees hh fits pkg digs
  have d := cmdDone_only (takeHello y lmin lmax pkg digs) m 0 me pkg 0 (takeHello y lmin lmax pkg digs).z.mgt.mbx[m].argDg
  have pair := (tp (d.cinfo.trans (cinfo.trans hi))).trans d.pair
  refine ⟨d.answered (by decide) tz, ?_, fun h => ?_⟩
  · rw [pair]; exact lvl
  · rw [pair]; exact st h

/-- `helloOk_agrees` of a taken request, in the words of the state before it. -/
theorem helloTaken_agrees {t : State} {info : Vector CInfo 16} {lmin lmax pkg : Nat} {digs me : List Word} (hh : x.z.pair.heard = [])
    (fits : max lmin (actBank x.z).lvlMin ≤ min lmax (actBank x.z).lvlMax) (hi : x.z.cinfo = info)
    (tz : CloseOnly (cmdOk (takeHello (takenSys x m 0x0501) lmin lmax pkg digs) m me pkg).z t.sys.z)
    (tp : (cmdOk (takeHello (takenSys x m 0x0501) lmin lmax pkg digs) m me pkg).z.cinfo = info →
      t.sys.z.pair = (cmdOk (takeHello (takenSys x m 0x0501) lmin lmax pkg digs) m me pkg).z.pair) :
    Answered t m 0 ∧ t.sys.z.pair.lvlRun = min lmax (actBank x.z).lvlMax ∧ (x.z.pair.st ≠ 4 → t.sys.z.pair.st = 2) :=
  helloOk_agrees (y := takenSys x m 0x0501) hh fits hi tz tp

theorem noticeOk_goesOn {t : State} {info : Vector CInfo 16} (hf : x.z.pair.fault = none) (hi : x.z.cinfo = info)
    (tz : CloseOnly (cmdOk (onZmc (takenSys x m 0x0503) (fun z _ => takeNotice z 2)) m [] 2).z t.sys.z)
    (tp : (cmdOk (onZmc (takenSys x m 0x0503) (fun z _ => takeNotice z 2)) m [] 2).z.cinfo = info →
      t.sys.z.pair = (cmdOk (onZmc (takenSys x m 0x0503) (fun z _ => takeNotice z 2)) m [] 2).z.pair) :
    Answered t m 0 ∧ ∀ r, r < 8 → x.z.pair.mirs[toMir r].st = 2 → t.sys.z.pair.mirs[toMir r].st = if (mirOf x.z r).role = 0 then 4 else 1 := by
  have on : (onZmc (takenSys x m 0x0503) (fun z _ => takeNotice z 2)).z = (List.range 8).foldl rangeGoesOn (takenZ x.z x.now m 0x0503) := takeNotice_goesOn hf
  have goes {q : Nat} (hq : q < 8) := foldl_rangeGoesOn_st (List.range 8) List.nodup_range (fun r h => List.mem_range.1 h) (takenZ x.z x.now m 0x0503) hq
  have kept : ((List.range 8).foldl rangeGoesOn (takenZ x.z x.now m 0x0503)).cinfo = x.z.cinfo :=
    foldl_field (f := rangeGoesOn) Zmc.cinfo (fun z r => (rangeGoesOn_kept z r).2) (List.range 8) (takenZ x.z x.now m 0x0503)
  rw [← on] at goes kept
  generalize onZmc (takenSys x m 0x0503) (fun z _ => takeNotice z 2) = y at *
  have d := cmdDone_only y m 0 [] 2 0 y.z.mgt.mbx[m].argDg
  have pair := (tp (d.cinfo.trans (kept.trans hi))).trans d.pair
  refine ⟨d.answered (by decide) tz, fun r hr h => ?_⟩
  have st := goes hr h
  rw [if_pos (List.mem_range.2 hr)] at st
  rw [pair]
  exact st

end

end Sys2Proof.Machine

namespace Sys2Proof.Proofs
open Sys2Proof.Machine

/-- What the requester of a clear sees. -/
theorem clrStart_seen {x : Sys} {m : MbxId} {op : Nat} {i : Ilv} {lo sz : Nat} {t : State} (hp : clrPeers x.z lo sz = [])
    (hc : ∀ c ∈ i.courses, c < 16 ∧ powered x.z (toCrs c) = true) (ne : i.courses ≠ []) (hid : ∀ k ∈ x.z.clrs, k.id ≠ x.z.clrNext)
    (tc : t.sys.crs = (clrStart (takenSys x m op) m i lo sz).crs) (tz : CloseOnly (clrStart (takenSys x m op) m i lo sz).z t.sys.z) :
    t.sys.z.mgt.mbx[m].ph = .running ∧ (∀ c : CourseId, c.val ∈ i.courses → t.sys.z.jclr[c] =
      x.z.jclr[c] ++ [⟨x.z.clrNext, (lo - i.base) / (max i.ways 1 * 2 ^ 22), (lo - i.base) / (max i.ways 1 * 2 ^ 22) + sz / (max i.ways 1 * 2 ^ 22)⟩]) ∧ t.sys.crs = x.crs := by
  obtain ⟨mgt, crs, put⟩ := clrStart_begins (y := takenSys x m op) (m := m) hp hc ne hid
  refine ⟨?_, fun c h => ?_, tc.trans crs⟩
  · rw [tz.mgt_mbx, mgt, takenSys, takenZ_mbx]; rfl
  · rw [tz.jclr]; exact put c h

/-- Settles O29: the debugger's commands set their bits, a hello agrees a level, a clear puts one request to each course, and a notice lets ranges go on. -/
theorem debuggerPeerAndClearCommands : Obligations.DebuggerPeerAndClearCommands := by
  unfold Obligations.DebuggerPeerAndClearCommands
  intro s n m i hu x z b lo sz step first
  subst first step sz lo b z x
  have hu' : closedUp (before s n).z = false := by simpa [before] using hu
  refine ⟨fun ht hl hm hf => ?_, fun ht hl hm hd hf hk => ?_, fun ht hl hm hf hh fits => ?_, fun ht hl hm hf hi copy free hc ne hid hp => ?_,
    fun ht hl hm hf hk hfault => ?_, fun ht hl hm hf hi hmir free hc ne hid => ?_⟩
  · refine gives_all (exec_dbgTrace ..) (fun t _ tz _ _ => ?_)
    obtain ⟨old, new, e⟩ := cmdDbgTrace_runs ht hl hm hf
    rw [ifUp_run hu', e] at tz
    exact dbgTraceOk_sets tz
  · refine gives_all (exec_dbgPreempt ..) (fun t _ tz _ _ => ?_)
    obtain ⟨old, new, e⟩ := cmdDbgPreempt_runs ht hl hm hd hf hk
    rw [ifUp_run hu', e] at tz
    exact dbgPreemptOk_sets (List.Nodup.filter _ List.nodup_range) tz
  · refine gives_all (exec_pairHello ..) (fun t _ tz _ tp => ?_)
    obtain ⟨me, digs, e⟩ := cmdPairHello_runs ht hl hm hf
    rw [ifUp_run hu', e] at tz tp
    exact helloTaken_agrees hh fits (startAt_cinfo ..) tz tp
  · refine gives_all (exec_peerClear ..) (fun t tc tz _ _ => ?_)
    rw [ifUp_run hu', cmdPeerClear_runs ht hl hm hf rfl hi copy free] at tc tz
    exact clrStart_seen (x := before s n) (op := 0x0502) hp hc ne hid tc tz
  · refine gives_all (exec_peerNotice ..) (fun t _ tz _ tp => ?_)
    rw [ifUp_run hu', cmdPeerNotice_runs ht hl hm hf hk] at tz tp
    exact noticeOk_goesOn hfault (startAt_cinfo ..) tz tp
  · refine gives_all (exec_regionClear ..) (fun t tc tz _ _ => ?_)
    rw [ifUp_run hu', cmdRegionClear_runs ht hl hm hf rfl hi hmir free (fun c h => (hc c h).2.2)] at tc tz
    exact clrStart_seen (x := before s n) (op := 0x0101) (clrPeers_nil hmir) (fun c h => ⟨(hc c h).1, (hc c h).2.1⟩) ne hid tc tz

end Sys2Proof.Proofs

/-! SUPPORT. A fabric request joins its bay's queue (R102, R103, R407). -/

namespace Sys2Proof.Machine

section
variable {z : Zmc} {now : Nat} {r : FabReq}

/-- Where a request of a port with no copy range in its way goes. -/
def fabDest (z : Zmc) (r : FabReq) : Option (CourseId × Nat) := if trainCrosses r then none else decodeAddr z (bayHome r.bay) r.addr.toNat

def fabBay (z : Zmc) (r : FabReq) : BayId := match fabDest z r with | some (c, _) => bayOf c | none => r.bay

theorem fabricArrive_plain (hp : r.port.val < 20) (hm : mirFind z 1 r.addr.toNat = none) (now : Nat) : fabricArrive z now r =
    if !mayRequest z r.port (fabBay z r) then z
    else bayEnqueue (wakeHomes (police z now (bayHome r.bay) (fabBay z r) r).1) now (fabBay z r) r (police z now (bayHome r.bay) (fabBay z r) r).2 (fabDest z r) 0 false := by
  unfold fabricArrive
  rw [hm]
  have p20 : ¬ (r.port.val = 20 ∧ (!(findIlv z (bayHome r.bay) r.addr.toNat).isSome) = true) := fun h => by omega
  dsimp only
  rw [if_neg (show ¬ (Option.isSome (none : Option Nat) = true) by decide), if_neg p20]
  have dest : (if (0 : Nat) ≠ 0 ∨ trainCrosses r = true then none else decodeAddr z (bayHome r.bay) r.addr.toNat) = fabDest z r := by simp [fabDest]
  rw [dest]
  rfl

theorem police_none (hp : r.port.val < 20) {h : HomeId} (h0 : bitsOf (wordAt z (polReg h r.port)) 0 0 = 0) (h4 : bitsOf (wordAt z (polReg h r.port)) 4 4 = 0)
    (b : BayId) : police z now h b r = (z, r.cls) := by
  unfold police
  dsimp only
  rw [if_pos h0, h4, if_neg (by decide), if_neg (by omega)]

theorem bayEnqueue_bay (z : Zmc) (now : Nat) (b : BayId) (r : FabReq) (cls : Fin 4) (dest : Option (CourseId × Nat)) :
    ∃ q, (bayEnqueue z now b r cls dest 0 false).bays[b].q = z.bays[b].q ++ [q] ∧ q.port = r.port ∧ q.kind = r.kind ∧ q.addr = r.addr ∧ q.tag = r.tag ∧ q.data = r.data ∧
      q.lines = r.lines ∧ q.cls = cls ∧ q.dest = dest ∧ q.arr = now ∧ q.ent = true := by
  unfold bayEnqueue
  dsimp only
  refine ⟨_, congrArg BaySt.q (modV_same _ b _), rfl, rfl, rfl, rfl, rfl, rfl, rfl, rfl, rfl, rfl⟩

theorem bayEnqueue_other (z : Zmc) (now : Nat) {b d : BayId} (h : d ≠ b) (r : FabReq) (cls : Fin 4) (dest : Option (CourseId × Nat)) (xm : Nat) (mir : Bool) :
    (bayEnqueue z now b r cls dest xm mir).bays[d] = z.bays[d] := modV_other _ _ _ _ (Ne.symm h)

end

theorem wakeHomes_bays (z : Zmc) : (wakeHomes z).bays = z.bays := by
  unfold wakeHomes
  split
  · rfl
  · rfl

end Sys2Proof.Machine

/-! SUPPORT. The statement about fabric requests. -/

namespace Sys2Proof.Proofs
open Sys2Proof.Machine

/-- Settles O31: a request of an unpoliced port joins the queue of its bay, and a full queue takes nothing. -/
theorem requestsAreQueued : Obligations.RequestsAreQueued := by
  unfold Obligations.RequestsAreQueued
  intro s n r hwf hr z now h ctl dest b hp hm
  have hr' : homesRun (before s n).z = true := by simpa [before] using hr
  have run : exec (.fabricRequest n r) s = cmd s n (ifHome (fun z now => fabricArrive z now r)) := (exec_fabricRequest n r s).trans (if_pos hwf)
  refine ⟨fun may h0 h4 => gives_all run (fun t _ tz _ _ => ?_), fun full => gives_all run (fun t _ tz _ _ => ?_)⟩
  · have may' : mayRequest (before s n).z r.port (fabBay (before s n).z r) = true := may
    rw [ifHome_run hr', fabricArrive_plain hp hm] at tz
    dsimp only at tz
    rw [if_neg (by rw [may']; decide), police_none hp h0 h4] at tz
    obtain ⟨q, hq, rest⟩ := bayEnqueue_bay (wakeHomes (before s n).z) (before s n).now (fabBay (before s n).z r) r r.cls (fabDest (before s n).z r)
    refine ⟨⟨q, ?_, rest⟩, fun d hd => ?_⟩
    · rw [tz.bays]
      exact hq.trans (by rw [wakeHomes_bays]; rfl)
    · rw [tz.bays]
      have hd' : d ≠ fabBay (before s n).z r := hd
      exact (bayEnqueue_other _ _ hd' ..).trans (by rw [wakeHomes_bays])
  · have full' : mayRequest (before s n).z r.port (fabBay (before s n).z r) = false := full
    rw [ifHome_run hr', fabricArrive_plain hp hm] at tz
    dsimp only at tz
    rw [if_pos (by rw [full']; rfl)] at tz
    exact ⟨tz.bays, tz.homes⟩

end Sys2Proof.Proofs

/-! SUPPORT. A bay that holds one read (R88 to R91), and the swap of a Pattern table (R94, R95). -/

namespace Sys2Proof.Machine

theorem findSome?_only {α β : Type} {f : α → Option β} {a : α} {b : β} (h : f a = some b) (l : List α) (ha : a ∈ l) (others : ∀ x ∈ l, x ≠ a → f x = none) :
    l.findSome? f = some b := by
  induction l with
  | nil => cases ha
  | cons x l ih =>
    rw [List.findSome?_cons]
    by_cases e : x = a
    · rw [e, h]
    · rw [others x List.mem_cons_self e]
      exact ih ((List.mem_cons.1 ha).resolve_left (Ne.symm e)) (fun y hy => others y (List.mem_cons_of_mem _ hy))

theorem filterMap_only {α β : Type} {f : α → Option β} {a : α} {b : β} (h : f a = some b) (l : List α) (nd : l.Nodup) (ha : a ∈ l) (others : ∀ x ∈ l, x ≠ a → f x = none) :
    l.filterMap f = [b] := by
  induction l with
  | nil => cases ha
  | cons x l ih =>
    obtain ⟨hx, nd⟩ := List.nodup_cons.1 nd
    by_cases e : x = a
    · have rest : l.filterMap f = [] := by
        rw [List.filterMap_eq_nil_iff]
        exact fun y hy => others y (List.mem_cons_of_mem _ hy) (fun k => hx (e ▸ k ▸ hy))
      rw [e, List.filterMap_cons_some h, rest]
    · rw [List.filterMap_cons_none (others x List.mem_cons_self e)]
      exact ih nd ((List.mem_cons.1 ha).resolve_left (Ne.symm e)) (fun y hy => others y (List.mem_cons_of_mem _ hy))

/-! ### What one request presents -/

theorem headsOf_one (r : QReq) : headsOf [r] r.port r.cls = [r] := by
  have own : [r].filter (fun x => x.port == r.port && x.cls == r.cls) = [r] := by simp
  unfold headsOf
  dsimp only
  rw [own]
  split
  · exact filterMap_only (a := r.stream.val) (by simp) _ List.nodup_range (List.mem_range.2 r.stream.isLt) (fun s _ h => by simp [Ne.symm h])
  · rfl

theorem headsOf_none {r : QReq} {p : PortId} {c : Fin 4} (h : p ≠ r.port ∨ c ≠ r.cls) : headsOf [r] p c = [] := by
  have none : [r].filter (fun x => x.port == p && x.cls == c) = [] := by
    rw [List.filter_eq_nil_iff]
    intro x hx e
    rw [List.mem_singleton.1 hx, Bool.and_eq_true, beq_iff_eq, beq_iff_eq] at e
    exact h.elim (fun k => k e.1.symm) (fun k => k e.2.symm)
  unfold headsOf
  dsimp only
  rw [none]
  split <;> simp

/-- A bay's one request is a head that waits, a read, alone and eligible. -/
structure LoneRead (z : Zmc) (b : BayId) (k : Nat) (r : QReq) : Prop where
  ran : z.bays[b].ran = none
  next : z.bays[b].next = none
  data : z.bays[b].data = []
  q : z.bays[b].q = [r]
  arr : fckCyc r.arr < k
  live : liveAtCyc z k r.port = true
  port : r.port.val ≠ 22
  lines : r.lines = 1
  read : isWr r.kind = false
  head : headOk z (bayHome b) k (k + 1) r = true
  room : crsRoom z r.dest false 1 = true

section
variable {z : Zmc} {b : BayId} {k : Nat} {r : QReq}

theorem sampleQ_lone (h : LoneRead z b k r) : sampleQ z b k = [r] := by
  unfold sampleQ
  rw [h.q]
  simp [h.arr]

theorem presented_lone (h : LoneRead z b k r) : presented z b k (k + 1) [r] r.port = some r := by
  unfold presented
  refine findSome?_only (a := r.cls) ?_ _ (by have := r.cls.isLt; revert this; generalize r.cls = c; fin_cases c <;> simp) (fun c _ hc => ?_)
  · rw [headsOf_one, List.filter_cons, if_pos h.head]
    rfl
  · rw [headsOf_none (Or.inr hc)]
    rfl

theorem presented_other (z : Zmc) (b : BayId) (n t : Nat) {p : PortId} (h : p ≠ r.port) : presented z b n t [r] p = none := by
  unfold presented
  rw [List.findSome?_eq_none_iff]
  intro c _
  rw [headsOf_none (Or.inl h)]
  rfl

theorem toPort_val (p : PortId) : toPort p.val = p := by simp [toPort, toFin]

theorem toPort_inj {i j : Nat} (hi : i < 24) (hj : j < 24) (h : toPort i = toPort j) : i = j := by
  have e := congrArg Fin.val h
  simpa [toPort, toFin, hi, hj] using e

theorem candidates_lone (h : LoneRead z b k r) : candidates z b k = [r] := by
  unfold candidates
  rw [sampleQ_lone h, h.data]
  dsimp only
  refine filterMap_only (a := r.port.val) ?_ _ List.nodup_range (List.mem_range.2 r.port.isLt) (fun i hi ne => ?_)
  · rw [toPort_val, h.live, if_neg (by simp), presented_lone h]
    dsimp only
    rw [h.read, h.lines, if_pos h.room]
  · have hp : toPort i ≠ r.port := fun e => ne (toPort_inj (List.mem_range.1 hi) r.port.isLt (e.trans (toPort_val r.port).symm))
    split
    · rfl
    · rw [presented_other _ _ _ _ hp]

theorem trainWork_single (h : r.lines ≤ 1) (z : Zmc) (now : Nat) (b : BayId) (n : Nat) : trainWork z now b n r = z := by
  unfold trainWork
  split
  · rfl
  · dsimp only
    rw [if_pos h]

theorem trainHeads_lone (h : LoneRead z b k r) (now : Nat) : trainHeads z now b k = z := by
  have heads (p : PortId) (c : Fin 4) : (headsOf (sampleQ z b k) p c).foldl (fun z r => trainWork z now b k r) z = z := by
    rw [sampleQ_lone h]
    by_cases e : p = r.port ∧ c = r.cls
    · rw [e.1, e.2, headsOf_one]
      exact trainWork_single (le_of_eq h.lines) ..
    · rw [headsOf_none (not_and_or.1 e)]
      rfl
  have classes (p : PortId) (l : List (Fin 4)) : l.foldl (fun z c => (headsOf (sampleQ z b k) p c).foldl (fun z r => trainWork z now b k r) z) z = z := by
    induction l with
    | nil => rfl
    | cons c l ih => rw [List.foldl_cons, heads, ih]
  have ports (l : List Nat) : l.foldl (fun z p =>
      ([0, 1, 2, 3] : List (Fin 4)).foldl (fun z c => (headsOf (sampleQ z b k) (toPort p) c).foldl (fun z r => trainWork z now b k r) z) z) z = z := by
    induction l with
    | nil => rfl
    | cons p l ih => rw [List.foldl_cons, classes, ih]
  exact ports _

theorem modBay_id {f : BaySt → BaySt} (h : f z.bays[b] = z.bays[b]) : modBay z b f = z := by
  have e : modV z.bays b f = z.bays := by
    unfold modV
    rw [h]
    simp
  unfold modBay
  rw [e]

theorem catchUp_lone (h : LoneRead z b k r) (now : Nat) : catchUp z now b k = z := by
  have kept : modBay z b (fun y => { y with data := y.data.filter (fun d => decide (k ≤ d.cyc)) }) = z := by
    refine modBay_id ?_
    rw [h.data]
    have e : z.bays[b] = { z.bays[b] with data := [] } := by rw [← h.data]
    exact e.symm
  unfold catchUp
  dsimp only
  rw [h.next, h.data]
  dsimp only
  rw [kept]
  rfl

/-! ### The decision -/

theorem chargeBkt_bays (z : Zmc) (h : HomeId) (i lines cyc : Nat) : (chargeBkt z h i lines cyc).1.bays = z.bays := by
  unfold chargeBkt
  dsimp only
  split
  · rfl
  · rfl

theorem takeFor_bays (z : Zmc) (r : QReq) : (takeFor z r).1.bays = z.bays := by
  unfold takeFor
  split
  · rfl
  · rfl

/-- A bay decided for the next cycle: its grant is set, its queue and its data cycles are left, and so are the other bays. -/
structure Decided (r : QReq) (k : Nat) (b : BayId) (a c : Zmc) : Prop where
  grant : ∃ g, c.bays[b].next = some g ∧ g.port = r.port ∧ g.rid = r.rid ∧ g.write = isWr r.kind ∧ g.cyc = k + 1
  q : c.bays[b].q = a.bays[b].q
  data : c.bays[b].data = a.bays[b].data
  others : ∀ d, d ≠ b → c.bays[d] = a.bays[d]

theorem decideFor_decided (z : Zmc) (b : BayId) (n : Nat) (r : QReq) : Decided r n b z (decideFor z b n r) := by
  have charged : (if follows z b n r.port then (z, (0 : Int)) else chargeBkt z (bayHome b) (4 * r.port.val + r.cls.val) r.lines n).1.bays = z.bays := by
    split
    · rfl
    · exact chargeBkt_bays ..
  unfold decideFor
  dsimp only
  generalize (if follows z b n r.port then (z, (0 : Int)) else chargeBkt z (bayHome b) (4 * r.port.val + r.cls.val) r.lines n) = c at *
  obtain ⟨y, chg⟩ := c
  have taken := (takeFor_bays y r).trans charged
  dsimp only
  generalize takeFor y r = t at *
  obtain ⟨w, took⟩ := t
  dsimp only at taken ⊢
  have here (f : BaySt → BaySt) (hq : ∀ y, (f y).q = y.q) (hd : ∀ y, (f y).data = y.data) (hn : ∃ g, (∀ y, (f y).next = some g) ∧ g.port = r.port ∧ g.rid = r.rid ∧
      g.write = isWr r.kind ∧ g.cyc = n + 1) : Decided r n b z (modBay w b f) := by
    obtain ⟨g, hg, rest⟩ := hn
    have own : (modBay w b f).bays[b] = f w.bays[b] := modV_same ..
    have same : w.bays[b] = z.bays[b] := congrArg (fun v : Vector BaySt 8 => v[b]) taken
    rw [same] at own
    exact ⟨⟨g, (congrArg BaySt.next own).trans (hg _), rest⟩, (congrArg BaySt.q own).trans (hq _), (congrArg BaySt.data own).trans (hd _),
      fun d hd => (modV_other _ _ _ _ (Ne.symm hd)).trans (congrArg (fun v : Vector BaySt 8 => v[d]) taken)⟩
  exact here _ (fun _ => rfl) (fun _ => rfl) ⟨_, fun _ => rfl, rfl, rfl, rfl, rfl⟩

theorem Decided.rr {a c : Zmc} (h : Decided r k b a c) (f : Vector (Fin 24) 8 → Vector (Fin 24) 8) : Decided r k b a (modBay c b (fun y => { y with rr := f y.rr })) := by
  obtain ⟨⟨g, hg, rest⟩, q, data, others⟩ := h
  have own : (modBay c b (fun y => { y with rr := f y.rr })).bays[b] = { c.bays[b] with rr := f c.bays[b].rr } := modV_same ..
  exact ⟨⟨g, (congrArg BaySt.next own).trans hg, rest⟩, (congrArg BaySt.q own).trans q, (congrArg BaySt.data own).trans data, fun d hd => (modV_other _ _ _ _ (Ne.symm hd)).trans (others d hd)⟩

theorem ranked_one (z : Zmc) (b : BayId) (r : QReq) : ∃ k, ranked z b [r] = some (r, k) := by
  unfold ranked
  have max : [r].foldl (fun m r => max m (some (rankOf z b r.port))) none = some (rankOf z b r.port) := by simp
  rw [max]
  dsimp only
  refine ⟨rankOf z b r.port, ?_⟩
  have own : [r].filter (fun x => rankOf z b x.port == rankOf z b r.port) = [r] := by simp
  rw [own]
  rfl

theorem decideGrant_lone (h : LoneRead z b k r) (now : Nat) : Decided r k b z (decideGrant z now b k) := by
  have noWrite (z : Zmc) (cs : List QReq) : wrExcluded z b k cs r = false := by
    unfold wrExcluded
    rw [h.read]
    rfl
  have p22 : [r].find? (fun r => r.port.val == 22) = none := by simp [h.port]
  have ex : [r].filter (wrExcluded z b k [r]) = [] := by simp [noWrite]
  have ok (z : Zmc) : [r].filter (fun x => !wrExcluded z b k [r] x) = [r] := by simp [noWrite]
  unfold decideGrant
  dsimp only
  rw [candidates_lone h, p22]
  have idle : (if mayPreempt z b k then (none : Option QReq) else none) = none := ite_self _
  rw [idle, h.next, h.data, ex]
  dsimp only
  rw [if_neg (by simp), ok]
  have bumped : (bumpN z now (bayBase b.val + 0x0108) 0 0).bays = z.bays := bumpN_bays ..
  generalize bumpN z now (bayBase b.val + 0x0108) 0 0 = y at *
  have seen {c : Zmc} (d : Decided r k b y c) : Decided r k b z c := by
    obtain ⟨g, q, data, others⟩ := d
    rw [bumped] at q data others
    exact ⟨g, q, data, others⟩
  show Decided r k b z (match [r].find? (fun r => r.port.val == slotOwner y b k (k + 1)) with
    | some r => decideFor y b k r
    | none => match ranked y b [r] with
      | some (r, k') => modBay (decideFor y b k r) b (fun y => { y with rr := modV y.rr (toFin 8 (by decide) k') (fun _ => toPort ((r.port.val + 1) % 24)) })
      | none => modBay y b (fun y => { y with next := none }))
  split
  case h_1 x hx =>
    have e : x = r := List.mem_singleton.1 (List.mem_of_find?_eq_some hx)
    rw [e]
    exact seen (decideFor_decided ..)
  case h_2 =>
    obtain ⟨i, hi⟩ := ranked_one y b r
    rw [hi]
    exact seen ((decideFor_decided y b k r).rr (fun v => modV v (toFin 8 (by decide) i) (fun _ => toPort ((r.port.val + 1) % 24))))

/-- A cycle of a bay whose one request is an eligible read: the read is decided for the next cycle and stays in the queue. -/
theorem bayCycle_lone {now : Nat} (h : LoneRead z b (fckCyc now) r) :
    (∃ g, (bayCycle z now b).bays[b].next = some g ∧ g.port = r.port ∧ g.rid = r.rid ∧ g.write = false ∧ g.cyc = fckCyc now + 1) ∧
      (bayCycle z now b).bays[b].q = [r] ∧ (bayCycle z now b).bays[b].ran = some (fckCyc now) ∧ ∀ d, d ≠ b → (bayCycle z now b).bays[d] = z.bays[d] := by
  unfold bayCycle
  dsimp only
  rw [h.ran]
  dsimp only
  rw [if_neg (by decide), catchUp_lone h, trainHeads_lone h, h.next]
  dsimp only
  obtain ⟨⟨g, hg, gport, grid, gwrite, gcyc⟩, q, data, others⟩ := decideGrant_lone h now
  generalize decideGrant z now b (fckCyc now) = y at *
  rw [data, h.data]
  dsimp only [List.filter_nil, List.foldl_nil]
  have own (f : BaySt → BaySt) : (modBay y b f).bays[b] = f y.bays[b] := modV_same ..
  rw [h.read] at gwrite
  refine ⟨⟨g, (congrArg BaySt.next (own _)).trans hg, gport, grid, gwrite, gcyc⟩, (congrArg BaySt.q (own _)).trans (q.trans h.q), congrArg BaySt.ran (own _), fun d hd => ?_⟩
  exact (modV_other _ _ _ _ (Ne.symm hd)).trans (others d hd)

theorem bayCycle_again {now : Nat} (h : z.bays[b].ran = some (fckCyc now)) : bayCycle z now b = z := by
  unfold bayCycle
  dsimp only
  rw [h]
  exact if_pos (decide_eq_true (le_refl _))

/-! ### Pattern tables -/

/-- The words of a Pattern table put in their registers. -/
def putPattern (z : Zmc) (b : BayId) (ws : List Word) : Zmc :=
  (List.range 16).foldl (fun z k => putWord z (bayBase b.val + 0x40 + 4 * k) (ws.getD k 0x1F1F1F1F)) z

theorem foldl_putWord_at {base : Nat} (f : Nat → Word) (l : List Nat) (nd : l.Nodup) (z : Zmc) (i : Nat) :
    wordAt (l.foldl (fun z k => putWord z (base + 4 * k) (f k)) z) (base + 4 * i) = if i ∈ l then f i else wordAt z (base + 4 * i) := by
  induction l generalizing z with
  | nil => simp
  | cons k l ih =>
    obtain ⟨hk, nd⟩ := List.nodup_cons.1 nd
    rw [List.foldl_cons, ih nd]
    by_cases e : i = k
    · rw [e, if_neg hk, if_pos List.mem_cons_self, wordAt_put]
    · rw [wordAt_put_ne _ _ (by omega)]
      simp [e]

theorem putPattern_word (z : Zmc) (b : BayId) (ws : List Word) {i : Nat} (hi : i < 16) :
    wordAt (putPattern z b ws) (bayBase b.val + 0x40 + 4 * i) = ws.getD i 0x1F1F1F1F := by
  unfold putPattern
  rw [foldl_putWord_at (fun k => ws.getD k 0x1F1F1F1F) _ List.nodup_range, if_pos (List.mem_range.2 hi)]

theorem putPattern_bays (z : Zmc) (b : BayId) (ws : List Word) : (putPattern z b ws).bays = z.bays :=
  foldl_field (f := fun z k => putWord z (bayBase b.val + 0x40 + 4 * k) (ws.getD k 0x1F1F1F1F)) Zmc.bays (fun _ _ => putWord_bays ..) _ _

/-- The armed table is active. -/
def tableTaken (y : BaySt) : BaySt := { y with armed := y.armed2, armed2 := none, patGen := y.patGen + 1 }

theorem patSwap_due {ws : List Word} {at_ now : Nat} (h : z.bays[b].armed = some (ws, at_)) (there : bayThere z b = true) (due : at_ + 2 ≤ fckCyc now / 64 * 64) :
    patSwap z now b = post (modBay (putPattern z b ws) b tableTaken) now (bayBase b.val + 0x18) 0 := by
  unfold patSwap
  dsimp only
  rw [h]
  exact if_pos ⟨there, due⟩

theorem swapped_bay (z : Zmc) (now : Nat) (b : BayId) (ws : List Word) :
    (post (modBay (putPattern z b ws) b tableTaken) now (bayBase b.val + 0x18) 0).bays[b] = tableTaken z.bays[b] := by
  have e : (post (modBay (putPattern z b ws) b tableTaken) now (bayBase b.val + 0x18) 0).bays = modV z.bays b tableTaken := by
    rw [post_bays]
    exact congrArg (fun v => modV v b tableTaken) (putPattern_bays ..)
  rw [e]
  exact modV_same ..

theorem wordAt_modBay (z : Zmc) (b : BayId) (f : BaySt → BaySt) (q : Nat) : wordAt (modBay z b f) q = wordAt z q := rfl

theorem swapped_word (z : Zmc) (now : Nat) (b : BayId) (ws : List Word) {i : Nat} (hi : i < 16) :
    wordAt (post (modBay (putPattern z b ws) b tableTaken) now (bayBase b.val + 0x18) 0) (bayBase b.val + 0x40 + 4 * i) = ws.getD i 0x1F1F1F1F := by
  have off : bayBase b.val + 0x40 + 4 * i ≠ bayBase b.val + 0x18 := by omega
  rw [wordAt_post_ne _ _ _ off, wordAt_modBay, putPattern_word z b ws hi]

theorem patSwap_early {ws : List Word} {at_ now : Nat} (h : z.bays[b].armed = some (ws, at_)) (early : bayThere z b = false ∨ fckCyc now / 64 * 64 < at_ + 2) :
    patSwap z now b = z := by
  unfold patSwap
  dsimp only
  rw [h]
  refine if_neg (fun ⟨there, due⟩ => ?_)
  rcases early with e | e
  · rw [e] at there
    exact absurd there (by decide)
  · omega

end

end Sys2Proof.Machine

/-! SUPPORT. The statement about the bays. -/

namespace Sys2Proof.Proofs
open Sys2Proof.Machine

/-- Settles O32: a lone eligible read is decided for the next cycle, a cycle runs once, and a Pattern table armed in time swaps as a whole. -/
theorem baysDecide : Obligations.BaysDecide := by
  unfold Obligations.BaysDecide
  refine ⟨?_, ?_⟩
  · intro s n b r hr z k hb
    have hr' : homesRun (before s n).z = true := by simpa [before] using hr
    refine ⟨fun ran next data q arr live port lines read head room => ?_, fun ran => ?_⟩
    · refine gives_all (exec_bayGrant ..) (fun t _ tz _ _ => ?_)
      rw [ifHome_run hr'] at tz
      unfold bayTick at tz
      dsimp only at tz
      rw [if_pos hb] at tz
      obtain ⟨grant, hq, hran, others⟩ := bayCycle_lone ⟨ran, next, data, q, arr, live, port, lines, read, head, room⟩
      rw [tz.bays]
      exact ⟨grant, hq, hran, others⟩
    · refine gives_all (exec_bayGrant ..) (fun t _ tz _ _ => ?_)
      rw [ifHome_run hr'] at tz
      unfold bayTick at tz
      dsimp only at tz
      rw [if_pos hb, bayCycle_again ran] at tz
      exact ⟨tz.bays, tz.homes, tz.jreq⟩
  · intro s n b ws at_ hr z k armed
    have hr' : homesRun (before s n).z = true := by simpa [before] using hr
    refine ⟨fun there due => ?_, fun early => ?_⟩
    · refine gives_all (exec_patternSwap ..) (fun t _ tz _ _ => ?_)
      rw [ifHome_run hr', patSwap_due armed there due] at tz
      have bay := swapped_bay (before s n).z (before s n).now b ws
      have words {i : Nat} (hi : i < 16) := swapped_word (before s n).z (before s n).now b ws hi
      generalize post (modBay _ _ _) _ _ _ = y at tz bay words
      rw [tz.bays]
      exact ⟨fun i hi => (tz.2 _ (by unfold bayBase zmcBase; omega)).trans (words hi), congrArg BaySt.armed bay, (congrArg BaySt.q bay).trans rfl,
        (congrArg BaySt.next bay).trans rfl⟩
    · refine gives_all (exec_patternSwap ..) (fun t _ tz _ _ => ?_)
      rw [ifHome_run hr', patSwap_early armed early] at tz
      exact ⟨fun i hi => tz.2 _ (by unfold bayBase zmcBase; omega), tz.bays⟩

end Sys2Proof.Proofs

/-! SUPPORT. The timers of a home: its buckets (R110, R112), its time (R120), its samples (R121) and its bandwidth windows (R351). -/

namespace Sys2Proof.Machine

/-- What one element of a fold does to its own place, where the others keep what it needs and what it leaves. -/
theorem foldl_at {α : Type} {R : Zmc → Zmc → Prop} {f : Zmc → α → Zmc} {a : α} (refl : ∀ z, R z z) (trans : ∀ x y z, R x y → R y z → R x z)
    (other : ∀ z b, b ≠ a → R z (f z b)) (l : List α) (nd : l.Nodup) (ha : a ∈ l) (z : Zmc) : ∃ y, R z y ∧ R (f y a) (l.foldl f z) := by
  have away : ∀ (l : List α) (z : Zmc), a ∉ l → R z (l.foldl f z) := by
    intro l
    induction l with
    | nil => exact fun z _ => refl z
    | cons b l ih =>
      intro z h
      rw [List.mem_cons, not_or] at h
      exact trans _ _ _ (other z b (Ne.symm h.1)) (ih _ h.2)
  induction l generalizing z with
  | nil => cases ha
  | cons b l ih =>
    obtain ⟨hb, nd⟩ := List.nodup_cons.1 nd
    rw [List.foldl_cons]
    by_cases e : b = a
    · exact ⟨z, refl z, e ▸ away l _ (e ▸ hb)⟩
    · obtain ⟨y, before, after⟩ := ih nd ((List.mem_cons.1 ha).resolve_left (Ne.symm e)) (f z b)
      exact ⟨y, trans _ _ _ (other z b e) before, after⟩

theorem foldl_field_mem {α β : Type} {f : Zmc → α → Zmc} (g : Zmc → β) (l : List α) (hf : ∀ z, ∀ a ∈ l, g (f z a) = g z) (z : Zmc) : g (l.foldl f z) = g z := by
  induction l generalizing z with
  | nil => rfl
  | cons a l ih =>
    rw [List.foldl_cons, ih (fun z b hb => hf z b (List.mem_cons_of_mem _ hb)), hf z a List.mem_cons_self]

theorem modHome_same (z : Zmc) (h : HomeId) (f : HomeSt → HomeSt) : (modHome z h f).homes[h] = f z.homes[h] := modV_same ..

theorem modHome_other (z : Zmc) {h d : HomeId} (f : HomeSt → HomeSt) (e : d ≠ h) : (modHome z h f).homes[d] = z.homes[d] := modV_other _ _ _ _ (Ne.symm e)

theorem putBkt_same (z : Zmc) (h : HomeId) (i : Nat) (b : Bucket) : bktOf (putBkt z h i b).homes[h] i = b := by
  unfold putBkt bktOf tblGet
  rw [modHome_same, tblFind_put_eq]
  rfl

/-! ### Buckets -/

section
variable {z y : Zmc} {h : HomeId} {i cyc : Nat} {b : Bucket}

theorem enterWheel_tok : (enterWheel z h b i cyc).tok = b.tok := by unfold enterWheel; split <;> rfl

theorem enterWheel_at : (enterWheel z h b i cyc).at_ = b.at_ := by unfold enterWheel; split <;> rfl

/-- The slot at which the debt is earned back is not before the present one. -/
theorem wheelSlot_le_due {a : Nat} (ha : 0 < a) (x : Nat) : wheelSlot cyc ≤ (cyc * 5 * a + x + 48 * a - 1) / (48 * a) := by
  have le : wheelSlot cyc * 48 ≤ cyc * 5 := Nat.div_mul_le_self ..
  rw [Nat.le_div_iff_mul_le (by omega)]
  calc wheelSlot cyc * (48 * a) = wheelSlot cyc * 48 * a := by ring
    _ ≤ cyc * 5 * a := Nat.mul_le_mul_right a le
    _ ≤ cyc * 5 * a + x + 48 * a - 1 := by omega

theorem enterWheel_ahead (hb : ∀ v, b.wheel = some v → wheelSlot cyc ≤ v) (v : Nat) (hv : (enterWheel z h b i cyc).wheel = some v) : wheelSlot cyc ≤ v := by
  unfold enterWheel at hv
  split at hv
  · exact hb v hv
  · rename_i c
    rw [not_or, not_or, not_or] at c
    obtain ⟨_, _, rate, _⟩ := c
    dsimp only at hv
    injection hv with hv
    rw [← hv]
    exact Nat.le_min.2 ⟨wheelSlot_le_due (by omega) _, by omega⟩

/-- A refill reads the bucket's two words and nothing else of the block. -/
theorem refill_congr (lo : wordAt y (homeBase h.val + 0x1000 + 8 * i) = wordAt z (homeBase h.val + 0x1000 + 8 * i))
    (hi : wordAt y (homeBase h.val + 0x1004 + 8 * i) = wordAt z (homeBase h.val + 0x1004 + 8 * i)) : refill y h b i cyc = refill z h b i cyc := by
  unfold refill getF
  rw [lo, hi]

/-- What a sweep of the buckets leaves a bucket in. -/
def sweptBkt (z : Zmc) (h : HomeId) (i cyc : Nat) : Bucket :=
  let b := refill z h (bktOf z.homes[h] i) i cyc
  if 0 ≤ b.tok then { b with wheel := none } else enterWheel z h b i cyc

def sweepBkt (h : HomeId) (cyc : Nat) (z : Zmc) (i : Nat) : Zmc := if bktUsed z h i then putBkt z h i (sweptBkt z h i cyc) else z

def sweepMark (h : HomeId) (cyc : Nat) (z : Zmc) (p : Nat) : Zmc :=
  match tblFind z.homes[h].mark p with
  | some m => modHome z h (fun x => { x with mark := tblPut x.mark p (mrkRefill z h p cyc m) })
  | none => z

def sweepBkts (h : HomeId) (cyc : Nat) (z : Zmc) : Zmc := (List.range 96).foldl (sweepBkt h cyc) z

def sweepMarks (h : HomeId) (cyc : Nat) (z : Zmc) : Zmc := (List.range 24).foldl (sweepMark h cyc) z

theorem sweep_due {now : Nat} (due : z.homes[h].sweepAt + tuPerUs ≤ now) :
    sweep z now h = modHome (sweepMarks h (fckCyc now) (sweepBkts h (fckCyc now) z)) h (fun x => { x with sweepAt := now }) := by
  unfold sweep sweepMarks sweepBkts
  rw [if_neg (Nat.not_lt.2 due)]
  generalize List.range 96 = buckets
  generalize List.range 24 = markers
  rfl

/-- The home's registers and its bucket `i` stay. -/
def BktKept (h : HomeId) (i : Nat) (z y : Zmc) : Prop := y.rg = z.rg ∧ tblFind y.homes[h].bkt i = tblFind z.homes[h].bkt i

theorem BktKept.bkt (k : BktKept h i z y) : bktOf y.homes[h] i = bktOf z.homes[h] i := by
  unfold bktOf tblGet
  rw [k.2]

theorem sweepBkt_other {j : Nat} (e : j ≠ i) : BktKept h i z (sweepBkt h cyc z j) := by
  unfold sweepBkt
  split
  · refine ⟨rfl, ?_⟩
    unfold putBkt
    rw [modHome_same]
    exact tblFind_put_ne (Ne.symm e)
  · exact ⟨rfl, rfl⟩

theorem sweepMark_frame (p : Nat) : (sweepMark h cyc z p).homes[h].bkt = z.homes[h].bkt ∧ (∀ d, d ≠ h → (sweepMark h cyc z p).homes[d] = z.homes[d]) ∧
    (sweepMark h cyc z p).bays = z.bays := by
  unfold sweepMark
  split
  · exact ⟨by rw [modHome_same], fun d e => modHome_other _ _ e, rfl⟩
  · exact ⟨rfl, fun _ _ => rfl, rfl⟩

theorem sweepMarks_frame (z : Zmc) : (sweepMarks h cyc z).homes[h].bkt = z.homes[h].bkt ∧ (∀ d, d ≠ h → (sweepMarks h cyc z).homes[d] = z.homes[d]) ∧
    (sweepMarks h cyc z).bays = z.bays :=
  ⟨foldl_field (f := sweepMark h cyc) (fun z => z.homes[h].bkt) (fun _ p => (sweepMark_frame p).1) ..,
    fun d e => foldl_field (f := sweepMark h cyc) (fun z => z.homes[d]) (fun _ p => (sweepMark_frame p).2.1 d e) ..,
    foldl_field (f := sweepMark h cyc) Zmc.bays (fun _ p => (sweepMark_frame p).2.2) ..⟩

theorem sweepBkt_frame (j : Nat) : (∀ d, d ≠ h → (sweepBkt h cyc z j).homes[d] = z.homes[d]) ∧ (sweepBkt h cyc z j).bays = z.bays := by
  unfold sweepBkt
  split
  · exact ⟨fun d e => modHome_other _ _ e, rfl⟩
  · exact ⟨fun _ _ => rfl, rfl⟩

theorem sweepBkts_frame (z : Zmc) : (∀ d, d ≠ h → (sweepBkts h cyc z).homes[d] = z.homes[d]) ∧ (sweepBkts h cyc z).bays = z.bays :=
  ⟨fun d e => foldl_field (f := sweepBkt h cyc) (fun z => z.homes[d]) (fun _ j => (sweepBkt_frame j).1 d e) ..,
    foldl_field (f := sweepBkt h cyc) Zmc.bays (fun _ j => (sweepBkt_frame j).2) ..⟩

/-- A sweep leaves every bucket in use refilled to the present cycle. -/
theorem sweep_bucket {now : Nat} (due : z.homes[h].sweepAt + tuPerUs ≤ now) (hi : i < 96) (used : bktUsed z h i = true) :
    (bktOf (sweep z now h).homes[h] i).at_ = fckCyc now ∧ (bktOf (sweep z now h).homes[h] i).tok = (refill z h (bktOf z.homes[h] i) i (fckCyc now)).tok ∧
      (0 ≤ (refill z h (bktOf z.homes[h] i) i (fckCyc now)).tok → (bktOf (sweep z now h).homes[h] i).wheel = none) := by
  obtain ⟨y, ⟨rg, bkt⟩, kept⟩ := foldl_at (R := BktKept h i) (f := sweepBkt h (fckCyc now)) (a := i) (fun z => ⟨rfl, rfl⟩) (fun _ _ _ p q => ⟨q.1.trans p.1, q.2.trans p.2⟩)
    (fun z j e => sweepBkt_other e) (List.range 96) List.nodup_range (List.mem_range.2 hi) z
  have same : bktOf (sweep z now h).homes[h] i = sweptBkt y h i (fckCyc now) := by
    rw [sweep_due due, modHome_same]
    change BktKept h i _ (sweepBkts h (fckCyc now) z) at kept
    generalize sweepBkts h (fckCyc now) z = u at kept ⊢
    obtain ⟨marks, _, _⟩ := sweepMarks_frame (h := h) (cyc := fckCyc now) u
    generalize sweepMarks h (fckCyc now) u = v at marks ⊢
    refine (congrArg (tblGet ({} : Bucket) · i) marks).trans (kept.bkt.trans ?_)
    unfold sweepBkt
    rw [if_pos (by unfold bktUsed; rw [rg, bkt]; exact used)]
    exact putBkt_same ..
  have fill : refill y h (bktOf y.homes[h] i) i (fckCyc now) = refill z h (bktOf z.homes[h] i) i (fckCyc now) := by
    rw [BktKept.bkt ⟨rg, bkt⟩]
    exact refill_congr (by unfold wordAt; rw [rg]) (by unfold wordAt; rw [rg])
  rw [same, ← fill]
  unfold sweptBkt
  dsimp only
  split
  · exact ⟨rfl, rfl, fun _ => rfl⟩
  · rename_i neg
    exact ⟨enterWheel_at, enterWheel_tok, fun k => absurd k neg⟩

theorem sweep_frame {now : Nat} (due : z.homes[h].sweepAt + tuPerUs ≤ now) :
    (sweep z now h).homes[h].sweepAt = now ∧ (∀ d, d ≠ h → (sweep z now h).homes[d] = z.homes[d]) ∧ (sweep z now h).bays = z.bays := by
  rw [sweep_due due]
  obtain ⟨homes, bays⟩ := sweepBkts_frame (h := h) (cyc := fckCyc now) z
  generalize sweepBkts h (fckCyc now) z = u at homes bays ⊢
  obtain ⟨_, homes', bays'⟩ := sweepMarks_frame (h := h) (cyc := fckCyc now) u
  generalize sweepMarks h (fckCyc now) u = v at homes' bays' ⊢
  exact ⟨by rw [modHome_same], fun d e => (modHome_other _ _ e).trans ((homes' d e).trans (homes d e)), bays'.trans bays⟩

/-! ### The wheel -/

/-- A word outside the counter group of island `i` that is no block's status register. -/
def Quiet (i q : Nat) : Prop := (q < ctrBase i ∨ ctrBase i + 0x1000 ≤ q) ∧ ∀ off, q ≠ blkBase off + 8

section
variable {i k q : Nat}

theorem wordAt_ctrSts_quiet (z : Zmc) (n b : Nat) (hk : k < ctrNum i) (h : Quiet i q) : wordAt (ctrSts z n i k b) q = wordAt z q := by
  have := ctrNum_le i
  unfold ctrSts
  exact wordAt_post_ne _ _ _ (by obtain ⟨h, _⟩ := h; omega)

theorem wordAt_cntLost_quiet (z : Zmc) (n o : Nat) (h : Quiet i q) : wordAt (cntLost z n o) q = wordAt z q := wordAt_post_ne _ _ _ (h.2 o)

theorem wordAt_add48_quiet (z : Zmc) (n w : Nat) (hk : k < ctrNum i) (h : Quiet i q) : wordAt (add48 z n (ctrBase i + 16 * k + 8) w).1 q = wordAt z q := by
  have := ctrNum_le i
  obtain ⟨h, _⟩ := h
  exact wordAt_add48_ne _ _ _ (by omega) (by omega)

theorem wordAt_ctrCarry_quiet (z : Zmc) (n w : Nat) (hk : k < ctrNum i) (h : Quiet i q) : wordAt (ctrCarry z n i k w) q = wordAt z q := by
  unfold ctrCarry
  dsimp only
  split
  · exact wordAt_ctrSts_quiet _ _ _ hk h
  split
  · rfl
  split
  · rw [wordAt_ctrSts_quiet _ _ _ hk h, wordAt_cntLost_quiet _ _ _ h]
  split
  · exact wordAt_add48_quiet _ _ _ hk h
  · rw [wordAt_ctrSts_quiet _ _ _ hk h, wordAt_add48_quiet _ _ _ hk h]

theorem wordAt_ctrAdd_quiet (z : Zmc) (n w : Nat) (hk : k < ctrNum i) (h : Quiet i q) : wordAt (ctrAdd z n i k w) q = wordAt z q := by
  have := ctrNum_even i
  unfold ctrAdd
  dsimp only
  split
  · rfl
  split
  · exact wordAt_cntLost_quiet _ _ _ h
  split
  · exact wordAt_add48_quiet _ _ _ hk h
  split
  · rw [wordAt_ctrCarry_quiet _ _ _ (by omega) h, wordAt_ctrSts_quiet _ _ _ hk h, wordAt_add48_quiet _ _ _ hk h]
  · rw [wordAt_ctrSts_quiet _ _ _ hk h, wordAt_add48_quiet _ _ _ hk h]

theorem wordAt_edgeCtrs_quiet (z : Zmc) (n o l w : Nat) (h : Quiet i q) : wordAt (edgeCtrs z n i o l w) q = wordAt z q := by
  unfold edgeCtrs
  split
  · rfl
  · refine foldl_field_mem (fun z => wordAt z q) (List.range (ctrNum i)) (fun z k hk => ?_) z
    dsimp only
    split
    · exact wordAt_ctrAdd_quiet _ _ _ (List.mem_range.1 hk) h
    · rfl

theorem wordAt_bump_quiet (z : Zmc) (n : Nat) {o : Nat} (e : q ≠ o) (h : Quiet (ownerOf o) q) : wordAt (bump z n o) q = wordAt z q := by
  unfold bump bumpN
  dsimp only
  rw [wordAt_edgeCtrs_quiet _ _ _ _ _ h]
  split
  · rfl
  split
  · exact wordAt_cntLost_quiet _ _ _ h
  · rw [wordAt_setF_ne _ _ _ _ e, wordAt_logHw]

end

/-- The words of a home's buckets are no status register of a block: every block has more than one of their pages. -/
theorem bktWord_not_status {h : HomeId} {q : Nat} (hq : homeBase h.val + 0x1000 ≤ q ∧ q < homeBase h.val + 0x1300) (off : Nat) : q ≠ blkBase off + 8 := by
  have hh := h.isLt
  unfold blkBase blockOf
  unfold homeBase at hq
  split
  · omega
  · rename_i a b c e
    repeat' split at e
    all_goals first | (injection e with e; injection e with e1 e; injection e with e2 e; omega) | simp at e

theorem wordAt_bump_bktWord {z : Zmc} {now : Nat} {h : HomeId} {q : Nat} (hq : homeBase h.val + 0x1000 ≤ q ∧ q < homeBase h.val + 0x1300) :
    wordAt (bump z now (homeBase h.val + 0x1300)) q = wordAt z q := by
  have owner : ownerOf (homeBase h.val + 0x1300) = 16 + h.val := by
    clear hq; revert h; decide
  have group : ctrBase (16 + h.val) = homeBase h.val + 0x3800 := by
    clear hq owner; revert h; decide
  refine wordAt_bump_quiet z now (by omega) ⟨?_, bktWord_not_status hq⟩
  rw [owner, group]
  omega

/-- The bucket that leaves the wheel, with what the present cycle charged given back. -/
def turnedFull (z : Zmc) (h : HomeId) (i cyc : Nat) : Bucket :=
  let r := refill z h { bktOf z.homes[h] i with wheel := none, capped := false } i cyc
  enterWheel z h { r with tok := r.tok + r.chg } i cyc

/-- What a turn of the wheel leaves a bucket in whose slot is reached. -/
def turnedBkt (z : Zmc) (h : HomeId) (i cyc : Nat) : Bucket :=
  enterWheel z h { turnedFull z h i cyc with tok := (turnedFull z h i cyc).tok - (refill z h { bktOf z.homes[h] i with wheel := none, capped := false } i cyc).chg } i cyc

def turnBkt (h : HomeId) (now : Nat) (z : Zmc) (i : Nat) : Zmc :=
  match (bktOf z.homes[h] i).wheel with
  | some s =>
      if s ≤ wheelSlot (fckCyc now) then
        if (bktOf z.homes[h] i).capped ∧ (turnedFull z h i (fckCyc now)).wheel.isSome then bump (putBkt z h i (turnedBkt z h i (fckCyc now))) now (homeBase h.val + 0x1300)
        else putBkt z h i (turnedBkt z h i (fckCyc now))
      else z
  | none => z

theorem wheelTurn_eq (z : Zmc) (now : Nat) (h : HomeId) : wheelTurn z now h = (List.range 96).foldl (turnBkt h now) z := by
  unfold wheelTurn
  generalize List.range 96 = l
  rfl

/-- Bucket `i` of the home and its two words stay. -/
structure TurnKept (h : HomeId) (i : Nat) (z y : Zmc) : Prop where
  find : tblFind y.homes[h].bkt i = tblFind z.homes[h].bkt i
  rateWord : wordAt y (homeBase h.val + 0x1000 + 8 * i) = wordAt z (homeBase h.val + 0x1000 + 8 * i)
  burstWord : wordAt y (homeBase h.val + 0x1004 + 8 * i) = wordAt z (homeBase h.val + 0x1004 + 8 * i)

theorem TurnKept.refl (z : Zmc) : TurnKept h i z z := ⟨rfl, rfl, rfl⟩

theorem TurnKept.trans {x : Zmc} (p : TurnKept h i x y) (q : TurnKept h i y z) : TurnKept h i x z :=
  ⟨q.find.trans p.find, q.rateWord.trans p.rateWord, q.burstWord.trans p.burstWord⟩

theorem TurnKept.bkt (k : TurnKept h i z y) : bktOf y.homes[h] i = bktOf z.homes[h] i := by
  unfold bktOf tblGet
  rw [k.find]

theorem TurnKept.bump (k : TurnKept h i z y) (hi : i < 96) (now : Nat) : TurnKept h i z (bump y now (homeBase h.val + 0x1300)) := by
  obtain ⟨find, rate, burst⟩ := k
  refine ⟨by rw [bump_homes]; exact find, ?_, ?_⟩
  · rw [wordAt_bump_bktWord ⟨by omega, by omega⟩, rate]
  · rw [wordAt_bump_bktWord ⟨by omega, by omega⟩, burst]

theorem turnBkt_other {now j : Nat} (hi : i < 96) (e : j ≠ i) : TurnKept h i z (turnBkt h now z j) := by
  have put (b : Bucket) : TurnKept h i z (putBkt z h j b) := ⟨by unfold putBkt; rw [modHome_same]; exact tblFind_put_ne (Ne.symm e), rfl, rfl⟩
  unfold turnBkt
  split
  · split
    · split
      · exact (put _).bump hi now
      · exact put _
    · exact .refl z
  · exact .refl z

theorem turnBkt_same {now w : Nat} (slot : (bktOf z.homes[h] i).wheel = some w) (due : w ≤ wheelSlot (fckCyc now)) :
    bktOf (turnBkt h now z i).homes[h] i = turnedBkt z h i (fckCyc now) := by
  unfold turnBkt
  rw [slot]
  dsimp only
  rw [if_pos due]
  split
  · simp only [bump_homes]
    exact putBkt_same ..
  · exact putBkt_same ..

theorem turnBkt_frame {now : Nat} (j : Nat) : (∀ d, d ≠ h → (turnBkt h now z j).homes[d] = z.homes[d]) ∧ (turnBkt h now z j).bays = z.bays := by
  unfold turnBkt
  split
  · split
    · split
      · exact ⟨fun d e => by simp only [bump_homes]; exact modHome_other _ _ e, by simp only [bump_bays]; rfl⟩
      · exact ⟨fun d e => modHome_other _ _ e, rfl⟩
    · exact ⟨fun _ _ => rfl, rfl⟩
  · exact ⟨fun _ _ => rfl, rfl⟩

theorem turnedBkt_tok : (turnedBkt z h i cyc).tok = (refill z h (bktOf z.homes[h] i) i cyc).tok := by
  unfold turnedBkt turnedFull
  rw [enterWheel_tok, enterWheel_tok]
  exact Int.add_sub_cancel ..

theorem turnedBkt_at : (turnedBkt z h i cyc).at_ = cyc := by
  unfold turnedBkt turnedFull
  rw [enterWheel_at, enterWheel_at]
  rfl

theorem turnedBkt_wheel (v : Nat) (hv : (turnedBkt z h i cyc).wheel = some v) : wheelSlot cyc ≤ v := by
  unfold turnedBkt at hv
  refine enterWheel_ahead (fun v hv => ?_) v hv
  unfold turnedFull at hv
  exact enterWheel_ahead (fun v hv => by cases hv) v hv

theorem wheelTurn_bucket {now w : Nat} (hi : i < 96) (slot : (bktOf z.homes[h] i).wheel = some w) (due : w ≤ wheelSlot (fckCyc now)) :
    (bktOf (wheelTurn z now h).homes[h] i).at_ = fckCyc now ∧ (bktOf (wheelTurn z now h).homes[h] i).tok = (refill z h (bktOf z.homes[h] i) i (fckCyc now)).tok ∧
      (∀ v, (bktOf (wheelTurn z now h).homes[h] i).wheel = some v → wheelSlot (fckCyc now) ≤ v) := by
  obtain ⟨y, before, after⟩ := foldl_at (R := TurnKept h i) (f := turnBkt h now) (a := i) TurnKept.refl (fun _ _ _ => TurnKept.trans)
    (fun z j e => turnBkt_other hi e) (List.range 96) List.nodup_range (List.mem_range.2 hi) z
  rw [← wheelTurn_eq] at after
  have same : bktOf (wheelTurn z now h).homes[h] i = turnedBkt y h i (fckCyc now) := (TurnKept.bkt after).trans (turnBkt_same (before.bkt.symm ▸ slot) due)
  rw [same]
  refine ⟨turnedBkt_at, turnedBkt_tok.trans ?_, turnedBkt_wheel⟩
  rw [before.bkt, refill_congr before.rateWord before.burstWord]

theorem wheelTurn_frame {now : Nat} : (∀ d, d ≠ h → (wheelTurn z now h).homes[d] = z.homes[d]) ∧ (wheelTurn z now h).bays = z.bays := by
  rw [wheelTurn_eq]
  exact ⟨fun d e => foldl_field (f := turnBkt h now) (fun z => z.homes[d]) (fun _ j => (turnBkt_frame j).1 d e) ..,
    foldl_field (f := turnBkt h now) Zmc.bays (fun _ j => (turnBkt_frame j).2) ..⟩

end

/-! ### The home's time, samples and windows -/

section
variable {z : Zmc} {h : HomeId} {now : Nat}

theorem homeOf_own {j : Nat} (hj : j < 8) : homeOf (toCrs (8 * h.val + j)) = h := by
  have hh := h.isLt
  refine Fin.ext ?_
  unfold homeOf toHome toCrs toFin
  simp only [show 8 * h.val + j < 16 by omega, dif_pos, show (8 * h.val + j) / 8 < 2 by omega]
  omega

def resyncGate (h : HomeId) (old ns now : Nat) (z : Zmc) (j : Nat) : Zmc :=
  let c := toCrs (8 * h.val + j)
  match z.homes[h].gates[crsIdx c].list with
  | some g =>
      let e := ns + (z.homes[h].gates[crsIdx c].endAt - old)
      post (modGate z c (fun gt => { gt with endAt := e, anchor := true, again := some { g with start := gateStart g (e + 256) } })) now (gateReg c + 0x20) 2
  | none => z

theorem resyncGate_frame {old ns j : Nat} (hj : j < 8) : (resyncGate h old ns now z j).homes[h].skew = z.homes[h].skew ∧
    (∀ d, d ≠ h → (resyncGate h old ns now z j).homes[d] = z.homes[d]) ∧ (resyncGate h old ns now z j).pkg0 = z.pkg0 := by
  unfold resyncGate
  dsimp only
  split
  · simp only [post_homes, post_pkg0]
    unfold modGate
    rw [homeOf_own hj]
    exact ⟨by rw [modHome_same], fun d e => modHome_other _ _ e, rfl⟩
  · exact ⟨rfl, fun _ _ => rfl, rfl⟩

/-- After a resynchronisation the home's time is the package's. -/
theorem resyncHome_time (ns : Nat) : homeNs (resyncHome z h ns now) h (fckCyc now) = ns ∧ ∀ d, d ≠ h → (resyncHome z h ns now).homes[d] = z.homes[d] := by
  have skewed : ∀ y : Zmc, y.pkg0 = z.pkg0 → y.homes[h].skew = (ns : Int) - (((z.pkg0 + fckCyc now * tuFck / tuPerNs) % 2 ^ 64 : Nat) : Int) →
      homeNs y h (fckCyc now) = ns := by
    intro y base skew
    unfold homeNs
    rw [base, skew]
    omega
  have moved (d : HomeId) (e : d ≠ h) (f : HomeSt → HomeSt) : (modHome z h f).homes[d] = z.homes[d] := modHome_other z f e
  unfold resyncHome
  dsimp only
  split
  · exact ⟨skewed _ rfl (by rw [modHome_same]), fun d e => moved d e _⟩
  · have skew := foldl_field_mem (f := resyncGate h (homeNs z h (fckCyc now)) ns now) (fun z => z.homes[h].skew) (List.range 8) (fun _ _ hj => (resyncGate_frame (List.mem_range.1 hj)).1)
    have base := foldl_field_mem (f := resyncGate h (homeNs z h (fckCyc now)) ns now) Zmc.pkg0 (List.range 8) (fun _ _ hj => (resyncGate_frame (List.mem_range.1 hj)).2.2)
    have others (d : HomeId) (e : d ≠ h) :=
      foldl_field_mem (f := resyncGate h (homeNs z h (fckCyc now)) ns now) (fun z => z.homes[d]) (List.range 8) (fun _ _ hj => (resyncGate_frame (List.mem_range.1 hj)).2.1 d e)
    generalize List.range 8 = gates at skew base others ⊢
    exact ⟨skewed _ (base _) ((skew _).trans (by rw [modHome_same])), fun d e => (others d e _).trans (moved d e _)⟩

theorem latSample_due (due : stepDue z h now z.homes[h].latAt (getF z (homeBase h.val + 0x1A00) 9 0) = true) :
    latSampleAll z now h = modHome z h (fun x => { latFlush x with
      latNew := (List.range 96).flatMap (fun i =>
        [(2 * i, (queuedOf z h (toPort (i / 4)) (i % 4)).length),
         (2 * i + 1, (queuedOf z h (toPort (i / 4)) (i % 4)).foldl (fun a r => max a (now - r.arr)) 0 / tuPerNs / (4 * 2 ^ getF z (homeBase h.val + 0x1A00) 13 10))])
      latAt := now }) := by
  unfold latSampleAll
  dsimp only
  rw [due]
  rfl

/-- The sample holds every queue's depth and its oldest request's age, and the one before has entered the histograms. -/
theorem latSample_takes (due : stepDue z h now z.homes[h].latAt (getF z (homeBase h.val + 0x1A00) 9 0) = true) :
    (latSampleAll z now h).homes[h].latAt = now ∧
      (∀ i, i < 96 → (2 * i, (queuedOf z h (toPort (i / 4)) (i % 4)).length) ∈ (latSampleAll z now h).homes[h].latNew ∧
        (2 * i + 1, (queuedOf z h (toPort (i / 4)) (i % 4)).foldl (fun a r => max a (now - r.arr)) 0 / tuPerNs / (4 * 2 ^ getF z (homeBase h.val + 0x1A00) 13 10)) ∈
          (latSampleAll z now h).homes[h].latNew) ∧
      (latSampleAll z now h).homes[h].hist = (z.homes[h].latNew.foldl (fun h p => latPut h p.1 p.2) z.homes[h]).hist ∧
      (∀ d, d ≠ h → (latSampleAll z now h).homes[d] = z.homes[d]) := by
  rw [latSample_due due, modHome_same]
  refine ⟨rfl, fun i hi => ?_, rfl, fun d e => modHome_other _ _ e⟩
  exact ⟨List.mem_flatMap.2 ⟨i, List.mem_range.2 hi, List.mem_cons_self⟩, List.mem_flatMap.2 ⟨i, List.mem_range.2 hi, List.mem_cons_of_mem _ List.mem_cons_self⟩⟩

theorem bwClose_due (live : z.hod.frozen = false) (due : stepDue z h now z.homes[h].bwAt (getF z (homeBase h.val + 0x3C00) 15 0) = true) :
    ∃ v, bwClose z now h = modHome (setF ((List.range 24).foldl (fun y p => (List.range 3).foldl (fun y k =>
      putWord y (homeBase h.val + 0x3C00 + 0x40 + 16 * p + 4 * k) (tblGet 0 z.homes[h].bw (4 * p + k))) y) z) (homeBase h.val + 0x3C00) 31 16 v) h
      (fun x => { x with bw := [], bwAt := now }) := by
  unfold bwClose
  dsimp only
  rw [live, due, if_neg (by decide)]
  exact ⟨_, rfl⟩

/-- The counts of every port are written, each to its own word. -/
theorem bwWords (f : Nat → Nat → Word) (base : Nat) (z : Zmc) {p k : Nat} (hp : p < 24) (hk : k < 3) :
    wordAt ((List.range 24).foldl (fun y p => (List.range 3).foldl (fun y k => putWord y (base + 16 * p + 4 * k) (f p k)) y) z) (base + 16 * p + 4 * k) = f p k := by
  have inner (p' : Nat) (y : Zmc) := foldl_putWord_at (base := base + 16 * p') (f p') (List.range 3) List.nodup_range y
  have away (p' : Nat) (e : p' ≠ p) (y : Zmc) : wordAt ((List.range 3).foldl (fun y k => putWord y (base + 16 * p' + 4 * k) (f p' k)) y) (base + 16 * p + 4 * k) =
      wordAt y (base + 16 * p + 4 * k) :=
    foldl_field_mem (fun z => wordAt z (base + 16 * p + 4 * k)) _ (fun z j hj => wordAt_put_ne _ _ (by have := List.mem_range.1 hj; omega)) y
  obtain ⟨y, -, after⟩ := foldl_at (R := fun z y => wordAt y (base + 16 * p + 4 * k) = wordAt z (base + 16 * p + 4 * k)) (a := p)
    (f := fun y p => (List.range 3).foldl (fun y k => putWord y (base + 16 * p + 4 * k) (f p k)) y) (fun _ => rfl) (fun _ _ _ a b => b.trans a)
    (fun z p' e => away p' e z) (List.range 24) List.nodup_range (List.mem_range.2 hp) z
  exact after.trans ((inner p y k).trans (if_pos (List.mem_range.2 hk)))

theorem bwCounts_homes (f : Nat → Nat → Word) (base : Nat) (z : Zmc) :
    ((List.range 24).foldl (fun y p => (List.range 3).foldl (fun y k => putWord y (base + 16 * p + 4 * k) (f p k)) y) z).homes = z.homes :=
  foldl_field (f := fun y p => (List.range 3).foldl (fun y k => putWord y (base + 16 * p + 4 * k) (f p k)) y) Zmc.homes
    (fun z p => foldl_field (f := fun y k => putWord y (base + 16 * p + 4 * k) (f p k)) Zmc.homes (fun _ _ => rfl) _ z) _ z

/-- A window that closes shows its counts and starts again. -/
theorem bwClose_shows (live : z.hod.frozen = false) (due : stepDue z h now z.homes[h].bwAt (getF z (homeBase h.val + 0x3C00) 15 0) = true) :
    (bwClose z now h).homes[h].bw = [] ∧ (bwClose z now h).homes[h].bwAt = now ∧
      (∀ p k, p < 24 → k < 3 → wordAt (bwClose z now h) (homeBase h.val + 0x3C40 + 16 * p + 4 * k) = tblGet 0 z.homes[h].bw (4 * p + k)) ∧
      (∀ d, d ≠ h → (bwClose z now h).homes[d] = z.homes[d]) := by
  obtain ⟨v, e⟩ := bwClose_due live due
  have words {p k : Nat} := bwWords (fun p k => tblGet 0 z.homes[h].bw (4 * p + k)) (homeBase h.val + 0x3C00 + 0x40) z (p := p) (k := k)
  have homes := bwCounts_homes (fun p k => tblGet 0 z.homes[h].bw (4 * p + k)) (homeBase h.val + 0x3C00 + 0x40) z
  rw [e]
  generalize List.range 24 = ports at words homes ⊢
  refine ⟨by rw [modHome_same], by rw [modHome_same], fun p k hp hk => ?_, fun d e => ?_⟩
  · exact (wordAt_setF_ne _ _ _ _ (by omega)).trans (words hp hk)
  · rw [modHome_other _ _ e, setF_homes, homes]

end

end Sys2Proof.Machine

namespace Sys2Proof.Proofs
open Sys2Proof.Machine

/-- Settles O33: sweeps and turns of the wheel refill their buckets, and a home takes the package's time, its samples and its bandwidth counts. -/
theorem homeTimersRun : Obligations.HomeTimersRun := by
  unfold Obligations.HomeTimersRun
  refine ⟨fun s n h hr => ⟨fun due => ?_, ?_⟩, fun s n h ns hr => ⟨?_, fun due => ?_, fun live due => ?_⟩⟩
  · refine gives_home (exec_shaperSweep ..) hr (fun t _ tz => ?_)
    obtain ⟨swept, homes, bays⟩ := sweep_frame due
    rw [tz.homes, tz.bays]
    exact ⟨swept, fun i hi used => sweep_bucket due hi used, homes, bays⟩
  · refine gives_home (exec_wheelExpiry ..) hr (fun t _ tz => ?_)
    rw [tz.homes, tz.bays]
    exact ⟨fun i hi w slot reached => wheelTurn_bucket hi slot reached, wheelTurn_frame⟩
  · refine gives_home (exec_gateResync ..) hr (fun t _ tz => ?_)
    unfold homeNs
    rw [tz.homes, tz.pkg0]
    exact resyncHome_time ns.toNat
  · refine gives_home (exec_latSample ..) hr (fun t _ tz => ?_)
    rw [tz.homes]
    exact latSample_takes due
  · refine gives_home (exec_bwWindowClose ..) hr (fun t _ tz => ?_)
    obtain ⟨empty, closed, words, homes⟩ := bwClose_shows live due
    rw [tz.homes]
    exact ⟨empty, closed, fun p k hp hk => (tz.2 _ (by unfold homeBase zmcBase; have := h.isLt; omega)).trans (words p k hp hk), homes⟩

end Sys2Proof.Proofs

/-! SUPPORT. The gate list of a course (R114 to R120). -/

namespace Sys2Proof.Machine

/-- The gate of a course. -/
def gateOf (z : Zmc) (c : CourseId) : Gate := z.homes[homeOf c].gates[crsIdx c]

/-- The gates of the course's home but its own stay. -/
def OtherGates (c : CourseId) (z y : Zmc) : Prop := ∀ j, j ≠ crsIdx c → y.homes[homeOf c].gates[j] = z.homes[homeOf c].gates[j]

section
variable {z : Zmc} {c : CourseId} {now : Nat} {g : GList}

theorem modGate_gate (z : Zmc) (c : CourseId) (f : Gate → Gate) : gateOf (modGate z c f) c = f (gateOf z c) := by
  unfold gateOf modGate
  rw [modHome_same]
  exact modV_same ..

theorem modGate_others (z : Zmc) (c : CourseId) (f : Gate → Gate) : OtherGates c z (modGate z c f) := by
  intro j e
  unfold modGate
  rw [modHome_same]
  exact modV_other _ _ _ _ (Ne.symm e)

theorem gateOf_congr {y : Zmc} (e : y.homes = z.homes) : gateOf y c = gateOf z c := by unfold gateOf; rw [e]

theorem OtherGates.congr {x y : Zmc} (k : OtherGates c z y) (e : x.homes = y.homes) : OtherGates c z x := by unfold OtherGates; rw [e]; exact k

/-- An armed list whose start is reached begins. -/
theorem gateListStart_armed (armed : (gateOf z c).armed = some g) (due : g.start ≤ locNs z c now) :
    gateListStart z c now = post (modGate z c (fun gt => gt.begin g)) now (gateReg c + 0x20) 3 := by
  have found : (gateOf z c).armed.filter (fun g => g.start ≤ locNs z c now) = some g := by rw [armed, Option.filter_some, if_pos (decide_eq_true due)]
  unfold gateListStart
  unfold gateOf at found
  dsimp only
  rw [found]

theorem gateListStart_again (armed : (gateOf z c).armed = none) (again : (gateOf z c).again = some g) (due : g.start ≤ locNs z c now) :
    gateListStart z c now = modGate z c (fun gt => gt.restart g) := by
  have found : (gateOf z c).again.filter (fun g => g.start ≤ locNs z c now) = some g := by rw [again, Option.filter_some, if_pos (decide_eq_true due)]
  unfold gateListStart
  unfold gateOf at found armed
  dsimp only
  rw [found, armed]
  rfl

theorem gate_due {gt : Gate} {ns : Nat} (ended : gt.endAt ≤ ns) (free : gt.ovr = none) (run : gt.rsync = false) : gt.due ns = true := by
  unfold Gate.due
  rw [decide_eq_true ended, free, run]
  rfl

theorem gateCloseAt_late (list : (gateOf z c).list = some g) (due : (gateOf z c).due (locNs z c now) = true) (late : (gateOf z c).hasLate g = true) :
    gateCloseAt z c now = modGate z c (fun gt => gt.overrun g) := by
  unfold gateCloseAt
  unfold gateOf at list due late
  dsimp only
  rw [list]
  dsimp only
  rw [due, late]
  rfl

theorem gateCloseAt_none (late : (gateOf z c).late = []) : gateCloseAt z c now = z := by
  unfold gateCloseAt
  unfold gateOf at late
  dsimp only
  split
  · unfold Gate.hasLate
    rw [late, List.any_nil, Bool.and_false, if_neg (by decide)]
  · rfl

/-- With no late work the entry in force ends. -/
theorem entryStart_next (list : (gateOf z c).list = some g) (due : (gateOf z c).due (locNs z c now) = true) (late : (gateOf z c).late = []) :
    entryStart z c now = modGate z c (fun gt => gt.next g) := by
  unfold entryStart
  rw [gateCloseAt_none late]
  unfold gateOf at list due
  dsimp only
  rw [list]
  dsimp only
  rw [due]
  rfl

theorem lintelBegin_starts {cls : Fin 4} {x : Nat} (list : (gateOf z c).list = some g) (open_ : g.opens (gateOf z c).ent cls = true)
    (at_ : lintelAt (gateOf z c) cls = some x) (due : x ≤ locNs z c now) (first : cls ∉ (gateOf z c).lint) :
    lintelBegin z c cls now = modGate z c (fun gt => { gt with lint := gt.lint ++ [cls] }) := by
  have fresh : (gateOf z c).lint.contains cls = false := by rw [List.contains_eq_mem]; exact decide_eq_false first
  unfold lintelBegin
  unfold gateOf at *
  dsimp only
  rw [at_, list]
  dsimp only
  exact if_pos (and_true_intro (and_true_intro open_ (decide_eq_true due)) (congrArg (! ·) fresh))

theorem overrunDone_ends {cl : List (Fin 4)} {x : Nat} (ovr : (gateOf z c).ovr = some (cl, x)) (late : (gateOf z c).late.any (fun l => cl.contains l.cls) = false) :
    (overrunDone z c now).homes = (modGate z c (fun gt => { gt with
      ovr := none, hold := true, endAt := x + (locNs z c now - x + 3) / 4 * 4, off := min (gt.off + (locNs z c now - x + 3) / 4 * 4) (2 ^ 24 - 1), lint := gt.lint ++ cl })).homes := by
  unfold overrunDone
  unfold gateOf at *
  dsimp only
  rw [ovr]
  dsimp only
  rw [late, if_neg (by decide)]
  simp only [post_homes, bumpN_homes, bump_homes]

end

end Sys2Proof.Machine

namespace Sys2Proof.Proofs
open Sys2Proof.Machine

/-- A row that puts `f` of the gate in its place. -/
theorem gives_gate {s : State} {n : Nat} {i : Instr} {c : CourseId} {F : Zmc → Nat → Zmc} {P : State → Prop} {f : Gate → Gate} (e : exec i s = cmd s n (ifHome F))
    (hr : homesRun s.sys.z = true) (homes : (F (before s n).z (max s.sys.now n)).homes = (modGate (before s n).z c f).homes)
    (h : ∀ t : State, gateOf t.sys.z c = f (gateOf (before s n).z c) → OtherGates c (before s n).z t.sys.z → P t) : Gives i s P := by
  refine gives_home e hr (fun t _ tz => ?_)
  have eq := tz.homes.trans homes
  exact h t ((gateOf_congr eq).trans (modGate_gate ..)) ((modGate_others _ c f).congr eq)

/-- Settles O34: a gate list begins, restarts and steps; a lintel starts; a close with late work holds its entry until the overrun ends. -/
theorem gateListsRun : Obligations.GateListsRun := by
  unfold Obligations.GateListsRun
  intro s n c cls g x cl hr z ns gt new others
  subst others new gt ns z
  refine ⟨fun armed due => ?_, fun idle again due => ?_, fun list due free run late keep => ?_, fun list due free run late anchor => ?_,
    fun list open_ at_ due first => ?_, fun list due free run late => ?_, fun ovr late => ?_⟩
  · refine gives_gate (exec_gateListStart ..) hr ((congrArg Zmc.homes (gateListStart_armed armed due)).trans (post_homes ..)) (fun t e o => ?_)
    exact ⟨congrArg Gate.list e, congrArg Gate.armed e, congrArg Gate.ent e, congrArg Gate.endAt e, congrArg Gate.off e, (congrArg Gate.late e :), o⟩
  · refine gives_gate (exec_gateListStart ..) hr (congrArg Zmc.homes (gateListStart_again idle again due)) (fun t e o => ?_)
    exact ⟨congrArg Gate.list e, congrArg Gate.again e, congrArg Gate.rsync e, congrArg Gate.ent e, congrArg Gate.endAt e, congrArg Gate.off e, o⟩
  · refine gives_gate (exec_gateEntryStart ..) hr (congrArg Zmc.homes (entryStart_next list (gate_due due free run) late)) (fun t e o => ?_)
    rw [Gate.next, if_neg (by rw [show (gateOf (before s n).z c).anchor = false from keep]; decide)] at e
    refine ⟨congrArg Gate.ent e, ?_, (congrArg Gate.list e).trans list, o⟩
    rw [show t.sys.z.homes[homeOf c].gates[crsIdx c].endAt = _ from congrArg Gate.endAt e]
    exact Nat.le_add_right ..
  · refine gives_gate (exec_gateEntryStart ..) hr (congrArg Zmc.homes (entryStart_next list (gate_due due free run) late)) (fun t e o => ?_)
    rw [Gate.next, if_pos (show (gateOf (before s n).z c).anchor = true from anchor)] at e
    exact ⟨congrArg Gate.rsync e, congrArg Gate.off e, o⟩
  · exact gives_gate (exec_lintelStart ..) hr (congrArg Zmc.homes (lintelBegin_starts list open_ at_ due first)) (fun t e o => ⟨e, o⟩)
  · exact gives_gate (exec_gateClose ..) hr (congrArg Zmc.homes (gateCloseAt_late list (gate_due due free run) late)) (fun t e o => ⟨e, o⟩)
  · refine gives_gate (exec_overrunEnd ..) hr (overrunDone_ends ovr late) (fun t e o => ?_)
    exact ⟨congrArg Gate.ovr e, congrArg Gate.endAt e, congrArg Gate.off e, (congrArg Gate.late e :), o⟩

end Sys2Proof.Proofs

/-! SUPPORT. A lookup that hits (R131, R132), and the drains of the footing write buffer (R142). -/

namespace Sys2Proof.Machine

section
variable {z y : Zmc} {h : HomeId} {now : Nat} {r : HReq}

/-- What a lookup leaves as it was until it acts on its byte. -/
structure LookKept (h : HomeId) (z y : Zmc) : Prop where
  cinfo : y.cinfo = z.cinfo
  boot : y.boot = z.boot
  pair : y.pair = z.pair
  jreq : y.jreq = z.jreq
  dir : y.homes[h].dir = z.homes[h].dir
  rdFree : y.homes[h].rdFree = z.homes[h].rdFree
  mir : ∀ role a, mirFind y role a = mirFind z role a

theorem LookKept.refl (z : Zmc) : LookKept h z z := ⟨rfl, rfl, rfl, rfl, rfl, rfl, fun _ _ => rfl⟩

theorem LookKept.trans {x : Zmc} (p : LookKept h x y) (q : LookKept h y z) : LookKept h x z :=
  ⟨q.cinfo.trans p.cinfo, q.boot.trans p.boot, q.pair.trans p.pair, q.jreq.trans p.jreq, q.dir.trans p.dir, q.rdFree.trans p.rdFree,
    fun role a => (q.mir role a).trans (p.mir role a)⟩

/-- The mirror ranges are what the words of the pair say. -/
theorem mirFind_congr (words : ∀ q, zmcBase + 0x0C40 ≤ q → q < zmcBase + 0x0D40 → wordAt y q = wordAt z q) (role a : Nat) : mirFind y role a = mirFind z role a := by
  have desc : ∀ r ∈ List.range 8, mirDesc (wordAt y) r = mirDesc (wordAt z) r := by
    intro r hr
    have := List.mem_range.1 hr
    unfold mirDesc
    dsimp only
    simp only [words _ (show zmcBase + 0x0C40 ≤ zmcBase + 0x0C40 + 32 * r + 24 by omega) (by omega), words _ (show zmcBase + 0x0C40 ≤ zmcBase + 0x0C40 + 32 * r by omega) (by omega),
      words _ (show zmcBase + 0x0C40 ≤ zmcBase + 0x0C40 + 32 * r + 4 by omega) (by omega), words _ (show zmcBase + 0x0C40 ≤ zmcBase + 0x0C40 + 32 * r + 8 by omega) (by omega),
      words _ (show zmcBase + 0x0C40 ≤ zmcBase + 0x0C40 + 32 * r + 8 + 4 by omega) (by omega), words _ (show zmcBase + 0x0C40 ≤ zmcBase + 0x0C40 + 32 * r + 16 by omega) (by omega),
      words _ (show zmcBase + 0x0C40 ≤ zmcBase + 0x0C40 + 32 * r + 16 + 4 by omega) (by omega)]
  unfold mirFind
  refine List.find?_congr (fun r hr => ?_)
  dsimp only
  rw [desc r hr]

theorem mirWord_calm (h : HomeId) {q : Nat} (lo : zmcBase + 0x0C40 ≤ q) (hi : q < zmcBase + 0x0D40) : calm (16 + h.val) q := by
  have group : ctrBase (16 + h.val) = homeBase h.val + 0x3800 := by clear lo hi; revert h; decide
  unfold calm
  rw [group]
  unfold homeBase
  unfold zmcBase at lo hi
  omega

theorem lookKept_bump {o : Nat} (ho : o < 0x20000) (now : Nat) : LookKept h z (bump z now (homeBase h.val + o)) := by
  have owner : ownerOf (homeBase h.val + o) = 16 + h.val := by
    have hh := h.isLt
    unfold ownerOf blockOf homeBase
    rw [if_neg (by omega), if_neg (by omega), if_pos (by omega)]
    change 16 + (0x040000 + h.val * 0x20000 + o - 0x040000) / 0x20000 = 16 + h.val
    omega
  refine ⟨bump_cinfo .., bump_boot .., bump_pair .., bump_jreq .., by rw [bump_homes], by rw [bump_homes], mirFind_congr (fun q lo hi => ?_)⟩
  refine wordAt_bump_ne z now ?_ (owner ▸ mirWord_calm h lo hi)
  unfold homeBase
  unfold zmcBase at hi
  omega

theorem lookKept_modReq (rid : Nat) (f : HReq → HReq) : LookKept h z (modReq z h rid f) :=
  ⟨rfl, rfl, rfl, rfl, by unfold modReq; rw [modHome_same], by unfold modReq; rw [modHome_same], fun _ _ => rfl⟩

theorem lookKept_touchWay (set w : Nat) : LookKept h z (touchWay z h set w) :=
  ⟨rfl, rfl, rfl, rfl, by unfold touchWay; rw [modHome_same], by unfold touchWay; rw [modHome_same], fun _ _ => rfl⟩

theorem modReq_only {rid : Nat} (only : z.homes[h].hrq = [r]) (e : r.rid = rid) (f : HReq → HReq) : (modReq z h rid f).homes[h].hrq = [f r] := by
  unfold modReq
  rw [modHome_same]
  dsimp only
  rw [only, replaceFirst, if_pos (beq_iff_eq.2 e)]

theorem touchWay_hrq (set w : Nat) : (touchWay z h set w).homes[h].hrq = z.homes[h].hrq := by unfold touchWay; rw [modHome_same]

theorem countHeld_none (holds : z.homes[h].holds = []) : countHeld z now h = z := by
  have step : ∀ l : List HReq, l.foldl (fun z r =>
      if r.ph == .look && decide (r.dueAt ≤ now) && !r.holdCnt && !r.mirror && z.homes[h].holds.any (fun w => w.crs == r.crs && w.line == r.line && w.port != r.port) then
        modReq (bump z now (homeBase h.val + 0x3070)) h r.rid (fun x => { x with holdCnt := true })
      else z) z = z := by
    intro l
    induction l with
    | nil => rfl
    | cons r l ih =>
      rw [List.foldl_cons, holds, List.any_nil, Bool.and_false, if_neg (by decide)]
      exact ih
  exact step _

/-- The one request of a home, once it may be looked up. -/
theorem lookupOldest_only (only : z.homes[h].hrq = [r]) (holds : z.homes[h].holds = []) (may : mayLook z now r = true) :
    lookupOldest z now h = lookReq z now r := by
  unfold lookupOldest
  rw [countHeld_none holds]
  dsimp only
  rw [only, List.foldl_cons, List.foldl_nil]
  dsimp only
  rw [may]
  rfl

/-! ### A read of a line that is UNCACHED -/

/-- What a request of a port below P21 is looked up as. -/
theorem lookReq_hit {k : Nat} {e : DirEnt} (free : z.cinfo[r.crs].fence = 0) (own : r.mirror = false) (port : r.port.val < 21)
    (found : dirEntry (modReq z (homeOf r.crs) r.rid (fun _ => r)).homes[homeOf r.crs] r.crs r.line = some (k, e)) (here : e.pend = false) :
    lookReq z now r = actOn (modReq (touchWay (bump (modReq z (homeOf r.crs) r.rid (fun _ => r)) now (homeBase (homeOf r.crs).val + 0x3040)) (homeOf r.crs) (k / 16) (k % 16))
      (homeOf r.crs) r.rid (fun _ => { r with ph := .mem })) now { r with ph := .mem } e.bytes[toFin 4 (by decide) (r.line % 4)] := by
  have plain : ¬(r.port.val ≥ 21 ∧ (r.kind = .rdShared ∨ r.kind = .rdOwn ∨ r.kind = .upgrade)) := fun k => absurd k.1 (by omega)
  unfold lookReq
  dsimp only
  rw [if_neg (fun k => k.1 free), if_neg (by rw [own]; decide)]
  simp only [if_neg plain]
  rw [if_neg (show ¬(modReq z (homeOf r.crs) r.rid (fun _ => r)).cinfo[r.crs].fence ≠ 0 from fun k => k free), found]
  dsimp only
  rw [here, if_neg (by decide)]

theorem actOn_uncached (kind : r.kind = .rdCur) : actOn z now r 0 = wantMem z now { r with byte := dirEnc .uncached, grant := 0 } := by
  unfold actOn
  rw [show dirDec 0 = (.uncached, false) from rfl]
  dsimp only
  rw [kind]

/-- A read that nothing speculative waits for. -/
theorem wantMem_noSpec (spec : r.spec = none) : wantMem z now r = readMem z now r := by
  unfold wantMem
  dsimp only
  rw [spec]

theorem lostLine_none {c : CourseId} {a : Nat} (mir : mirFind z 0 a = none) : lostLine z c a = none := by unfold lostLine; rw [mir]

theorem mirRange_none {a : Nat} (mir : mirFind z 0 a = none) : mirRange z a = none := by unfold mirRange; rw [mir]

theorem readMem_own (mir : mirFind z 0 r.addr.toNat = none) (first : r.sent = false) :
    readMem z now r = sendRead (modReq z (homeOf r.crs) r.rid (fun x => { x with ph := .mem, grant := r.grant })) now r := by
  have lost := lostLine_none (z := modReq z (homeOf r.crs) r.rid (fun x => { x with ph := .mem, grant := r.grant })) (c := r.crs) (a := r.addr.toNat) mir
  have range := mirRange_none (z := modReq z (homeOf r.crs) r.rid (fun x => { x with ph := .mem, grant := r.grant })) (a := r.addr.toNat) mir
  unfold readMem
  dsimp only
  rw [lost, range, first]
  rfl

/-- The course's line of a read request. -/
def readLine (r : HReq) : JReq := ⟨r.mid, false, r.line, 0, false, r.port.val, false, false⟩

theorem takeEnt_read_frame (c : CourseId) (k : Nat) : (takeEnt z c false k).homes[homeOf c].hrq = z.homes[homeOf c].hrq ∧
    (takeEnt z c false k).homes[homeOf c].dir = z.homes[homeOf c].dir := by
  unfold takeEnt
  rw [modHome_same]
  exact ⟨rfl, rfl⟩

/-- A read with a course entry goes to its course. -/
theorem sendRead_goes {x : HReq} (room : r.ent = true ∨ z.homes[homeOf r.crs].rdFree[crsIdx r.crs] ≠ 0) (on : powered z r.crs = true)
    (only : z.homes[homeOf r.crs].hrq = [x]) (e : x.rid = r.rid) :
    (sendRead z now r).homes[homeOf r.crs].hrq = [{ x with ent := false, sent := true, need := false }] ∧
      (sendRead z now r).jreq[r.crs] = z.jreq[r.crs] ++ [readLine r] ∧ (sendRead z now r).homes[homeOf r.crs].dir = z.homes[homeOf r.crs].dir := by
  have taken : ∀ y : Zmc, y.homes[homeOf r.crs].hrq = [x] → y.jreq = z.jreq → y.homes[homeOf r.crs].dir = z.homes[homeOf r.crs].dir → powered y r.crs = true →
      let w := toCourse (modReq y (homeOf r.crs) r.rid (fun x => { x with ent := false, sent := true, need := false })) now r.crs (readLine r)
      w.homes[homeOf r.crs].hrq = [{ x with ent := false, sent := true, need := false }] ∧ w.jreq[r.crs] = z.jreq[r.crs] ++ [readLine r] ∧
        w.homes[homeOf r.crs].dir = z.homes[homeOf r.crs].dir := by
    intro y one jreq dir on w
    have sent : w = { modReq y (homeOf r.crs) r.rid (fun x => { x with ent := false, sent := true, need := false }) with jreq := modV y.jreq r.crs (fun l => l ++ [readLine r]) } := by
      subst w
      unfold toCourse
      exact if_pos on
    rw [sent]
    exact ⟨modReq_only one e _, (modV_same ..).trans (by rw [jreq]), (lookKept_modReq (z := y) r.rid _).dir.trans dir⟩
  have not : ¬((!r.ent) = true ∧ z.homes[homeOf r.crs].rdFree[crsIdx r.crs] = 0) := by
    rintro ⟨out, none⟩
    rcases room with k | k
    · rw [k] at out; exact absurd out (by decide)
    · exact k none
  unfold sendRead
  dsimp only
  rw [if_neg not]
  split
  · exact taken z only rfl rfl on
  · obtain ⟨hrq, dir⟩ := takeEnt_read_frame (z := z) r.crs 1
    exact taken _ (hrq.trans only) rfl dir on

/-- A current read of an UNCACHED line whose sector is cached goes to its course. -/
theorem lookReq_uncached {k : Nat} {e : DirEnt} (only : z.homes[homeOf r.crs].hrq = [r]) (own : r.mirror = false) (port : r.port.val < 21) (free : z.cinfo[r.crs].fence = 0)
    (on : powered z r.crs = true) (mir : mirFind z 0 r.addr.toNat = none) (kind : r.kind = .rdCur) (first : r.sent = false) (spec : r.spec = none)
    (room : r.ent = true ∨ z.homes[homeOf r.crs].rdFree[crsIdx r.crs] ≠ 0) (found : dirEntry z.homes[homeOf r.crs] r.crs r.line = some (k, e)) (here : e.pend = false)
    (byte : e.bytes[toFin 4 (by decide) (r.line % 4)] = 0) :
    (lookReq z now r).homes[homeOf r.crs].hrq.map (fun q => (q.rid, q.ph, q.grant)) = [(r.rid, HPh.mem, 0)] ∧
      (lookReq z now r).jreq[r.crs] = z.jreq[r.crs] ++ [readLine r] ∧ (lookReq z now r).homes[homeOf r.crs].dir = z.homes[homeOf r.crs].dir := by
  have same := modReq_only only rfl (fun _ => r)
  have entry : dirEntry (modReq z (homeOf r.crs) r.rid (fun _ => r)).homes[homeOf r.crs] r.crs r.line = some (k, e) := by
    unfold modReq
    rw [modHome_same]
    exact found
  rw [lookReq_hit free own port entry here, byte, actOn_uncached (r := { r with ph := .mem }) kind]
  dsimp only
  rw [wantMem_noSpec (r := { r with ph := .mem, byte := dirEnc .uncached, grant := 0 }) spec]
  have b : LookKept (homeOf r.crs) z (touchWay (bump (modReq z (homeOf r.crs) r.rid (fun _ => r)) now (homeBase (homeOf r.crs).val + 0x3040)) (homeOf r.crs) (k / 16) (k % 16)) :=
    ((lookKept_modReq ..).trans (lookKept_bump (by decide) now)).trans (lookKept_touchWay ..)
  have bq : (touchWay (bump (modReq z (homeOf r.crs) r.rid (fun _ => r)) now (homeBase (homeOf r.crs).val + 0x3040)) (homeOf r.crs) (k / 16) (k % 16)).homes[homeOf r.crs].hrq = [r] := by
    rw [touchWay_hrq, bump_homes, same]
  generalize touchWay (bump (modReq z (homeOf r.crs) r.rid (fun _ => r)) now (homeBase (homeOf r.crs).val + 0x3040)) (homeOf r.crs) (k / 16) (k % 16) = u at b bq ⊢
  have c : LookKept (homeOf r.crs) z (modReq u (homeOf r.crs) r.rid (fun _ => { r with ph := .mem })) := b.trans (lookKept_modReq ..)
  have cq := modReq_only bq rfl (fun _ => { r with ph := .mem })
  generalize modReq u (homeOf r.crs) r.rid (fun _ => { r with ph := .mem }) = v at c cq ⊢
  rw [readMem_own (r := { r with ph := .mem, byte := dirEnc .uncached, grant := 0 }) ((c.mir ..).trans mir) first]
  have d : LookKept (homeOf r.crs) z (modReq v (homeOf r.crs) r.rid (fun x => { x with ph := .mem, grant := 0 })) := c.trans (lookKept_modReq ..)
  have dq := modReq_only cq rfl (fun x => { x with ph := .mem, grant := 0 })
  dsimp only
  generalize modReq v (homeOf r.crs) r.rid (fun x => { x with ph := .mem, grant := 0 }) = w at d dq ⊢
  obtain ⟨hrq, jreq, dir⟩ := sendRead_goes (z := w) (now := now) (r := { r with ph := .mem, byte := dirEnc .uncached, grant := 0 }) (by rw [d.rdFree]; exact room)
    (by unfold powered; rw [d.boot, d.cinfo]; exact on) dq rfl
  exact ⟨by rw [hrq]; rfl, jreq.trans (by rw [d.jreq]; rfl), dir.trans d.dir⟩

/-! ### A read of a fenced course -/

theorem lookReq_fenced (fence : z.cinfo[r.crs].fence ≠ 0) (mir : mirFind z 0 r.addr.toNat = none) : lookReq z now r = fencedReq z now r := by
  unfold lookReq
  dsimp only
  exact if_pos ⟨fence, by rw [mirRange_none mir]⟩

theorem endReq_only (only : z.homes[h].hrq = [r]) : (endReq z h r.rid).homes[h].hrq = [] ∧ (endReq z h r.rid).out = z.out ∧ (endReq z h r.rid).jreq = z.jreq := by
  have gone : ∀ y : Zmc, y.homes[h].hrq = [r] → (modHome y h (fun x => { x with hrq := removeFirst (fun q => q.rid == r.rid) x.hrq })).homes[h].hrq = [] := by
    intro y one
    rw [modHome_same]
    dsimp only
    rw [one]
    exact removeFirst_cons (p := fun q : HReq => q.rid == r.rid) (beq_self_eq_true _) []
  have kept (c : CourseId) (f : Gate → Gate) : (modGate z c f).homes[h].hrq = z.homes[h].hrq := by
    unfold modGate
    by_cases e : h = homeOf c
    · rw [e, modHome_same]
    · rw [modHome_other _ _ e]
  unfold endReq
  dsimp only
  refine ⟨gone _ ?_, ?_, ?_⟩
  · split
    · split
      · exact only
      · exact (kept _ _).trans only
    · exact only
  all_goals
    split
    · split <;> rfl
    · rfl

theorem dropEnt_frame : (dropEnt z r).out = z.out ∧ (dropEnt z r).jreq = z.jreq := by
  unfold dropEnt
  split
  · exact ⟨rfl, rfl⟩
  · exact ⟨rfl, rfl⟩

theorem dropEnt_only (only : z.homes[homeOf r.crs].hrq = [r]) : ∃ x, (dropEnt z r).homes[homeOf r.crs].hrq = [x] ∧ x.rid = r.rid := by
  unfold dropEnt
  split
  · have given : (giveEnt z r.crs (isWr r.kind) 1).homes[homeOf r.crs].hrq = [r] := by
      unfold giveEnt
      rw [modHome_same]
      split
      · exact only
      · exact only
    exact ⟨_, modReq_only given rfl _, rfl⟩
  · exact ⟨r, only, rfl⟩

/-- A read of a fenced course is answered with poison. -/
theorem fencedReq_poisons (only : z.homes[homeOf r.crs].hrq = [r]) (read : isWr r.kind = false) (own : r.mirror = false) (alive : r.orphan = false) :
    (fencedReq z now r).homes[homeOf r.crs].hrq = [] ∧ OutMsg.data r.port r.tag r.addr 0 true 0 false false ∈ (fencedReq z now r).out ∧ (fencedReq z now r).jreq = z.jreq := by
  obtain ⟨x, one, rid⟩ := dropEnt_only only
  obtain ⟨_, jreq⟩ := dropEnt_frame (z := z) (r := r)
  have answer : fencedReq z now r = endReq (send (dropEnt z r) (.data r.port r.tag r.addr 0 true 0 false false)) (homeOf r.crs) r.rid := by
    unfold fencedReq respondData respondLine
    rw [read, own, alive]
    rfl
  rw [answer]
  generalize dropEnt z r = y at one jreq ⊢
  obtain ⟨hrq, out, jreq'⟩ := endReq_only (z := send y (.data r.port r.tag r.addr 0 true 0 false false)) (h := homeOf r.crs) (r := x) one
  rw [rid] at hrq out jreq'
  exact ⟨hrq, by rw [out]; exact List.mem_append_right _ List.mem_cons_self, jreq'.trans jreq⟩

/-! ### Footing lines -/

theorem dirBad_homes (k : Nat) : (dirBad z now h k).homes = z.homes := by
  unfold dirBad
  split
  · rfl
  · exact bumpN_homes ..

/-- A drain's footing line that comes back waits to be merged. -/
theorem ftgReturn_drain {f : FtgRd} {d : Line} (found : z.homes[h].ftgs.find? (fun f => f.got.isSome) = some f) (got : f.got = some (d, false)) (drain : f.rid = 0) :
    (ftgReturn z now h).homes[h].ftgs = removeFirst (fun x => x.id == f.id) z.homes[h].ftgs ∧
      (ftgReturn z now h).homes[h].fwb =
        replaceFirst (fun x => x.crs == f.crs && x.ftg == f.ftg && x.drain == 1) (fun x => { x with drain := 2, rd := (drainLine z h f.crs f.ftg d false).1 }) z.homes[h].fwb := by
  unfold ftgReturn
  rw [found]
  dsimp only
  rw [got, Option.getD_some]
  dsimp only
  simp only [Bool.false_eq_true, if_false, drain, if_true]
  rw [modHome_same, dirBad_homes, modHome_same]
  exact ⟨rfl, rfl⟩

/-- A merged footing line goes to its course. -/
theorem drainStep_merged {w : Fwb} (found : z.homes[homeOf w.crs].fwb.find? (fun x => x.drain == 2 && decide (0 < z.homes[homeOf w.crs].wrFree[crsIdx x.crs])) = some w)
    (on : powered z w.crs = true) :
    (drainStep z now (homeOf w.crs)).homes[homeOf w.crs].fwb = removeFirst (fun y => y.crs == w.crs && y.ftg == w.ftg && y.drain == 2) z.homes[homeOf w.crs].fwb ∧
      (drainStep z now (homeOf w.crs)).jreq[w.crs] = z.jreq[w.crs] ++ [⟨0, true, w.ftg, mergeBytes w.rd w.data w.mask, z.cinfo[w.crs].fence != 0, 24, false, true⟩] := by
  unfold drainStep
  dsimp only
  rw [found]
  dsimp only
  have k : LookKept (homeOf w.crs) (modHome z (homeOf w.crs) (fun h => { h with fwb := removeFirst (fun y => y.crs == w.crs && y.ftg == w.ftg && y.drain == 2) h.fwb }))
    (bump (modHome z (homeOf w.crs) (fun h => { h with fwb := removeFirst (fun y => y.crs == w.crs && y.ftg == w.ftg && y.drain == 2) h.fwb })) now
      (homeBase (homeOf w.crs).val + 0x3080)) := lookKept_bump (by decide) now
  have fwb : (bump (modHome z (homeOf w.crs) (fun h => { h with fwb := removeFirst (fun y => y.crs == w.crs && y.ftg == w.ftg && y.drain == 2) h.fwb })) now
      (homeBase (homeOf w.crs).val + 0x3080)).homes[homeOf w.crs].fwb = removeFirst (fun y => y.crs == w.crs && y.ftg == w.ftg && y.drain == 2) z.homes[homeOf w.crs].fwb := by
    rw [bump_homes, modHome_same]
  generalize bump (modHome z (homeOf w.crs) (fun h => { h with fwb := removeFirst (fun y => y.crs == w.crs && y.ftg == w.ftg && y.drain == 2) h.fwb })) now
    (homeBase (homeOf w.crs).val + 0x3080) = y at k fwb ⊢
  unfold toCourse
  rw [if_pos (show powered (takeEnt y w.crs true 1) w.crs = true by change powered y w.crs = true; unfold powered; rw [k.boot, k.cinfo]; exact on)]
  refine ⟨?_, ?_⟩
  · unfold takeEnt
    dsimp only
    rw [modHome_same]
    exact fwb
  · refine (modV_same ..).trans ?_
    rw [show (takeEnt y w.crs true 1).jreq = z.jreq from k.jreq, k.cinfo]
    rfl

/-- The poisoned answer of a course without power, over the counted discard. -/
def offAnswer (z y x : Zmc) (c : CourseId) (q : JReq) : Zmc :=
  if q.write then { x with jsts := modV y.jsts c (fun l => l ++ [if q.wb then .wb else .wr, .served q.id]) }
  else { y with jdat := modV y.jdat c (fun l => l ++ [⟨q.id, q.line, 0, true, false, false⟩]), jsts := modV y.jsts c (fun l => l ++ [.served q.id]) }

theorem toCourse_off {z : Zmc} {now : Nat} {c : CourseId} {q : JReq} (h : powered z c = false) : toCourse z now c q =
    offAnswer z (jDiscard z now (16 + (homeOf c).val)) (bumpN (jDiscard z now (16 + (homeOf c).val)) now (crsBase c.val + 0x08E0) 16 1) c q := by
  unfold toCourse
  rw [if_neg (by rw [h]; decide)]
  rfl

theorem offAnswer_homes {z y x : Zmc} (c : CourseId) (q : JReq) (lost : y.homes = z.homes) (missed : x.homes = y.homes) : (offAnswer z y x c q).homes = z.homes := by
  unfold offAnswer
  split
  · exact missed.trans lost
  · exact lost

theorem toCourse_homes (c : CourseId) (q : JReq) : (toCourse z now c q).homes = z.homes := by
  cases h : powered z c with
  | true =>
    unfold toCourse
    rw [if_pos h]
  | false =>
    rw [toCourse_off h]
    exact offAnswer_homes c q (jDiscard_homes ..) (bumpN_homes ..)

theorem length_replaceFirst {α : Type} (p : α → Bool) (f : α → α) (l : List α) : (replaceFirst p f l).length = l.length := by
  simpa using congrArg List.length (replaceFirst_map p f (fun _ => ()) (fun _ => rfl) l)

/-- The oldest drain that may start reads its footing line. -/
theorem drainStep_starts {w : Fwb} (merged : z.homes[homeOf w.crs].fwb.find? (fun x => x.drain == 2 && decide (0 < z.homes[homeOf w.crs].wrFree[crsIdx x.crs])) = none)
    (few : (z.homes[homeOf w.crs].fwb.filter (fun x => x.drain != 0)).length < 4)
    (found : z.homes[homeOf w.crs].fwb.find? (fun x => x.drain == 0 && !(z.homes[homeOf w.crs].fwb.filter (fun x => x.drain != 0)).any (fun y => y.crs == x.crs && y.ftg == x.ftg) &&
      z.cinfo[x.crs].fence == 0 && decide (0 < z.homes[homeOf w.crs].rdFree[crsIdx x.crs])) = some w) :
    (drainStep z now (homeOf w.crs)).homes[homeOf w.crs].ftgs = z.homes[homeOf w.crs].ftgs ++ [⟨z.homes[homeOf w.crs].ridNext, w.crs, w.ftg, 0, none⟩] ∧
      (drainStep z now (homeOf w.crs)).homes[homeOf w.crs].fwb.length = z.homes[homeOf w.crs].fwb.length ∧
      (drainStep z now (homeOf w.crs)).homes[homeOf w.crs].rdFree[crsIdx w.crs] + 1 = z.homes[homeOf w.crs].rdFree[crsIdx w.crs] := by
  have room : 0 < z.homes[homeOf w.crs].rdFree[crsIdx w.crs] := of_decide_eq_true (Bool.and_eq_true_iff.1 (List.find?_some found :)).2
  unfold drainStep
  dsimp only
  rw [merged]
  dsimp only
  rw [if_neg (by omega), found]
  dsimp only
  unfold footingRead
  dsimp only
  rw [toCourse_homes, modHome_same]
  unfold takeEnt
  rw [modHome_same, modHome_same]
  refine ⟨rfl, length_replaceFirst .., ?_⟩
  dsimp only
  rw [if_neg (by decide)]
  dsimp only
  rw [modV_same]
  omega

end

end Sys2Proof.Machine

namespace Sys2Proof.Proofs
open Sys2Proof.Machine

/-- Settles O35: a lookup that hits sends its read or poisons it, and footing lines come back, are merged and are read. -/
theorem lookupsAndFootings : Obligations.LookupsAndFootings := by
  unfold Obligations.LookupsAndFootings
  refine ⟨?_, ?_⟩
  · intro s n h r k e hr z only own holds may mirror orphan port
    subst own z
    have looked (x : Nat) := lookupOldest_only (z := (before s n).z) only holds (now := (before s n).now) may
    refine ⟨fun free on mir kind first spec room found here byte => ?_, fun fence mir read => ?_⟩
    · refine gives_home (exec_requestLookup ..) hr (fun t _ tz => ?_)
      rw [show lookupOldest (before s n).z (max s.sys.now n) (homeOf r.crs) = _ from looked 0] at tz
      obtain ⟨hrq, jreq, dir⟩ := lookReq_uncached (now := (before s n).now) only mirror port free on mir kind first spec room found here byte
      rw [tz.homes, tz.jreq]
      exact ⟨hrq, jreq, dir⟩
    · refine gives_all (exec_requestLookup ..) (fun t _ tz out _ => ?_)
      rw [ifHome_run (by simpa [before] using hr)] at tz out
      dsimp only at tz out
      rw [looked 0, lookReq_fenced fence mir] at tz out
      obtain ⟨hrq, said, jreq⟩ := fencedReq_poisons (now := (before s n).now) only read mirror orphan
      rw [tz.homes, tz.jreq]
      exact ⟨hrq, out _ said, jreq⟩
  · intro s n h f d w hr z m running
    subst running m z
    refine ⟨fun found got drain => ?_, fun found own on => ?_, fun merged few found own => ?_⟩
    · refine gives_home (exec_footingDataReturn ..) hr (fun t _ tz => ?_)
      rw [tz.homes]
      exact ftgReturn_drain found got drain
    · subst own
      refine gives_home (exec_footingDrain ..) hr (fun t _ tz => ?_)
      rw [tz.homes, tz.jreq]
      exact drainStep_merged found on
    · subst own
      refine gives_home (exec_footingDrain ..) hr (fun t _ tz => ?_)
      rw [tz.homes]
      exact drainStep_starts merged few found

end Sys2Proof.Proofs

/-! SUPPORT. Writebacks (R125, R136), snoops (R134, R135) and hold windows (R137). -/

namespace Sys2Proof.Machine

section
variable {z : Zmc} {h : HomeId} {now : Nat} {r : HReq}

theorem homesRun_hold (hr : homesRun z = true) : z.boot.hold = 0 ∧ z.pwr.st < 3 := by
  unfold homesRun at hr
  obtain ⟨a, st⟩ := Bool.and_eq_true_iff.1 hr
  exact ⟨beq_iff_eq.1 (Bool.and_eq_true_iff.1 a).1, of_decide_eq_true st⟩

/-! ### Writebacks -/

/-- The writeback as its home's queue holds it. -/
def wbQueued (now : Nat) (p : PortId) (k : WbKind) (addr : BitVec 64) (d : Line) (key : BitVec 10) (poison : Bool) (x : HomeSt) : HomeSt :=
  { x with wbq := x.wbq ++ [⟨none, p, k, addr, d, key, poison, now⟩], wbCred := modV x.wbCred p (fun n => n - 1), gated := false }

/-- A writeback of a live port with a credit joins the queue of its home. -/
theorem wbArrive_queued {p : PortId} {k : WbKind} {addr : BitVec 64} {d : Line} {key : BitVec 10} {poison : Bool} (hr : homesRun z = true)
    (home : (([0, 1] : List (Fin 2)).find? (fun h => (decodeAddr z h addr.toNat).isSome)).getD 0 = h) (live : liveFinal z p = true) (credit : z.homes[h].wbCred[p] ≠ 0)
    (run : z.boot.phase = 7) : wbArrive z now p k addr d key poison = modHome (wakeHomes z) h (wbQueued now p k addr d key poison) := by
  obtain ⟨hold, st⟩ := homesRun_hold hr
  subst home
  have go : ¬((!liveFinal z p) = true ∨ z.homes[(([0, 1] : List (Fin 2)).find? (fun h => (decodeAddr z h addr.toNat).isSome)).getD 0].wbCred[p] = 0 ∨ z.boot.phase ≠ 7 ∨
      z.boot.hold ≠ 0 ∨ 3 ≤ z.pwr.st) := by
    rintro (k | k | k | k | k)
    · rw [live] at k; exact absurd k (by decide)
    · exact credit k
    · exact k run
    · exact k hold
    · omega
  unfold wbArrive
  exact if_neg go

theorem wbArrive_waits {p : PortId} {k : WbKind} {addr : BitVec 64} {d : Line} {key : BitVec 10} {poison : Bool} {y : Zmc} (same : y.homes = z.homes)
    (credit : z.homes[h].wbCred[p] ≠ 0) : (modHome y h (wbQueued now p k addr d key poison)).homes[h].wbq = z.homes[h].wbq ++ [⟨none, p, k, addr, d, key, poison, now⟩] ∧
      (modHome y h (wbQueued now p k addr d key poison)).homes[h].wbCred[p] + 1 = z.homes[h].wbCred[p] := by
  rw [modHome_same, same]
  refine ⟨rfl, ?_⟩
  unfold wbQueued
  dsimp only
  rw [modV_same]
  omega

theorem wakeHomes_homes : (wakeHomes z).homes = z.homes := by unfold wakeHomes; split <;> rfl

theorem decodeAddr_home {a loc : Nat} {c : CourseId} (e : decodeAddr z h a = some (c, loc)) : homeOf c = h := by
  unfold decodeAddr at e
  split at e
  · cases e
  · dsimp only at e
    split at e
    · split at e
      · cases e
      · rename_i own
        repeat' split at e
        all_goals first | (injection e with e; injection e with e1 e2; exact e1 ▸ not_not.1 own) | cases e
    · cases e

/-! ### A clean writeback of the owner is merged -/

theorem dirWay_put {x : HomeSt} {c : CourseId} {line k : Nat} {e e' : DirEnt} (found : tblFind x.dir k = some e) (tag : e'.tag = e.tag) :
    dirWay { x with dir := tblPut x.dir k e' } c line = dirWay x c line := by
  unfold dirWay
  dsimp only
  refine List.find?_congr (fun w _ => ?_)
  by_cases same : 16 * (dirIdx c line).1 + w = k
  · rw [same, tblFind_put_eq, found]
    dsimp only
    rw [tag]
  · rw [tblFind_put_ne same]

theorem dirEntry_put {x : HomeSt} {c : CourseId} {line k : Nat} {e e' : DirEnt} (found : dirEntry x c line = some (k, e)) (tag : e'.tag = e.tag) :
    dirEntry { x with dir := tblPut x.dir k e' } c line = some (k, e') := by
  unfold dirEntry at found ⊢
  cases way : dirWay x c line with
  | none => rw [way] at found; cases found
  | some w =>
    rw [way] at found
    dsimp only at found
    obtain ⟨e0, at_, pair⟩ := Option.map_eq_some_iff.1 found
    injection pair with hk he
    subst hk he
    rw [dirWay_put at_ tag, way]
    dsimp only
    rw [tblFind_put_eq]
    rfl

/-- A directory byte that is set reads as it was set. -/
theorem dirByte_dirSet {c : CourseId} {line : Nat} {b : Byte} (here : dirByte z.homes[h] c line = some b) (s : DState) :
    dirByte (dirSet z h c line s).homes[h] c line = some (dirEnc s) := by
  unfold dirSet
  rw [modHome_same]
  unfold dirByte at here ⊢
  cases found : dirEntry z.homes[h] c line with
  | none => rw [found] at here; cases here
  | some p =>
    obtain ⟨k, e⟩ := p
    rw [found] at here
    dsimp only at here ⊢
    have live : e.pend = false := by
      cases pend : e.pend with
      | true => rw [pend, if_pos rfl] at here; cases here
      | false => rfl
    by_cases already : e.bytes[toFin 4 (by decide) (line % 4)] = dirEnc s
    · rw [if_pos already, found]
      dsimp only
      rw [live, already]
      rfl
    · rw [if_neg already, dirEntry_put (e' := { e with bytes := modV e.bytes (toFin 4 (by decide) (line % 4)) (fun _ => dirEnc s), dirty := true }) found rfl]
      dsimp only
      rw [live, modV_same]
      rfl

theorem dirSet_frame (c : CourseId) (line : Nat) (s : DState) : (dirSet z h c line s).homes[h].wbq = z.homes[h].wbq ∧ (dirSet z h c line s).homes[h].wbCred = z.homes[h].wbCred ∧
    (dirSet z h c line s).homes[h].hrq = z.homes[h].hrq := by
  unfold dirSet
  rw [modHome_same]
  split
  · dsimp only
    split
    · exact ⟨rfl, rfl, rfl⟩
    · exact ⟨rfl, rfl, rfl⟩
  · exact ⟨rfl, rfl, rfl⟩

/-- A writeback that may be merged now. -/
def mergeable (z : Zmc) (now : Nat) (h : HomeId) (w : WbMsg) : Bool :=
  w.ans.isNone && decide (w.at_ + 6 * tuFck ≤ now) &&
    (match decodeAddr z h w.addr.toNat with
     | some (c, _) => !(retesting z c && z.cinfo[c].fence != 0) && (z.cinfo[c].fence != 0 || w.kind == .wbClean || decide (0 < z.homes[h].wbFree[crsIdx c]))
     | none => true)

section
variable {w : WbMsg} {c : CourseId} {loc : Nat} {b : Byte}

theorem mergeable_clean (first : w.ans = none) (kind : w.kind = .wbClean) (old : w.at_ + 6 * tuFck ≤ now) (at_ : decodeAddr z h w.addr.toNat = some (c, loc))
    (free : z.cinfo[c].fence = 0) : mergeable z now h w = true := by
  unfold mergeable
  rw [at_]
  dsimp only
  rw [first, kind, free, decide_eq_true old]
  simp

theorem wbDone_frame (only : z.homes[h].wbq = [w]) (hid : homeOf c = h) : (wbDone z h w).homes[homeOf c].wbq = [] ∧
    (wbDone z h w).homes[homeOf c].wbCred[w.port] = z.homes[h].wbCred[w.port] + 1 ∧ ∀ line, dirByte (wbDone z h w).homes[homeOf c] c line = dirByte z.homes[h] c line := by
  subst hid
  unfold wbDone
  rw [modHome_same]
  refine ⟨?_, modV_same .., fun _ => rfl⟩
  dsimp only
  rw [only, List.erase_cons_head]

theorem wbDir_owner {line : Nat} (here : dirByte z.homes[h] c line = some b) (own : (dirDec b).1 = .owned w.port) (kind : w.kind = .wbClean) :
    wbApply z now h c line w = dirSet z h c line .uncached := by
  have kept : wbDir z now h c line w.port w.kind = (dirSet z h c line .uncached, false) := by
    unfold wbDir
    rw [here, Option.map_some, own]
    dsimp only
    rw [if_pos rfl, kind]
    rfl
  unfold wbApply
  rw [here]
  dsimp only
  rw [kept]
  rfl

theorem endHold_home (c : CourseId) (line : Nat) (p : PortId) : (endHold z c line p).homes[homeOf c] =
    { z.homes[homeOf c] with holds := z.homes[homeOf c].holds.filter (fun w => !(w.crs == c && w.line == line && w.port == p)) } := modHome_same ..

/-- What a merged writeback does to its line. -/
def wbPut (z : Zmc) (now : Nat) (h : HomeId) (w : WbMsg) : Zmc :=
  match decodeAddr z h w.addr.toNat with
  | some (c, loc) =>
      if z.cinfo[c].fence ≠ 0 then (if w.kind = .wbDirty then bumpN z now (crsBase c.val + 0x08E0) 16 1 else z)
      else endHold (wbApply z now h c (loc / 64) w) c (loc / 64) w.port
  | none => protoCnt z now h

def wbAcked (z : Zmc) (w : WbMsg) : Zmc := if liveFinal z w.port then send z (.wbAck w.port w.addr) else z

/-- The snoop answers that waited behind the writeback are taken. -/
def wbFollow (z : Zmc) (now : Nat) (h : HomeId) (w : WbMsg) : Zmc :=
  if wbHeld z h w.port w.addr then z
  else (z.homes[h].wbq.filter (fun x => x.ans.isSome && x.port == w.port && x.addr.toNat / 64 == w.addr.toNat / 64)).foldl (fun z x =>
    match x.ans with
    | some a => snoopTake (wbDone z h x) now x.port a x.addr x.data
    | none => z) z

theorem wbMerge_found (found : z.homes[h].wbq.find? (mergeable z now h) = some w) :
    wbMerge z now h = wbFollow (wbAcked (wbPut (wbDone z h w) now h w) w) now h w := by
  unfold wbMerge
  dsimp only
  split
  · rename_i none
    exact absurd (found.symm.trans none) (by simp)
  · rename_i w' some
    obtain rfl : w = w' := Option.some.inj (found.symm.trans some)
    rfl

theorem wbFollow_none (empty : z.homes[h].wbq = []) : wbFollow z now h w = z := by
  unfold wbFollow wbHeld
  rw [empty]
  rfl

/-- The clean writeback of a line's owner, the only one that waits, leaves the line UNCACHED. -/
theorem wbMerge_clean (only : z.homes[homeOf c].wbq = [w]) (first : w.ans = none) (kind : w.kind = .wbClean) (old : w.at_ + 6 * tuFck ≤ now)
    (at_ : decodeAddr z (homeOf c) w.addr.toNat = some (c, loc)) (free : z.cinfo[c].fence = 0) (here : dirByte z.homes[homeOf c] c (loc / 64) = some b)
    (own : (dirDec b).1 = .owned w.port) (live : liveFinal z w.port = true) :
    wbMerge z now (homeOf c) = send (endHold (dirSet (wbDone z (homeOf c) w) (homeOf c) c (loc / 64) .uncached) c (loc / 64) w.port) (.wbAck w.port w.addr) := by
  have found : z.homes[homeOf c].wbq.find? (mergeable z now (homeOf c)) = some w := by
    rw [only, List.find?_cons_of_pos (mergeable_clean first kind old at_ free)]
  have decoded : decodeAddr (wbDone z (homeOf c) w) (homeOf c) w.addr.toNat = some (c, loc) := at_
  obtain ⟨empty, _, bytes⟩ := wbDone_frame (c := c) only rfl
  have applied := wbDir_owner (z := wbDone z (homeOf c) w) (now := now) (h := homeOf c) ((bytes _).trans here) own kind
  have fence : ¬(wbDone z (homeOf c) w).cinfo[c].fence ≠ 0 := not_not.2 free
  have alive : liveFinal (endHold (dirSet (wbDone z (homeOf c) w) (homeOf c) c (loc / 64) .uncached) c (loc / 64) w.port) w.port = true := live
  have queue : (send (endHold (dirSet (wbDone z (homeOf c) w) (homeOf c) c (loc / 64) .uncached) c (loc / 64) w.port) (.wbAck w.port w.addr)).homes[homeOf c].wbq = [] := by
    simp only [send_homes, endHold_home]
    exact (dirSet_frame (z := wbDone z (homeOf c) w) c (loc / 64) .uncached).1.trans empty
  have put : wbPut (wbDone z (homeOf c) w) now (homeOf c) w = endHold (dirSet (wbDone z (homeOf c) w) (homeOf c) c (loc / 64) .uncached) c (loc / 64) w.port := by
    unfold wbPut
    rw [decoded]
    dsimp only
    rw [if_neg fence, applied]
  rw [wbMerge_found found, put, wbAcked, if_pos alive, wbFollow_none queue]

theorem wbMerge_merged (only : z.homes[h].wbq = [w]) (first : w.ans = none) (kind : w.kind = .wbClean) (old : w.at_ + 6 * tuFck ≤ now)
    (at_ : decodeAddr z h w.addr.toNat = some (c, loc)) (free : z.cinfo[c].fence = 0) (here : dirByte z.homes[h] c (loc / 64) = some b)
    (own : (dirDec b).1 = .owned w.port) (live : liveFinal z w.port = true) :
    (wbMerge z now h).homes[h].wbq = [] ∧ (wbMerge z now h).homes[h].wbCred[w.port] = z.homes[h].wbCred[w.port] + 1 ∧
      dirByte (wbMerge z now h).homes[h] c (loc / 64) = some 0 ∧ OutMsg.wbAck w.port w.addr ∈ (wbMerge z now h).out := by
  have home := decodeAddr_home at_
  subst home
  rw [wbMerge_clean only first kind old at_ free here own live]
  obtain ⟨empty, credit, bytes⟩ := wbDone_frame (c := c) only rfl
  have byte := dirByte_dirSet ((bytes _).trans here) .uncached
  obtain ⟨wbq, cred, _⟩ := dirSet_frame (z := wbDone z (homeOf c) w) (h := homeOf c) c (loc / 64) .uncached
  generalize dirSet (wbDone z (homeOf c) w) (homeOf c) c (loc / 64) .uncached = y at byte wbq cred ⊢
  have held : (send (endHold y c (loc / 64) w.port) (.wbAck w.port w.addr)).homes[homeOf c] =
      { y.homes[homeOf c] with holds := y.homes[homeOf c].holds.filter (fun q => !(q.crs == c && q.line == loc / 64 && q.port == w.port)) } := by
    simp only [send_homes, endHold_home]
  rw [held]
  refine ⟨wbq.trans empty, ?_, byte, List.mem_append_right _ List.mem_cons_self⟩
  dsimp only
  rw [cred, credit]

end

/-! ### Snoops and hold windows -/

theorem modReq_home (rid : Nat) (f : HReq → HReq) : (modReq z h rid f).homes[h] = { z.homes[h] with hrq := replaceFirst (fun q => q.rid == rid) f z.homes[h].hrq } := modHome_same ..

/-- An answer with data is noted while other snoops are outstanding. -/
theorem snoopAnswer_noted {p : PortId} {line : Line} (found : z.homes[(0 : Fin 2)].hrq.find? (fun q => q.ph == .snoop && q.addr.toNat / 64 == r.addr.toNat / 64 && q.snps.any (fun x => x.1 == p)) = some r)
    (home : homeOf r.crs = 0) (others : r.snps.any (fun x => x.1 != p) = true) (credit : z.homes[(0 : Fin 2)].wbCred[p] ≠ 0) (free : wbHeld z 0 p r.addr = false) :
    snoopAnswer z now p .dataInv r.addr line = modReq z 0 r.rid (fun _ => { r with snps := r.snps.filter (fun x => x.1 != p), snpData := some line }) := by
  have req : snoopReq z p r.addr = some r := by
    unfold snoopReq
    rw [List.findSome?_cons, found]
  have left : (r.snps.filter (fun x => x.1 != p)).isEmpty = false := by
    obtain ⟨x, mem, ne⟩ := List.any_eq_true.1 others
    exact List.isEmpty_eq_false_iff.2 (List.ne_nil_of_mem (List.mem_filter.2 ⟨mem, ne⟩))
  have take : snoopTake z now p .dataInv r.addr line = modReq z (homeOf r.crs) r.rid (fun _ => { r with snps := r.snps.filter (fun x => x.1 != p), snpData := some line }) := by
    unfold snoopTake
    rw [req]
    dsimp only
    rw [left]
    rfl
  unfold snoopAnswer
  rw [req]
  dsimp only
  have credit' : z.homes[homeOf r.crs].wbCred[p] ≠ 0 := by simp only [home]; exact credit
  have free' : ¬wbHeld z (homeOf r.crs) p r.addr = true := by rw [home, free]; decide
  rw [if_neg credit', if_neg free', take, home]

theorem removeFirst_replaceFirst {α : Type} {p : α → Bool} {f : α → α} (same : ∀ a, p (f a) = p a) (l : List α) : removeFirst p (replaceFirst p f l) = removeFirst p l := by
  induction l with
  | nil => rfl
  | cons a l ih =>
    cases e : p a with
    | true => rw [replaceFirst, if_pos e, removeFirst_cons ((same a).trans e), removeFirst_cons e]
    | false => rw [replaceFirst, if_neg (by rw [e]; decide), removeFirst, removeFirst, if_neg (by rw [e]; decide), if_neg (by rw [e]; decide), ih]

theorem modHome_hrq (d : HomeId) {f : HomeSt → HomeSt} (kept : ∀ x, (f x).hrq = x.hrq) : (modHome z d f).homes[h].hrq = z.homes[h].hrq := by
  by_cases e : h = d
  · subst e
    rw [modHome_same, kept]
  · rw [modHome_other _ _ e]

theorem endReq_gone (rid : Nat) : (endReq z h rid).homes[h].hrq = removeFirst (fun q => q.rid == rid) z.homes[h].hrq := by
  have kept (c : CourseId) (f : Gate → Gate) : (modGate z c f).homes[h].hrq = z.homes[h].hrq := modHome_hrq _ (fun _ => rfl)
  have ended : ∀ y : Zmc, y.homes[h].hrq = z.homes[h].hrq →
      (modHome y h (fun x => { x with hrq := removeFirst (fun q => q.rid == rid) x.hrq })).homes[h].hrq = removeFirst (fun q => q.rid == rid) z.homes[h].hrq := by
    intro y same
    rw [modHome_same]
    exact congrArg _ same
  unfold endReq
  refine ended _ ?_
  split
  · split
    · rfl
    · exact kept _ _
  · rfl

theorem endReq_out (rid : Nat) : (endReq z h rid).out = z.out := by
  unfold endReq
  dsimp only
  split
  · split <;> rfl
  · rfl

theorem modReq_gone {rid : Nat} {f : HReq → HReq} (kept : ∀ x, (f x).rid = x.rid) :
    removeFirst (fun q => q.rid == rid) (modReq z h rid f).homes[h].hrq = removeFirst (fun q => q.rid == rid) z.homes[h].hrq := by
  rw [modReq_home]
  exact removeFirst_replaceFirst (f := f) (fun a => by rw [kept]) _

theorem dropEnt_gone : removeFirst (fun q => q.rid == r.rid) (dropEnt z r).homes[homeOf r.crs].hrq = removeFirst (fun q => q.rid == r.rid) z.homes[homeOf r.crs].hrq := by
  unfold dropEnt
  split
  · rw [modReq_gone (f := fun x => { x with ent := false }) (fun _ => rfl)]
    have given : (giveEnt z r.crs (isWr r.kind) 1).homes[homeOf r.crs].hrq = z.homes[homeOf r.crs].hrq := modHome_hrq _ (fun x => by split <;> rfl)
    rw [given]
  · rfl

theorem memWrite_hrq (c : CourseId) (q : JReq) : (memWrite z now c q).homes[h].hrq = z.homes[h].hrq := by
  unfold memWrite
  dsimp only
  split
  · exact modHome_hrq _ (fun _ => rfl)
  · exact (congrArg (fun v : Vector HomeSt 2 => v[h].hrq) (toCourse_homes ..)).trans (modHome_hrq _ (fun _ => rfl))

theorem mirrorWr_homes (k : Nat) (a : BitVec 64) (d : Line) (poison : Bool) : (mirrorWr z now k a d poison).homes = z.homes := by
  unfold mirrorWr
  dsimp only
  rw [bump_homes]
  rfl

theorem respondData_poison (alive : r.orphan = false) (own : r.mirror = false) : respondData z now { r with grant := 0 } 0 true false =
    endReq (send z (.data r.port r.tag r.addr 0 true 0 false false)) (homeOf r.crs) r.rid := by
  unfold respondData respondLine
  dsimp only
  rw [alive, own]
  rfl

/-- A read whose snoop is not answered in time ends with poison. -/
theorem snoopTimeout_read (found : z.homes[h].hrq.find? (fun q => q.ph == .snoop && q.snps.any (fun x => decide (x.2 + getF z (homeBase h.val + 0x3000) 21 14 * tuPerUs ≤ now))) = some r)
    (home : homeOf r.crs = h) (read : isWr r.kind = false) (own : r.mirror = false) (alive : r.orphan = false) :
    (snoopTimeout z now h).homes[h].hrq = removeFirst (fun q => q.rid == r.rid) z.homes[h].hrq ∧
      OutMsg.data r.port r.tag r.addr 0 true 0 false false ∈ (snoopTimeout z now h).out := by
  subst home
  have ends (y : Zmc) (gone : removeFirst (fun q => q.rid == r.rid) y.homes[homeOf r.crs].hrq = removeFirst (fun q => q.rid == r.rid) z.homes[homeOf r.crs].hrq) :
      (respondData y now { r with grant := 0 } 0 true false).homes[homeOf r.crs].hrq = removeFirst (fun q => q.rid == r.rid) z.homes[homeOf r.crs].hrq ∧
        OutMsg.data r.port r.tag r.addr 0 true 0 false false ∈ (respondData y now { r with grant := 0 } 0 true false).out := by
    rw [respondData_poison alive own, endReq_gone, endReq_out]
    exact ⟨gone, List.mem_append_right _ List.mem_cons_self⟩
  unfold snoopTimeout
  dsimp only
  rw [found]
  dsimp only
  rw [read, if_neg (by decide)]
  refine ends _ ?_
  have counted : (evPost (post (bump z now (homeBase (homeOf r.crs).val + 0x3068)) now (homeBase (homeOf r.crs).val + 0x3008) 2) now 0x0032 (16 + (homeOf r.crs).val) r.crs.val
      (fmtB r.port.val ((r.snps.filter (fun x => decide (x.2 + getF z (homeBase (homeOf r.crs).val + 0x3000) 21 14 * tuPerUs ≤ now))).headD (0, 0)).1.val r.addr)).homes = z.homes := by
    rw [evPost_homes, post_homes, bump_homes]
  generalize evPost _ _ _ _ _ _ = y at counted ⊢
  obtain ⟨_, _, cleared⟩ := dirSet_frame (z := y) (h := homeOf r.crs) r.crs r.line .uncached
  generalize dirSet y (homeOf r.crs) r.crs r.line .uncached = u at cleared ⊢
  have written := memWrite_hrq (z := dropEnt u r) (h := homeOf r.crs) (now := now) r.crs
    { id := 0, write := true, line := r.line, data := 0, poison := true, port := r.port.val, wb := true, ftg := false }
  generalize memWrite (dropEnt u r) now r.crs _ = v at written ⊢
  have gone : removeFirst (fun q => q.rid == r.rid) v.homes[homeOf r.crs].hrq = removeFirst (fun q => q.rid == r.rid) z.homes[homeOf r.crs].hrq := by
    rw [written, dropEnt_gone, cleared, counted]
  split
  · rw [mirrorWr_homes]
    exact gone
  · exact gone

theorem holdEnd_ends {w : HoldW} (found : z.homes[homeOf w.crs].holds.find? (fun q => decide (q.endAt ≤ now)) = some w) : holdEnd z now (homeOf w.crs) = endHold z w.crs w.line w.port := by
  unfold holdEnd
  rw [found]

end

end Sys2Proof.Machine

namespace Sys2Proof.Proofs
open Sys2Proof.Machine

/-- Settles O36: writebacks wait and are merged, snoops are answered or time out, and a hold window ends. -/
theorem writebacksAndSnoops : Obligations.WritebacksAndSnoops := by
  unfold Obligations.WritebacksAndSnoops
  refine ⟨?_, ?_⟩
  · intro s n p k addr d key poison h w c loc b hr z now
    subst now z
    have hr' : homesRun (before s n).z = true := by simpa [before] using hr
    refine ⟨fun home live credit run => ?_, fun only first kind old at_ free here own live => ?_⟩
    · refine gives_home (exec_writeback ..) hr (fun t _ tz => ?_)
      rw [wbArrive_queued hr' home live credit run] at tz
      rw [tz.homes]
      exact wbArrive_waits wakeHomes_homes credit
    · refine gives_all (exec_writebackMerge ..) (fun t _ tz out _ => ?_)
      rw [ifHome_run hr'] at tz out
      obtain ⟨wbq, credit, byte, said⟩ := wbMerge_merged only first kind old at_ free here own live
      rw [tz.homes]
      exact ⟨wbq, credit, byte, out _ said⟩
  · intro s n h r p w line hr z now lim
    subst lim now z
    have hr' : homesRun (before s n).z = true := by simpa [before] using hr
    refine ⟨fun found home others credit free => ?_, fun found home read own alive _ => ?_, fun found home => ?_⟩
    · refine gives_home (exec_snoopResponse ..) hr (fun t _ tz => ?_)
      rw [snoopAnswer_noted found home others credit free] at tz
      rw [tz.homes]
      exact ⟨congrArg HomeSt.hrq (modReq_home ..), modHome_other _ _ (by decide)⟩
    · refine gives_all (exec_snoopTimeout ..) (fun t _ tz out _ => ?_)
      rw [ifHome_run hr'] at tz out
      obtain ⟨hrq, said⟩ := snoopTimeout_read found home read own alive
      rw [tz.homes]
      exact ⟨hrq, out _ said⟩
    · subst home
      refine gives_home (exec_holdWindowEnd ..) hr (fun t _ tz => ?_)
      have ends : holdEnd (before s n).z (max s.sys.now n) (homeOf w.crs) = _ := holdEnd_ends found
      rw [ends] at tz
      rw [tz.homes, endHold_home]
      exact ⟨rfl, rfl⟩

end Sys2Proof.Proofs

/-! SUPPORT. Lines and credits that come back from a course (R118, R134, R145). -/

namespace Sys2Proof.Machine

/-- The joints of data and of statuses stay. -/
structure JointsKept (z y : Zmc) : Prop where
  jdat : y.jdat = z.jdat
  jsts : y.jsts = z.jsts

section
variable {z y : Zmc} {now : Nat} {r : HReq}

theorem JointsKept.refl (z : Zmc) : JointsKept z z := ⟨rfl, rfl⟩

theorem JointsKept.trans {x : Zmc} (p : JointsKept x y) (q : JointsKept y z) : JointsKept x z := ⟨q.jdat.trans p.jdat, q.jsts.trans p.jsts⟩

theorem RgOnly.joints (k : RgOnly z y) : JointsKept z y := ⟨k.jdat, k.jsts⟩

theorem modHome_joints (h : HomeId) (f : HomeSt → HomeSt) : JointsKept z (modHome z h f) := ⟨rfl, rfl⟩

theorem dropOrphan_joints (b : BayId) (p : PortId) : JointsKept z (dropOrphan z now b p) := by
  unfold dropOrphan
  exact ((rgOnly_bump ..).joints.trans (rgOnly_setF ..).joints).trans (rgOnly_post ..).joints

theorem countHeld_joints (h : HomeId) : JointsKept z (countHeld z now h) := by
  have step : ∀ (l : List HReq) (z : Zmc), JointsKept z (l.foldl (fun z r =>
      if r.ph == .look && decide (r.dueAt ≤ now) && !r.holdCnt && !r.mirror && z.homes[h].holds.any (fun w => w.crs == r.crs && w.line == r.line && w.port != r.port) then
        modReq (bump z now (homeBase h.val + 0x3070)) h r.rid (fun x => { x with holdCnt := true })
      else z) z) := by
    intro l
    induction l with
    | nil => exact .refl
    | cons r l ih =>
      intro z
      rw [List.foldl_cons]
      refine JointsKept.trans ?_ (ih _)
      split
      · exact (rgOnly_bump ..).joints.trans (modHome_joints ..)
      · exact .refl z
  exact step _ z

theorem openHold_joints : JointsKept z (openHold z now r) := by
  unfold openHold
  dsimp only
  split
  · exact .refl z
  · exact (modHome_joints ..).trans (countHeld_joints _)

theorem mirrorWr_joints (k : Nat) (a : BitVec 64) (d : Line) (poison : Bool) : JointsKept z (mirrorWr z now k a d poison) := by
  unfold mirrorWr
  dsimp only
  generalize peerAddr z k a = at_
  have counted := (rgOnly_bump (send z (.mirWrite at_ d poison z.pair.lvlRun)) now (zmcBase + 0x0D40)).joints
  generalize bump (send z (.mirWrite at_ d poison z.pair.lvlRun)) now (zmcBase + 0x0D40) = y at counted ⊢
  exact ⟨counted.jdat, counted.jsts⟩

theorem endReq_joints (h : HomeId) (rid : Nat) : JointsKept z (endReq z h rid) := by
  unfold endReq
  refine JointsKept.trans ?_ (modHome_joints ..)
  split
  · split
    · exact .refl z
    · exact modHome_joints ..
  · exact .refl z

theorem respondLine_joints (d : Line) (poison dirty fresh : Bool) : JointsKept z (respondLine z now r d poison dirty fresh) := by
  unfold respondLine
  refine JointsKept.trans ?_ (endReq_joints ..)
  split
  · exact dropOrphan_joints ..
  split
  · split
    · split
      · exact mirrorWr_joints ..
      · exact .refl z
    · exact ⟨rfl, rfl⟩
  · have sent (m : OutMsg) : JointsKept z (send z m) := ⟨rfl, rfl⟩
    dsimp only
    split
    · exact (sent _).trans openHold_joints
    · exact sent _

theorem decryptLine_joints (c : CourseId) (key : BitVec 10) (addr : BitVec 64) (d : Line) : JointsKept z (decryptLine z now c key addr d).1 := by
  have used : JointsKept z (useKey z now (bayOf c) key) := by
    have counted := (rgOnly_bump z now (homeBase (bayHome (bayOf c)).val + 0x3440)).joints
    unfold useKey
    generalize bump z now (homeBase (bayHome (bayOf c)).val + 0x3440) = y at counted ⊢
    dsimp only
    split
    · exact ⟨rfl, rfl⟩
    · exact ⟨counted.jdat, counted.jsts⟩
  unfold decryptLine
  split
  · exact .refl z
  split
  · dsimp only
    exact (rgOnly_bump ..).joints
  split
  · dsimp only [keyEmpty]
    exact (rgOnly_bump ..).joints.trans (rgOnly_post ..).joints
  · dsimp only
    generalize useKey z now (bayOf c) key = y at used ⊢
    split
    · exact used
    · exact used

theorem JointsKept.ite {P : Prop} [Decidable P] {x : Zmc} (hx : JointsKept z x) (hy : JointsKept z y) : JointsKept z (if P then x else y) := by
  split
  · exact hx
  · exact hy

theorem memData_joints (j : JData) : JointsKept z (memData z now r j) := by
  unfold memData
  refine .ite (respondLine_joints ..) (.ite (respondLine_joints ..) (.ite ?_ (.ite (respondLine_joints ..) ((decryptLine_joints ..).trans (respondLine_joints ..)))))
  exact ⟨rfl, rfl⟩

/-! ### A line comes back -/

section
variable {c : CourseId} {j : JData} {l : List JData}

/-- The line has left its joint, its read entry is reported, and the home's gated bit is gone. -/
def lineTaken (z : Zmc) (c : CourseId) (l : List JData) : Zmc :=
  modHome { z with jdat := modV z.jdat c (fun _ => l), jsts := modV z.jsts c (fun x => x ++ [.rd]) } (homeOf c) (fun h => { h with gated := false })

/-- What the home does with a line it has taken. -/
def lineGiven (z : Zmc) (now : Nat) (c : CourseId) (j : JData) : Zmc × Option Nat :=
  if z.homes[homeOf c].ftgs.any (fun f => f.id == j.id && f.crs == c) then
    (modHome z (homeOf c) (fun h => { h with ftgs := replaceFirst (fun f => f.id == j.id) (fun f => { f with got := some (j.data, j.poison || j.uncor) }) h.ftgs }), some j.id)
  else
    match z.homes[homeOf c].hrq.find? (fun r => r.mid == j.id && r.crs == c) with
    | some r => if r.ph = .mem then (memData z now r j, some j.id) else (modReq z (homeOf c) r.rid (fun x => { x with spec := some j }), some j.id)
    | none => (z, some j.id)

theorem dataReturn_cons (head : z.jdat[c] = j :: l) : dataReturn z now c = lineGiven (lineTaken z c l) now c j := by
  unfold dataReturn
  rw [head]
  rfl

theorem lineGiven_kept : (lineGiven z now c j).2 = some j.id ∧ JointsKept z (lineGiven z now c j).1 := by
  unfold lineGiven
  split
  · exact ⟨rfl, modHome_joints ..⟩
  split
  · split
    · exact ⟨rfl, memData_joints j⟩
    · exact ⟨rfl, modHome_joints ..⟩
  · exact ⟨rfl, .refl _⟩

/-- A line of zeros ends the request that waited for it. -/
theorem lineGiven_fresh (own : z.homes[homeOf c].ftgs = []) (found : z.homes[homeOf c].hrq.find? (fun q => q.mid == j.id && q.crs == c) = some r)
    (wait : r.ph = .mem) (fresh : j.fresh = true) (near : r.mirror = false) (alive : r.orphan = false) (grant : r.grant = 1) :
    (lineGiven z now c j).1 = endReq (send z (.data r.port r.tag r.addr 0 false 1 false true)) (homeOf r.crs) r.rid := by
  have answer : memData z now r j = endReq (send z (.data r.port r.tag r.addr 0 false 1 false true)) (homeOf r.crs) r.rid := by
    unfold memData respondLine
    rw [fresh, alive, near, grant]
    rfl
  unfold lineGiven
  rw [own, List.any_nil, if_neg (by decide), found]
  dsimp only
  rw [if_pos wait]
  exact answer

theorem lineTaken_home : (lineTaken z c l).homes[homeOf c] = { z.homes[homeOf c] with gated := false } := modHome_same ..

/-- What a line of zeros leaves of its home's requests, and what it says. -/
theorem dataReturn_fresh (head : z.jdat[c] = j :: l) (own : z.homes[homeOf c].ftgs = []) (found : z.homes[homeOf c].hrq.find? (fun q => q.mid == j.id && q.crs == c) = some r)
    (wait : r.ph = .mem) (fresh : j.fresh = true) (near : r.mirror = false) (alive : r.orphan = false) (grant : r.grant = 1) :
    OutMsg.data r.port r.tag r.addr 0 false 1 false true ∈ (dataReturn z now c).1.out ∧
      (dataReturn z now c).1.homes[homeOf c].hrq = removeFirst (fun q => q.rid == r.rid) z.homes[homeOf c].hrq := by
  have home : r.crs = c := beq_iff_eq.1 (Bool.and_eq_true_iff.1 (List.find?_some found :)).2
  rw [dataReturn_cons head, lineGiven_fresh (by rw [lineTaken_home]; exact own) (by rw [lineTaken_home]; exact found) wait fresh near alive grant, home, endReq_gone, endReq_out]
  refine ⟨List.mem_append_right _ List.mem_cons_self, ?_⟩
  rw [send_homes, lineTaken_home]

/-- The line's entry of the read queue is free. -/
def entryFreed (id : Nat) (v : Cx) : Cx :=
  v.onC (fun k => { freeRead k id with emptyAt := if queuesEmpty (freeRead k id) then v.now else (freeRead k id).emptyAt })

theorem dataBack_cons {x : Sys} (head : x.z.jdat[c] = j :: l) : dataBack x c = onCrs { x with z := (dataReturn x.z x.now c).1 } c (entryFreed j.id) := by
  have known : (dataReturn x.z x.now c).2 = some j.id := by rw [dataReturn_cons head]; exact lineGiven_kept.1
  unfold dataBack
  dsimp only
  rw [known]
  rfl

/-! ### A credit comes back -/

theorem giveEnt_read (z : Zmc) (c : CourseId) : (giveEnt z c false 1).homes[homeOf c].rdFree[crsIdx c] = min 192 (z.homes[homeOf c].rdFree[crsIdx c] + 1) ∧
    (giveEnt z c false 1).homes[homeOf c].hrq = z.homes[homeOf c].hrq := by
  unfold giveEnt
  rw [modHome_same]
  exact ⟨modV_same .., rfl⟩

theorem giveEnt_write (z : Zmc) (c : CourseId) : (giveEnt z c true 1).homes[homeOf c].wrFree[crsIdx c] = min 112 (z.homes[homeOf c].wrFree[crsIdx c] + 1) := by
  unfold giveEnt
  rw [modHome_same]
  exact modV_same ..

theorem toCourse_on (on : powered z c = true) (q : JReq) : toCourse z now c q = { z with jreq := modV z.jreq c (fun l => l ++ [q]) } := by
  unfold toCourse
  exact if_pos on

/-- A read that waits for an entry takes the one that is free. -/
theorem sendRead_sent (room : z.homes[homeOf r.crs].rdFree[crsIdx r.crs] ≠ 0) (on : powered z r.crs = true) :
    (sendRead z now r).jsts = z.jsts ∧ (sendRead z now r).jreq[r.crs] = z.jreq[r.crs] ++ [readLine r] := by
  have goes (y : Zmc) (jsts : y.jsts = z.jsts) (jreq : y.jreq = z.jreq) (on : powered y r.crs = true) :
      (toCourse y now r.crs (readLine r)).jsts = z.jsts ∧ (toCourse y now r.crs (readLine r)).jreq[r.crs] = z.jreq[r.crs] ++ [readLine r] := by
    rw [toCourse_on on]
    exact ⟨jsts, (modV_same ..).trans (by rw [jreq])⟩
  unfold sendRead
  dsimp only
  rw [if_neg (fun k => room k.2)]
  split
  · exact goes _ rfl rfl on
  · exact goes _ rfl rfl on

theorem flushWr_jsts (on : powered z c = true) : (flushWr z now c).jsts = z.jsts := by
  unfold flushWr
  dsimp only
  split
  · split
    · rfl
    · rw [toCourse_on (z := modHome z _ _) on]
      rfl
  · rfl

/-- The status has left its joint. -/
def statusTaken (z : Zmc) (c : CourseId) (k : List JStat) : Zmc := { z with jsts := modV z.jsts c (fun _ => k) }

section
variable {k : List JStat}

theorem creditReturn_read (head : z.jsts[c] = .rd :: k) : creditReturn z now c =
    match (giveEnt (statusTaken z c k) c false 1).homes[homeOf c].hrq.find? (fun r => r.need && r.crs == c) with
    | some r => sendRead (giveEnt (statusTaken z c k) c false 1) now r
    | none => giveEnt (statusTaken z c k) c false 1 := by
  unfold creditReturn
  rw [head]
  rfl

theorem creditReturn_wait (head : z.jsts[c] = .rd :: k) (found : z.homes[homeOf c].hrq.find? (fun q => q.need && q.crs == c) = some r) (on : powered z c = true) :
    (creditReturn z now c).jsts[c] = k ∧ (creditReturn z now c).jreq[c] = z.jreq[c] ++ [readLine r] := by
  have home : r.crs = c := beq_iff_eq.1 (Bool.and_eq_true_iff.1 (List.find?_some found :)).2
  obtain ⟨free, hrq⟩ := giveEnt_read (statusTaken z c k) c
  subst home
  obtain ⟨jsts, jreq⟩ := sendRead_sent (z := giveEnt (statusTaken z r.crs k) r.crs false 1) (now := now) (r := r) (by rw [free]; omega) on
  rw [creditReturn_read head, hrq, show (statusTaken z r.crs k).homes[homeOf r.crs].hrq.find? _ = _ from found]
  dsimp only
  rw [jsts, jreq]
  exact ⟨modV_same .., rfl⟩

theorem creditReturn_none (head : z.jsts[c] = .rd :: k) (found : z.homes[homeOf c].hrq.find? (fun q => q.need && q.crs == c) = none) :
    creditReturn z now c = giveEnt (statusTaken z c k) c false 1 := by
  rw [creditReturn_read head, (giveEnt_read (statusTaken z c k) c).2, show (statusTaken z c k).homes[homeOf c].hrq.find? _ = _ from found]

theorem creditReturn_write (head : z.jsts[c] = .wr :: k) : creditReturn z now c = giveEnt (statusTaken z c k) c true 1 := by
  unfold creditReturn
  rw [head]
  rfl

theorem creditReturn_served {id : Nat} (head : z.jsts[c] = .served id :: k) :
    creditReturn z now c = modGate (statusTaken z c k) c (fun g => { g with late := g.late.filter (fun x => x.rid != id) }) := by
  unfold creditReturn
  rw [head]
  rfl

/-- A status of a course with power leaves its joint. -/
theorem creditReturn_jsts {m : JStat} (head : z.jsts[c] = m :: k) (on : powered z c = true) : (creditReturn z now c).jsts[c] = k := by
  have taken : (statusTaken z c k).jsts[c] = k := modV_same ..
  cases m with
  | rd =>
    cases found : z.homes[homeOf c].hrq.find? (fun q => q.need && q.crs == c) with
    | none => rw [creditReturn_none head found]; exact taken
    | some r => exact (creditReturn_wait head found on).1
  | wr => rw [creditReturn_write head]; exact taken
  | wb =>
    unfold creditReturn
    rw [head]
    dsimp only
    exact (congrArg (fun v : Vector (List JStat) 16 => v[c]) (flushWr_jsts (z := modHome (statusTaken z c k) _ _) on)).trans taken
  | served id => rw [creditReturn_served head]; exact taken

end

end

end

end Sys2Proof.Machine

namespace Sys2Proof.Proofs
open Sys2Proof.Machine

/-- Settles O37: a returned line leaves its joint and ends its request, and a credit comes back or goes at once to a read that waits. -/
theorem linesAndCreditsReturn : Obligations.LinesAndCreditsReturn := by
  unfold Obligations.LinesAndCreditsReturn
  intro s n c j l m k r hr z hs free
  subst hs z
  have hr' : homesRun (before s n).z = true := by simpa [before] using hr
  refine ⟨fun head => ?_, fun head => ?_⟩
  · refine gives_all (exec_readDataReturn ..) (fun t tc tz out _ => ?_)
    rw [hr', free, if_pos (by decide), dataBack_cons head] at tc tz out
    obtain ⟨_, jdat, jsts⟩ := lineGiven_kept (z := lineTaken (before s n).z c l) (now := (before s n).now) (c := c) (j := j)
    rw [← dataReturn_cons head] at jdat jsts
    rw [onCrs_z] at tz out
    rw [tz.jdat, tz.jsts, tz.homes]
    refine ⟨?_, ?_, ?_, fun own found wait fresh near alive grant => ?_⟩
    · exact (congrArg (fun v : Vector (List JData) 16 => v[c]) jdat).trans (modV_same ..)
    · exact (congrArg (fun v : Vector (List JStat) 16 => v[c]) jsts).trans (modV_same ..)
    · rw [tc, onCrs_crs_same]
      exact congrArg (fun v : Vector CourseSt 16 => removeFirst (fun q => q.id == j.id && q.ph == .back) v[c].rdq) (startAt_crs s.sys n)
    · obtain ⟨said, hrq⟩ := dataReturn_fresh (now := (before s n).now) head own found wait fresh near alive grant
      exact ⟨out _ said, hrq⟩
  · refine gives_all (exec_courseCredit ..) (fun t _ tz _ _ => ?_)
    unfold ifJoint at tz
    rw [if_neg (by rw [free]; decide), ifHome_run hr'] at tz
    dsimp only at tz
    rw [tz.jsts, tz.homes, tz.jreq]
    refine ⟨fun on => creditReturn_jsts head on, fun kind => ⟨fun none => ?_, fun found on => ?_⟩, fun kind => ?_, fun id kind => ?_⟩
    · subst kind
      rw [creditReturn_none head none]
      exact (giveEnt_read ..).1
    · subst kind
      exact (creditReturn_wait head found on).2
    · subst kind
      rw [creditReturn_write head]
      exact giveEnt_write ..
    · subst kind
      rw [creditReturn_served head]
      exact congrArg Gate.late (modGate_gate ..)

end Sys2Proof.Proofs

/-! SUPPORT. A write that a register's immediate fields take (R32, R33), and the rows that only such writes start. -/

namespace Sys2Proof.Machine

/-- What a write into a register's words leaves of the block. -/
structure OutsideRegs (z y : Zmc) : Prop where
  cinfo : y.cinfo = z.cinfo
  boot : y.boot = z.boot
  pwr : y.pwr = z.pwr
  dbg : y.dbg = z.dbg
  keys : y.keys = z.keys
  mgt : y.mgt = z.mgt

section
variable {z y : Zmc} {x : Sys} {now o off : Nat} {v : Word} {d : RegDef}

theorem OutsideRegs.trans {x : Zmc} (p : OutsideRegs x y) (q : OutsideRegs y z) : OutsideRegs x z :=
  ⟨q.cinfo.trans p.cinfo, q.boot.trans p.boot, q.pwr.trans p.pwr, q.dbg.trans p.dbg, q.keys.trans p.keys, q.mgt.trans p.mgt⟩

theorem OutsideRegs.refl (z : Zmc) : OutsideRegs z z := ⟨rfl, rfl, rfl, rfl, rfl, rfl⟩

theorem RgOnly.outside (k : RgOnly z y) : OutsideRegs z y := ⟨k.cinfo, k.boot, k.pwr, k.dbg, k.keys, k.mgt⟩

theorem OutsideRegs.ite {P : Prop} [Decidable P] {a b : Zmc} (ha : OutsideRegs z a) (hb : OutsideRegs z b) : OutsideRegs z (if P then a else b) := by
  split
  · exact ha
  · exact hb

theorem OutsideRegs.regs (k : OutsideRegs z y) (g : Regs) : OutsideRegs z { y with rg := g } := ⟨k.cinfo, k.boot, k.pwr, k.dbg, k.keys, k.mgt⟩

theorem OutsideRegs.pendPut (k : OutsideRegs z y) (off : Nat) (v : Word) : OutsideRegs z (pendPut y off v) := ⟨k.cinfo, k.boot, k.pwr, k.dbg, k.keys, k.mgt⟩

theorem OutsideRegs.logSw (k : OutsideRegs z y) (now off : Nat) (c : Word) : OutsideRegs z (logSw y now off c) := ⟨k.cinfo, k.boot, k.pwr, k.dbg, k.keys, k.mgt⟩

theorem putRes_outside (z : Zmc) (now o off : Nat) (r : WrRes) : OutsideRegs z (putRes z now o off r) := by
  have act (w : Word) : OutsideRegs z (if w = wordAt z off then z else putWord z off w) := .ite (.refl z) (rgOnly_putWord ..).outside
  unfold putRes
  dsimp only
  generalize mix r.act (wordAt z off) (actionBits off) = w
  generalize hy : (if w = wordAt z off then z else putWord z off w) = y
  have acted : OutsideRegs z y := hy ▸ act w
  refine .ite (.trans ?_ (rgOnly_cntLost ..).outside) ?_
  all_goals
    refine OutsideRegs.logSw ?_ ..
    exact .ite ((OutsideRegs.ite ((OutsideRegs.ite (acted.regs _) acted).regs _) (.ite (acted.regs _) acted)).pendPut ..) (.ite (acted.regs _) acted)

/-! ### What the fields of a register take -/

/-- A field that a permitted write takes at once. -/
def ImmField (z : Zmc) (o : Nat) (f : Fld) : Prop := f.cls = .imm ∨ f.cls = .sec ∧ secOrig z o = true

theorem secField_imm {f : Fld} (ho : off ≠ secBase + 0x3020) (hf : ImmField z o f) : secField z o off f = true := by
  unfold secField
  rw [if_neg (fun k => ho k.1)]
  rcases hf with e | ⟨e, sec⟩
  · rw [e]; rfl
  · rw [sec, Bool.or_true]

theorem wrField_immField {f : Fld} (clr : Bool) (a : WrRes) (ho : off ≠ secBase + 0x3020) (hf : ImmField z o f) :
    wrField z o off v clr a f = { a with act := mix a.act v f.mask, imm := true } := by
  have sec := secField_imm ho hf
  have notRo : f.cls ≠ .ro := by rcases hf with e | ⟨e, _⟩ <;> rw [e] <;> decide
  unfold wrField
  rw [if_neg notRo, if_neg (by rw [sec]; decide)]
  rcases hf with e | ⟨e, _⟩ <;> rw [e]

theorem wrField_imm_mono {f : Fld} (clr : Bool) {a : WrRes} (h : a.imm = true) : (wrField z o off v clr a f).imm = true := by
  unfold wrField
  dsimp only
  repeat' split
  all_goals first | exact h | rfl

/-- A register with a field that takes the write at once takes the write at once. -/
theorem wrRes_imm (hd : regDef off = some d) (ho : off ≠ secBase + 0x3020) {f : Fld} (mem : f ∈ d.flds) (hf : ImmField z o f) : (wrRes z now o off v).imm = true := by
  have fold : ∀ (l : List Fld) (clr : Bool) (a : WrRes), (a.imm = true ∨ f ∈ l) → (l.foldl (wrField z o off v clr) a).imm = true := by
    intro l clr
    induction l with
    | nil => exact fun a h => h.resolve_right (List.not_mem_nil)
    | cons g l ih =>
      intro a h
      refine ih _ ?_
      rcases h with h | h
      · exact .inl (wrField_imm_mono clr h)
      rcases List.mem_cons.1 h with e | h
      · rw [← e, wrField_immField clr a ho hf]
        exact .inl rfl
      · exact .inr h
  unfold wrRes
  rw [hd]
  exact fold d.flds _ _ (.inr mem)

/-- Where every field takes the write at once, the word is the fields written over the old one and nothing is refused. -/
theorem wrRes_all (hd : regDef off = some d) (ho : off ≠ secBase + 0x3020) (hf : ∀ f ∈ d.flds, ImmField z o f) :
    (wrRes z now o off v).why = [] ∧ (wrRes z now o off v).act = d.flds.foldl (fun w f => mix w v f.mask) (wordAt z off) := by
  have fold : ∀ (l : List Fld) (clr : Bool) (a : WrRes), (∀ f ∈ l, ImmField z o f) → (l.foldl (wrField z o off v clr) a).why = a.why ∧
      (l.foldl (wrField z o off v clr) a).act = l.foldl (fun w f => mix w v f.mask) a.act := by
    intro l clr
    induction l with
    | nil => exact fun a _ => ⟨rfl, rfl⟩
    | cons g l ih =>
      intro a h
      rw [List.foldl_cons, wrField_immField clr a ho (h g List.mem_cons_self)]
      exact ih _ (fun f hf => h f (List.mem_cons_of_mem _ hf))
  unfold wrRes
  rw [hd]
  exact fold d.flds _ _ hf

/-! ### The write of one word -/

/-- The block with the word written and no unit told yet. -/
def wordPut (x : Sys) (o off : Nat) (v : Word) : Sys := onZmc x (fun z now => putRes z now o off (wrRes x.z x.now o off v))

/-- The block with the unit of the register told. -/
def hooked (x : Sys) (o off : Nat) (v : Word) : Sys := regHook (wordPut x o off v) off (wordAt x.z off) v

/-- What the record of a write leaves as the units left it. -/
structure Recorded (y t : Sys) : Prop where
  crs : t.crs = y.crs
  cinfo : t.z.cinfo = y.z.cinfo
  dbg : t.z.dbg = y.z.dbg
  keys : t.z.keys = y.z.keys

theorem takeWord_imm (busy : mntBusy x off v = false) (imm : (wrRes x.z x.now o off v).imm = true) :
    ∃ was now, takeWord x o off v = onZmc (hooked x o off v) (fun z n => capture z n o off was now) := by
  unfold takeWord
  rw [if_neg (by rw [busy]; decide)]
  dsimp only
  rw [if_pos imm]
  exact ⟨_, _, rfl⟩

theorem takeWords_recorded (busy : mntBusy x off v = false) (imm : (wrRes x.z x.now o off v).imm = true) :
    Recorded (hooked x o off v) (takeWords x o off [(off, v)]) := by
  obtain ⟨was, now, e⟩ := takeWord_imm busy imm
  have cap : Recorded (hooked x o off v) (onZmc (hooked x o off v) (fun z n => capture z n o off was now)) :=
    ⟨rfl, capture_cinfo .., capture_dbg .., capture_keys ..⟩
  unfold takeWords
  dsimp only
  rw [List.foldl_cons, List.foldl_nil, e]
  generalize onZmc (hooked x o off v) (fun z n => capture z n o off was now) = y at cap
  obtain ⟨crs, cinfo, dbg, keys⟩ := cap
  split
  · exact ⟨crs, (dropAcc_cinfo ..).trans cinfo, (dropAcc_dbg ..).trans dbg, (dropAcc_keys ..).trans keys⟩
  · exact ⟨crs, cinfo, dbg, keys⟩

theorem takeWords_words (busy : mntBusy x off v = false) (imm : (wrRes x.z x.now o off v).imm = true) (why : (wrRes x.z x.now o off v).why = []) :
    (takeWords x o off [(off, v)]).z.rg = (hooked x o off v).z.rg := by
  obtain ⟨was, now, e⟩ := takeWord_imm busy imm
  unfold takeWords
  dsimp only
  rw [List.foldl_cons, List.foldl_nil, e, List.flatMap_cons, List.flatMap_nil, why]
  exact capture_rg ..

theorem mix_mix (w v a b : Word) : mix (mix w v a) v b = mix w v (a ||| b) := by
  apply BitVec.eq_of_getLsbD_eq
  intro i hi
  simp only [mix, BitVec.getLsbD_or, BitVec.getLsbD_and, BitVec.getLsbD_not, hi]
  cases w.getLsbD i <;> cases v.getLsbD i <;> cases a.getLsbD i <;> cases b.getLsbD i <;> rfl

end

end Sys2Proof.Machine

/-! SUPPORT. Writes of a course's registers and what their units do (R181, R209, R211, R236, R292, R339). -/

namespace Sys2Proof.Machine

section
variable {x : Sys} {o : Orig} {c : CourseId} {p : Nat} {v : Word}

theorem blockOf_crs (c : CourseId) (hp : p < 0x40000) : blockOf (crsBase c.val + p) = some (5, c.val, crsBase c.val) := by
  have hc := c.isLt
  unfold blockOf crsBase
  rw [if_neg (by omega), if_neg (by omega), if_neg (by omega), if_neg (by omega), if_pos (by omega)]
  have q : (0x100000 + c.val * 0x40000 + p - 0x100000) / 0x40000 = c.val := by omega
  rw [q]

theorem ctlOf_crs (c : CourseId) (hp : p < 0x3000) : ctlOf (crsBase c.val + p) = none := by
  have base : ctrBase c.val = crsBase c.val + 0x3000 := by unfold ctrBase; rw [if_pos c.isLt]
  have out : ¬(ctrBase c.val ≤ crsBase c.val + p ∧ crsBase c.val + p < ctrBase c.val + 16 * ctrNum c.val ∧ (crsBase c.val + p - ctrBase c.val) % 16 = 0) := by
    rw [base]; omega
  unfold ctlOf
  rw [ownerOf_crs c.isLt (by omega)]
  exact if_neg out

theorem regHook_crs {off i b : Nat} {old : Word} (plain : ctlOf off = none) (block : blockOf off = some (5, i, b)) :
    regHook x off old v = onCrs x (toCrs i) (crsHook (off - b) v) := by
  unfold regHook
  rw [plain, block]
  rfl

/-- The write reaches the course's unit. -/
theorem hooked_crs (hp : p < 0x3000) : hooked x o.val (crsBase c.val + p) v = onCrs (wordPut x o.val (crsBase c.val + p) v) c (crsHook p v) := by
  unfold hooked
  rw [regHook_crs (ctlOf_crs c hp) (blockOf_crs c (by omega)), toCrs_val, Nat.add_sub_cancel_left]

theorem mntBusy_of {off i b : Nat} (block : blockOf off = some (5, i, b)) (h : off ≠ b + 0x0840 ∨ x.crs[toCrs i].lk.mnt.st ≠ 1) : mntBusy x off v = false := by
  unfold mntBusy
  rw [block]
  show (off == b + 0x0840 && (bitsOf v 1 0 == 1 || bitsOf v 1 0 == 2) && x.crs[toCrs i].lk.mnt.st == 1) = false
  rcases h with h | h
  · rw [beq_false_of_ne h]
    rfl
  · rw [beq_false_of_ne h, Bool.and_false]

theorem mntBusy_free (h : p ≠ 0x0840 ∨ x.crs[c].lk.mnt.st ≠ 1) (hp : p < 0x40000) : mntBusy x (crsBase c.val + p) v = false := by
  refine mntBusy_of (blockOf_crs c hp) (h.imp (fun k e => k (by omega)) (fun k => ?_))
  simp only [toCrs_val]
  exact k

/-! ### The registers that start a unit -/

theorem regDef_block {off i b : Nat} (block : blockOf off = some (5, i, b)) : regDef off = (crsRegs i).find? (fun d => d.off == off - b) := by
  unfold regDef
  rw [block]
  rfl

theorem regDef_crs (c : CourseId) (hp : p < 0x40000) : regDef (crsBase c.val + p) = (crsRegs c.val).find? (fun d => d.off == p) := by
  rw [regDef_block (blockOf_crs c hp), Nat.add_sub_cancel_left]

theorem regDef_rest (c : CourseId) (hp : p < 0x40000) (h0 : p ≠ 0) (h8 : p ≠ 8) : regDef (crsBase c.val + p) = crsRest.find? (fun d => d.off == p) := by
  rw [regDef_crs c hp, crsRegs, List.find?_append]
  have head : (blkHead 5 c.val).find? (fun d => d.off == p) = none := by
    rw [List.find?_eq_none]
    intro d hd
    unfold blkHead at hd
    rcases List.mem_cons.1 hd with e | hd
    · subst e; exact fun k => h0 (beq_iff_eq.1 k).symm
    · rw [List.mem_singleton.1 hd]; exact fun k => h8 (beq_iff_eq.1 k).symm
  rw [head]
  rfl

theorem wideHigh_not {off : Nat} (before : (regDef (off - 4)).any RegDef.wide = false) (odd : (off - 4) % 8 ≠ 0) : wideHigh off = false := by
  unfold wideHigh wideLow
  cases found : regDef (off - 4) with
  | none =>
    dsimp only
    rw [beq_false_of_ne odd]
    exact Bool.and_false _
  | some d =>
    rw [found] at before
    dsimp only
    rw [show d.wide = false from before]
    exact Bool.and_false _

/-- A listed narrow word of a block above the bays. -/
theorem plainReg_of {off : Nat} {d : RegDef} (reg : regDef off = some d) (narrow : d.wide = false) (apart : wideHigh off = false) (high : 0x80000 ≤ off)
    (aligned : off % 4 = 0) (low : off % 0x10000 < 0x8000) : plainReg off = true := by
  have one : wideLow off = false := by unfold wideLow; rw [reg]; exact narrow
  have noMbx : mbxAt off = none := by
    unfold mbxAt
    exact if_neg (by unfold mbxBase; omega)
  unfold plainReg
  rw [one, apart, noMbx, reg]
  simp only [Bool.and_eq_true, decide_eq_true_eq, Bool.not_eq_true', decide_eq_false_iff_not, bne_iff_ne, Option.isNone_none, Option.isSome_some, Bool.not_false, and_true]
  unfold mbxBase zmcBase
  omega

/-- Start bit or request word `p` of a course, with its fields. -/
structure StartReg (p : Nat) (fs : List Fld) : Prop where
  lt : p < 0x3000
  ge : 16 ≤ p
  aligned : p % 4 = 0
  low : p % 0x10000 < 0x8000
  listed : crsRest.find? (fun d => d.off == p) = some (w p fs)
  before : (crsRest.find? (fun d => d.off == p - 4)).any RegDef.wide = false
  odd : p % 8 = 0

set_option maxRecDepth 8000 in
theorem startReg_link : StartReg 0x0800 [fBuf 1 0 0, fBuf 2 2 0, fImm 3 3 0, fBuf 10 4 64, fBuf 18 11 64, fBuf 22 19 8, fBuf 24 23 3, fBuf 30 25 0, fImm 31 31 0] :=
  ⟨by decide, by decide, by decide, by decide, by decide, by decide, by decide⟩

set_option maxRecDepth 8000 in
theorem startReg_sr : StartReg 0x1410 [fImm 0 0 0, fImm 1 1 0, fLock 9 2 0, fBuf 19 10 0, fBuf 20 20 1] :=
  ⟨by decide, by decide, by decide, by decide, by decide, by decide, by decide⟩

set_option maxRecDepth 8000 in
theorem startReg_mnt : StartReg 0x0840 [fSec 1 0 0, fSec 19 2 0, fSec 23 20 0] := ⟨by decide, by decide, by decide, by decide, by decide, by decide, by decide⟩

set_option maxRecDepth 8000 in
theorem startReg_tcmd : StartReg 0x2410 [fSec 3 0 0, fSec 4 4 0, fSec 7 5 0, fSec 10 8 0, fSec 12 11 0, fSec 29 13 0, fSec 30 30 0] :=
  ⟨by decide, by decide, by decide, by decide, by decide, by decide, by decide⟩

set_option maxRecDepth 8000 in
theorem startReg_fresh : StartReg 0x2020 [fImm 17 0 0, fRo 18 18 0] := ⟨by decide, by decide, by decide, by decide, by decide, by decide, by decide⟩

section
variable {fs : List Fld} (hs : StartReg p fs)
include hs

theorem StartReg.regDef (c : CourseId) : regDef (crsBase c.val + p) = some (w p fs) := by
  obtain ⟨lt, ge, _, _, listed, _, _⟩ := hs
  rw [regDef_rest c (by omega) (by omega) (by omega), listed]

theorem StartReg.plain (c : CourseId) : plainReg (crsBase c.val + p) = true := by
  obtain ⟨lt, ge, aligned, low, _, before, odd⟩ := id hs
  have hc := c.isLt
  have base : crsBase c.val = 0x100000 + c.val * 0x40000 := rfl
  refine plainReg_of (hs.regDef c) rfl (wideHigh_not ?_ (by omega)) (by omega) (by omega) (by omega)
  rw [Nat.add_sub_assoc (by omega), regDef_rest c (by omega) (by omega) (by omega)]
  exact before

theorem StartReg.not_background (c : CourseId) : crsBase c.val + p ≠ secBase + 0x3020 := by
  obtain ⟨lt, ge, aligned, low, listed, before, odd⟩ := hs
  unfold crsBase secBase
  have := c.isLt
  omega

end

/-- A powered course backs its registers. -/
theorem backed_crs {z : Zmc} {off i b : Nat} (block : blockOf off = some (5, i, b)) (on : powered z (toCrs i) = true) (listed : (regDef off).isSome = true) : backed z off = true := by
  unfold backed
  rw [block]
  dsimp only
  rw [listed, Bool.or_true, Bool.and_true]
  exact on

/-- A permitted write of a start register tells its unit. -/
theorem busWrite_start {fs : List Fld} (hs : StartReg p fs) (hu : closedUp x.z = false) (on : powered x.z c = true) (may : mayWrite x.z o.val (crsBase c.val + p) = true)
    (imm : (wrRes x.z x.now o.val (crsBase c.val + p) v).imm = true) (free : p ≠ 0x0840 ∨ x.crs[c].lk.mnt.st ≠ 1) :
    Recorded (onCrs (wordPut x o.val (crsBase c.val + p) v) c (crsHook p v)) (busWrite x o (crsBase c.val + p) .b4 (v.setWidth 64)) := by
  have lt := hs.lt
  have backs : backed x.z (crsBase c.val + p) = true :=
    backed_crs (blockOf_crs c (by omega)) (by rw [toCrs_val]; exact on) (by rw [hs.regDef c]; rfl)
  rw [busWrite_plain v hu (hs.plain c) backs may, ← hooked_crs lt]
  exact takeWords_recorded (mntBusy_free free (by omega)) imm

/-- What the unit finds. -/
theorem wordPut_cx (x : Sys) (o off : Nat) (v : Word) (c : CourseId) : (cxOf (wordPut x o off v) c).c = x.crs[c] ∧ (cxOf (wordPut x o off v) c).n = c ∧
    (cxOf (wordPut x o off v) c).now = x.now ∧ OutsideRegs x.z (cxOf (wordPut x o off v) c).z := ⟨rfl, rfl, rfl, putRes_outside ..⟩

end

end Sys2Proof.Machine

/-! SUPPORT. What a course's start bits and request words start. -/

namespace Sys2Proof.Machine

section
variable {x : Cx}

/-- A powered link that is DOWN or FAILED begins to wake from DOWN. -/
theorem linkStart_wakes (st : x.c.lk.st = 0 ∨ x.c.lk.st = 7) (on : powered x.z x.n = true) :
    (linkStart x).c.lk.st = 1 ∧ (linkStart x).c.lk.fromDown = true ∧ (linkStart x).z.cinfo[x.n].failed = false := by
  rw [linkStart, if_pos ⟨on, st⟩]
  refine setMode_cases (P := fun u => (linkWake (u.onInfo (fun i => { i with failed := false })) true).c.lk.st = 1 ∧
    (linkWake (u.onInfo (fun i => { i with failed := false })) true).c.lk.fromDown = true ∧
    (linkWake (u.onInfo (fun i => { i with failed := false })) true).z.cinfo[x.n].failed = false) x x.now ?_
  intro u un _ _ _ _ _ _ _ _
  refine ⟨rfl, rfl, ?_⟩
  show (modV u.z.cinfo u.n (fun i => { i with failed := false }))[x.n].failed = false
  rw [un, modV_same]

theorem wakeLink_wakes (st : x.c.lk.st = 0) (on : powered x.z x.n = true) (m sel : Nat) :
    (wakeLink x m sel).c.lk.st = 1 ∧ (wakeLink x m sel).c.lk.fromDown = true ∧ (wakeLink x m sel).z.cinfo[x.n].failed = false := by
  have main (y : Cx) (h : ModeSet x (wakeMode m sel).1 (wakeMode m sel).2 y) :
      (linkStart ((y.onL (fun l => { l with rate := true, armed := true })).onZ needBond)).c.lk.st = 1 ∧
      (linkStart ((y.onL (fun l => { l with rate := true, armed := true })).onZ needBond)).c.lk.fromDown = true ∧
      (linkStart ((y.onL (fun l => { l with rate := true, armed := true })).onZ needBond)).z.cinfo[x.n].failed = false := by
    generalize hv : (y.onL (fun l => { l with rate := true, armed := true })).onZ needBond = v
    have vn : v.n = x.n := by rw [← hv]; exact h.n
    have vst : v.c.lk.st = 0 := by rw [← hv]; exact (congrArg (fun c : CourseSt => c.lk.st) h.c).trans st
    have vi : v.z.cinfo = x.z.cinfo := by rw [← hv]; exact h.cinfo
    have vb : v.z.boot = x.z.boot := by rw [← hv]; exact h.boot
    have vp : powered v.z v.n = true := by rw [vn, powered, vb, vi]; exact on
    have woke := linkStart_wakes (.inl vst) vp
    simp only [vn] at woke
    exact woke
  exact potrieMode_cases (P := fun v => (linkStart v).c.lk.st = 1 ∧ (linkStart v).c.lk.fromDown = true ∧ (linkStart v).z.cinfo[x.n].failed = false) x _ _ main

theorem linkStartRow_wakes (st : x.c.lk.st = 0) (on : powered x.z x.n = true) :
    (linkStartRow x).c.lk.st = 1 ∧ (linkStartRow x).c.lk.fromDown = true ∧ (linkStartRow x).z.cinfo[x.n].failed = false := by
  unfold linkStartRow
  split
  · exact wakeLink_wakes st on _ _
  · exact linkStart_wakes (.inl st) on

/-- An ACTIVE link of a powered course drains for its stop. -/
theorem linkStop_active (st : x.c.lk.st = 2) (on : powered x.z x.n = true) :
    linkStop x = x.onL (fun l => { l with st := 5, since := x.now, stop := true, slp := true, slept := false }) := by
  unfold linkStop
  rw [on, st]
  rfl

theorem ptPause_sr (x : Cx) : (ptPause x).c.sr = x.c.sr := by unfold ptPause; split <;> rfl

theorem ptPause_lk (x : Cx) : (ptPause x).c.lk = x.c.lk := by unfold ptPause; split <;> rfl

theorem srReqWr_enters (up : crsUp x = true) (st : x.c.sr.st = 0) : (srReqWr x).c.sr = { x.c.sr with st := 1 } ∧ (srReqWr x).c.lk = x.c.lk := by
  unfold srReqWr
  rw [if_pos ⟨up, st⟩]
  unfold srStart
  rw [if_pos ⟨up, st⟩]
  exact ⟨ptPause_sr _, ptPause_lk _⟩

theorem srExitWr_leaves (up : crsUp x = true) (st : x.c.sr.st = 3) (lk : x.c.lk.st = 2) :
    (srExitWr x).c.sr.st = 5 ∧ (∀ k : Fin 2, (srExitWr x).c.sr.srx[k] = none) ∧ (srExitWr x).c.lk = x.c.lk := by
  unfold srExitWr
  rw [if_pos ⟨up, by omega, by omega⟩]
  unfold srLeave
  rw [if_neg (by omega)]
  exact ⟨rfl, fun k => by simp [Cx.setf, Cx.onZ, Cx.onC], rfl⟩

/-! ### Start bits -/

/-- The word that a write of some bits of a register carries. -/
def bitsWord (x : Sys) (off : Nat) (d : RegDef) (m v : Word) : Word := mix (mix (curWord x off &&& ~~~(actionBits off)) (pendWord x.z off) (bufMask d)) v m

theorem bitsWrite_word {x : Sys} {o : Orig} {off : Nat} {d : RegDef} (reg : regDef off = some d) (m v : Word) :
    bitsWrite x o off m v = busWrite x o off .b4 ((bitsWord x off d m v).setWidth 64) := by
  unfold bitsWrite
  rw [reg]
  rfl

/-- A named bit has the value of the write. -/
theorem bitsWord_named {y : Sys} {off : Nat} {d : RegDef} {m v : Word} {i : Nat} (h : m.getLsbD i = true) : (bitsWord y off d m v).getLsbD i = v.getLsbD i := by
  have hi : i < 32 := BitVec.lt_of_getLsbD h
  simp only [bitsWord, mix, BitVec.getLsbD_or, BitVec.getLsbD_and, BitVec.getLsbD_not, h, hi]
  simp

/-- An action bit that is not named is written 0. -/
theorem bitsWord_action {y : Sys} {off : Nat} {d : RegDef} {m v : Word} {i : Nat} (h : m.getLsbD i = false) (act : (actionBits off).getLsbD i = true)
    (imm : (bufMask d).getLsbD i = false) : (bitsWord y off d m v).getLsbD i = false := by
  simp only [bitsWord, mix, BitVec.getLsbD_or, BitVec.getLsbD_and, BitVec.getLsbD_not, h, act, imm]
  simp

theorem actionBits_block {off i b : Nat} (block : blockOf off = some (5, i, b)) : actionBits off = if off - b = 0x0800 then 0x80000008 else if off - b = 0x1410 then 3 else 0 := by
  unfold actionBits
  rw [block]
  simp

theorem actionBits_crs {p : Nat} (c : CourseId) (hp : p < 0x40000) : actionBits (crsBase c.val + p) = if p = 0x0800 then 0x80000008 else if p = 0x1410 then 3 else 0 := by
  rw [actionBits_block (blockOf_crs c hp), Nat.add_sub_cancel_left]

/-- What a write of start register `p` gives: the course after its unit, in a block that is as it was outside its registers. -/
theorem gives_start {s : State} {n : Nat} {i : Instr} {f : Sys → Sys} {P : State → Prop} {o : Orig} {c : CourseId} {p : Nat} {fs : List Fld} {v : Word}
    (e : exec i s = cmd s n f) (hs : StartReg p fs) (hf : f (before s n) = busWrite (before s n) o (crsBase c.val + p) .b4 (v.setWidth 64))
    (hu : closedUp s.sys.z = false) (on : powered (before s n).z c = true) (may : mayWrite (before s n).z o.val (crsBase c.val + p) = true)
    (imm : (wrRes (before s n).z (before s n).now o.val (crsBase c.val + p) v).imm = true) (free : p ≠ 0x0840 ∨ (before s n).crs[c].lk.mnt.st ≠ 1)
    (h : ∀ (t : State) (y : Cx), y = cxOf (wordPut (before s n) o.val (crsBase c.val + p) v) c → y.c = (before s n).crs[c] → y.n = c → OutsideRegs (before s n).z y.z → t.sys.crs[c] = (crsHook p v y).c →
      t.sys.z.cinfo = (crsHook p v y).z.cinfo → P t) : Gives i s P := by
  refine gives_all e (fun t tc tz _ _ => ?_)
  have r := busWrite_start hs (by simpa [before] using hu) on may imm free
  rw [hf] at tc tz
  obtain ⟨cst, num, _, out⟩ := wordPut_cx (before s n) o.val (crsBase c.val + p) v c
  exact h t _ rfl cst num out (by rw [tc, r.crs, onCrs_crs_same]) (tz.cinfo.trans (r.cinfo.trans (by rw [onCrs_z])))

theorem crsHook_linkStart {v : Word} (start : v.getLsbD 3 = true) (stop : v.getLsbD 31 = false) : crsHook 0x0800 v x = linkStartRow x := by
  unfold crsHook
  rw [if_pos rfl, start, stop]
  rfl

theorem crsHook_linkStop {v : Word} (start : v.getLsbD 3 = false) (stop : v.getLsbD 31 = true) : crsHook 0x0800 v x = linkStop x := by
  unfold crsHook
  rw [if_pos rfl, start, stop]
  rfl

theorem crsHook_srReq {v : Word} (enter : v.getLsbD 0 = true) (leave : v.getLsbD 1 = false) : crsHook 0x1410 v x = srReqWr x := by
  unfold crsHook
  rw [if_neg (by decide), if_neg (by decide), if_neg (by decide), if_neg (by decide), if_neg (by decide), if_neg (by decide), if_pos rfl, enter, leave]
  rfl

theorem crsHook_srExit {v : Word} (enter : v.getLsbD 0 = false) (leave : v.getLsbD 1 = true) : crsHook 0x1410 v x = srExitWr x := by
  unfold crsHook
  rw [if_neg (by decide), if_neg (by decide), if_neg (by decide), if_neg (by decide), if_neg (by decide), if_neg (by decide), if_pos rfl, enter, leave]
  rfl

/-! ### Request words -/

theorem bitsOf_mix {w v m : Word} {hi lo : Nat} (h : ∀ i, lo ≤ i → i ≤ hi → m.getLsbD i = true) : bitsOf (mix w v m) hi lo = bitsOf v hi lo := by
  unfold bitsOf
  apply Nat.eq_of_testBit_eq
  intro i
  rw [Nat.testBit_mod_two_pow, Nat.testBit_mod_two_pow, Nat.testBit_shiftRight, Nat.testBit_shiftRight, BitVec.testBit_toNat, BitVec.testBit_toNat]
  by_cases k : i < hi + 1 - lo
  · have named := h (lo + i) (by omega) (by omega)
    have lt : lo + i < 32 := BitVec.lt_of_getLsbD named
    simp only [mix, BitVec.getLsbD_or, BitVec.getLsbD_and, BitVec.getLsbD_not, named, lt]
    simp
  · rw [decide_eq_false k, Bool.false_and, Bool.false_and]

theorem mix_zero (w v : Word) : mix w v 0 = w := by
  unfold mix
  rw [show (v &&& 0) = 0#32 from BitVec.and_zero, show (~~~0 : Word) = BitVec.allOnes 32 from BitVec.not_zero, BitVec.and_allOnes]
  exact BitVec.or_zero

/-- A written word of a register that counts nothing. -/
theorem wordAt_putRes {z : Zmc} {now o off : Nat} {r : WrRes} {d : RegDef} (reg : regDef off = some d) (counts : d.flds.any (fun f => f.cls == .cnt) = false) :
    wordAt (putRes z now o off r) off = mix r.act (wordAt z off) (actionBits off) := by
  have put (w : Word) : wordAt (if w = wordAt z off then z else putWord z off w) off = w := by
    split
    · rename_i e; exact e.symm
    · exact wordAt_put ..
  have ite {P : Prop} [Decidable P] {a b : Zmc} {w : Word} (ha : wordAt a off = w) (hb : wordAt b off = w) : wordAt (if P then a else b) off = w := by
    split
    · exact ha
    · exact hb
  unfold putRes
  rw [reg]
  dsimp only
  rw [counts, Bool.and_false, if_neg (by decide)]
  generalize mix r.act (wordAt z off) (actionBits off) = w at put ⊢
  have acted := put w
  generalize (if w = wordAt z off then z else putWord z off w) = y at acted ⊢
  have once : wordAt (if r.w1 = true then { y with rg := { y.rg with w1 := off :: y.rg.w1 } } else y) off = w := ite acted acted
  generalize (if r.w1 = true then { y with rg := { y.rg with w1 := off :: y.rg.w1 } } else y) = u at once ⊢
  refine Eq.trans (show wordAt (logSw _ now off r.clr) off = wordAt _ off from rfl) (ite ?_ once)
  rw [wordAt_pendPut]
  exact ite once once

theorem immField_sec {z : Zmc} {o : Nat} (sec : secOrig z o = true) {fs : List Fld} (all : fs.all (fun f => f.cls == .sec) = true) : ∀ f ∈ fs, ImmField z o f :=
  fun f hf => .inr ⟨beq_iff_eq.1 (List.all_eq_true.1 all f hf), sec⟩

/-- A secure write of the maintenance request word leaves its fields in the register. -/
theorem mntWord {z : Zmc} {now o : Nat} {c : CourseId} {v : Word} (sec : secOrig z o = true) :
    wordAt (putRes z now o (crsBase c.val + 0x0840) (wrRes z now o (crsBase c.val + 0x0840) v)) (crsBase c.val + 0x0840) = mix (wordAt z (crsBase c.val + 0x0840)) v 0x00FFFFFF := by
  have reg := startReg_mnt.regDef c
  obtain ⟨_, act⟩ := wrRes_all (z := z) (now := now) (v := v) reg (startReg_mnt.not_background c) (immField_sec sec (by decide))
  rw [wordAt_putRes reg (by decide), act, actionBits_crs c (by decide)]
  show mix (mix (mix (mix (wordAt z (crsBase c.val + 0x0840)) v (fSec 1 0 0).mask) v (fSec 19 2 0).mask) v (fSec 23 20 0).mask) _ 0 = _
  rw [mix_zero, mix_mix, mix_mix]
  rfl

theorem crsHook_mnt (v : Word) : crsHook 0x0840 v x = mntStart x := by
  unfold crsHook
  rw [if_neg (by decide), if_pos rfl]

theorem crsHook_tcmd (v : Word) : crsHook 0x2410 v x = tcmdWrite x v := by
  unfold crsHook
  rw [if_neg (by decide), if_neg (by decide), if_neg (by decide), if_neg (by decide), if_pos rfl]

theorem crsHook_fresh (v : Word) : crsHook 0x2020 v x = freshInit x (bitsOf v 17 0) := by
  unfold crsHook
  rw [if_neg (by decide), if_neg (by decide), if_neg (by decide), if_neg (by decide), if_neg (by decide), if_neg (by decide), if_neg (by decide), if_pos rfl]

/-- A request to read a register of the Corbel goes out. -/
theorem mntStart_reads (read : x.f 0x0840 1 0 = 1) (free : x.c.lk.mnt.st ≠ 1) (on : powered x.z x.n = true) :
    (mntStart x).c.lk.mnt = { st := 1, tag := (x.c.lk.mnt.tag + 1) % 256, at_ := x.now, req := some (⟨1, (x.c.lk.mnt.tag + 1) % 256, x.f 0x0840 19 2 * 4, 0, 0⟩, x.cyc) } ∧
      (mntStart x).c.cb = x.c.cb := by
  unfold mntStart
  dsimp only
  rw [if_pos ⟨.inl read, free, on⟩, read, if_neg (by decide), if_neg (by decide)]
  exact ⟨rfl, rfl⟩

theorem tcmdWrite_queued {v : Word} (real : bitsOf v 3 0 ≠ 0) (room : x.c.tr.fifo.length < 16) : ∃ k, (tcmdWrite x v).c.tr.fifo = x.c.tr.fifo ++ [k] := by
  unfold tcmdWrite
  dsimp only
  rw [if_neg real, if_neg (by omega)]
  exact ⟨_, rfl⟩

theorem tcmdWrite_full {v : Word} (real : bitsOf v 3 0 ≠ 0) (full : 16 ≤ x.c.tr.fifo.length) : tcmdWrite x v = x.sts 0x2408 1 := by
  unfold tcmdWrite
  dsimp only
  rw [if_neg real, if_pos full]

theorem tcmdHook_full {v : Word} {c : CourseId} (num : x.n = c) (real : bitsOf v 3 0 ≠ 0) (full : 16 ≤ x.c.tr.fifo.length) :
    (crsHook 0x2410 v x).c.tr.fifo = x.c.tr.fifo ∧ getF (crsHook 0x2410 v x).z (crsBase c.val + 0x2408) 1 1 = 1 := by
  subst num
  rw [crsHook_tcmd, tcmdWrite_full real full]
  exact ⟨rfl, getF_post (by decide) x.z x.now (x.off 0x2408)⟩

theorem freshInit_maps (on : powered x.z x.n = true) (idle : x.info.fence ≠ 0 ∨ x.z.boot.ready = false) (v : Nat) :
    (freshInit x v).c = x.c.mapTo (freshMapOf (min v 131072) (regionCount x)) := by
  unfold freshInit
  rw [if_pos ⟨on, idle⟩]
  rfl

theorem freshInit_late (fence : x.info.fence = 0) (ready : x.z.boot.ready = true) (v : Nat) : freshInit x v = x := by
  unfold freshInit
  rw [if_neg (by rw [fence, ready]; simp)]

theorem powered_outside {z y : Zmc} (k : OutsideRegs z y) (c : CourseId) : powered y c = powered z c := by unfold powered; rw [k.boot, k.cinfo]

theorem powered_of_up {v : Cx} (up : crsUp v = true) : powered v.z v.n = true := by
  unfold crsUp liveCrs at up
  obtain ⟨live, _⟩ := Bool.and_eq_true_iff.1 up
  obtain ⟨here, free⟩ := Bool.and_eq_true_iff.1 live
  unfold powered
  rw [here, beq_iff_eq.1 free]
  rfl

theorem cxOf_z (x : Sys) (c : CourseId) : (cxOf x c).z = x.z := rfl

theorem wordAt_of_rg {a b : Zmc} (e : a.rg = b.rg) (q : Nat) : wordAt a q = wordAt b q := by unfold wordAt; rw [e]

theorem getF_congr {a b : Zmc} {q : Nat} (e : wordAt a q = wordAt b q) (hi lo : Nat) : getF a q hi lo = getF b q hi lo := by unfold getF; rw [e]

theorem wordPut_z (x : Sys) (o off : Nat) (v : Word) : (wordPut x o off v).z = putRes x.z x.now o off (wrRes x.z x.now o off v) := rfl

theorem info_wordPut (x : Sys) (o off : Nat) (v : Word) (c : CourseId) : (cxOf (wordPut x o off v) c).info = (cxOf x c).info :=
  congrArg (fun k : Vector CInfo 16 => k[c]) (putRes_outside ..).cinfo

theorem cyc_wordPut (x : Sys) (o off : Nat) (v : Word) (c : CourseId) : (cxOf (wordPut x o off v) c).cyc = (cxOf x c).cyc := by
  unfold Cx.cyc Cx.lck
  rw [info_wordPut]
  rfl

/-- A permitted write of a start register that nothing refuses, with the words it leaves. -/
theorem busWrite_start_words {x : Sys} {o : Orig} {c : CourseId} {p : Nat} {v : Word} {fs : List Fld} (hs : StartReg p fs) (hu : closedUp x.z = false)
    (on : powered x.z c = true) (may : mayWrite x.z o.val (crsBase c.val + p) = true) (imm : (wrRes x.z x.now o.val (crsBase c.val + p) v).imm = true)
    (why : (wrRes x.z x.now o.val (crsBase c.val + p) v).why = []) (free : p ≠ 0x0840) :
    (busWrite x o (crsBase c.val + p) .b4 (v.setWidth 64)).crs = (onCrs (wordPut x o.val (crsBase c.val + p) v) c (crsHook p v)).crs ∧
      (busWrite x o (crsBase c.val + p) .b4 (v.setWidth 64)).z.rg = (crsHook p v (cxOf (wordPut x o.val (crsBase c.val + p) v) c)).z.rg := by
  have lt := hs.lt
  have backs : backed x.z (crsBase c.val + p) = true :=
    backed_crs (blockOf_crs c (by omega)) (by rw [toCrs_val]; exact on) (by rw [hs.regDef c]; rfl)
  have idle : mntBusy x (crsBase c.val + p) v = false := mntBusy_free (.inl free) (by omega)
  rw [busWrite_plain v hu (hs.plain c) backs may]
  refine ⟨(takeWords_recorded idle imm).crs.trans (by rw [hooked_crs lt]), (takeWords_words idle imm why).trans ?_⟩
  rw [hooked_crs lt, onCrs_z]

theorem crsUp_outside {v w : Cx} (k : OutsideRegs v.z w.z) (e : w.n = v.n) : crsUp w = crsUp v := by
  unfold crsUp liveCrs
  rw [k.boot, k.cinfo, e]

/-- What a write of a start register that nothing refuses gives, with its words. -/
theorem gives_start_words {s : State} {n : Nat} {i : Instr} {f : Sys → Sys} {P : State → Prop} {o : Orig} {c : CourseId} {p : Nat} {fs : List Fld} {v : Word}
    (e : exec i s = cmd s n f) (hs : StartReg p fs) (hf : f (before s n) = busWrite (before s n) o (crsBase c.val + p) .b4 (v.setWidth 64))
    (hu : closedUp s.sys.z = false) (on : powered (before s n).z c = true) (may : mayWrite (before s n).z o.val (crsBase c.val + p) = true)
    (imm : (wrRes (before s n).z (before s n).now o.val (crsBase c.val + p) v).imm = true)
    (why : (wrRes (before s n).z (before s n).now o.val (crsBase c.val + p) v).why = []) (free : p ≠ 0x0840)
    (h : ∀ (t : State) (y : Cx), y.c = (before s n).crs[c] → y.n = c → t.sys.crs[c] = (crsHook p v y).c →
      (∀ q, q ≠ zmcBase + 0x0218 → wordAt t.sys.z q = wordAt (crsHook p v y).z q) → P t) : Gives i s P := by
  refine gives_all e (fun t tc tz _ _ => ?_)
  obtain ⟨crs, rg⟩ := busWrite_start_words hs (by simpa [before] using hu) on may imm why free
  obtain ⟨cst, num, _, _⟩ := wordPut_cx (before s n) o.val (crsBase c.val + p) v c
  rw [hf] at tc tz
  exact h t _ cst num (by rw [tc, crs, onCrs_crs_same]) (fun q hq => (tz.2 q hq).trans (wordAt_of_rg rg q))

end

end Sys2Proof.Machine

namespace Sys2Proof.Proofs
open Sys2Proof.Machine

section
variable {s : State} {n : Nat} {o : Orig} {c : CourseId}

/-- LINK_START wakes a link that is DOWN. -/
theorem linkStart_seen (hu : closedUp s.sys.z = false) (on : powered (before s n).z c = true) (ok : mayWrite (before s n).z o.val (crsBase c.val + 0x0800) = true)
    (st : (before s n).crs[c].lk.st = 0) : ∃ t, exec (.linkStart n o c) s = .next t ∧
      t.sys.crs[c].lk.st = 1 ∧ t.sys.crs[c].lk.fromDown = true ∧ t.sys.z.cinfo[c].failed = false := by
  refine gives_start (exec_linkStart ..) startReg_link (bitsWrite_word (startReg_link.regDef c) 8 8) hu on ok
    (wrRes_imm (startReg_link.regDef c) (startReg_link.not_background c) (f := fImm 3 3 0) (by decide) (.inl rfl)) (.inl (by decide)) (fun t y _ cst num out tc ti => ?_)
  rw [crsHook_linkStart (bitsWord_named (by decide)) (bitsWord_action (by decide) (by rw [actionBits_crs c (by decide)]; decide) (by decide))] at tc ti
  obtain ⟨woke, fresh, good⟩ := linkStartRow_wakes (x := y) (by rw [cst]; exact st) (by rw [num, powered_outside out]; exact on)
  subst num
  rw [tc, ti]
  exact ⟨woke, fresh, good⟩

/-- LINK_STOP drains an ACTIVE link. -/
theorem linkStop_seen (hu : closedUp s.sys.z = false) (on : powered (before s n).z c = true) (ok : mayWrite (before s n).z o.val (crsBase c.val + 0x0800) = true)
    (st : (before s n).crs[c].lk.st = 2) : ∃ t, exec (.linkStop n o c) s = .next t ∧
      t.sys.crs[c].lk.st = 5 ∧ t.sys.crs[c].lk.stop = true ∧ t.sys.crs[c].sr = (before s n).crs[c].sr := by
  refine gives_start (exec_linkStop ..) startReg_link (bitsWrite_word (startReg_link.regDef c) 0x80000000 0x80000000) hu on ok
    (wrRes_imm (startReg_link.regDef c) (startReg_link.not_background c) (f := fImm 3 3 0) (by decide) (.inl rfl)) (.inl (by decide)) (fun t y _ cst num out tc _ => ?_)
  rw [crsHook_linkStop (bitsWord_action (by decide) (by rw [actionBits_crs c (by decide)]; decide) (by decide)) (bitsWord_named (by decide)),
    linkStop_active (by rw [cst]; exact st) (by rw [num, powered_outside out]; exact on)] at tc
  rw [tc]
  exact ⟨rfl, rfl, (congrArg CourseSt.sr cst :)⟩

/-- SR_REQ puts a course that is up into self-refresh entry. -/
theorem srReq_seen (hu : closedUp s.sys.z = false) (up : crsUp (crsBefore s n c) = true) (ok : mayWrite (before s n).z o.val (crsBase c.val + 0x1410) = true)
    (st : (before s n).crs[c].sr.st = 0) : ∃ t, exec (.srReq n o c) s = .next t ∧
      t.sys.crs[c].sr = { (before s n).crs[c].sr with st := 1 } ∧ t.sys.crs[c].lk = (before s n).crs[c].lk := by
  refine gives_start (exec_srReq ..) startReg_sr (bitsWrite_word (startReg_sr.regDef c) 1 1) hu (powered_of_up up) ok
    (wrRes_imm (startReg_sr.regDef c) (startReg_sr.not_background c) (f := fImm 0 0 0) (by decide) (.inl rfl)) (.inl (by decide)) (fun t y _ cst num out tc _ => ?_)
  rw [crsHook_srReq (bitsWord_named (by decide)) (bitsWord_action (by decide) (by rw [actionBits_crs c (by decide)]; decide) (by decide))] at tc
  obtain ⟨sr, lk⟩ := srReqWr_enters (x := y) (by rw [crsUp_outside (v := crsBefore s n c) out num]; exact up) (by rw [cst]; exact st)
  rw [tc, sr, lk, cst]
  exact ⟨rfl, rfl⟩

/-- SR_EXIT begins the exit. -/
theorem srExit_seen (hu : closedUp s.sys.z = false) (up : crsUp (crsBefore s n c) = true) (ok : mayWrite (before s n).z o.val (crsBase c.val + 0x1410) = true)
    (st : (before s n).crs[c].sr.st = 3) (lk : (before s n).crs[c].lk.st = 2) : ∃ t, exec (.srExit n o c) s = .next t ∧
      t.sys.crs[c].sr.st = 5 ∧ (∀ k : Fin 2, t.sys.crs[c].sr.srx[k] = none) ∧ t.sys.crs[c].lk = (before s n).crs[c].lk := by
  refine gives_start (exec_srExit ..) startReg_sr (bitsWrite_word (startReg_sr.regDef c) 2 2) hu (powered_of_up up) ok
    (wrRes_imm (startReg_sr.regDef c) (startReg_sr.not_background c) (f := fImm 0 0 0) (by decide) (.inl rfl)) (.inl (by decide)) (fun t y _ cst num out tc _ => ?_)
  rw [crsHook_srExit (bitsWord_action (by decide) (by rw [actionBits_crs c (by decide)]; decide) (by decide)) (bitsWord_named (by decide))] at tc
  obtain ⟨five, none, same⟩ := srExitWr_leaves (x := y) (by rw [crsUp_outside (v := crsBefore s n c) out num]; exact up) (by rw [cst]; exact st) (by rw [cst]; exact lk)
  rw [tc]
  exact ⟨five, none, same.trans (congrArg CourseSt.lk cst)⟩

variable {v : Word}

theorem mntReq_seen (hu : closedUp s.sys.z = false) (on : powered (before s n).z c = true) (ok : mayWrite (before s n).z o.val (crsBase c.val + 0x0840) = true)
    (sec : secOrig (before s n).z o.val = true) (read : bitsOf v 1 0 = 1) (free : (before s n).crs[c].lk.mnt.st ≠ 1) : ∃ t, exec (.mntReq n o c v) s = .next t ∧
      t.sys.crs[c].lk.mnt.st = 1 ∧ t.sys.crs[c].lk.mnt.tag = ((before s n).crs[c].lk.mnt.tag + 1) % 256 ∧
      t.sys.crs[c].lk.mnt.req = some (⟨1, ((before s n).crs[c].lk.mnt.tag + 1) % 256, bitsOf v 19 2 * 4, 0, 0⟩, (crsBefore s n c).cyc) ∧
      t.sys.crs[c].cb = (before s n).crs[c].cb := by
  refine gives_start (exec_mntReq ..) startReg_mnt rfl hu on ok
    (wrRes_imm (startReg_mnt.regDef c) (startReg_mnt.not_background c) (f := fSec 1 0 0) (by decide) (.inr ⟨rfl, sec⟩)) (.inr free) (fun t y hy cst num out tc _ => ?_)
  have word : wordAt y.z (y.off 0x0840) = mix (wordAt (before s n).z (crsBase c.val + 0x0840)) v 0x00FFFFFF := by
    rw [Cx.off, num, hy, cxOf_z, wordPut_z]
    exact mntWord sec
  have op : y.f 0x0840 1 0 = 1 := by
    unfold Cx.f getF
    rw [word, bitsOf_mix (by decide), read]
  have addr : y.f 0x0840 19 2 = bitsOf v 19 2 := by
    unfold Cx.f getF
    rw [word, bitsOf_mix (by decide)]
  have cyc : y.cyc = (crsBefore s n c).cyc := by rw [hy]; exact cyc_wordPut ..
  rw [crsHook_mnt] at tc
  obtain ⟨mnt, cb⟩ := mntStart_reads (x := y) op (by rw [cst]; exact free) (by rw [num, powered_outside out]; exact on)
  rw [tc, mnt, cb, addr, cyc, cst]
  exact ⟨rfl, rfl, rfl, rfl⟩

theorem tcmd_seen (hu : closedUp s.sys.z = false) (on : powered (before s n).z c = true) (ok : mayWrite (before s n).z o.val (crsBase c.val + 0x2410) = true)
    (sec : secOrig (before s n).z o.val = true) (real : bitsOf v 3 0 ≠ 0) (room : (before s n).crs[c].tr.fifo.length < 16) : ∃ t, exec (.tcmd n o c v) s = .next t ∧
      t.sys.crs[c].tr.fifo.length = (before s n).crs[c].tr.fifo.length + 1 ∧ t.sys.crs[c].tr.fifo.take (before s n).crs[c].tr.fifo.length = (before s n).crs[c].tr.fifo := by
  refine gives_start (exec_tcmd ..) startReg_tcmd rfl hu on ok
    (wrRes_imm (startReg_tcmd.regDef c) (startReg_tcmd.not_background c) (f := fSec 3 0 0) (by decide) (.inr ⟨rfl, sec⟩)) (.inl (by decide)) (fun t y _ cst _ _ tc _ => ?_)
  rw [crsHook_tcmd] at tc
  obtain ⟨k, queued⟩ := tcmdWrite_queued (x := y) real (by rw [cst]; exact room)
  rw [tc, queued, cst]
  exact ⟨List.length_append .., List.take_left ..⟩

theorem freshInit_seen (hu : closedUp s.sys.z = false) (on : powered (before s n).z c = true) (ok : mayWrite (before s n).z o.val (crsBase c.val + 0x2020) = true) :
    ((crsBefore s n c).info.fence ≠ 0 ∨ (before s n).z.boot.ready = false → (∃ t, exec (.freshInit n o c v) s = .next t ∧
      t.sys.crs[c].fm = freshMapOf (min (bitsOf v 17 0) 131072) (regionCount (crsBefore s n c)) ∧ t.sys.crs[c].claims = [] ∧ t.sys.crs[c].rdq = (before s n).crs[c].rdq)) ∧
    ((crsBefore s n c).info.fence = 0 → (before s n).z.boot.ready = true → (∃ t, exec (.freshInit n o c v) s = .next t ∧ t.sys.crs[c] = (before s n).crs[c])) := by
  have imm := wrRes_imm (z := (before s n).z) (now := (before s n).now) (o := o.val) (v := v) (startReg_fresh.regDef c) (startReg_fresh.not_background c) (f := fImm 17 0 0)
    (by decide) (.inl rfl)
  refine ⟨fun idle => ?_, fun fence ready => ?_⟩
  · refine gives_start (exec_freshInit ..) startReg_fresh rfl hu on ok imm (.inl (by decide)) (fun t y hy cst num out tc _ => ?_)
    have info : y.info = (crsBefore s n c).info := by rw [hy]; exact info_wordPut ..
    have regions : regionCount y = regionCount (crsBefore s n c) := by unfold regionCount; rw [info]
    rw [crsHook_fresh, freshInit_maps (by rw [num, powered_outside out]; exact on) (by rw [info, out.boot]; exact idle), regions] at tc
    rw [tc]
    exact ⟨rfl, rfl, (congrArg CourseSt.rdq cst :)⟩
  · refine gives_start (exec_freshInit ..) startReg_fresh rfl hu on ok imm (.inl (by decide)) (fun t y hy cst num out tc _ => ?_)
    have info : y.info = (crsBefore s n c).info := by rw [hy]; exact info_wordPut ..
    rw [crsHook_fresh, freshInit_late (by rw [info]; exact fence) (by rw [out.boot]; exact ready)] at tc
    rw [tc, cst]

/-- A test command to a full FIFO is reported. -/
theorem tcmd_lost (hu : closedUp s.sys.z = false) (on : powered (before s n).z c = true) (ok : mayWrite (before s n).z o.val (crsBase c.val + 0x2410) = true)
    (sec : secOrig (before s n).z o.val = true) (real : bitsOf v 3 0 ≠ 0) (full : 16 ≤ (before s n).crs[c].tr.fifo.length) : ∃ t, exec (.tcmd n o c v) s = .next t ∧
      t.sys.crs[c].tr.fifo = (before s n).crs[c].tr.fifo ∧ getF t.sys.z (crsBase c.val + 0x2408) 1 1 = 1 := by
  have reg := startReg_tcmd.regDef c
  refine gives_start_words (exec_tcmd ..) startReg_tcmd rfl hu on ok
    (wrRes_imm reg (startReg_tcmd.not_background c) (f := fSec 3 0 0) (by decide) (.inr ⟨rfl, sec⟩))
    (wrRes_all reg (startReg_tcmd.not_background c) (immField_sec sec (by decide))).1 (by decide) (fun t y cst num tc words => ?_)
  obtain ⟨fifo, posted⟩ := tcmdHook_full (x := y) num real (by rw [cst]; exact full)
  have hc := c.isLt
  exact ⟨by rw [tc, fifo, cst], (getF_congr (words _ (by unfold crsBase zmcBase; omega)) 1 1).trans posted⟩

end

/-- Settles O55: a written start bit of a course moves its link or its self-refresh, and a written request reaches its unit. -/
theorem courseStartBits : Obligations.CourseStartBits := by
  unfold Obligations.CourseStartBits
  refine ⟨?_, ?_⟩
  · intro s n o c hu x may
    subst may x
    exact ⟨linkStart_seen hu, linkStop_seen hu, srReq_seen hu, srExit_seen hu⟩
  · intro s n o c v hu x may on
    subst may x
    exact ⟨mntReq_seen hu on, tcmd_seen hu on, tcmd_lost hu on, fun ok => (freshInit_seen hu on ok).1, fun ok => (freshInit_seen hu on ok).2⟩

end Sys2Proof.Proofs

/-! SUPPORT. Writes of the key store's valid bits (R280) and of the debug level (R305 to R309). -/

namespace Sys2Proof.Machine

section
variable {x : Sys} {o : Orig} {off : Nat} {v : Word}

/-- A permitted write of a listed word of the security block that nothing holds back tells the unit of its register. -/
theorem busWrite_hooked (hu : closedUp x.z = false) (plain : plainReg off = true) (block : blockOf off = some (7, 0, secBase)) (may : mayWrite x.z o.val off = true)
    (imm : (wrRes x.z x.now o.val off v).imm = true) : Recorded (hooked x o.val off v) (busWrite x o off .b4 (v.setWidth 64)) := by
  have listed : (regDef off).isSome = true := by
    unfold plainReg at plain
    simp only [Bool.and_eq_true] at plain
    exact plain.1.1.1.2
  have idle : mntBusy x off v = false := by
    unfold mntBusy
    rw [block]
    rfl
  rw [busWrite_plain v hu plain (backed_of_regDef x.z block (by decide) (by decide) listed) may]
  exact takeWords_recorded idle imm

theorem regHook_sec {old : Word} {i b : Nat} (free : ctlOf off = none) (block : blockOf off = some (7, i, b)) : regHook x off old v =
    if 0x1000 ≤ off - b ∧ off - b < 0x1080 then onZmc x (fun z _ => keyValidWrite z ((off - b - 0x1000) / 4) v)
    else if off - b = 0x2000 then dbgLevelWrite x (bitsOf v 1 0)
    else if off - b = 0x2040 then onZmc x (fun z _ => traceCtl z old)
    else x := by
  unfold regHook
  rw [free, block]
  rfl

/-! ### Keys -/

set_option maxRecDepth 20000 in
theorem keyReg_plain (k : Fin 32) : plainReg (secBase + 0x1000 + 4 * k.val) = true := by
  revert k; decide

set_option maxRecDepth 20000 in
theorem keyReg_block (k : Fin 32) : blockOf (secBase + 0x1000 + 4 * k.val) = some (7, 0, secBase) := by
  revert k; decide

set_option maxRecDepth 20000 in
theorem keyReg_free (k : Fin 32) : ctlOf (secBase + 0x1000 + 4 * k.val) = none := by
  revert k; decide

set_option maxRecDepth 20000 in
theorem keyReg_fields (k : Fin 32) : (regDef (secBase + 0x1000 + 4 * k.val)).map RegDef.flds = some [fSec 31 0 0] := by
  revert k; decide

theorem foldl_keyDrop_slots (l : List Nat) (v : Word) (k : Nat) (z : Zmc) :
    (l.foldl (fun z i => if v.getLsbD i then keyDrop z (32 * k + i) else z) z).keys.slots = l.foldl (fun m i => if v.getLsbD i then tblDel m (32 * k + i) else m) z.keys.slots := by
  induction l generalizing z with
  | nil => rfl
  | cons i l ih =>
    rw [List.foldl_cons, List.foldl_cons, ih]
    split <;> rfl

theorem keyDrop_cache (z : Zmc) (i : Nat) (b : BayId) : (keyDrop z i).keys.cache[b] = z.keys.cache[b].filter (fun k => k != i) := by
  simp [keyDrop, keyInval]

/-- A dropped slot is in no bay's cache. -/
theorem foldl_keyDrop_cache (l : List Nat) (v : Word) (k : Nat) (z : Zmc) (b : BayId) {i : Nat} (h : v.getLsbD i = true)
    (gone : i ∈ l ∨ 32 * k + i ∉ z.keys.cache[b]) : 32 * k + i ∉ (l.foldl (fun z i => if v.getLsbD i then keyDrop z (32 * k + i) else z) z).keys.cache[b] := by
  induction l generalizing z with
  | nil => exact gone.resolve_left List.not_mem_nil
  | cons j l ih =>
    rw [List.foldl_cons]
    refine ih _ ?_
    by_cases e : i = j
    · subst e
      rw [if_pos h, keyDrop_cache]
      exact .inr (fun m => by simpa using (List.mem_filter.1 m).2)
    · refine gone.imp (fun m => (List.mem_cons.1 m).resolve_left e) (fun out => ?_)
      split
      · rw [keyDrop_cache]
        exact fun m => out (List.mem_filter.1 m).1
      · exact out

/-- The unit of the valid bits drops every slot whose bit the word names. -/
theorem hooked_key (k : Fin 32) : hooked x o.val (secBase + 0x1000 + 4 * k.val) v =
    onZmc (wordPut x o.val (secBase + 0x1000 + 4 * k.val) v) (fun z _ => keyValidWrite z k.val v) := by
  have off : secBase + 0x1000 + 4 * k.val - secBase = 0x1000 + 4 * k.val := by rw [Nat.add_assoc, Nat.add_sub_cancel_left]
  have hk := k.isLt
  unfold hooked
  rw [regHook_sec (keyReg_free k) (keyReg_block k), off, if_pos (by omega), Nat.add_sub_cancel_left, Nat.mul_div_cancel_left _ (by decide)]

/-! ### The debug level -/

theorem levelReg : plainReg (secBase + 0x2000) = true ∧ blockOf (secBase + 0x2000) = some (7, 0, secBase) ∧ ctlOf (secBase + 0x2000) = none ∧
    regDef (secBase + 0x2000) = some (w 0x2000 [fImm 1 0 0]) := by decide

theorem hooked_level : hooked x o.val (secBase + 0x2000) v = dbgLevelWrite (wordPut x o.val (secBase + 0x2000) v) (bitsOf v 1 0) := by
  obtain ⟨_, block, free, _⟩ := levelReg
  unfold hooked
  rw [regHook_sec free block, if_neg (by decide), if_pos (by decide)]

/-- Outside RETAIN the level is asked for at once. -/
theorem dbgLevelWrite_asks (run : x.z.pwr.st < 2) (lvl : Nat) : dbgLevelWrite x lvl = onZmc x (fun z now => levelReq z now lvl) := by
  unfold dbgLevelWrite
  dsimp only
  rw [if_neg (by omega), if_neg (by omega)]

section
variable {z : Zmc} {now lvl : Nat}

theorem levelReq_lower (quiet : z.dbg.zero = none) (lower : lvl < z.dbg.level) (small : lvl ≠ 3) : levelReq z now lvl = setLevel z now lvl := by
  unfold levelReq
  rw [if_neg small, quiet, if_neg (by decide), if_pos (by omega), if_pos lower]

/-- The port with its token register read. -/
def tokenTaken (z : Zmc) : Zmc := { z with dbg := { z.dbg with tokReg := 0 } }

theorem levelReq_attach (quiet : z.dbg.zero = none) (closed : z.dbg.level = 0) (free : z.dbg.lockTo = none) (ask : lvl = 1 ∨ lvl = 2) :
    levelReq z now lvl = if attachNeed z.boot.lc lvl = 2 then attachRefuse (tokenTaken z) now lvl 0x06 true
      else if attachNeed z.boot.lc lvl = 0 then attachGrant (tokenTaken z) now lvl
      else attach (tokenTaken z) now lvl z.dbg.tokReg := by
  unfold levelReq
  rw [if_neg (by omega), quiet, if_neg (by decide), if_neg (by omega)]
  have unlocked : (tokenTaken z).dbg.lockTo = none := free
  have same : attachNow z now lvl = attach (tokenTaken z) now lvl z.dbg.tokReg := rfl
  rw [same]
  split
  · rename_i need
    unfold attach
    rw [unlocked]
    dsimp only
    exact (if_neg (by decide)).trans (if_pos need)
  · rename_i notTwo
    split
    · rename_i need
      unfold attach
      rw [unlocked]
      dsimp only
      exact (if_neg (by decide)).trans ((if_neg notTwo).trans (if_pos need))
    · rfl

theorem attachGrant_observe : (attachGrant z now 1).dbg = { z.dbg with level := 1 } ∧ (attachGrant z now 1).keys = z.keys := by
  unfold attachGrant
  rw [if_pos rfl]
  exact ⟨(attachLog_dbg ..).trans ((post_dbg ..).trans (setLevel_dbg ..)), (attachLog_keys ..).trans ((post_keys ..).trans (setLevel_keys ..))⟩

theorem attachGrant_invasive : (attachGrant z now 2).dbg = { z.dbg with zero := some (now + zeroTu), cancel := false } ∧ (attachGrant z now 2).keys = (keyZero z).keys := by
  unfold attachGrant
  rw [if_neg (by decide)]
  exact ⟨rfl, rfl⟩

theorem attachRefuse_kept (lvl res : Nat) (count : Bool) : (attachRefuse z now lvl res count).dbg.level = z.dbg.level ∧ (attachRefuse z now lvl res count).dbg.zero = z.dbg.zero ∧
    (attachRefuse z now lvl res count).keys = z.keys := by
  have dbg : (attachLog (post z now (secBase + 0x2010) 3) now lvl res false false).dbg = z.dbg := (attachLog_dbg ..).trans (post_dbg ..)
  have keys : (attachLog (post z now (secBase + 0x2010) 3) now lvl res false false).keys = z.keys := (attachLog_keys ..).trans (post_keys ..)
  unfold attachRefuse
  dsimp only
  generalize attachLog (post z now (secBase + 0x2010) 3) now lvl res false false = y at dbg keys ⊢
  split
  · rw [dbg, keys]; exact ⟨rfl, rfl, rfl⟩
  · split
    · exact ⟨(congrArg Dbg.level dbg :), (congrArg Dbg.zero dbg :), keys⟩
    · exact ⟨(congrArg Dbg.level dbg :), (congrArg Dbg.zero dbg :), keys⟩

end

/-- A permitted write of the debug level asks for it. -/
theorem busWrite_level (hu : closedUp x.z = false) (may : mayWrite x.z o.val (secBase + 0x2000) = true) (run : x.z.pwr.st < 2) :
    ∃ y, OutsideRegs x.z y ∧ (busWrite x o (secBase + 0x2000) .b4 (v.setWidth 64)).z.dbg = (levelReq y x.now (bitsOf v 1 0)).dbg ∧
      (busWrite x o (secBase + 0x2000) .b4 (v.setWidth 64)).z.keys = (levelReq y x.now (bitsOf v 1 0)).keys := by
  obtain ⟨plain, block, _, reg⟩ := levelReg
  have out : OutsideRegs x.z (wordPut x o.val (secBase + 0x2000) v).z := by rw [wordPut_z]; exact putRes_outside ..
  have told := busWrite_hooked (v := v) hu plain block may (wrRes_imm reg (by decide) (f := fImm 1 0 0) List.mem_cons_self (.inl rfl))
  rw [hooked_level, dbgLevelWrite_asks (by rw [out.pwr]; exact run)] at told
  exact ⟨_, out, told.dbg, told.keys⟩

end

end Sys2Proof.Machine

namespace Sys2Proof.Proofs
open Sys2Proof.Machine

section
variable {s : State} {n : Nat} {o : Orig}

/-- A row that writes the debug level, seen at the port and in the key store. -/
theorem gives_level {i : Instr} {lvl : Nat} {P : State → Prop} (e : exec i s = cmd s n (fun x => busWrite x o (secBase + 0x2000) .b4 (BitVec.ofNat 64 lvl))) (small : lvl < 4)
    (hu : closedUp s.sys.z = false) (may : mayWrite (before s n).z o.val (secBase + 0x2000) = true) (run : (before s n).z.pwr.st < 2)
    (h : ∀ (t : State) (y : Zmc), OutsideRegs (before s n).z y → t.sys.z.dbg = (levelReq y (before s n).now lvl).dbg → t.sys.z.keys = (levelReq y (before s n).now lvl).keys → P t) :
    Gives i s P := by
  refine gives_all e (fun t _ tz _ _ => ?_)
  have wide : BitVec.ofNat 64 lvl = (BitVec.ofNat 32 lvl).setWidth 64 := by
    apply BitVec.eq_of_toNat_eq
    simp only [BitVec.toNat_ofNat, BitVec.toNat_setWidth]
    omega
  have word : bitsOf (BitVec.ofNat 32 lvl) 1 0 = lvl := by
    unfold bitsOf
    rw [BitVec.toNat_ofNat, Nat.shiftRight_zero]
    omega
  obtain ⟨y, out, dbg, keys⟩ := busWrite_level (x := before s n) (o := o) (v := BitVec.ofNat 32 lvl) (by simpa [before] using hu) may run
  rw [wide] at tz
  rw [word] at dbg keys
  exact h t y out (tz.dbg.trans dbg) (tz.keys.trans keys)

/-- Settles O56: a secure write erases the slots it names, an attach is granted or refused, and a lower level takes effect at once. -/
theorem securityWrites : Obligations.SecurityWrites := by
  unfold Obligations.SecurityWrites
  intro s n o k v lvl hu z
  subst z
  refine ⟨fun may sec => ?_, fun may run quiet closed free => ⟨fun need => ?_, fun need => ?_, fun need => ?_⟩, fun may run quiet lower => ?_⟩
  · refine gives_all (exec_keyValidErase ..) (fun t _ tz _ _ => ?_)
    obtain ⟨d, reg, one⟩ := Option.map_eq_some_iff.1 (keyReg_fields k)
    have told := busWrite_hooked (x := before s n) (o := o) (v := v) (by simpa [before] using hu) (keyReg_plain k) (keyReg_block k) may
      (wrRes_imm reg (by unfold secBase; have := k.isLt; omega) (f := fSec 31 0 0) (one ▸ List.mem_cons_self) (.inr ⟨rfl, sec⟩))
    have out : OutsideRegs (before s n).z (wordPut (before s n) o.val (secBase + 0x1000 + 4 * k.val) v).z := by rw [wordPut_z]; exact putRes_outside ..
    have keys := told.keys
    rw [hooked_key] at keys
    rw [tz.keys, keys]
    refine ⟨?_, fun b i hi bit => ?_⟩
    · rw [← out.keys]
      exact foldl_keyDrop_slots (List.range 32) v k.val _
    · exact foldl_keyDrop_cache (List.range 32) v k.val _ b bit (.inl (List.mem_range.2 hi))
  · refine gives_level (lvl := 1) (exec_debugAttach ..) (by decide) hu may run (fun t y out dbg keys => ?_)
    rw [levelReq_attach (by rw [out.dbg]; exact quiet) (by rw [out.dbg]; exact closed) (by rw [out.dbg]; exact free) (.inl rfl), out.boot, if_neg (by rw [need]; decide),
      if_pos need] at dbg keys
    obtain ⟨level, store⟩ := attachGrant_observe (z := tokenTaken y) (now := (before s n).now)
    rw [dbg, keys, level, store]
    exact ⟨rfl, congrArg Keys.slots out.keys⟩
  · refine gives_level (lvl := 2) (exec_debugAttach ..) (by decide) hu may run (fun t y out dbg keys => ?_)
    rw [levelReq_attach (by rw [out.dbg]; exact quiet) (by rw [out.dbg]; exact closed) (by rw [out.dbg]; exact free) (.inr rfl), out.boot,
      if_neg (show ¬attachNeed (before s n).z.boot.lc 2 = 2 by rw [need]; decide), if_pos need] at dbg keys
    obtain ⟨level, store⟩ := attachGrant_invasive (z := tokenTaken y) (now := (before s n).now)
    rw [dbg, keys]
    refine ⟨?_, ?_, ?_⟩
    · exact (congrArg Dbg.level level).trans ((congrArg Dbg.level out.dbg).trans closed)
    · exact congrArg Keys.slots store
    · exact congrArg Dbg.zero level
  · refine gives_level (lvl := 2) (exec_debugAttach ..) (by decide) hu may run (fun t y out dbg keys => ?_)
    rw [levelReq_attach (by rw [out.dbg]; exact quiet) (by rw [out.dbg]; exact closed) (by rw [out.dbg]; exact free) (.inr rfl), out.boot, if_pos need] at dbg keys
    obtain ⟨level, zero, store⟩ := attachRefuse_kept (z := tokenTaken y) (now := (before s n).now) 2 0x06 true
    rw [dbg, keys, store]
    exact ⟨level.trans ((congrArg Dbg.level out.dbg).trans closed), zero.trans ((congrArg Dbg.zero out.dbg).trans quiet), out.keys⟩
  · refine gives_level (exec_debugLower ..) (by omega) hu may run (fun t y out dbg keys => ?_)
    rw [levelReq_lower (by rw [out.dbg]; exact quiet) (by rw [out.dbg]; exact lower) (by omega)] at dbg keys
    rw [dbg, keys, setLevel_dbg, setLevel_keys]
    exact ⟨rfl, congrArg Keys.slots out.keys⟩

end

end Sys2Proof.Proofs

/-! SUPPORT. Messages of a partner (R368, R373, R374, R378) and the lines this end mirrors (R367, R369, R372). -/

namespace Sys2Proof.Machine

section
variable {z : Zmc} {now : Nat}

/-! ### A partner's request for a line of a copy range -/

/-- The request of P20 that a partner's message is taken as. -/
def mirFab (kind : ReqKind) (addr : BitVec 64) (d : Line) (poison : Bool) (b : BayId) : FabReq :=
  { port := 20, kind, addr, lines := 1, cls := 1, colour := 0, stream := 0, key := 0, tag := 0, data := d, poison, bay := b }

theorem police_p20 {r : FabReq} (hp : r.port = 20) {h : HomeId} (h0 : bitsOf (wordAt z (polReg h 20)) 0 0 = 0) (h4 : bitsOf (wordAt z (polReg h 20)) 4 4 = 0) (b : BayId) :
    police z now h b r = (z, r.cls) := by
  unfold police
  dsimp only
  rw [hp, if_pos h0, h4, if_neg (by decide), if_neg (by decide)]

/-- The request joins the queue of `b` with its decoded target, in class HI, and no other bay's. -/
structure PeerJoins (z y : Zmc) (b : BayId) (kind : ReqKind) (addr : BitVec 64) (at_ : CourseId × Nat) : Prop where
  here : ∃ q, y.bays[b].q = z.bays[b].q ++ [q] ∧ q.port = 20 ∧ q.kind = kind ∧ q.addr = addr ∧ q.dest = some at_ ∧ q.mirror = true ∧ q.cls = 1
  others : ∀ e, e ≠ b → y.bays[e] = z.bays[e]

theorem bayEnqueue_peer {b : BayId} (kind : ReqKind) (addr : BitVec 64) (d : Line) (poison : Bool) (at_ : CourseId × Nat) :
    PeerJoins z (bayEnqueue (wakeHomes z) now b (mirFab kind addr d poison b) 1 (some at_) 0 true) b kind addr at_ := by
  refine ⟨?_, fun e he => (bayEnqueue_other _ _ he ..).trans (by rw [wakeHomes_bays])⟩
  have same : (wakeHomes z).bays[b].q = z.bays[b].q := by rw [wakeHomes_bays]
  unfold bayEnqueue
  dsimp only
  exact ⟨_, (congrArg BaySt.q (modV_same _ b _)).trans (congrArg (· ++ [_]) same), rfl, rfl, rfl, rfl, rfl, rfl⟩

theorem mirrorReq_joins {kind : ReqKind} {addr : BitVec 64} {d : Line} {poison : Bool} {lvl : Nat} {h : HomeId} {c : CourseId} {loc : Nat} (q : quoin z = true)
    (l : lvlOk z lvl = true) (at_ : ([0, 1] : List HomeId).findSome? (fun h => (decodeAddr z h addr.toNat).map (fun p => (h, p))) = some (h, c, loc))
    (copy : (mirFind z 1 addr.toNat).isSome = true) (may : mayRequest z 20 (bayOf c) = true) (h0 : bitsOf (wordAt z (polReg (bayHome (bayOf c)) 20)) 0 0 = 0)
    (h4 : bitsOf (wordAt z (polReg (bayHome (bayOf c)) 20)) 4 4 = 0) : PeerJoins z (mirrorReq z now kind addr d poison lvl) (bayOf c) kind addr (c, loc) := by
  have run : mirrorReq z now kind addr d poison lvl =
      bayEnqueue (wakeHomes z) now (bayOf c) (mirFab kind addr d poison (bayOf c)) 1 (some (c, loc)) 0 true := by
    have fab := police_p20 (now := now) (r := mirFab kind addr d poison (bayOf c)) rfl h0 h4 (bayOf c)
    unfold mirrorReq
    rw [if_neg (by rw [q]; decide), if_neg (by rw [l]; decide), at_]
    dsimp only
    rw [if_neg (by rw [← Option.not_isSome, copy]; decide), if_neg (by rw [may]; decide)]
    unfold mirFab at fab
    rw [fab]
    rfl
  rw [run]
  exact bayEnqueue_peer ..

/-! ### Ranges go to SOLO -/

/-- Only the state of the pair differs. -/
def PairOnly (a b : Zmc) : Prop := ∃ p, b = { a with pair := p }

theorem PairOnly.trans {a b c : Zmc} (h : PairOnly a b) (k : PairOnly b c) : PairOnly a c := by
  obtain ⟨p, rfl⟩ := h
  obtain ⟨q, rfl⟩ := k
  exact ⟨q, rfl⟩

theorem PairOnly.mirOf {a b : Zmc} (h : PairOnly a b) (r : Nat) : mirOf b r = mirOf a r := by
  obtain ⟨p, rfl⟩ := h
  rfl

theorem goSolo_pairOnly (z : Zmc) (r : Nat) : PairOnly z (goSolo z r) := by
  unfold goSolo
  dsimp only
  split
  · exact ⟨_, rfl⟩
  · exact ⟨_, rfl⟩

theorem goSolo_solo (z : Zmc) (r : Nat) : (goSolo z r).pair.mirs[toMir r].st = 2 := by
  unfold goSolo
  dsimp only
  split
  · exact congrArg Mir.st (modV_same ..)
  · exact congrArg Mir.st (modV_same ..)

theorem goSolo_other (z : Zmc) {r q : Nat} (h : toMir q ≠ toMir r) : (goSolo z r).pair.mirs[toMir q] = z.pair.mirs[toMir q] := by
  unfold goSolo
  dsimp only
  split
  · exact modV_other _ _ _ _ (Ne.symm h)
  · exact modV_other _ _ _ _ (Ne.symm h)

/-- A range's state that a failing partner ends. -/
def Paired (st : Nat) : Prop := st = 1 ∨ st = 3 ∨ st = 4

/-- One range, when those of a role go to SOLO. -/
def soloRange (role : Nat) (z : Zmc) (r : Nat) : Zmc :=
  let st := z.pair.mirs[toMir r].st
  if (mirOf z r).role = role ∧ (st = 1 ∨ st = 3 ∨ st = 4) then goSolo z r else z

theorem soloRange_pairOnly (role : Nat) (z : Zmc) (r : Nat) : PairOnly z (soloRange role z r) := by
  unfold soloRange
  dsimp only
  split
  · exact goSolo_pairOnly z r
  · exact ⟨_, rfl⟩

theorem soloRange_other (role : Nat) (z : Zmc) {r q : Nat} (h : toMir q ≠ toMir r) : (soloRange role z r).pair.mirs[toMir q] = z.pair.mirs[toMir q] := by
  unfold soloRange
  dsimp only
  split
  · exact goSolo_other z h
  · rfl

theorem soloRange_role {role : Nat} {r : Nat} (h : (mirOf z r).role ≠ role) : soloRange role z r = z := if_neg (fun k => h k.1)

theorem soloRange_solo {role : Nat} {r : Nat} (mine : (mirOf z r).role = role) (st : z.pair.mirs[toMir r].st = 2 ∨ Paired z.pair.mirs[toMir r].st) :
    (soloRange role z r).pair.mirs[toMir r].st = 2 := by
  unfold soloRange
  dsimp only
  split
  · exact goSolo_solo z r
  · rename_i kept
    exact st.resolve_right (fun k => kept ⟨mine, k⟩)

theorem foldl_soloRange_pairOnly (role : Nat) (l : List Nat) (z : Zmc) : PairOnly z (l.foldl (soloRange role) z) := by
  induction l generalizing z with
  | nil => exact ⟨_, rfl⟩
  | cons r l ih => exact (soloRange_pairOnly role z r).trans (ih _)

/-- A range of another role stays as it was. -/
theorem foldl_soloRange_role {role q : Nat} (hq : q < 8) (l : List Nat) (hl : ∀ r ∈ l, r < 8) (z : Zmc) (other : (mirOf z q).role ≠ role) :
    (l.foldl (soloRange role) z).pair.mirs[toMir q] = z.pair.mirs[toMir q] := by
  induction l generalizing z with
  | nil => rfl
  | cons r l ih =>
    rw [List.foldl_cons, ih (fun k hk => hl k (List.mem_cons_of_mem _ hk)) _ (by rw [(soloRange_pairOnly role z r).mirOf]; exact other)]
    by_cases e : q = r
    · rw [← e, soloRange_role other]
    · exact soloRange_other role z (fun k => e (toMir_inj hq (hl r List.mem_cons_self) k))

/-- A range of the role that is paired goes to SOLO, and one that is SOLO stays so. -/
theorem foldl_soloRange_solo {role q : Nat} (hq : q < 8) (l : List Nat) (hl : ∀ r ∈ l, r < 8) (z : Zmc) (mine : (mirOf z q).role = role)
    (st : z.pair.mirs[toMir q].st = 2 ∨ q ∈ l ∧ Paired z.pair.mirs[toMir q].st) : (l.foldl (soloRange role) z).pair.mirs[toMir q].st = 2 := by
  induction l generalizing z with
  | nil => exact st.resolve_right (fun k => absurd k.1 (by simp))
  | cons r l ih =>
    have hl' : ∀ k ∈ l, k < 8 := fun k hk => hl k (List.mem_cons_of_mem _ hk)
    have mine' : (mirOf (soloRange role z r) q).role = role := by rw [(soloRange_pairOnly role z r).mirOf]; exact mine
    rw [List.foldl_cons]
    refine ih hl' _ mine' ?_
    by_cases e : q = r
    · subst e
      exact .inl (soloRange_solo mine (st.imp_right And.right))
    · rw [soloRange_other role z (fun k => e (toMir_inj hq (hl r List.mem_cons_self) k))]
      exact st.imp_right (fun k => ⟨(List.mem_cons.1 k.1).resolve_left e, k.2⟩)

theorem roleSolo_fold (z : Zmc) (role : Nat) : roleSolo z role = (List.range 8).foldl (soloRange role) z := rfl

theorem roleSolo_solo {role q : Nat} (hq : q < 8) (mine : (mirOf z q).role = role) (st : Paired z.pair.mirs[toMir q].st) : (roleSolo z role).pair.mirs[toMir q].st = 2 := by
  rw [roleSolo_fold]
  exact foldl_soloRange_solo hq _ (fun _ h => List.mem_range.1 h) z mine (.inr ⟨List.mem_range.2 hq, st⟩)

theorem roleSolo_role {role q : Nat} (hq : q < 8) (other : (mirOf z q).role ≠ role) : (roleSolo z role).pair.mirs[toMir q] = z.pair.mirs[toMir q] := by
  rw [roleSolo_fold]
  exact foldl_soloRange_role hq _ (fun _ h => List.mem_range.1 h) z other

/-- What a notice finds when it takes the ranges to SOLO: the audit log may have one entry more. -/
def noticed (z : Zmc) (now off lvl : Nat) : Zmc := if 7 ≤ lvl then audit z ⟨pkgNs z now, 0, 6, 7, 0, off, 3, 0, 0⟩ else z

theorem noticed_kept (z : Zmc) (now off lvl : Nat) : (noticed z now off lvl).pair = z.pair ∧ (noticed z now off lvl).cinfo = z.cinfo ∧
    ∀ r, mirOf (noticed z now off lvl) r = mirOf z r := by
  unfold noticed
  split
  · refine ⟨audit_pair .., audit_cinfo .., fun r => ?_⟩
    unfold mirOf
    exact congrArg (fun f => mirDesc f r) (funext fun _ => wordAt_audit ..)
  · exact ⟨rfl, rfl, fun _ => rfl⟩

theorem faultNotice_peer {off lvl : Nat} (q : quoin z = true) (l : lvlOk z lvl = true) (ours : z.pair.fault = none) :
    faultNotice z now off lvl = roleSolo (noticed z now off lvl) 0 := by
  have none : ¬((noticed z now off lvl).pair.fault.isSome &&
      (List.range 8).any (fun r => (mirOf (noticed z now off lvl) r).role == 0 && (noticed z now off lvl).pair.mirs[toMir r].st == 3)) = true := by
    rw [(noticed_kept z now off lvl).1, ours, Option.isSome_none, Bool.false_and]
    decide
  unfold faultNotice
  rw [if_neg (by rw [q]; decide), if_neg (by rw [l]; decide)]
  exact if_neg none

/-! ### The pair splits -/

theorem allSolo_kept (z : Zmc) : (allSolo z).pair.st = z.pair.st ∧ (allSolo z).bays = z.bays ∧ (allSolo z).cinfo = z.cinfo := by
  have step {β : Type} (g : Zmc → β) (kept : ∀ z r, g (goSolo z r) = g z) : g (allSolo z) = g z := by
    refine foldl_field g (fun z r => ?_) _ z
    dsimp only
    split
    · exact kept z r
    · rfl
  have only {β : Type} (g : Zmc → β) (same : ∀ z p, g { z with pair := p } = g z) (z : Zmc) (r : Nat) : g (goSolo z r) = g z := by
    obtain ⟨p, e⟩ := goSolo_pairOnly z r
    rw [e, same]
  exact ⟨step (fun z => z.pair.st) (fun z r => (goSolo_run z r).st), step Zmc.bays (only _ (fun _ _ => rfl)), step Zmc.cinfo (only _ (fun _ _ => rfl))⟩

/-- The pair's state, before its ranges go to SOLO. -/
def parted (z : Zmc) : Zmc := { z with pair := { z.pair with st := 3 } }

theorem splitPair_eq (z : Zmc) (now : Nat) : ∃ w, splitPair z now = potPost (pairSts (allSolo (parted z)) now 1) now 0x51 18 255 w := by
  unfold splitPair parted
  exact ⟨_, rfl⟩

theorem splitPair_splits (z : Zmc) (now : Nat) : (splitPair z now).pair.st = 3 ∧ (splitPair z now).bays = z.bays ∧ (splitPair z now).cinfo = z.cinfo := by
  obtain ⟨st, bays, cinfo⟩ := allSolo_kept (parted z)
  obtain ⟨w, run⟩ := splitPair_eq z now
  rw [run, potPost_pair, potPost_bays, potPost_cinfo]
  generalize allSolo (parted z) = y at st bays cinfo ⊢
  unfold pairSts
  rw [post_pair, post_bays, post_cinfo]
  exact ⟨st, bays, cinfo⟩

theorem dropLevel_splits (z : Zmc) (now : Nat) : (dropLevel z now).pair.st = 3 ∧ (dropLevel z now).bays = z.bays ∧ (dropLevel z now).cinfo = z.cinfo := by
  have counted := rgOnly_bump z now (zmcBase + 0x0D68)
  unfold dropLevel
  generalize bump z now (zmcBase + 0x0D68) = y at counted ⊢
  obtain ⟨st, bays, cinfo⟩ := splitPair_splits y now
  exact ⟨st, bays.trans counted.bays, cinfo.trans counted.cinfo⟩

theorem mirrorReq_level {kind : ReqKind} {addr : BitVec 64} {d : Line} {poison : Bool} {lvl : Nat} (q : quoin z = true) (l : lvlOk z lvl = false) :
    mirrorReq z now kind addr d poison lvl = dropLevel z now := by
  unfold mirrorReq
  rw [if_neg (by rw [q]; decide), if_pos (by rw [l]; decide)]

/-! ### A region told FRESH -/

/-- A region of a copy range told FRESH is cleared as a request to its course. -/
theorem regionFresh_clears {addr : BitVec 64} {lvl : Nat} {c : CourseId} {loc : Nat} (q : quoin z = true) (l : lvlOk z lvl = true) (seven : 7 ≤ lvl)
    (at_ : ([0, 1] : List HomeId).findSome? (fun h => decodeAddr z h addr.toNat) = some (c, loc)) (copy : (mirFind z 1 addr.toNat).isSome = true) :
    regionFresh z now addr lvl = { z with jclr := modV z.jclr c (fun l => l ++ [⟨0, loc / 2 ^ 22, loc / 2 ^ 22 + 1⟩]) } := by
  obtain ⟨k, found⟩ := Option.isSome_iff_exists.1 copy
  unfold regionFresh
  rw [if_neg (by rw [q]; simpa using seven), if_neg (by rw [l]; decide), at_]
  dsimp only
  rw [found]

/-! ### Answers of the partner -/

/-- The state with the pair's list of mirrored writes one shorter. -/
def ackTaken (z : Zmc) (a : BitVec 64) : Zmc := { z with pair := { z.pair with acks := removeFirst (fun x => x == a) z.pair.acks, flight := removeFirst (fun f => f.addr == a.toNat) z.pair.flight } }

theorem resyncEnd_idle {r : Nat} (h : z.pair.mirs[toMir r].st ≠ 4) : resyncEnd z now r = z := if_neg (fun k => h k.1)

theorem respondWr_port {r : HReq} (own : r.mirror = false) (alive : r.orphan = false) (poison : Bool) :
    respondWr z now r poison = endReq (send z (.wrDone r.port r.tag poison)) (homeOf r.crs) r.rid := by
  unfold respondWr
  rw [own, alive]
  rfl

/-- A write waits for the acknowledge of its mirrored line. -/
def waitsAck (a : BitVec 64) (q : HReq) : Bool := q.ph == .peer && isWr q.kind && q.addr.toNat / 64 == a.toNat / 64

theorem mirrorAck_ends {addr a : BitVec 64} {r : HReq} (found : z.pair.acks.find? (fun a => atPeer z a == some addr) = some a)
    (still : ∀ i : Fin 8, z.pair.mirs[i].st ≠ 4) (waits : z.homes[(0 : Fin 2)].hrq.find? (waitsAck a) = some r) (own : r.mirror = false) (alive : r.orphan = false) :
    mirrorAck z now addr = endReq (send (ackTaken z a) (.wrDone r.port r.tag false)) (homeOf r.crs) r.rid := by
  have idle (o : Option Nat) : (match o with | some k => resyncEnd (ackTaken z a) now k | none => ackTaken z a) = ackTaken z a := by
    cases o with
    | none => rfl
    | some k => exact resyncEnd_idle (still _)
  have next : ([0, 1] : List HomeId).findSome? (fun h => (ackTaken z a).homes[h].hrq.find? (waitsAck a)) = some r := by
    have here : (ackTaken z a).homes[(0 : Fin 2)].hrq.find? (waitsAck a) = some r := waits
    rw [List.findSome?_cons, here]
  have run : mirrorAck z now addr = respondWr (ackTaken z a) now r false := by
    unfold mirrorAck
    rw [found]
    dsimp only
    refine (congrArg (fun y : Zmc => match ([0, 1] : List HomeId).findSome? (fun h => y.homes[h].hrq.find? (waitsAck a)) with
      | some r => respondWr y now r false
      | none => y) (idle (mirFind (ackTaken z a) 0 a.toNat))).trans ?_
    rw [next]
  rw [run, respondWr_port own alive]

theorem endReq_pair (h : HomeId) (rid : Nat) : (endReq z h rid).pair = z.pair ∧ (endReq z h rid).cinfo = z.cinfo := by
  unfold endReq
  split
  · split
    · exact ⟨rfl, rfl⟩
    · exact ⟨rfl, rfl⟩
  · exact ⟨rfl, rfl⟩

/-- The state with a mirror read gone, and the note that its line was stale. -/
def readTaken (z : Zmc) (p : BitVec 64 × Nat × Bool) (key : Nat) : Zmc :=
  { z with pair := { z.pair with reads := removeFirst (fun q => q == p) z.pair.reads, stale := z.pair.stale.filter (fun k => k != key) } }

theorem mirrorData_lost {addr : BitVec 64} {p : BitVec 64 × Nat × Bool} {r : HReq} (found : z.pair.reads.find? (fun p => atPeer z p.1 == some addr) = some p)
    (some_ : p.2.1 ≠ 0) (plain : p.2.2 = false)
    (waits : z.homes[(0 : Fin 2)].hrq.find? (fun q => q.rid == p.2.1 && q.ph == .peer && q.addr == p.1) = some r) :
    mirrorData z now addr none = respondData (readTaken z p (r.crs.val * 2 ^ 33 + r.line)) now r 0 true false := by
  unfold mirrorData
  rw [found]
  dsimp only
  rw [if_neg some_, List.findSome?_cons, waits]
  dsimp only
  unfold fetchDone
  rw [plain]
  rfl

theorem countHeld_kept {β : Type} (g : Zmc → β) (rg : ∀ a b : Zmc, RgOnly a b → g b = g a) (req : ∀ (y : Zmc) (h : HomeId) rid f, g (modReq y h rid f) = g y) (h : HomeId) :
    g (countHeld z now h) = g z := by
  unfold countHeld
  refine foldl_field g (fun y r => ?_) _ z
  split
  · exact (req _ _ _ _).trans (rg _ _ (rgOnly_bump ..))
  · rfl

theorem openHold_kept (r : HReq) : (openHold z now r).out = z.out ∧ (openHold z now r).pair = z.pair ∧ (openHold z now r).cinfo = z.cinfo := by
  unfold openHold
  dsimp only
  split
  · exact ⟨rfl, rfl, rfl⟩
  · exact ⟨countHeld_kept Zmc.out (fun _ _ => RgOnly.out) (fun _ _ _ _ => rfl) _, countHeld_kept Zmc.pair (fun _ _ => RgOnly.pair) (fun _ _ _ _ => rfl) _, countHeld_kept Zmc.cinfo (fun _ _ => RgOnly.cinfo) (fun _ _ _ _ => rfl) _⟩

/-- A poisoned answer to a port's request: its line goes out, and the request ends. -/
theorem respondData_poisoned {r : HReq} {h : HomeId} (home : homeOf r.crs = h) (own : r.mirror = false) (alive : r.orphan = false) :
    (respondData z now r 0 true false).pair = z.pair ∧ (respondData z now r 0 true false).cinfo = z.cinfo ∧
      OutMsg.data r.port r.tag r.addr 0 true r.grant false false ∈ (respondData z now r 0 true false).out ∧
      (r.grant ≠ 2 → (respondData z now r 0 true false).homes[h].hrq = removeFirst (fun q => q.rid == r.rid) z.homes[h].hrq) := by
  subst home
  have run : respondData z now r 0 true false = endReq (if r.grant = 2 then openHold (send z (.data r.port r.tag r.addr 0 true r.grant false false)) now r
      else send z (.data r.port r.tag r.addr 0 true r.grant false false)) (homeOf r.crs) r.rid := by
    unfold respondData respondLine
    rw [own, alive]
    rfl
  rw [run]
  by_cases held : r.grant = 2
  · rw [if_pos held, (endReq_pair ..).1, (endReq_pair ..).2, endReq_out]
    obtain ⟨out, pair, cinfo⟩ := openHold_kept (z := send z (.data r.port r.tag r.addr 0 true r.grant false false)) (now := now) r
    rw [out, pair, cinfo]
    exact ⟨rfl, rfl, List.mem_append_right _ List.mem_cons_self, fun k => absurd held k⟩
  · rw [if_neg held, (endReq_pair ..).1, (endReq_pair ..).2, endReq_out, endReq_gone]
    exact ⟨rfl, rfl, List.mem_append_right _ List.mem_cons_self, fun _ => rfl⟩

/-! ### A pull of the next line -/

/-- The pull of the line at offset `o` of range `k`. -/
def pulled (z : Zmc) (h : HomeId) (k o : Nat) : Zmc :=
  let a := (mirOf z k).base + o
  let y := { z with pair := { z.pair with flight := z.pair.flight ++ [⟨k, h.val, a, true⟩] } }
  let y := modMir y k (fun m => { m with pos := modV m.pos h (fun _ => o + 64) })
  let y := send y (.mirRead (peerAddr z k (BitVec.ofNat 64 a)) z.pair.lvlRun)
  { y with pair := { y.pair with reads := y.pair.reads ++ [(BitVec.ofNat 64 a, 0, false)] } }

theorem resyncTake_pulls {x : Sys} {h : HomeId} {k o loc : Nat} {c : CourseId} (pull : x.z.pair.mirs[toMir k].pull = true) (frs : x.z.pair.mirs[toMir k].frs = [])
    (next : nextLine x.z h (mirOf x.z k) 2048 x.z.pair.mirs[toMir k].pos[h] = some (o, c, loc)) (free : busyLine x.z h c (loc / 64) = false)
    (fence : x.z.cinfo[c].fence = 0) : (resyncTake x h k).z = pulled x.z h k o := by
  unfold resyncTake
  dsimp only
  rw [next]
  dsimp only
  rw [if_neg (by rw [free]; simpa using fence), if_pos pull, frs, if_neg (by simp)]
  dsimp only [onZmc]
  rw [pull]
  rfl

theorem resyncLine_takes {x : Sys} {h : HomeId} {k : Nat} (run : homesRun x.z = true) (lost : ∀ i : Fin 8, x.z.pair.mirs[i].lose = false)
    (found : (List.range 8).find? (fun r => x.z.pair.mirs[toMir r].st == 4 && decide (x.z.pair.mirs[toMir r].pos[h] < (mirOf x.z r).size)) = some k)
    (room : inFlight x.z h < getF x.z (zmcBase + 0x0C00) 11 8) : resyncLine x h = resyncTake x h k := by
  have none : (List.range 8).find? (fun r => x.z.pair.mirs[toMir r].lose && decide (x.z.pair.mirs[toMir r].lpos[h] < (mirOf x.z r).size)) = none :=
    List.find?_eq_none.2 (fun r _ => by rw [lost, Bool.false_and]; decide)
  unfold resyncLine
  dsimp only
  rw [if_neg (by rw [run]; decide), none, found]
  exact if_pos room

theorem pulled_kept (h : HomeId) (k o : Nat) : (pulled z h k o).homes = z.homes ∧ (pulled z h k o).cinfo = z.cinfo := ⟨rfl, rfl⟩

theorem pulled_asks (h : HomeId) (k o : Nat) : (pulled z h k o).pair.flight = z.pair.flight ++ [⟨k, h.val, (mirOf z k).base + o, true⟩] ∧
    (pulled z h k o).pair.mirs[toMir k].pos[h] = o + 64 ∧
    OutMsg.mirRead (peerAddr z k (BitVec.ofNat 64 ((mirOf z k).base + o))) z.pair.lvlRun ∈ (pulled z h k o).out := by
  refine ⟨rfl, ?_, List.mem_append_right _ List.mem_cons_self⟩
  exact (congrArg (fun m : Mir => m.pos[h]) (modV_same z.pair.mirs (toMir k) (fun m => { m with pos := modV m.pos h (fun _ => o + 64) }))).trans (modV_same ..)

end

end Sys2Proof.Machine

/-! SUPPORT. The statement about the partner's messages. -/

namespace Sys2Proof.Proofs
open Sys2Proof.Machine

section
variable {s : State} {n : Nat}

/-- A row of the homes, with the pair's state where it leaves the courses' configuration. -/
theorem gives_homes {i : Instr} {f : Zmc → Nat → Zmc} {P : State → Prop} (e : exec i s = cmd s n (ifHome f)) (hr : homesRun (before s n).z = true)
    (h : ∀ (t : State) (y : Zmc), y = f (before s n).z (before s n).now → t.sys.crs = (before s n).crs → CloseOnly y t.sys.z → (∀ m ∈ y.out, m ∈ t.sys.z.out) →
      (y.cinfo = (before s n).z.cinfo → t.sys.z.pair = y.pair) → P t) : Gives i s P := by
  refine gives_all e (fun t tc tz tout tp => ?_)
  rw [ifHome_run hr] at tc tz tout tp
  exact h t _ rfl tc tz tout (fun k => tp (k.trans (startAt_cinfo ..)))

end

/-- Settles O60: a partner's requests join a bay's queue or split the pair, its regions told FRESH are cleared, a notice takes the primary ranges to SOLO,
its answers end what waited for them, and a pull asks for the next line. -/
theorem pairMessages : Obligations.PairMessages := by
  unfold Obligations.PairMessages
  refine ⟨?_, ?_⟩
  · intro s n addr d poison lvl off c loc hr z ok b joins
    have hr' : homesRun (before s n).z = true := by simpa [before] using hr
    refine ⟨?_, ?_, ?_, ?_, ?_⟩
    · rintro ⟨q, l⟩ at_ copy may h0 h4
      have go (i : Instr) (k : ReqKind) (d : Line) (poison : Bool) (e : exec i s = cmd s n (ifHome fun z now => mirrorReq z now k addr d poison lvl.toNat)) :
          Gives i s (fun t => joins t k) := by
        refine gives_homes e hr' (fun t y run _ tz _ _ => ?_)
        have joined : PeerJoins (before s n).z y b k addr (c, loc) := by rw [run]; exact mirrorReq_joins q l at_ copy may h0 h4
        obtain ⟨⟨q, rest⟩, others⟩ := joined
        exact ⟨q, by rw [tz.bays]; exact rest.1, rest.2.1, rest.2.2.1, rest.2.2.2.1, rest.2.2.2.2.1, rest.2.2.2.2.2.1, rest.2.2.2.2.2.2, fun e he => by rw [tz.bays]; exact others e he⟩
      exact ⟨go _ _ d poison (exec_mirrorWrite ..), go _ _ _ _ (exec_mirrorRead ..)⟩
    · intro q l
      have go (i : Instr) (k : ReqKind) (d : Line) (poison : Bool) (e : exec i s = cmd s n (ifHome fun z now => mirrorReq z now k addr d poison lvl.toNat)) :
          Gives i s (fun t => t.sys.z.pair.st = 3 ∧ t.sys.z.bays = z.bays) := by
        refine gives_homes e hr' (fun t y run _ tz _ tp => ?_)
        rw [mirrorReq_level (z := (before s n).z) q l] at run
        obtain ⟨st, bays, cinfo⟩ := dropLevel_splits (before s n).z (before s n).now
        generalize dropLevel (before s n).z (before s n).now = u at run st bays cinfo
        rw [tz.bays, tp ((congrArg Zmc.cinfo run).trans cinfo), run]
        exact ⟨st, bays⟩
      exact ⟨go _ _ d poison (exec_mirrorWrite ..), go _ _ _ _ (exec_mirrorRead ..)⟩
    · rintro ⟨q, l⟩ seven at_ copy
      refine gives_homes (exec_regionFresh ..) hr' (fun t y run tc tz _ _ => ?_)
      rw [regionFresh_clears q l seven at_ copy] at run
      rw [tz.jclr, run]
      exact ⟨modV_same .., fun e he => modV_other _ _ _ _ (Ne.symm he), tc⟩
    · rintro ⟨q, l⟩ ours
      refine gives_homes (exec_faultNotice ..) hr' (fun t y run _ tz _ tp => ?_)
      rw [faultNotice_peer q l ours] at run
      obtain ⟨pair, cinfo, desc⟩ := noticed_kept (before s n).z (before s n).now off.toNat lvl.toNat
      generalize noticed (before s n).z (before s n).now off.toNat lvl.toNat = u at run pair cinfo desc
      have still : y.cinfo = u.cinfo := by
        obtain ⟨p, e⟩ := foldl_soloRange_pairOnly 0 (List.range 8) u
        rw [run, roleSolo_fold, e]
      intro r hq st
      rw [tp (still.trans cinfo), run]
      refine ⟨fun mine paired => roleSolo_solo hq ((congrArg MirDesc.role (desc r)).trans mine) (by rw [pair]; exact paired), fun other => ?_⟩
      rw [roleSolo_role hq (fun k => other ((congrArg MirDesc.role (desc r)).symm.trans k)), pair]
    · intro q
      refine gives_homes (exec_faultNotice ..) hr' (fun t y run _ tz _ tp => ?_)
      have idle : y = (before s n).z := run.trans (if_pos (by rw [show quoin (before s n).z = false from q]; rfl))
      rw [idle] at tz tp
      rw [tz.bays, tp rfl]
      exact ⟨rfl, rfl⟩
  · intro s n addr a d h r k o loc c p hr z waits
    have hr' : homesRun (before s n).z = true := by simpa [before] using hr
    refine ⟨?_, ?_, ?_, ?_⟩
    · intro found _ still wait home own alive
      refine gives_homes (exec_mirrorAck ..) hr' (fun t y run _ tz tout tp => ?_)
      rw [mirrorAck_ends found still wait own alive, home] at run
      have cinfo : y.cinfo = (before s n).z.cinfo := by rw [run, (endReq_pair ..).2]; rfl
      refine ⟨?_, ?_, tout _ ?_⟩
      · rw [tp cinfo, run, (endReq_pair ..).1]
        rfl
      · rw [tz.homes, run, endReq_gone]
        rfl
      · rw [run, endReq_out]
        exact List.mem_append_right _ List.mem_cons_self
    · intro found id named plain _ home own alive wait
      refine gives_homes (exec_mirrorReadData ..) hr' (fun t y run _ tz tout tp => ?_)
      rw [mirrorData_lost found (by rw [id]; exact named) plain wait] at run
      obtain ⟨pair, cinfo, out, hrq⟩ := respondData_poisoned (z := readTaken (before s n).z p (r.crs.val * 2 ^ 33 + r.line)) (now := (before s n).now) home own alive
      rw [← run] at pair cinfo out hrq
      refine ⟨?_, tout _ out, fun grant => ?_⟩
      · rw [tp cinfo, pair]
        rfl
      · rw [tz.homes]
        exact hrq grant
    · intro none
      refine gives_homes (exec_mirrorReadData ..) hr' (fun t y run _ tz _ tp => ?_)
      have idle : y = (before s n).z := by
        rw [run]
        unfold mirrorData
        rw [show (before s n).z.pair.reads = [] from none]
        rfl
      rw [idle] at tz tp
      exact ⟨tp rfl, tz.homes⟩
    · intro up lost found pull frs room next free fence
      refine gives_all (exec_resyncLine ..) (fun t _ tz tout tp => ?_)
      have run : (ifUp (fun x => resyncLine x h) (before s n)).z = pulled (before s n).z h k o := by
        unfold ifUp
        rw [if_neg (by rw [show closedUp (before s n).z = false from up]; decide)]
        show (resyncLine (before s n) h).z = _
        rw [resyncLine_takes hr' lost found room]
        exact resyncTake_pulls pull frs next free fence
      rw [run] at tz tout tp
      obtain ⟨flight, pos, out⟩ := pulled_asks (z := (before s n).z) h k o
      obtain ⟨homes, cinfo⟩ := pulled_kept (z := (before s n).z) h k o
      rw [tp (cinfo.trans (startAt_cinfo ..))]
      exact ⟨flight, pos, tout _ out, tz.homes.trans homes⟩

end Sys2Proof.Proofs
